-- ==== Sys2Proof/Word.lean ====
section
/-! DEFINITION. The machine's word types and the plainest containers: bytes, words, vector
registers, little-endian byte strings (R5), sparse tables and sorted sets of numbers. -/

namespace Sys2Proof

abbrev Byte := BitVec 8
/-- A 32-bit word: a bundle word, a vector lane, a command word. -/
abbrev W32 := BitVec 32
/-- A 64-bit register or virtual address. -/
abbrev Word := BitVec 64
/-- A vector register: 32 lanes of 32 bits (R78). -/
abbrev VReg := Vector W32 32
/-- Byte-addressed storage as listed cells; an unlisted address reads as zero. -/
abbrev Mem := List (Nat × Byte)
/-- A finite set of numbers, kept rising. -/
abbrev NatSet := List Nat
/-- A sparse table: an absent index reads as the reader's default. -/
abbrev Table (α : Type) := List (Nat × α)

/-- The entry of `t` at `k`, or `d` when none is listed. -/
def look {α : Type} (d : α) (k : Nat) : Table α → α
  | [] => d
  | (j, v) :: t => if j = k then v else look d k t

/-- `t` with `v` at `k`; rising indices stay rising. -/
def put {α : Type} (k : Nat) (v : α) : Table α → Table α
  | [] => [(k, v)]
  | (j, w) :: t =>
    if k < j then (k, v) :: (j, w) :: t
    else if k = j then (k, v) :: t
    else (j, w) :: put k v t

/-- `t` without an entry at `k`. -/
def drop {α : Type} (k : Nat) : Table α → Table α
  | [] => []
  | (j, w) :: t => if j = k then drop k t else (j, w) :: drop k t

/-- Whether `t` lists `k`. -/
def has {α : Type} (k : Nat) (t : Table α) : Bool := t.any fun e => e.1 == k

namespace NatSet

def add (n : Nat) : NatSet → NatSet
  | [] => [n]
  | m :: r => if n < m then n :: m :: r else if n = m then m :: r else m :: add n r

def del (n : Nat) (s : NatSet) : NatSet := s.filter (· != n)

def union (a b : NatSet) : NatSet := b.foldl (fun acc n => add n acc) a

def meets (a b : NatSet) : Bool := a.any fun n => b.contains n

end NatSet

namespace Bits

/-- `bits(x, hi, lo)` of R6, as a number. -/
def get (x : Nat) (hi lo : Nat) : Nat := (x >>> lo) % 2 ^ (hi + 1 - lo)

/-- `sext(x, n)` of R6: the low `n` bits of `x` as a signed number. -/
def sext (x n : Nat) : Int :=
  let v := x % 2 ^ n
  if 2 * v < 2 ^ n then (v : Int) else (v : Int) - 2 ^ n

/-- Ceiling of `a / b`. -/
def ceilDiv (a b : Nat) : Nat := (a + b - 1) / b

end Bits

namespace Bytes

/-- The `n` bytes of a number, least significant first (R5). -/
def ofNat : Nat → Nat → List Byte
  | 0, _ => []
  | n + 1, x => BitVec.ofNat 8 x :: ofNat n (x / 256)

/-- The number a little-endian byte string stands for (R5). -/
def toNat : List Byte → Nat
  | [] => 0
  | b :: r => b.toNat + 256 * toNat r

end Bytes

/-- A vector register from its lanes. -/
def lanes (f : Fin 32 → W32) : VReg := Vector.ofFn f

/-- The bits of a lane mask: bit `i` governs lane `i` (R78). -/
def laneOn (k : W32) (i : Fin 32) : Bool := k.getLsbD i

/-- The lane numbers in ascending order. -/
def laneList : List (Fin 32) := List.finRange 32

end Sys2Proof
end

