-- ==== Sys2Proof/Syntax.lean ====
section
/-! DEFINITION. The steps of the part as data: one constructor of `Instr` for each row of the opcode
table. Bundle words carry the fields of R184 and R189, sampler words those of R322, engine commands
those of R265-R278, and events the packet, register or unit they concern. -/

namespace Sys2Proof

/-- The kind tag of an operand (R186). -/
inductive Kind where
  | v | s | cb | lit
  deriving DecidableEq, Repr

/-- Whether a word stands in a paired bundle or alone with its word 1 (R179). -/
inductive Ext where
  | paired
  | lone (w1 : W32)
  deriving DecidableEq, Repr

/-- The fields of a C-word (R184); LONE and word 1 are in `ext`. -/
structure CWord where
  ext : Ext
  la : BitVec 4
  d : BitVec 5
  ta : Kind
  a : BitVec 5
  b : BitVec 5
  msk : BitVec 2
  deriving DecidableEq, Repr

/-- The fields of an A-word (R189). -/
structure AWord where
  ext : Ext
  fzi : Bool
  fzo : Bool
  d : BitVec 5
  tb : Kind
  b : BitVec 5
  ta : Kind
  a : BitVec 5
  k : BitVec 3
  deriving DecidableEq, Repr

/-- The fields of a sampler word (R322). -/
structure SWord where
  d : BitVec 4
  a : BitVec 4
  b : BitVec 4
  imm : BitVec 15
  deriving DecidableEq, Repr

/-- The events of R393, by name; `trap n` is TRAPn. -/
inductive EventCode where
  | illegalBundle | illegalOpcode | reservedField | misalignedFetch | fetchLimit
  | notPresent | permission | reservedBit | homeMoved | strongMisuse
  | misalignedData | protection | remoteRefused | aperture
  | budgetOverrun | silentContext | spawnTarget | actorStateFault | nodeFault
  | engineFault | commandFormat | windowFull
  | censusTimeout | barrierTimeout | editionAbort
  | fabricLoss | uncorrectable
  | trap (n : BitVec 5)
  deriving DecidableEq, Repr

/-- The number of an event code (R393). -/
def EventCode.byte : EventCode → Byte
  | .illegalBundle => 0x01
  | .illegalOpcode => 0x02
  | .reservedField => 0x03
  | .misalignedFetch => 0x04
  | .fetchLimit => 0x05
  | .notPresent => 0x10
  | .permission => 0x11
  | .reservedBit => 0x12
  | .homeMoved => 0x13
  | .strongMisuse => 0x14
  | .misalignedData => 0x20
  | .protection => 0x21
  | .remoteRefused => 0x22
  | .aperture => 0x23
  | .budgetOverrun => 0x30
  | .silentContext => 0x31
  | .spawnTarget => 0x32
  | .actorStateFault => 0x33
  | .nodeFault => 0x34
  | .engineFault => 0x40
  | .commandFormat => 0x41
  | .windowFull => 0x42
  | .censusTimeout => 0x50
  | .barrierTimeout => 0x51
  | .editionAbort => 0x52
  | .fabricLoss => 0x60
  | .uncorrectable => 0x61
  | .trap n => 0x80 + n.setWidth 8

/-- What a fault record tells of a fault besides its pc and number (R404). -/
structure FaultInfo where
  code : EventCode
  va : Word := 0
  info : Word := 0
  level : Nat := 0
  pte : Word := 0
  isWrite : Bool := false
  isFetch : Bool := false
  vec : Bool := false
  lanes : W32 := 0
  async : Bool := false
  jidx : Nat := 0
  deriving DecidableEq, Repr

/-- A strand slot: its core in s17 encoding and its number (R10, R49). -/
structure Ref where
  core : Nat
  slot : Nat
  deriving DecidableEq, Repr

/-- An actor's name (R22). -/
structure ActorId where
  part : Nat
  ctx : Nat
  cls : BitVec 16
  key : BitVec 128
  deriving DecidableEq, Repr

/-- The sender half of a channel (R41), and a forwarding home slice (R314). -/
inductive Sender where
  | core (n : Nat) | port (n : Nat) | baseUnit (n : Nat) | slice (n : Nat)
  | far (pkg kind n : Nat)
  deriving DecidableEq, Repr

/-- A message line (R26), field by field; `node` is the side-band graph node of R70, and `pc` the handler that the home
found (R25). -/
structure Msg where
  cls : BitVec 16
  type : Byte
  flags : Byte
  key : BitVec 128
  score : BitVec 16
  sstrand : Byte
  plen : Byte
  chseq : W32
  edition : BitVec 16
  pcx : BitVec 16
  payload : List Word
  node : Nat
  pc : Word := 0
  deriving DecidableEq, Repr

/-- A message on its way to a home slice (R41, R42); `out` is the sending core's outbound entry. -/
structure Packet where
  msg : Msg
  sender : Sender
  part : Nat
  ctx : Nat
  edition : W32
  out : Option Nat
  deriving DecidableEq, Repr

/-- A class entry (R24) as read from the context's class table. -/
structure ClassEntry where
  code : Word
  codeLim : W32
  nTypes : BitVec 16
  stLines : Byte
  attr : Byte
  pinCore : BitVec 16
  ctor : W32
  hTab : Word
  recDir : Word
  recPool : Word
  budget : W32
  dirLog : Byte
  cbank : Word
  resZero : Bool
  deriving DecidableEq, Repr

/-- How a strand was started (R51). -/
inductive StartKind where
  | message | constructor | spawn | spawnNode | child | migr | epilogue | upcall | checkpoint
  | responder
  deriving DecidableEq, Repr

/-- Everything a starting strand receives (R51, R52, R89). -/
structure Launch where
  kind : StartKind
  part : Nat
  ctx : Nat
  pc : Word
  regs : List Word
  rm : BitVec 2
  cbsel : BitVec 16
  sticky : Word
  clsType : Word
  msg : Word
  state : Word
  keyLo : Word
  keyHi : Word
  budget : Word
  counted : Bool
  classBudget : Word
  code : Word
  codeLim : Word
  cbank : Word
  task : Nat
  high : Bool
  counter : Option (Nat × Nat)
  vregs : List (Nat × VReg)
  rows : Option (Nat × Nat)
  deriving DecidableEq, Repr

/-- An activation order (R35, R37). -/
structure ActOrder where
  slice : Nat
  actor : ActorId
  entry : ClassEntry
  dirIndex : Nat
  msg : Msg
  deriving DecidableEq, Repr

/-- The context of an engine command: who submitted it, its class's default BUDGET among the rest, and word 0 (R257, R262). -/
structure CmdCtx where
  quire : Nat
  core : Option Nat
  slot : Nat
  start : Nat
  task : Nat
  job : BitVec 16
  part : Nat
  ctx : Nat
  priv : Bool
  clsType : Word
  code : Word
  codeLim : Word
  cbank : Word
  cbsel : BitVec 16
  rm : BitVec 2
  edition : W32
  budget : Word
  fence : Bool
  wempty : Bool
  node : Nat
  deriving DecidableEq, Repr

/-- MMA (R267): sizes hold the true counts M, N and K. -/
structure MmaCmd where
  n : Nat
  m : Nat
  nn : Nat
  esza : BitVec 2
  eszb : BitVec 2
  start : Nat
  k : Nat
  a : Word
  astr : W32
  b : Word
  bstr : W32
  asc : Word
  ascstr : BitVec 16
  bsc : Word
  bscstr : BitVec 16
  deriving DecidableEq, Repr

/-- DRAIN (R271). -/
structure DrainCmd where
  n : Nat
  r0 : Nat
  rows : Nat
  raw : Bool
  clr : Bool
  entry : W32
  dst : Word
  dstr : W32
  arg : Word
  deriving DecidableEq, Repr

/-- MERR (R274). -/
structure MerrCmd where
  n : Nat
  count : W32
  list : Word
  base : W32
  deriving DecidableEq, Repr

/-- COPY1D (R275). -/
structure Copy1DCmd where
  bytes : W32
  src : Word
  dst : Word
  deriving DecidableEq, Repr

/-- COPY2D (R275). -/
structure Copy2DCmd where
  width : BitVec 16
  height : BitVec 16
  src : Word
  fpitch : W32
  dst : Word
  tpitch : W32
  deriving DecidableEq, Repr

/-- FILL (R275). -/
structure FillCmd where
  bytes : W32
  dst : Word
  pattern : Word
  deriving DecidableEq, Repr

/-- GATHER2D (R276): patch width and height hold the true counts. -/
structure Gather2DCmd where
  pw : Nat
  ph : Nat
  esz : BitVec 2
  count : BitVec 16
  image : Word
  ipitch : W32
  dst : Word
  tstr : W32
  iw : BitVec 16
  ih : BitVec 16
  list : Word
  pad : W32
  deriving DecidableEq, Repr

/-- GATHER (R277). -/
structure GatherCmd where
  esz : BitVec 2
  shift : BitVec 2
  lmask : W32
  base : Word
  idx : Word
  dst : Word
  deriving DecidableEq, Repr

/-- DECODE (R278). -/
structure DecodeCmd where
  ofmt : BitVec 2
  input : Word
  inLen : W32
  out : Word
  outCap : W32
  budget : BitVec 16
  rtype : Byte
  rcls : BitVec 16
  rkey : BitVec 128
  deriving DecidableEq, Repr

/-- How a command ends (R263, R401, R410). -/
structure JobEnd where
  x : CmdCtx
  engine : Nat
  prog : Nat
  fault : Option (EventCode × Word × Nat)
  rejected : Bool
  deriving DecidableEq, Repr

/-- The functions of R251. -/
inductive AtomFn where
  | add | and | or | xor | min | max | minu | maxu | swap | cas | fadd
  deriving DecidableEq, Repr

/-- What an access wants of its page (R145). -/
inductive Access where
  | load | store | atomic | fetch
  deriving DecidableEq, Repr

/-- What the leaf of a line says (R144, R145): its rights, the line's frame, and the leaf's size. -/
structure Grant where
  rights : BitVec 7
  frame : Nat
  size : Nat
  deriving DecidableEq, Repr

/-- What reaches a home slice (R133): the line of an access that is checked and read, the check of a store (R422), a committed
store (R159), a non-temporal store (R172) or an atomic (R162), each write with what it was checked under; and between packages
(R138, R139) what the owning package answers, SHARED or OWNED, its refusal, its recall of a line, and a line written back to it; or `wbr`, `inv.l1` and `inv.home` by kind for a range (R255, R256). -/
inductive HomeOp where
  | need (acc : Access)
  | check
  | store (data : List Byte) (g : Grant)
  | nontemporal (n : Nat) (data : List Byte) (g : Grant)
  | atomic (fn : AtomFn) (size lane : Nat) (val cmp : Word) (g : Grant)
  | peer (owned : Bool) (data : List Byte) (g : Grant)
  | peerFault (f : FaultInfo)
  | recall
  | returned (data : List (Nat × Byte))
  | maintain (kind base len : Nat)
  | strongLoad (n : Nat)
  | strongStore (data : List Byte)
  | moved (data : List Byte)
  | tinv (kind : Nat) (ack : Ref × Nat × Nat)
  deriving DecidableEq, Repr

/-- A request at a home slice; `pkg` is another package that sent it. -/
structure HomeReq where
  who : Ref
  part : Nat
  ctx : Nat
  priv : Bool
  die : Nat
  va : Word
  op : HomeOp
  edition : W32
  task : Nat
  start : Nat := 0
  pkg : Option Nat := none
  deriving DecidableEq, Repr

/-- The answer of a home (R130, R422): data of a line, what a store was checked under, or the fault of the walk (R149). -/
inductive FillResult where
  | data (va : Word) (bytes : List Byte) (g : Grant)
  | checked (va : Word) (g : Grant)
  | fault (acc : Access) (f : FaultInfo)
  deriving DecidableEq, Repr

/-- What another core, or the home of an atomic, answers for an element (R127, R162): its value, or why not. -/
inductive RemoteAnswer where
  | value (w : Word)
  | fault (f : FaultInfo)
  deriving DecidableEq, Repr

def RemoteAnswer.isFault : RemoteAnswer → Bool
  | .value _ => false
  | .fault _ => true

/-- A remote load (R127) of elements by lane and address, decoded at their target (R121). `waited` says that it has found a sector empty (R122). -/
structure RemoteLoad where
  who : Ref
  part : Nat
  target : Nat
  elems : List (Nat × Word)
  size : Nat
  scaleOff : Nat
  wait : Bool
  waited : Bool := false
  deriving DecidableEq, Repr

/-- A remote atomic (R127). -/
structure RemoteAtomic where
  who : Ref
  part : Nat
  target : Nat
  va : Word
  size : Nat
  lane : Nat
  fn : AtomFn
  val : Word
  cmp : Word
  deriving DecidableEq, Repr

/-- A posted remote store (R128); `reply` holds the slot and serial that a reply.msg addresses (R304). -/
structure PostedStore where
  src : Nat
  idx : Option Nat
  part : Nat
  target : Nat
  data : List (Nat × Byte)
  setFull : Bool
  reply : Option (Nat × Nat)
  edition : W32
  deriving DecidableEq, Repr

/-- A barrier: scope code, partition, the quire or die that holds the id, and the id (R287). -/
structure BarKey where
  scope : Nat
  part : Nat
  place : Nat
  id : Nat
  deriving DecidableEq, Repr

/-- A census: partition, slot and sequence (R302). -/
structure CensusId where
  part : Nat
  slot : Nat
  seq : Nat
  deriving DecidableEq, Repr

/-- A catalogue entry (R300); `ans j` is the sequence last answered in census slot j. -/
structure CatEntry where
  ctx : Nat
  key : Word
  addr : Word
  tag : Word
  ans : List (Nat × Nat)
  deriving DecidableEq, Repr

/-- A responder's answer (R304): the census, the core and entry index that rank it, and its value, if it replied. -/
structure CenAnswer where
  slot : Nat
  seq : Nat
  core : Nat
  index : Nat
  val : Option Word
  deriving DecidableEq, Repr

/-- A GIVE packet (R301, R306): its number, the entry it leaves and the one it takes, and the censuses the source had
processed, and its edition. -/
structure Give where
  tag : Nat
  src : Nat
  dst : Nat
  part : Nat
  srcIndex : Nat
  index : Nat
  entry : CatEntry
  view : List (Nat × Nat)
  edition : W32
  deriving DecidableEq, Repr

/-- A sampling request (R283). -/
structure SampReq where
  who : Ref
  start : Nat
  task : Nat
  part : Nat
  ctx : Nat
  ctxId : Nat
  sampler : Nat
  rtype : Byte
  v : Nat
  fmt : Nat
  arg : W32
  logits : Word
  rcls : BitVec 16
  rkey : BitVec 128
  order : Nat := 0
  deriving DecidableEq, Repr

/-- A solicit descriptor (R302). -/
structure Solicit where
  key : Word
  mask : Word
  cls : BitVec 16
  type : Byte
  op : Nat
  scope : Nat
  arg : Word
  ctx : Nat
  asker : Nat
  deriving DecidableEq, Repr

/-- The units of an edition (R294). -/
inductive UnitId where
  | core (n : Nat) | slice (n : Nat) | engines (n : Nat) | node (n : Nat) | sampler (n : Nat)
  | baseDie
  deriving DecidableEq, Repr

/-- A packet that an edition counts (R295): kind, length, address and content. -/
structure EdPacket where
  kind : Nat
  link : Nat
  edition : W32
  va : Word
  len : Nat
  content : List Byte
  deriving DecidableEq, Repr

/-- What acknowledgements a core receives (R166, R173, R255): of its writes, of a non-temporal store by number, of
maintenance, and of the pod directories (R139); a unit of the package receives none. -/
inductive AckKind where
  | write
  | nontemporal (n : Nat)
  | maintenance
  | pod
  | unit
  deriving DecidableEq, Repr

/-- A write at its home (R166, R296): whose it is, how it is acknowledged, what it writes, and under what it was checked. -/
structure CowWrite where
  kind : AckKind
  who : Ref
  task : Nat
  start : Nat
  part : Nat
  ctx : Nat
  va : Word
  data : List Byte
  edition : W32
  g : Grant
  deriving DecidableEq, Repr

/-- The registers whose write has no behaviour of its own (R85, R343). -/
inductive PlainReg where
  | minthr
  | podN (p : Nat) | podHome (p j : Nat)
  | plimit (p : Nat) | phbm (p : Nat)
  | hmapB (p n : Nat) | hmapL (p n : Nat)
  | lsprot (core j : Nat)
  | hwinBase (p : Nat) | evBase (p : Nat) | coltmo (p : Nat) | msixTable (p j : Nat)
  | ttroot (p c : Nat)
  | upcall (p c : Nat) | clsTab (p c : Nat) | clsNum (p c : Nat) | graphBase (p c : Nat)
  | wdogWin (p c : Nat)
  | frecBase (core : Nat)
  | portKey0 (vf p : Nat) | portKey1 (vf p : Nat)
  deriving DecidableEq, Repr

/-- A host access to the memory window (R346), a read of `n` bytes of a port's window (R46), or a read or a write at a byte offset of BAR 0 of the
physical function or of a virtual one (R342, R343). -/
inductive WindowAccess where
  | write (data : List Byte)
  | read (n : Nat)
  | port (port n : Nat)
  | barRead (pf : Bool) (n : Nat)
  | barWrite (pf : Bool) (data : List Byte)
  deriving DecidableEq, Repr

/-- An error's place (R366, R387): the structure, the unit that holds it, its owner and its address. -/
structure ErrorSite where
  structureCode : Nat
  unit : Nat
  part : Option Nat
  addr : Word
  deriving DecidableEq, Repr

/-- The packets and signals that events carry: one constructor per event row of the opcode table. -/
inductive Event where
  | engineCommandComplete (e : JobEnd)
  | engineWindowStore (who : Ref) (pa size : Nat) (data : Word)
  | wemptyWrite (core sector : Nat)
  | drainRowTakeout (quire : Nat)
  | epilogueStart (quire : Nat)
  | drainRowOutput (quire : Nat)
  | folioDecodeComplete (decoder : Nat)
  | messageAccept (slice : Nat) (p : Packet)
  | bouncedMessage (slice : Nat) (p : Packet)
  | entryFreeRound (slice : Nat)
  | retireRequest (core slice : Nat) (actor : ActorId)
  | activationOrder (core : Nat) (o : ActOrder)
  | retirementWritebackDone (core index : Nat)
  | slotFillDone (core index : Nat)
  | ready (slice : Nat) (actor : ActorId) (core index : Nat)
  | refused (slice : Nat) (actor : ActorId) (core : Nat) (order : Bool)
  | unfit (slice : Nat) (actor : ActorId) (core : Nat)
  | retireNotice (slice : Nat) (actor : ActorId) (core : Nat)
  | retired (slice : Nat) (actor : ActorId) (core : Nat)
  | cancel (slice : Nat) (actor : ActorId) (core index : Nat)
  | activationFault (slice : Nat) (actor : ActorId) (core : Nat) (cause : Nat) (code : Byte)
  | moveOrder (slice : Nat) (actor : ActorId) (core : Nat)
  | moved (slice : Nat) (actor : ActorId) (core index : Nat)
  | messageAtCore (core slice : Nat) (actor : ActorId) (msg : Msg)
  | heldMessageForward (slice core : Nat) (high : Bool)
  | taskStart (core : Nat) (arrived : Option (Nat × Launch))
  | taskEnd (task : Nat)
  | portSlotWrite (port vf off : Nat) (data : List Byte)
  | portLineCommit (port vf off : Nat) (data : List Byte)
  | portbindWrite (port vf : Nat) (val : Word)
  | spawnRequest (who : Ref) (tag target : Nat) (child : Launch)
  | spawnAnswer (who : Ref) (tag target : Nat) (slot : Option Nat)
  | spawnChildStart (target slot : Nat) (child : Launch)
  | dequePop (core : Nat)
  | steal (core : Nat)
  | migrArrival (quire : Nat) (child : Launch)
  | joinDecrementApplied (core off : Nat)
  | joinWake (who : Ref)
  | budgetOverrun (who : Ref) (start : Nat)
  | freeCountReport (die : Nat)
  | gkickWrite (part ctx node : Nat)
  | nodeCompletion (part ctx node : Nat) (list : Option Nat)
  | silentContext (part ctx since : Nat)
  | powerManagerExamine (withinPower : Bool)
  | thermalThrottle (die : Nat) (lower : Bool)
  | thermalStop
  | commitGrant (die : Nat)
  | commitTakesEffect (who : Ref) (chunk : Nat)
  | homeRequest (r : HomeReq)
  | cacheFillReturn (who : Ref) (part start : Nat) (r : FillResult)
  | invalidationArrival (core part line : Nat)
  | peerOwnedRequest (part line pkg : Nat)
  | hmsetSliceAdopt (part slice : Nat) (val : Word) (from_ : Option Ref)
  | homeMoveStart (part n : Nat) (base limit : Word)
  | moveLineAck (part n index : Nat)
  | remoteLoadAtTarget (r : RemoteLoad)
  | remoteAtomicAtTarget (r : RemoteAtomic)
  | remoteResult (who : Ref) (lane : Nat) (va : Word) (res : RemoteAnswer)
  | postedStoreApply (p : PostedStore)
  | postedStoreAck (core index : Nat)
  | remoteRefused (core index cause : Nat)
  | ldfWake (who : Ref)
  | waitmWake (who : Ref)
  | waitmLimit (who : Ref) (since : Nat)
  | jwaitWake (who : Ref)
  | barrierArrival (b : BarKey) (who : Ref) (desc : Word) (edition : W32)
  | barrierRelease (b : BarKey) (phase : Nat) (edition : W32)
  | barrierTimeout (b : BarKey) (phase : Nat)
  | censusProcess (core : Nat) (c : CensusId) (edition : W32)
  | censusDone (core : Nat) (c : CensusId) (edition : W32)
  | censusComplete (c : CensusId)
  | censusTimeout (c : CensusId)
  | giveInstall (g : Give)
  | giveAck (core tag : Nat) (answers : List CenAnswer) (edition : W32)
  | closeRequest (part ctx layer : Nat) (replyTo : Option (Nat × Nat × Nat)) (held : Option Word)
  | expcapWrite (part ctx : Nat) (val : Word)
  | sampleRequestReserve (who : Ref) (tag : Nat) (r : SampReq)
  | sampleAnswer (who : Ref) (tag sampler : Nat) (place : Option Nat)
  | sampleRequestArrival (r : SampReq)
  | samplerRun (sampler : Nat)
  | samplerParkExamine (sampler : Nat)
  | samplerInstructionLimit (sampler : Nat)
  | editionMarker (part : Nat) (u : UnitId) (edition : W32)
  | editionPacket (part : Nat) (u : UnitId) (p : EdPacket)
  | coreSwitchTimeout (part core : Nat) (edition : W32)
  | homeSliceSwitch (part slice : Nat) (edition : W32)
  | editionComplete (part : Nat)
  | cowCopy (w : CowWrite)
  | cowPoolRetry (w : CowWrite)
  | strandFaultReport (who : Ref)
  | upcallStart (who : Ref)
  | linkLost (near far : Nat) (inFlight : List Nat)
  | flitReplay (port : Nat)
  | quiesceCollective (part : Nat) (loss : Bool) (info : Word) (detail : List Byte)
  | uncorrectable (e : ErrorSite)
  | registerParityError (who : Ref)
  | correctedError (e : ErrorSite) (line : Option (Nat × Nat))
  | linkTraining (near port neighbour : Nat)
  | powerGood
  | partitionStart (part : Nat)
  | partitionStop (part : Nat)
  | partitionStopComplete (part : Nat)
  | quiesceWrite (val : Word)
  | devenWrite (i : Nat) (val : Word)
  | pkgidWrite (val : Word)
  | waymaskWrite (core writer : Nat) (val : Word)
  | aslotWrite (core writer : Nat) (val : Word)
  | cbselWrite (who : Ref) (val : Word)
  | ctxreqWrite (core : Nat) (val : Word)
  | coreschedWrite (core : Nat) (val : Word)
  | engflt1Write (core : Nat) (val : Word)
  | sampctlWrite (sampler : Nat) (val : Word)
  | samplerStoreWrite (sampler index : Nat) (own : Bool) (val : W32)
  | ownershipWrite (quires : Bool) (index : Nat) (val : Byte)
  | notifyPageStore (part : Nat) (val : Word)
  | hostWindowAccess (vf off : Nat) (acc : WindowAccess)
  | attestationRequest (nonce : List Byte)
  | registerWrite (r : PlainReg) (val : Word)
  | moveCopyComplete (core index dest destIndex : Nat)
  | homeAcknowledgement (who : Ref) (kind : AckKind) (task start : Nat)
  | giveRequest (who : Ref) (tag target part : Nat)
  | giveAnswer (who : Ref) (tag target : Nat) (entry : Option Nat)
  | censusSlotRequest (who : Ref) (tag : Nat) (q : Solicit)
  | censusIdAnswer (who : Ref) (tag id : Nat) (edition : W32)
  | snapRequestArrival (who : Ref) (tag : Nat) (header : Word)
  | snapAnswer (who : Ref) (tag : Nat) (val : Word)
  deriving DecidableEq, Repr

/-- The steps of the part (one constructor per row of the opcode table, in its order). A bundle word, a sampler
word and an engine command carry their fields. An event carries nothing: its packet is an `Event`, and the
machine holds the packet at hand. -/
inductive Instr where
  | nopC (c : CWord)
  | jmp (c : CWord)
  | jal (c : CWord)
  | jr (c : CWord)
  | bz (c : CWord)
  | bnz (c : CWord)
  | bkany (c : CWord)
  | bkall (c : CWord)
  | loop (c : CWord)
  | endStrand (c : CWord)
  | fork (c : CWord)
  | join (c : CWord)
  | jend (c : CWord)
  | migr (c : CWord)
  | yield (c : CWord)
  | trap (c : CWord)
  | send (c : CWord)
  | spawn (c : CWord)
  | bar (c : CWord)
  | mon (c : CWord)
  | waitm (c : CWord)
  | snap (c : CWord)
  | solicit (c : CWord)
  | cwait (c : CWord)
  | catIns (c : CWord)
  | catDel (c : CWord)
  | catGive (c : CWord)
  | replyCen (c : CWord)
  | replyMsg (c : CWord)
  | ldB (c : CWord)
  | ldH (c : CWord)
  | ldW (c : CWord)
  | ldD (c : CWord)
  | ldBu (c : CWord)
  | ldHu (c : CWord)
  | ldWu (c : CWord)
  | stB (c : CWord)
  | stH (c : CWord)
  | stW (c : CWord)
  | stD (c : CWord)
  | vldB (c : CWord)
  | vldH (c : CWord)
  | vldW (c : CWord)
  | vstB (c : CWord)
  | vstH (c : CWord)
  | vstW (c : CWord)
  | vgat (c : CWord)
  | vsca (c : CWord)
  | ldf (c : CWord)
  | ldfc (c : CWord)
  | stf (c : CWord)
  | stnt (c : CWord)
  | vstnt (c : CWord)
  | pref (c : CWord)
  | stmx (c : CWord)
  | atomAdd (c : CWord)
  | atomAnd (c : CWord)
  | atomOr (c : CWord)
  | atomXor (c : CWord)
  | atomMin (c : CWord)
  | atomMax (c : CWord)
  | atomMinu (c : CWord)
  | atomMaxu (c : CWord)
  | atomSwap (c : CWord)
  | atomCas (c : CWord)
  | atomFadd (c : CWord)
  | vatomAdd (c : CWord)
  | vatomAnd (c : CWord)
  | vatomOr (c : CWord)
  | vatomXor (c : CWord)
  | vatomMin (c : CWord)
  | vatomMax (c : CWord)
  | vatomMinu (c : CWord)
  | vatomMaxu (c : CWord)
  | vatomSwap (c : CWord)
  | vatomFadd (c : CWord)
  | fence (c : CWord)
  | drain (c : CWord)
  | wbr (c : CWord)
  | invL1 (c : CWord)
  | invHome (c : CWord)
  | wmaskSet (c : CWord)
  | wmaskClr (c : CWord)
  | wmaskPut (c : CWord)
  | cmd (c : CWord)
  | jwait (c : CWord)
  | jpoll (c : CWord)
  | topk (c : CWord)
  | sfuRcp (c : CWord)
  | sfuSqrt (c : CWord)
  | sfuRsqrt (c : CWord)
  | sfuExp2 (c : CWord)
  | sfuLog2 (c : CWord)
  | sfuSinpi (c : CWord)
  | sfuCospi (c : CWord)
  | sfuTanh (c : CWord)
  | enc8 (c : CWord)
  | ltab (c : CWord)
  | samp (c : CWord)
  | csrr (c : CWord)
  | csrw (c : CWord)
  | resume (c : CWord)
  | tinvPage (c : CWord)
  | tinvCtx (c : CWord)
  | tinvPart (c : CWord)
  | ctxsw (c : CWord)
  | rollback (c : CWord)
  | hmset (c : CWord)
  | nopA (w : AWord)
  | add (w : AWord)
  | sub (w : AWord)
  | mul (w : AWord)
  | mulh (w : AWord)
  | mulhu (w : AWord)
  | mad (w : AWord)
  | min (w : AWord)
  | max (w : AWord)
  | minu (w : AWord)
  | maxu (w : AWord)
  | and (w : AWord)
  | or (w : AWord)
  | xor (w : AWord)
  | andn (w : AWord)
  | shl (w : AWord)
  | shr (w : AWord)
  | sar (w : AWord)
  | rot (w : AWord)
  | popc (w : AWord)
  | clz (w : AWord)
  | ctz (w : AWord)
  | neg (w : AWord)
  | not (w : AWord)
  | abs (w : AWord)
  | brev (w : AWord)
  | lid (w : AWord)
  | cmp (w : AWord)
  | cmpu (w : AWord)
  | fadd (w : AWord)
  | fsub (w : AWord)
  | fmul (w : AWord)
  | ffma (w : AWord)
  | fmin (w : AWord)
  | fmax (w : AWord)
  | fneg (w : AWord)
  | fabs (w : AWord)
  | ffloor (w : AWord)
  | fceil (w : AWord)
  | ftrunc (w : AWord)
  | fround (w : AWord)
  | frint (w : AWord)
  | fclass (w : AWord)
  | fsgn (w : AWord)
  | fcmp (w : AWord)
  | cvtFtoi (w : AWord)
  | cvtFtou (w : AWord)
  | cvtFtoiz (w : AWord)
  | cvtFtouz (w : AWord)
  | cvtItof (w : AWord)
  | cvtUtof (w : AWord)
  | cvtFtoh (w : AWord)
  | cvtFtob (w : AWord)
  | cvtHtof (w : AWord)
  | cvtBtof (w : AWord)
  | cvtFtol (w : AWord)
  | cvtLtof (w : AWord)
  | sel (w : AWord)
  | mov (w : AWord)
  | bcast (w : AWord)
  | shuf (w : AWord)
  | lrot (w : AWord)
  | redAdd (w : AWord)
  | redAnd (w : AWord)
  | redOr (w : AWord)
  | redXor (w : AWord)
  | redMin (w : AWord)
  | redMax (w : AWord)
  | redMinu (w : AWord)
  | redMaxu (w : AWord)
  | redFadd (w : AWord)
  | redFmin (w : AWord)
  | redFmax (w : AWord)
  | scanAdd (w : AWord)
  | scanAnd (w : AWord)
  | scanOr (w : AWord)
  | scanXor (w : AWord)
  | scanMin (w : AWord)
  | scanMax (w : AWord)
  | scanMinu (w : AWord)
  | scanMaxu (w : AWord)
  | scanFadd (w : AWord)
  | scanFmin (w : AWord)
  | scanFmax (w : AWord)
  | kopAnd (w : AWord)
  | kopOr (w : AWord)
  | kopXor (w : AWord)
  | kopAndn (w : AWord)
  | kopNot (w : AWord)
  | kopMov (w : AWord)
  | kopLow (w : AWord)
  | addsat (w : AWord)
  | subsat (w : AWord)
  | dp4 (w : AWord)
  | fdp2 (w : AWord)
  | samplerHalt (w : SWord)
  | samplerLdi (w : SWord)
  | samplerAdd (w : SWord)
  | samplerSub (w : SWord)
  | samplerMulq (w : SWord)
  | samplerXfer (w : SWord)
  | samplerBz (w : SWord)
  | samplerBnz (w : SWord)
  | samplerLdc (w : SWord)
  | samplerStc (w : SWord)
  | samplerLdr (w : SWord)
  | samplerLogit (w : SWord)
  | samplerKeep (w : SWord)
  | samplerGmask (w : SWord)
  | samplerPen (w : SWord)
  | samplerScale (w : SWord)
  | samplerExpw (w : SWord)
  | samplerNucl (w : SWord)
  | samplerRand (w : SWord)
  | samplerPick (w : SWord)
  | samplerFind (w : SWord)
  | samplerEmit (w : SWord)
  | zcfg (x : CmdCtx) (tile : BitVec 4) (val : BitVec 27)
  | zzero (x : CmdCtx) (tiles : BitVec 16)
  | mma (x : CmdCtx) (c : MmaCmd)
  | drainCommand (x : CmdCtx) (c : DrainCmd)
  | merr (x : CmdCtx) (c : MerrCmd)
  | copy1d (x : CmdCtx) (c : Copy1DCmd)
  | copy2d (x : CmdCtx) (c : Copy2DCmd)
  | fillCmd (x : CmdCtx) (c : FillCmd)
  | gather2d (x : CmdCtx) (c : Gather2DCmd)
  | gatherCmd (x : CmdCtx) (c : GatherCmd)
  | decodeCmd (x : CmdCtx) (c : DecodeCmd)
  | engineCommandComplete
  | engineWindowStore
  | wemptyWrite
  | drainRowTakeout
  | epilogueStart
  | drainRowOutput
  | folioDecodeComplete
  | messageAccept
  | bouncedMessage
  | entryFreeRound
  | retireRequest
  | activationOrder
  | retirementWritebackDone
  | slotFillDone
  | ready
  | refused
  | unfit
  | retireNotice
  | retired
  | cancel
  | activationFault
  | moveOrder
  | moved
  | messageAtCore
  | heldMessageForward
  | taskStart
  | taskEnd
  | portSlotWrite
  | portLineCommit
  | portbindWrite
  | spawnRequest
  | spawnAnswer
  | spawnChildStart
  | dequePop
  | steal
  | migrArrival
  | joinDecrementApplied
  | joinWake
  | budgetOverrun
  | freeCountReport
  | gkickWrite
  | nodeCompletion
  | silentContext
  | powerManagerExamine
  | thermalThrottle
  | thermalStop
  | commitGrant
  | commitTakesEffect
  | homeRequest
  | cacheFillReturn
  | invalidationArrival
  | peerOwnedRequest
  | hmsetSliceAdopt
  | homeMoveStart
  | moveLineAck
  | remoteLoadAtTarget
  | remoteAtomicAtTarget
  | remoteResult
  | postedStoreApply
  | postedStoreAck
  | remoteRefused
  | ldfWake
  | waitmWake
  | waitmLimit
  | jwaitWake
  | barrierArrival
  | barrierRelease
  | barrierTimeout
  | censusProcess
  | censusDone
  | censusComplete
  | censusTimeout
  | giveInstall
  | giveAck
  | closeRequest
  | expcapWrite
  | sampleRequestReserve
  | sampleAnswer
  | sampleRequestArrival
  | samplerRun
  | samplerParkExamine
  | samplerInstructionLimit
  | editionMarker
  | editionPacket
  | coreSwitchTimeout
  | homeSliceSwitch
  | editionComplete
  | cowCopy
  | cowPoolRetry
  | strandFaultReport
  | upcallStart
  | linkLost
  | flitReplay
  | quiesceCollective
  | uncorrectable
  | registerParityError
  | correctedError
  | linkTraining
  | powerGood
  | partitionStart
  | partitionStop
  | partitionStopComplete
  | quiesceWrite
  | devenWrite
  | pkgidWrite
  | waymaskWrite
  | aslotWrite
  | cbselWrite
  | ctxreqWrite
  | coreschedWrite
  | engflt1Write
  | sampctlWrite
  | samplerStoreWrite
  | ownershipWrite
  | notifyPageStore
  | hostWindowAccess
  | attestationRequest
  | registerWrite
  | moveCopyComplete
  | homeAcknowledgement
  | giveRequest
  | giveAnswer
  | censusSlotRequest
  | censusIdAnswer
  | snapRequestArrival
  | snapAnswer
  deriving DecidableEq, Repr

/-- The step of the part that an event is. -/
def Event.instr : Event → Instr
  | .engineCommandComplete .. => .engineCommandComplete
  | .engineWindowStore .. => .engineWindowStore
  | .wemptyWrite .. => .wemptyWrite
  | .drainRowTakeout .. => .drainRowTakeout
  | .epilogueStart .. => .epilogueStart
  | .drainRowOutput .. => .drainRowOutput
  | .folioDecodeComplete .. => .folioDecodeComplete
  | .messageAccept .. => .messageAccept
  | .bouncedMessage .. => .bouncedMessage
  | .entryFreeRound .. => .entryFreeRound
  | .retireRequest .. => .retireRequest
  | .activationOrder .. => .activationOrder
  | .retirementWritebackDone .. => .retirementWritebackDone
  | .slotFillDone .. => .slotFillDone
  | .ready .. => .ready
  | .refused .. => .refused
  | .unfit .. => .unfit
  | .retireNotice .. => .retireNotice
  | .retired .. => .retired
  | .cancel .. => .cancel
  | .activationFault .. => .activationFault
  | .moveOrder .. => .moveOrder
  | .moved .. => .moved
  | .messageAtCore .. => .messageAtCore
  | .heldMessageForward .. => .heldMessageForward
  | .taskStart .. => .taskStart
  | .taskEnd .. => .taskEnd
  | .portSlotWrite .. => .portSlotWrite
  | .portLineCommit .. => .portLineCommit
  | .portbindWrite .. => .portbindWrite
  | .spawnRequest .. => .spawnRequest
  | .spawnAnswer .. => .spawnAnswer
  | .spawnChildStart .. => .spawnChildStart
  | .dequePop .. => .dequePop
  | .steal .. => .steal
  | .migrArrival .. => .migrArrival
  | .joinDecrementApplied .. => .joinDecrementApplied
  | .joinWake .. => .joinWake
  | .budgetOverrun .. => .budgetOverrun
  | .freeCountReport .. => .freeCountReport
  | .gkickWrite .. => .gkickWrite
  | .nodeCompletion .. => .nodeCompletion
  | .silentContext .. => .silentContext
  | .powerManagerExamine .. => .powerManagerExamine
  | .thermalThrottle .. => .thermalThrottle
  | .thermalStop => .thermalStop
  | .commitGrant .. => .commitGrant
  | .commitTakesEffect .. => .commitTakesEffect
  | .homeRequest .. => .homeRequest
  | .cacheFillReturn .. => .cacheFillReturn
  | .invalidationArrival .. => .invalidationArrival
  | .peerOwnedRequest .. => .peerOwnedRequest
  | .hmsetSliceAdopt .. => .hmsetSliceAdopt
  | .homeMoveStart .. => .homeMoveStart
  | .moveLineAck .. => .moveLineAck
  | .remoteLoadAtTarget .. => .remoteLoadAtTarget
  | .remoteAtomicAtTarget .. => .remoteAtomicAtTarget
  | .remoteResult .. => .remoteResult
  | .postedStoreApply .. => .postedStoreApply
  | .postedStoreAck .. => .postedStoreAck
  | .remoteRefused .. => .remoteRefused
  | .ldfWake .. => .ldfWake
  | .waitmWake .. => .waitmWake
  | .waitmLimit .. => .waitmLimit
  | .jwaitWake .. => .jwaitWake
  | .barrierArrival .. => .barrierArrival
  | .barrierRelease .. => .barrierRelease
  | .barrierTimeout .. => .barrierTimeout
  | .censusProcess .. => .censusProcess
  | .censusDone .. => .censusDone
  | .censusComplete .. => .censusComplete
  | .censusTimeout .. => .censusTimeout
  | .giveInstall .. => .giveInstall
  | .giveAck .. => .giveAck
  | .closeRequest .. => .closeRequest
  | .expcapWrite .. => .expcapWrite
  | .sampleRequestReserve .. => .sampleRequestReserve
  | .sampleAnswer .. => .sampleAnswer
  | .sampleRequestArrival .. => .sampleRequestArrival
  | .samplerRun .. => .samplerRun
  | .samplerParkExamine .. => .samplerParkExamine
  | .samplerInstructionLimit .. => .samplerInstructionLimit
  | .editionMarker .. => .editionMarker
  | .editionPacket .. => .editionPacket
  | .coreSwitchTimeout .. => .coreSwitchTimeout
  | .homeSliceSwitch .. => .homeSliceSwitch
  | .editionComplete .. => .editionComplete
  | .cowCopy .. => .cowCopy
  | .cowPoolRetry .. => .cowPoolRetry
  | .strandFaultReport .. => .strandFaultReport
  | .upcallStart .. => .upcallStart
  | .linkLost .. => .linkLost
  | .flitReplay .. => .flitReplay
  | .quiesceCollective .. => .quiesceCollective
  | .uncorrectable .. => .uncorrectable
  | .registerParityError .. => .registerParityError
  | .correctedError .. => .correctedError
  | .linkTraining .. => .linkTraining
  | .powerGood => .powerGood
  | .partitionStart .. => .partitionStart
  | .partitionStop .. => .partitionStop
  | .partitionStopComplete .. => .partitionStopComplete
  | .quiesceWrite .. => .quiesceWrite
  | .devenWrite .. => .devenWrite
  | .pkgidWrite .. => .pkgidWrite
  | .waymaskWrite .. => .waymaskWrite
  | .aslotWrite .. => .aslotWrite
  | .cbselWrite .. => .cbselWrite
  | .ctxreqWrite .. => .ctxreqWrite
  | .coreschedWrite .. => .coreschedWrite
  | .engflt1Write .. => .engflt1Write
  | .sampctlWrite .. => .sampctlWrite
  | .samplerStoreWrite .. => .samplerStoreWrite
  | .ownershipWrite .. => .ownershipWrite
  | .notifyPageStore .. => .notifyPageStore
  | .hostWindowAccess .. => .hostWindowAccess
  | .attestationRequest .. => .attestationRequest
  | .registerWrite .. => .registerWrite
  | .moveCopyComplete .. => .moveCopyComplete
  | .homeAcknowledgement .. => .homeAcknowledgement
  | .giveRequest .. => .giveRequest
  | .giveAnswer .. => .giveAnswer
  | .censusSlotRequest .. => .censusSlotRequest
  | .censusIdAnswer .. => .censusIdAnswer
  | .snapRequestArrival .. => .snapRequestArrival
  | .snapAnswer .. => .snapAnswer

end Sys2Proof
end

