-- ==== Sys2Proof/WellFormed.lean ====
section
/-! DEFINITION. Well-formedness: what the entries of the reference ask of an instruction's fields
(R184-R195, R203, R396). An ill-formed bundle word raises RESERVED_FIELD when it issues. -/

namespace Sys2Proof

/-- What a C-word's D may hold. -/
inductive DRule where
  | zero | any | low3 | scope0 | scope1 | scope3 | upTo (n : Nat)
  deriving DecidableEq, Repr

/-- What kind tag a C-word's operand A may carry: `none` is TA and A zero; `l` admits a literal, `Lone`
a literal in the lone form only. -/
inductive TRule where
  | none | scb | scbl | scbLone | all | v | s | csrw
  deriving DecidableEq, Repr

inductive BRule where
  | zero | any | code (n : Nat) | upTo (n : Nat)
  deriving DecidableEq, Repr

/-- What MK may hold; `lane` is a mask for a v destination and zero otherwise. -/
inductive MRule where
  | zero | any | nonzero | lane
  deriving DecidableEq, Repr

/-- What a lone C-word reads word 1 for (R182, R185): nothing but a literal of tag 11, an offset, a
store's offset or data, the width and shift of R245, the fields of R251, or csrw's literal. -/
inductive W1Rule where
  | none | offset | store | index | atom | vatom | csr
  deriving DecidableEq, Repr

structure CForm where
  d : DRule
  ta : TRule
  b : BRule
  mk2 : MRule
  w1 : W1Rule
  loneOnly : Bool
  deriving DecidableEq, Repr

/-- The forms of an A-word (R190); the number is a function code, or the last condition. -/
inductive AForm where
  | nop | binary | unary (code : Nat) | unaryS (code : Nat) | compare (last : Nat) | select | move
  | broadcast | shuffle | rotate | reduce (code : Nat) | kop (code : Nat)
  deriving DecidableEq, Repr

def Ext.isLone : Ext → Bool
  | .paired => false
  | .lone _ => true

/-- Word 1 of a lone bundle; zero in a paired one. -/
def Ext.word1 : Ext → W32
  | .paired => 0
  | .lone w => w

def DRule.ok (d : BitVec 5) : DRule → Bool
  | .zero => d == 0
  | .any => true
  | .low3 => d.toNat < 8
  | .scope0 => d.toNat < 5
  | .scope1 => 1 ≤ d.toNat && d.toNat < 5
  | .scope3 => d.toNat < 4
  | .upTo n => d.toNat ≤ n

def TRule.ok (t : Kind) (a : BitVec 5) (lone : Bool) : TRule → Bool
  | .none => t == .v && a == 0
  | .scb => t == .s || t == .cb
  | .scbl => t != .v
  | .scbLone => t == .s || t == .cb || (t == .lit && lone)
  | .all => true
  | .v => t == .v
  | .s => t == .s && a.toNat ≤ 12
  | .csrw => t == .s || t == .cb || (t == .lit && lone)

def BRule.ok (b : BitVec 5) : BRule → Bool
  | .zero => b == 0
  | .any => true
  | .code n => b.toNat == n
  | .upTo n => b.toNat ≤ n

def MRule.ok (m : BitVec 2) (t : Kind) : MRule → Bool
  | .zero => m == 0
  | .any => true
  | .nonzero => m != 0
  | .lane => t == .v || m == 0

/-- Whether the lone form reads word 1 as an operand (R182): through its form, or through a literal that its entry allows (R203). -/
def CForm.takesWord1 (f : CForm) (t : Kind) : Bool :=
  match f.w1 with
  | .none | .csr => t == .lit && f.ta.ok .lit 0 true
  | _ => true

/-- The same of an A-word, by the tags of the operands that its form has (R189, R190). -/
def AForm.takesWord1 (f : AForm) (ta tb : Kind) : Bool :=
  match f with
  | .nop | .reduce _ | .kop _ => false
  | .unary _ | .unaryS _ | .move | .broadcast => ta == .lit
  | .shuffle | .rotate => tb == .lit
  | .binary | .compare _ | .select => ta == .lit || tb == .lit

/-- The selectors of R84, [11:0] of a `csrr` or `csrw`. -/
def selectorKnown (n : Nat) : Bool :=
  (0x001 ≤ n && n ≤ 0x003) || (0x010 ≤ n && n ≤ 0x017) || (0x020 ≤ n && n ≤ 0x025) ||
  n == 0x030 || n == 0x031 || n == 0x040 || (0x100 ≤ n && n ≤ 0x10F)

/-- The selector a C-word names: A, B and MK together (R224). -/
def CWord.selector (c : CWord) : Nat :=
  c.a.toNat * 128 + c.b.toNat * 4 + c.msk.toNat

/-- The checks of word 1 that R245 and R251 make. -/
def W1Rule.ok (w : W32) (b : BitVec 5) : W1Rule → Bool
  | .index => Bits.get w.toNat 1 0 ≠ 3 && Bits.get w.toNat 31 4 == 0
  | .atom =>
    let n := w.toNat
    let vt := Bits.get n 6 5
    Bits.get n 19 17 == 0 && (b == 9 || Bits.get n 16 12 == 0) && vt != 0 &&
    (if vt == 3 then Bits.get n 11 7 == 0 else Bits.get n 31 20 == 0) &&
    (Bits.get n 4 3 == 0 || (Bits.get n 4 3 == 1 && b != 10)) && Bits.get n 2 0 ≤ 4
  | .vatom =>
    let n := w.toNat
    let vt := Bits.get n 6 5
    (if vt == 3 then Bits.get n 11 7 == 0 else Bits.get n 31 20 == 0) &&
    Bits.get n 4 3 == 0 && Bits.get n 2 0 ≤ 4
  | _ => true

/-- The field checks of a C-word of form `f`. -/
def CForm.ok (f : CForm) (c : CWord) : Bool :=
  let lone := c.ext.isLone
  f.d.ok c.d && f.ta.ok c.ta c.a lone && f.b.ok c.b && f.mk2.ok c.msk c.ta &&
  (c.ta != .lit || !lone || c.a == 0 || f.w1 == .csr) &&
  (!f.loneOnly || lone) &&
  (match f.w1 with
   | .offset => !lone || c.b == 0
   | .store => !lone || c.ta == .lit || c.b == 0
   | .csr => selectorKnown c.selector && (c.ta != .lit || c.d == 0)
   | .index => !lone || W1Rule.ok c.ext.word1 c.b .index
   | r => !lone || r.ok c.ext.word1 c.b)

/-- A tag-11 operand of a lone bundle has a zero field (R186). -/
def litOk (t : Kind) (n : BitVec 5) (e : Ext) : Bool := t != .lit || !e.isLone || n == 0

/-- Whether an A-word of the binary form writes a v register (R190). -/
def AWord.vDest (w : AWord) : Bool := w.ta == .v || w.tb == .v

/-- The field checks of an A-word of form `f` (R190, R195, R396). -/
def AForm.ok (f : AForm) (w : AWord) : Bool :=
  let la := litOk w.ta w.a w.ext
  let lb := litOk w.tb w.b w.ext
  match f with
  | .nop => !w.fzi && !w.fzo && w.d == 0 && w.tb == .v && w.b == 0 && w.ta == .v && w.a == 0 && w.k == 0
  | .binary => la && lb && (w.vDest || w.k == 0)
  | .unary n => la && w.tb == .v && w.b.toNat == n && (w.ta == .v || w.k == 0)
  | .unaryS n => la && w.tb == .v && w.b.toNat == n && w.ta != .v && w.k == 0
  | .compare n => la && lb && w.d.toNat < 8 && w.k.toNat ≤ n
  | .select => la && lb
  | .move => la && w.tb == .v && w.b == 0 && (w.ta == .v || w.k == 0)
  | .broadcast => la && w.ta != .v && w.tb == .v && w.b == 0
  | .shuffle => w.ta == .v && lb
  | .rotate => w.ta == .v && w.tb != .v && lb
  | .reduce n => w.ta == .v && w.tb == .v && w.b.toNat == n
  | .kop n => w.ta == .v && w.tb == .v && w.b.toNat == n && w.d.toNat < 8 && w.a.toNat < 8

/-- The C-word an instruction is, with its form (R184, R185 and the entries of the reference). -/
def Instr.cword : Instr → Option (CForm × CWord)
  | .nopC c => some (⟨.zero, .none, .zero, .zero, .none, false⟩, c)
  | .jmp c => some (⟨.zero, .none, .any, .zero, .offset, false⟩, c)
  | .jal c => some (⟨.any, .none, .any, .zero, .offset, false⟩, c)
  | .jr c => some (⟨.any, .scb, .zero, .zero, .none, false⟩, c)
  | .bz c => some (⟨.zero, .scb, .any, .zero, .offset, false⟩, c)
  | .bnz c => some (⟨.zero, .scb, .any, .zero, .offset, false⟩, c)
  | .bkany c => some (⟨.low3, .none, .any, .zero, .offset, false⟩, c)
  | .bkall c => some (⟨.low3, .none, .any, .zero, .offset, false⟩, c)
  | .loop c => some (⟨.any, .none, .any, .zero, .offset, false⟩, c)
  | .endStrand c => some (⟨.zero, .none, .zero, .zero, .none, false⟩, c)
  | .fork c => some (⟨.any, .scb, .any, .zero, .offset, false⟩, c)
  | .join c => some (⟨.zero, .scb, .zero, .zero, .none, false⟩, c)
  | .jend c => some (⟨.zero, .none, .zero, .zero, .none, false⟩, c)
  | .migr c => some (⟨.zero, .scb, .zero, .zero, .none, false⟩, c)
  | .yield c => some (⟨.zero, .none, .zero, .zero, .none, false⟩, c)
  | .trap c => some (⟨.zero, .none, .any, .zero, .none, false⟩, c)
  | .send c => some (⟨.zero, .scb, .zero, .zero, .none, false⟩, c)
  | .spawn c => some (⟨.any, .scb, .any, .zero, .offset, false⟩, c)
  | .bar c => some (⟨.scope1, .scbLone, .any, .zero, .none, false⟩, c)
  | .mon c => some (⟨.zero, .scb, .zero, .zero, .none, false⟩, c)
  | .waitm c => some (⟨.any, .scbLone, .zero, .zero, .none, false⟩, c)
  | .snap c => some (⟨.any, .scb, .zero, .zero, .none, false⟩, c)
  | .solicit c => some (⟨.any, .scb, .zero, .zero, .none, false⟩, c)
  | .cwait c => some (⟨(.upTo 14), .scbl, .zero, .zero, .none, false⟩, c)
  | .catIns c => some (⟨.any, .scb, (.code 0), .zero, .none, false⟩, c)
  | .catDel c => some (⟨.any, .scb, (.code 1), .zero, .none, false⟩, c)
  | .catGive c => some (⟨.any, .scb, (.code 2), .zero, .none, false⟩, c)
  | .replyCen c => some (⟨.zero, .scbl, (.code 0), .zero, .none, false⟩, c)
  | .replyMsg c => some (⟨.zero, .scbl, (.code 1), .zero, .none, false⟩, c)
  | .ldB c => some (⟨.any, .scb, .any, .zero, .offset, false⟩, c)
  | .ldH c => some (⟨.any, .scb, .any, .zero, .offset, false⟩, c)
  | .ldW c => some (⟨.any, .scb, .any, .zero, .offset, false⟩, c)
  | .ldD c => some (⟨.any, .scb, .any, .zero, .offset, false⟩, c)
  | .ldBu c => some (⟨.any, .scb, .any, .zero, .offset, false⟩, c)
  | .ldHu c => some (⟨.any, .scb, .any, .zero, .offset, false⟩, c)
  | .ldWu c => some (⟨.any, .scb, .any, .zero, .offset, false⟩, c)
  | .stB c => some (⟨.any, .all, .any, .zero, .store, false⟩, c)
  | .stH c => some (⟨.any, .all, .any, .zero, .store, false⟩, c)
  | .stW c => some (⟨.any, .all, .any, .zero, .store, false⟩, c)
  | .stD c => some (⟨.any, .all, .any, .zero, .store, false⟩, c)
  | .vldB c => some (⟨.any, .scb, .any, .any, .offset, false⟩, c)
  | .vldH c => some (⟨.any, .scb, .any, .any, .offset, false⟩, c)
  | .vldW c => some (⟨.any, .scb, .any, .any, .offset, false⟩, c)
  | .vstB c => some (⟨.any, .v, .any, .any, .offset, false⟩, c)
  | .vstH c => some (⟨.any, .v, .any, .any, .offset, false⟩, c)
  | .vstW c => some (⟨.any, .v, .any, .any, .offset, false⟩, c)
  | .vgat c => some (⟨.any, .scb, .any, .any, .index, false⟩, c)
  | .vsca c => some (⟨.any, .v, .any, .any, .index, false⟩, c)
  | .ldf c => some (⟨.any, .scb, .any, .zero, .offset, false⟩, c)
  | .ldfc c => some (⟨.any, .scb, .any, .zero, .offset, false⟩, c)
  | .stf c => some (⟨.any, .all, .any, .zero, .store, false⟩, c)
  | .stnt c => some (⟨.any, .all, .any, .zero, .store, false⟩, c)
  | .vstnt c => some (⟨.any, .v, .any, .any, .offset, false⟩, c)
  | .pref c => some (⟨.zero, .scb, .any, .zero, .offset, false⟩, c)
  | .stmx c => some (⟨(.upTo 12), .v, (.upTo 7), .any, .none, false⟩, c)
  | .atomAdd c => some (⟨.any, .scb, (.code 0), .any, .atom, true⟩, c)
  | .atomAnd c => some (⟨.any, .scb, (.code 1), .any, .atom, true⟩, c)
  | .atomOr c => some (⟨.any, .scb, (.code 2), .any, .atom, true⟩, c)
  | .atomXor c => some (⟨.any, .scb, (.code 3), .any, .atom, true⟩, c)
  | .atomMin c => some (⟨.any, .scb, (.code 4), .any, .atom, true⟩, c)
  | .atomMax c => some (⟨.any, .scb, (.code 5), .any, .atom, true⟩, c)
  | .atomMinu c => some (⟨.any, .scb, (.code 6), .any, .atom, true⟩, c)
  | .atomMaxu c => some (⟨.any, .scb, (.code 7), .any, .atom, true⟩, c)
  | .atomSwap c => some (⟨.any, .scb, (.code 8), .any, .atom, true⟩, c)
  | .atomCas c => some (⟨.any, .scb, (.code 9), .any, .atom, true⟩, c)
  | .atomFadd c => some (⟨.any, .scb, (.code 10), .any, .atom, true⟩, c)
  | .vatomAdd c => some (⟨.any, .v, (.code 0), .any, .vatom, true⟩, c)
  | .vatomAnd c => some (⟨.any, .v, (.code 1), .any, .vatom, true⟩, c)
  | .vatomOr c => some (⟨.any, .v, (.code 2), .any, .vatom, true⟩, c)
  | .vatomXor c => some (⟨.any, .v, (.code 3), .any, .vatom, true⟩, c)
  | .vatomMin c => some (⟨.any, .v, (.code 4), .any, .vatom, true⟩, c)
  | .vatomMax c => some (⟨.any, .v, (.code 5), .any, .vatom, true⟩, c)
  | .vatomMinu c => some (⟨.any, .v, (.code 6), .any, .vatom, true⟩, c)
  | .vatomMaxu c => some (⟨.any, .v, (.code 7), .any, .vatom, true⟩, c)
  | .vatomSwap c => some (⟨.any, .v, (.code 8), .any, .vatom, true⟩, c)
  | .vatomFadd c => some (⟨.any, .v, (.code 10), .any, .vatom, true⟩, c)
  | .fence c => some (⟨.scope0, .none, .zero, .nonzero, .none, false⟩, c)
  | .drain c => some (⟨.scope0, .none, .zero, .zero, .none, false⟩, c)
  | .wbr c => some (⟨.any, .scb, .zero, .zero, .none, false⟩, c)
  | .invL1 c => some (⟨.any, .scb, (.code 0), .zero, .none, false⟩, c)
  | .invHome c => some (⟨.any, .scb, (.code 1), .zero, .none, false⟩, c)
  | .wmaskSet c => some (⟨.any, .scbLone, (.code 0), .zero, .none, false⟩, c)
  | .wmaskClr c => some (⟨.any, .scbLone, (.code 1), .zero, .none, false⟩, c)
  | .wmaskPut c => some (⟨.any, .scbLone, (.code 2), .zero, .none, false⟩, c)
  | .cmd c => some (⟨.any, .v, (.upTo 3), .zero, .none, false⟩, c)
  | .jwait c => some (⟨.any, .scbl, .zero, .zero, .none, false⟩, c)
  | .jpoll c => some (⟨.any, .scbl, .zero, .zero, .none, false⟩, c)
  | .topk c => some (⟨.any, .s, .zero, .zero, .none, false⟩, c)
  | .sfuRcp c => some (⟨.any, .all, (.code 0), .lane, .none, false⟩, c)
  | .sfuSqrt c => some (⟨.any, .all, (.code 1), .lane, .none, false⟩, c)
  | .sfuRsqrt c => some (⟨.any, .all, (.code 2), .lane, .none, false⟩, c)
  | .sfuExp2 c => some (⟨.any, .all, (.code 3), .lane, .none, false⟩, c)
  | .sfuLog2 c => some (⟨.any, .all, (.code 4), .lane, .none, false⟩, c)
  | .sfuSinpi c => some (⟨.any, .all, (.code 5), .lane, .none, false⟩, c)
  | .sfuCospi c => some (⟨.any, .all, (.code 6), .lane, .none, false⟩, c)
  | .sfuTanh c => some (⟨.any, .all, (.code 7), .lane, .none, false⟩, c)
  | .enc8 c => some (⟨.any, .all, (.upTo 1), .lane, .none, false⟩, c)
  | .ltab c => some (⟨.zero, .scb, .zero, .zero, .none, false⟩, c)
  | .samp c => some (⟨.any, .scb, .zero, .zero, .none, false⟩, c)
  | .csrr c => some (⟨.any, .v, .any, .any, .csr, false⟩, c)
  | .csrw c => some (⟨.any, .csrw, .any, .any, .csr, false⟩, c)
  | .resume c => some (⟨.zero, .scbl, .zero, .zero, .none, false⟩, c)
  | .tinvPage c => some (⟨.zero, .scb, (.code 0), .zero, .none, false⟩, c)
  | .tinvCtx c => some (⟨.zero, .none, (.code 1), .zero, .none, false⟩, c)
  | .tinvPart c => some (⟨.zero, .none, (.code 2), .zero, .none, false⟩, c)
  | .ctxsw c => some (⟨.scope3, .scbLone, .zero, .zero, .none, false⟩, c)
  | .rollback c => some (⟨.zero, .scb, .zero, .zero, .none, false⟩, c)
  | .hmset c => some (⟨.zero, .scbLone, .zero, .zero, .none, false⟩, c)
  | _ => none

/-- The A-word an instruction is, with its form (R189, R190). -/
def Instr.aword : Instr → Option (AForm × AWord)
  | .nopA w => some (.nop, w)
  | .add w => some (.binary, w)
  | .sub w => some (.binary, w)
  | .mul w => some (.binary, w)
  | .mulh w => some (.binary, w)
  | .mulhu w => some (.binary, w)
  | .mad w => some (.binary, w)
  | .min w => some (.binary, w)
  | .max w => some (.binary, w)
  | .minu w => some (.binary, w)
  | .maxu w => some (.binary, w)
  | .and w => some (.binary, w)
  | .or w => some (.binary, w)
  | .xor w => some (.binary, w)
  | .andn w => some (.binary, w)
  | .shl w => some (.binary, w)
  | .shr w => some (.binary, w)
  | .sar w => some (.binary, w)
  | .rot w => some (.binary, w)
  | .popc w => some (.unary 0, w)
  | .clz w => some (.unary 1, w)
  | .ctz w => some (.unary 2, w)
  | .neg w => some (.unary 3, w)
  | .not w => some (.unary 4, w)
  | .abs w => some (.unary 5, w)
  | .brev w => some (.unary 6, w)
  | .lid w => some (.unary 7, w)
  | .cmp w => some (.compare 5, w)
  | .cmpu w => some (.compare 5, w)
  | .fadd w => some (.binary, w)
  | .fsub w => some (.binary, w)
  | .fmul w => some (.binary, w)
  | .ffma w => some (.binary, w)
  | .fmin w => some (.binary, w)
  | .fmax w => some (.binary, w)
  | .fneg w => some (.unary 0, w)
  | .fabs w => some (.unary 1, w)
  | .ffloor w => some (.unary 2, w)
  | .fceil w => some (.unary 3, w)
  | .ftrunc w => some (.unary 4, w)
  | .fround w => some (.unary 5, w)
  | .frint w => some (.unary 6, w)
  | .fclass w => some (.unary 7, w)
  | .fsgn w => some (.unary 8, w)
  | .fcmp w => some (.compare 7, w)
  | .cvtFtoi w => some (.unary 0, w)
  | .cvtFtou w => some (.unary 1, w)
  | .cvtFtoiz w => some (.unary 2, w)
  | .cvtFtouz w => some (.unary 3, w)
  | .cvtItof w => some (.unary 4, w)
  | .cvtUtof w => some (.unary 5, w)
  | .cvtFtoh w => some (.unary 6, w)
  | .cvtFtob w => some (.unary 7, w)
  | .cvtHtof w => some (.unary 8, w)
  | .cvtBtof w => some (.unary 9, w)
  | .cvtFtol w => some (.unaryS 10, w)
  | .cvtLtof w => some (.unaryS 11, w)
  | .sel w => some (.select, w)
  | .mov w => some (.move, w)
  | .bcast w => some (.broadcast, w)
  | .shuf w => some (.shuffle, w)
  | .lrot w => some (.rotate, w)
  | .redAdd w => some (.reduce 0, w)
  | .redAnd w => some (.reduce 1, w)
  | .redOr w => some (.reduce 2, w)
  | .redXor w => some (.reduce 3, w)
  | .redMin w => some (.reduce 4, w)
  | .redMax w => some (.reduce 5, w)
  | .redMinu w => some (.reduce 6, w)
  | .redMaxu w => some (.reduce 7, w)
  | .redFadd w => some (.reduce 8, w)
  | .redFmin w => some (.reduce 9, w)
  | .redFmax w => some (.reduce 10, w)
  | .scanAdd w => some (.reduce 0, w)
  | .scanAnd w => some (.reduce 1, w)
  | .scanOr w => some (.reduce 2, w)
  | .scanXor w => some (.reduce 3, w)
  | .scanMin w => some (.reduce 4, w)
  | .scanMax w => some (.reduce 5, w)
  | .scanMinu w => some (.reduce 6, w)
  | .scanMaxu w => some (.reduce 7, w)
  | .scanFadd w => some (.reduce 8, w)
  | .scanFmin w => some (.reduce 9, w)
  | .scanFmax w => some (.reduce 10, w)
  | .kopAnd w => some (.kop 0, w)
  | .kopOr w => some (.kop 1, w)
  | .kopXor w => some (.kop 2, w)
  | .kopAndn w => some (.kop 3, w)
  | .kopNot w => some (.kop 4, w)
  | .kopMov w => some (.kop 5, w)
  | .kopLow w => some (.kop 6, w)
  | .addsat w => some (.binary, w)
  | .subsat w => some (.binary, w)
  | .dp4 w => some (.binary, w)
  | .fdp2 w => some (.binary, w)
  | _ => none

/-- The sampler word an instruction is, with the fields it uses (R322): D, A, B, IMM. -/
def Instr.sword : Instr → Option (Bool × Bool × Bool × Bool × SWord)
  | .samplerHalt w => some (false, false, false, false, w)
  | .samplerLdi w => some (true, false, false, true, w)
  | .samplerAdd w => some (true, true, true, false, w)
  | .samplerSub w => some (true, true, true, false, w)
  | .samplerMulq w => some (true, true, true, false, w)
  | .samplerXfer w => some (false, true, false, true, w)
  | .samplerBz w => some (false, true, false, true, w)
  | .samplerBnz w => some (false, true, false, true, w)
  | .samplerLdc w => some (true, false, false, true, w)
  | .samplerStc w => some (false, true, false, true, w)
  | .samplerLdr w => some (true, false, false, true, w)
  | .samplerLogit w => some (true, true, true, false, w)
  | .samplerKeep w => some (false, true, true, false, w)
  | .samplerGmask w => some (false, false, false, false, w)
  | .samplerPen w => some (false, true, false, false, w)
  | .samplerScale w => some (false, true, false, false, w)
  | .samplerExpw w => some (true, false, false, false, w)
  | .samplerNucl w => some (true, true, true, false, w)
  | .samplerRand w => some (true, false, false, false, w)
  | .samplerPick w => some (true, true, true, false, w)
  | .samplerFind w => some (true, true, false, false, w)
  | .samplerEmit w => some (false, true, false, false, w)
  | _ => none


/-- The limits of a sampler word's immediate (R322, R326). -/
def Instr.immOk : Instr → Bool
  | .samplerLdc w => w.imm.toNat ≤ 63
  | .samplerStc w => w.imm.toNat ≤ 63
  | .samplerLdr w => w.imm.toNat ≤ 4
  | .samplerXfer w => w.imm.toNat ≤ 1
  | _ => true

/-- The limits of an engine command's counts (R267-R276); what acceptance rejects beyond them is the
meaning's (R400). -/
def Instr.commandOk : Instr → Bool
  | .mma _ c => c.n < 16 && 1 ≤ c.m && c.m ≤ 128 && 1 ≤ c.nn && c.nn ≤ 128 && c.start < 128 &&
      1 ≤ c.k && c.k ≤ 65536
  | .drainCommand _ c => c.n < 16 && c.r0 < 32 && 1 ≤ c.rows && c.rows ≤ 32
  | .merr _ c => c.n < 16
  | .gather2d _ c => 1 ≤ c.pw && c.pw ≤ 128 && 1 ≤ c.ph && c.ph ≤ 128
  | _ => true

/-- Well-formedness of an instruction: its fields are ones its entry admits. An event's arguments are
the machine's own and always well formed. -/
def Instr.wf (i : Instr) : Bool :=
  match i.cword, i.aword, i.sword with
  | some (f, c), _, _ => f.ok c
  | _, some (f, w), _ => f.ok w
  | _, _, some (ud, ua, ub, ui, w) =>
    (ud || w.d == 0) && (ua || w.a == 0) && (ub || w.b == 0) && (ui || w.imm == 0) && i.immOk
  | _, _, _ => i.commandOk

end Sys2Proof
end

