-- ==== Sys2Proof/Decode.lean ====
section
/-! DEFINITION. From words to instructions and back: bundles (R178-R195), sampler words (R322) and engine
commands (R257-R278). Decoding is total; what it refuses it names by the event of R183. -/

namespace Sys2Proof

/-- The kind a tag stands for (R186). -/
def kindOf (t : BitVec 2) : Kind :=
  match t.toNat with
  | 0 => .v
  | 1 => .s
  | 2 => .cb
  | _ => .lit

def Kind.tag : Kind → BitVec 2
  | .v => 0
  | .s => 1
  | .cb => 2
  | .lit => 3

/-- The fields of a C-word (R184). -/
def cFields (w : W32) (e : Ext) : CWord :=
  { ext := e, la := w.extractLsb' 19 4, d := w.extractLsb' 14 5, ta := kindOf (w.extractLsb' 12 2),
    a := w.extractLsb' 7 5, b := w.extractLsb' 2 5, msk := w.extractLsb' 0 2 }

/-- The fields of an A-word (R189). -/
def aFields (w : W32) (e : Ext) : AWord :=
  { ext := e, fzi := w.getLsbD 23, fzo := w.getLsbD 22, d := w.extractLsb' 17 5,
    tb := kindOf (w.extractLsb' 15 2), b := w.extractLsb' 10 5, ta := kindOf (w.extractLsb' 8 2),
    a := w.extractLsb' 3 5, k := w.extractLsb' 0 3 }

/-- The fields of a sampler word (R322). -/
def sFields (w : W32) : SWord :=
  { d := w.extractLsb' 23 4, a := w.extractLsb' 19 4, b := w.extractLsb' 15 4, imm := w.extractLsb' 0 15 }

/-- The C-word opcode map (R193), with the function codes of the coded opcodes. `none` is a reserved
OP; `false` a reserved function code, with the first function of its opcode. -/
def cInstr (op : Nat) (c : CWord) : Option (Instr × Bool) :=
  match op with
  | 0x00 => some (.nopC c, true)
  | 0x01 => some (.jmp c, true)
  | 0x02 => some (.jal c, true)
  | 0x03 => some (.jr c, true)
  | 0x04 => some (.bz c, true)
  | 0x05 => some (.bnz c, true)
  | 0x06 => some (.bkany c, true)
  | 0x07 => some (.bkall c, true)
  | 0x08 => some (.loop c, true)
  | 0x09 => some (.endStrand c, true)
  | 0x0A => some (.fork c, true)
  | 0x0B => some (.join c, true)
  | 0x0C => some (.jend c, true)
  | 0x0D => some (.migr c, true)
  | 0x0E => some (.yield c, true)
  | 0x0F => some (.trap c, true)
  | 0x10 => some (.send c, true)
  | 0x11 => some (.spawn c, true)
  | 0x12 => some (.bar c, true)
  | 0x13 => some (.mon c, true)
  | 0x14 => some (.waitm c, true)
  | 0x15 => some (.snap c, true)
  | 0x16 => some (.solicit c, true)
  | 0x17 => some (.cwait c, true)
  | 0x18 =>
    match c.b.toNat with
    | 0 => some (.catIns c, true)
    | 1 => some (.catDel c, true)
    | 2 => some (.catGive c, true)
    | _ => some (.catIns c, false)
  | 0x19 =>
    match c.b.toNat with
    | 0 => some (.replyCen c, true)
    | 1 => some (.replyMsg c, true)
    | _ => some (.replyCen c, false)
  | 0x20 => some (.ldB c, true)
  | 0x21 => some (.ldH c, true)
  | 0x22 => some (.ldW c, true)
  | 0x23 => some (.ldD c, true)
  | 0x24 => some (.ldBu c, true)
  | 0x25 => some (.ldHu c, true)
  | 0x26 => some (.ldWu c, true)
  | 0x27 => some (.stB c, true)
  | 0x28 => some (.stH c, true)
  | 0x29 => some (.stW c, true)
  | 0x2A => some (.stD c, true)
  | 0x2B => some (.vldB c, true)
  | 0x2C => some (.vldH c, true)
  | 0x2D => some (.vldW c, true)
  | 0x2E => some (.vstB c, true)
  | 0x2F => some (.vstH c, true)
  | 0x30 => some (.vstW c, true)
  | 0x31 => some (.vgat c, true)
  | 0x32 => some (.vsca c, true)
  | 0x33 => some (.ldf c, true)
  | 0x34 => some (.ldfc c, true)
  | 0x35 => some (.stf c, true)
  | 0x36 => some (.stnt c, true)
  | 0x37 => some (.vstnt c, true)
  | 0x38 => some (.pref c, true)
  | 0x39 => some (.stmx c, true)
  | 0x40 =>
    match c.b.toNat with
    | 0 => some (.atomAdd c, true)
    | 1 => some (.atomAnd c, true)
    | 2 => some (.atomOr c, true)
    | 3 => some (.atomXor c, true)
    | 4 => some (.atomMin c, true)
    | 5 => some (.atomMax c, true)
    | 6 => some (.atomMinu c, true)
    | 7 => some (.atomMaxu c, true)
    | 8 => some (.atomSwap c, true)
    | 9 => some (.atomCas c, true)
    | 10 => some (.atomFadd c, true)
    | _ => some (.atomAdd c, false)
  | 0x41 =>
    match c.b.toNat with
    | 0 => some (.vatomAdd c, true)
    | 1 => some (.vatomAnd c, true)
    | 2 => some (.vatomOr c, true)
    | 3 => some (.vatomXor c, true)
    | 4 => some (.vatomMin c, true)
    | 5 => some (.vatomMax c, true)
    | 6 => some (.vatomMinu c, true)
    | 7 => some (.vatomMaxu c, true)
    | 8 => some (.vatomSwap c, true)
    | 10 => some (.vatomFadd c, true)
    | _ => some (.vatomAdd c, false)
  | 0x42 => some (.fence c, true)
  | 0x43 => some (.drain c, true)
  | 0x44 => some (.wbr c, true)
  | 0x45 =>
    match c.b.toNat with
    | 0 => some (.invL1 c, true)
    | 1 => some (.invHome c, true)
    | _ => some (.invL1 c, false)
  | 0x46 =>
    match c.b.toNat with
    | 0 => some (.wmaskSet c, true)
    | 1 => some (.wmaskClr c, true)
    | 2 => some (.wmaskPut c, true)
    | _ => some (.wmaskSet c, false)
  | 0x50 => some (.cmd c, true)
  | 0x51 => some (.jwait c, true)
  | 0x52 => some (.jpoll c, true)
  | 0x53 => some (.topk c, true)
  | 0x54 =>
    match c.b.toNat with
    | 0 => some (.sfuRcp c, true)
    | 1 => some (.sfuSqrt c, true)
    | 2 => some (.sfuRsqrt c, true)
    | 3 => some (.sfuExp2 c, true)
    | 4 => some (.sfuLog2 c, true)
    | 5 => some (.sfuSinpi c, true)
    | 6 => some (.sfuCospi c, true)
    | 7 => some (.sfuTanh c, true)
    | _ => some (.sfuRcp c, false)
  | 0x55 => some (.enc8 c, true)
  | 0x56 => some (.ltab c, true)
  | 0x57 => some (.samp c, true)
  | 0x60 => some (.csrr c, true)
  | 0x61 => some (.csrw c, true)
  | 0x62 => some (.resume c, true)
  | 0x63 =>
    match c.b.toNat with
    | 0 => some (.tinvPage c, true)
    | 1 => some (.tinvCtx c, true)
    | 2 => some (.tinvPart c, true)
    | _ => some (.tinvPage c, false)
  | 0x64 => some (.ctxsw c, true)
  | 0x65 => some (.rollback c, true)
  | 0x66 => some (.hmset c, true)
  | _ => none

/-- The A-word opcode map (R194), with the function codes of R190, R219, R222, R232, R234, R237. -/
def aInstr (op : Nat) (w : AWord) : Option (Instr × Bool) :=
  match op with
  | 0x00 => some (.nopA w, true)
  | 0x01 => some (.add w, true)
  | 0x02 => some (.sub w, true)
  | 0x03 => some (.mul w, true)
  | 0x04 => some (.mulh w, true)
  | 0x05 => some (.mulhu w, true)
  | 0x06 => some (.mad w, true)
  | 0x07 => some (.min w, true)
  | 0x08 => some (.max w, true)
  | 0x09 => some (.minu w, true)
  | 0x0A => some (.maxu w, true)
  | 0x0B => some (.and w, true)
  | 0x0C => some (.or w, true)
  | 0x0D => some (.xor w, true)
  | 0x0E => some (.andn w, true)
  | 0x0F => some (.shl w, true)
  | 0x10 => some (.shr w, true)
  | 0x11 => some (.sar w, true)
  | 0x12 => some (.rot w, true)
  | 0x13 =>
    match w.b.toNat with
    | 0 => some (.popc w, true)
    | 1 => some (.clz w, true)
    | 2 => some (.ctz w, true)
    | 3 => some (.neg w, true)
    | 4 => some (.not w, true)
    | 5 => some (.abs w, true)
    | 6 => some (.brev w, true)
    | 7 => some (.lid w, true)
    | _ => some (.popc w, false)
  | 0x14 => some (.cmp w, true)
  | 0x15 => some (.cmpu w, true)
  | 0x16 => some (.fadd w, true)
  | 0x17 => some (.fsub w, true)
  | 0x18 => some (.fmul w, true)
  | 0x19 => some (.ffma w, true)
  | 0x1A => some (.fmin w, true)
  | 0x1B => some (.fmax w, true)
  | 0x1C =>
    match w.b.toNat with
    | 0 => some (.fneg w, true)
    | 1 => some (.fabs w, true)
    | 2 => some (.ffloor w, true)
    | 3 => some (.fceil w, true)
    | 4 => some (.ftrunc w, true)
    | 5 => some (.fround w, true)
    | 6 => some (.frint w, true)
    | 7 => some (.fclass w, true)
    | 8 => some (.fsgn w, true)
    | _ => some (.fneg w, false)
  | 0x1D => some (.fcmp w, true)
  | 0x1E =>
    match w.b.toNat with
    | 0 => some (.cvtFtoi w, true)
    | 1 => some (.cvtFtou w, true)
    | 2 => some (.cvtFtoiz w, true)
    | 3 => some (.cvtFtouz w, true)
    | 4 => some (.cvtItof w, true)
    | 5 => some (.cvtUtof w, true)
    | 6 => some (.cvtFtoh w, true)
    | 7 => some (.cvtFtob w, true)
    | 8 => some (.cvtHtof w, true)
    | 9 => some (.cvtBtof w, true)
    | 10 => some (.cvtFtol w, true)
    | 11 => some (.cvtLtof w, true)
    | _ => some (.cvtFtoi w, false)
  | 0x1F => some (.sel w, true)
  | 0x20 => some (.mov w, true)
  | 0x21 => some (.bcast w, true)
  | 0x22 => some (.shuf w, true)
  | 0x23 => some (.lrot w, true)
  | 0x24 =>
    match w.b.toNat with
    | 0 => some (.redAdd w, true)
    | 1 => some (.redAnd w, true)
    | 2 => some (.redOr w, true)
    | 3 => some (.redXor w, true)
    | 4 => some (.redMin w, true)
    | 5 => some (.redMax w, true)
    | 6 => some (.redMinu w, true)
    | 7 => some (.redMaxu w, true)
    | 8 => some (.redFadd w, true)
    | 9 => some (.redFmin w, true)
    | 10 => some (.redFmax w, true)
    | _ => some (.redAdd w, false)
  | 0x25 =>
    match w.b.toNat with
    | 0 => some (.scanAdd w, true)
    | 1 => some (.scanAnd w, true)
    | 2 => some (.scanOr w, true)
    | 3 => some (.scanXor w, true)
    | 4 => some (.scanMin w, true)
    | 5 => some (.scanMax w, true)
    | 6 => some (.scanMinu w, true)
    | 7 => some (.scanMaxu w, true)
    | 8 => some (.scanFadd w, true)
    | 9 => some (.scanFmin w, true)
    | 10 => some (.scanFmax w, true)
    | _ => some (.scanAdd w, false)
  | 0x26 =>
    match w.b.toNat with
    | 0 => some (.kopAnd w, true)
    | 1 => some (.kopOr w, true)
    | 2 => some (.kopXor w, true)
    | 3 => some (.kopAndn w, true)
    | 4 => some (.kopNot w, true)
    | 5 => some (.kopMov w, true)
    | 6 => some (.kopLow w, true)
    | _ => some (.kopAnd w, false)
  | 0x27 => some (.addsat w, true)
  | 0x28 => some (.subsat w, true)
  | 0x29 => some (.dp4 w, true)
  | 0x2A => some (.fdp2 w, true)
  | _ => none

/-- The sampler's opcode map (R322). -/
def sInstr (op : Nat) (w : SWord) : Option Instr :=
  match op with
  | 0x00 => some (.samplerHalt w)
  | 0x01 => some (.samplerLdi w)
  | 0x02 => some (.samplerAdd w)
  | 0x03 => some (.samplerSub w)
  | 0x04 => some (.samplerMulq w)
  | 0x05 => some (.samplerXfer w)
  | 0x06 => some (.samplerBz w)
  | 0x07 => some (.samplerBnz w)
  | 0x08 => some (.samplerLdc w)
  | 0x09 => some (.samplerStc w)
  | 0x0A => some (.samplerLdr w)
  | 0x0B => some (.samplerLogit w)
  | 0x0C => some (.samplerKeep w)
  | 0x0D => some (.samplerGmask w)
  | 0x0E => some (.samplerPen w)
  | 0x0F => some (.samplerScale w)
  | 0x10 => some (.samplerExpw w)
  | 0x11 => some (.samplerNucl w)
  | 0x12 => some (.samplerRand w)
  | 0x13 => some (.samplerPick w)
  | 0x14 => some (.samplerFind w)
  | 0x15 => some (.samplerEmit w)
  | _ => none

/-- Decoding one C-word. -/
def decodeC (w : W32) (e : Ext) : Option (Instr × Bool) :=
  cInstr (w.extractLsb' 23 7).toNat (cFields w e)

/-- Decoding one A-word. -/
def decodeA (w : W32) (e : Ext) : Option (Instr × Bool) :=
  aInstr (w.extractLsb' 24 6).toNat (aFields w e)

/-- Decoding one sampler word; an unassigned OP is `none` (R326). -/
def decodeSampler (w : W32) : Option Instr :=
  sInstr (w.extractLsb' 27 5).toNat (sFields w)

/-- A register an instruction writes, for the check of R181. -/
inductive Dest where
  | v (n : BitVec 5) | s (n : BitVec 5) | k (n : BitVec 3)
  deriving DecidableEq, Repr

/-- The s or v destination of the C-words whose tag of A decides (R238, R239). -/
def CWord.laneDest (c : CWord) : Dest := if c.ta = .v then .v c.d else .s c.d

/-- The destination R190 selects. -/
def AWord.dest (w : AWord) : Dest := if w.vDest then .v w.d else .s w.d

/-- The registers an A-word of form `f` writes (R190). -/
def AForm.writes (f : AForm) (w : AWord) : List Dest :=
  match f with
  | .nop => []
  | .binary | .select => [w.dest]
  | .unary _ | .unaryS _ | .move => [if w.ta = .v then .v w.d else .s w.d]
  | .compare _ | .kop _ => [.k (w.d.setWidth 3)]
  | .broadcast | .shuffle | .rotate => [.v w.d]
  | .reduce _ => [.s w.d]

/-- A further register of a group from s[D] on (R397): s[D + k], where there is one. -/
def groupDest (d : BitVec 5) (k : Nat) : List Dest :=
  if d.toNat + k < 32 then [.s (d + BitVec.ofNat 5 k)] else []

/-- The registers an instruction's word writes. -/
def Instr.writes (i : Instr) : List Dest :=
  match i with
  | .jal c | .jr c | .loop c | .fork c | .waitm c | .spawn c | .snap c | .solicit c
  | .catIns c | .catDel c | .catGive c
  | .ldB c | .ldH c | .ldW c | .ldD c | .ldBu c | .ldHu c | .ldWu c | .ldf c | .ldfc c
  | .atomAdd c | .atomAnd c | .atomOr c | .atomXor c | .atomMin c | .atomMax c | .atomMinu c
  | .atomMaxu c | .atomSwap c | .atomCas c | .atomFadd c
  | .cmd c | .jwait c | .jpoll c | .topk c | .samp c | .csrr c => [.s c.d]
  | .cwait c => .s c.d :: groupDest c.d 1
  | .stmx c => groupDest c.d 2 ++ groupDest c.d 3
  | .vldB c | .vldH c | .vldW c | .vgat c
  | .vatomAdd c | .vatomAnd c | .vatomOr c | .vatomXor c | .vatomMin c | .vatomMax c
  | .vatomMinu c | .vatomMaxu c | .vatomSwap c | .vatomFadd c => [.v c.d]
  | .sfuRcp c | .sfuSqrt c | .sfuRsqrt c | .sfuExp2 c | .sfuLog2 c | .sfuSinpi c | .sfuCospi c
  | .sfuTanh c | .enc8 c => [c.laneDest]
  | .redAdd w | .redAnd w | .redOr w | .redXor w | .redMin w | .redMax w | .redMinu w | .redMaxu w
  | .redFadd w | .redFmin w | .redFmax w => [.s w.d]
  | .scanAdd w | .scanAnd w | .scanOr w | .scanXor w | .scanMin w | .scanMax w | .scanMinu w
  | .scanMaxu w | .scanFadd w | .scanFmin w | .scanFmax w => [.v w.d]
  | i =>
    match i.aword with
    | some (f, w) => f.writes w
    | none => []

/-- Whether a lone bundle's word 0 takes word 1 as an operand (R182, R187, R189). -/
def Instr.takesWord1 (i : Instr) : Bool :=
  match i with
  | .lid _ => false
  | i =>
    match i.cword, i.aword with
    | some (f, c), _ => f.takesWord1 c.ta
    | _, some (f, w) => f.takesWord1 w.ta w.tb
    | _, _ => false

/-- A decoded bundle (R179). -/
inductive Bundle where
  | single (i : Instr)
  | pair (c a : Instr)
  deriving DecidableEq, Repr

/-- One word alone in its bundle: R182 is checked before a reserved function code (R183). -/
def decodeLone (w1 : W32) : Option (Instr × Bool) → Except EventCode Bundle
  | none => .error .illegalOpcode
  | some (i, known) =>
    if w1 != 0 && !i.takesWord1 then .error .illegalBundle
    else if known then .ok (.single i) else .error .reservedField

/-- A pair of words: R181 is checked before a reserved function code (R183). -/
def decodePair : Option (Instr × Bool) → Option (Instr × Bool) → Except EventCode Bundle
  | some (c, kc), some (a, ka) =>
    if c.writes.any (fun d => a.writes.contains d) then .error .illegalBundle
    else if kc && ka then .ok (.pair c a) else .error .reservedField
  | _, _ => .error .illegalOpcode

/-- Decoding a bundle: the form (R179), then the words (R183). -/
def decodeBundle (w0 w1 : W32) : Except EventCode Bundle :=
  match (w0.extractLsb' 30 2).toNat with
  | 0 =>
    if w1.extractLsb' 30 2 = 1 then decodePair (decodeC w0 .paired) (decodeA w1 .paired)
    else .error .illegalBundle
  | 1 => .error .illegalBundle
  | 2 => decodeLone w1 (decodeC w0 (.lone w1))
  | _ => decodeLone w1 (decodeA w0 (.lone w1))

/-- The `j`-th word of a command. -/
def word (ws : List W32) (j : Nat) : Nat := (ws.getD j 0).toNat

/-- Two words as a 64-bit value, low word first. -/
def word64 (ws : List W32) (j : Nat) : Word := BitVec.ofNat 64 (word ws j + word ws (j + 1) * 2 ^ 32)

/-- The words of a command from `lo` to `hi` are zero. -/
def zeros (ws : List W32) (lo hi : Nat) : Bool := (List.range (hi + 1 - lo)).all fun j => word ws (lo + j) == 0

/-- What word 0 of a command adds to its context (R257). -/
def CmdCtx.withWord0 (x : CmdCtx) (w0 : Nat) : CmdCtx :=
  { x with node := Bits.get w0 15 0, wempty := w0.testBit 16, fence := w0.testBit 17 }

/-- Decoding an engine command (R257, R258 and its layout). `none` is a reserved opcode or a field
that its layout wants zero: COMMAND_FORMAT at acceptance (R259). -/
def decodeCommand (x0 : CmdCtx) (ws : List W32) : Option Instr :=
  let w := word ws
  let f (j hi lo : Nat) : Nat := Bits.get (w j) hi lo
  let x := x0.withWord0 (w 0)
  if f 0 19 18 != 0 then none
  else
    match f 0 23 20, f 0 31 24 with
    | 0, 0x01 =>
      if f 1 31 4 == 0 && f 2 31 27 == 0 && zeros ws 3 15 then
        some (.zcfg x (BitVec.ofNat 4 (w 1)) (BitVec.ofNat 27 (w 2)))
      else none
    | 0, 0x02 =>
      if f 1 31 16 == 0 && zeros ws 2 15 then some (.zzero x (BitVec.ofNat 16 (w 1))) else none
    | 0, 0x03 =>
      if f 1 31 29 == 0 && f 2 31 16 == 0 && zeros ws 14 15 then
        some (.mma x { n := f 1 3 0, m := f 1 10 4 + 1, nn := f 1 17 11 + 1,
                       esza := BitVec.ofNat 2 (f 1 19 18), eszb := BitVec.ofNat 2 (f 1 21 20),
                       start := f 1 28 22, k := f 2 15 0 + 1, a := word64 ws 3,
                       astr := BitVec.ofNat 32 (w 5), b := word64 ws 6, bstr := BitVec.ofNat 32 (w 8),
                       asc := word64 ws 9, ascstr := BitVec.ofNat 16 (f 11 15 0),
                       bsc := word64 ws 12, bscstr := BitVec.ofNat 16 (f 11 31 16) })
      else none
    | 0, 0x04 =>
      if f 1 31 16 == 0 && zeros ws 8 15 then
        some (.drainCommand x { n := f 1 3 0, r0 := f 1 8 4, rows := f 1 13 9 + 1,
                                raw := (w 1).testBit 14, clr := (w 1).testBit 15,
                                entry := BitVec.ofNat 32 (w 2), dst := word64 ws 3,
                                dstr := BitVec.ofNat 32 (w 5), arg := word64 ws 6 })
      else none
    | 0, 0x05 =>
      if f 1 31 4 == 0 && zeros ws 6 15 then
        some (.merr x { n := f 1 3 0, count := BitVec.ofNat 32 (w 2), list := word64 ws 3,
                        base := BitVec.ofNat 32 (w 5) })
      else none
    | 1, 0x01 =>
      if w 4 == 0 && zeros ws 7 15 then
        some (.copy1d x { bytes := BitVec.ofNat 32 (w 1), src := word64 ws 2, dst := word64 ws 5 })
      else none
    | 1, 0x02 =>
      if zeros ws 8 15 then
        some (.copy2d x { width := BitVec.ofNat 16 (f 1 15 0), height := BitVec.ofNat 16 (f 1 31 16),
                          src := word64 ws 2, fpitch := BitVec.ofNat 32 (w 4), dst := word64 ws 5,
                          tpitch := BitVec.ofNat 32 (w 7) })
      else none
    | 1, 0x04 =>
      if zeros ws 2 4 && w 7 == 0 && zeros ws 10 15 then
        some (.fillCmd x { bytes := BitVec.ofNat 32 (w 1), dst := word64 ws 5, pattern := word64 ws 8 })
      else none
    | 1, 0x03 =>
      if zeros ws 12 15 then
        some (.gather2d x { pw := f 1 6 0 + 1, ph := f 1 13 7 + 1, esz := BitVec.ofNat 2 (f 1 15 14),
                            count := BitVec.ofNat 16 (f 1 31 16), image := word64 ws 2,
                            ipitch := BitVec.ofNat 32 (w 4), dst := word64 ws 5,
                            tstr := BitVec.ofNat 32 (w 7), iw := BitVec.ofNat 16 (f 8 15 0),
                            ih := BitVec.ofNat 16 (f 8 31 16), list := word64 ws 9,
                            pad := BitVec.ofNat 32 (w 11) })
      else none
    | 2, 0x01 =>
      if f 1 31 4 == 0 && zeros ws 9 15 then
        some (.gatherCmd x { esz := BitVec.ofNat 2 (f 1 1 0), shift := BitVec.ofNat 2 (f 1 3 2),
                             lmask := BitVec.ofNat 32 (w 2), base := word64 ws 3, idx := word64 ws 5,
                             dst := word64 ws 7 })
      else none
    | 3, 0x01 =>
      if f 1 31 2 == 0 && f 8 31 24 == 0 && f 9 31 16 == 0 && zeros ws 14 15 then
        some (.decodeCmd x { ofmt := BitVec.ofNat 2 (f 1 1 0), input := word64 ws 2,
                             inLen := BitVec.ofNat 32 (w 4), out := word64 ws 5,
                             outCap := BitVec.ofNat 32 (w 7), budget := BitVec.ofNat 16 (f 8 15 0),
                             rtype := BitVec.ofNat 8 (f 8 23 16), rcls := BitVec.ofNat 16 (f 9 15 0),
                             rkey := word64 ws 12 ++ word64 ws 10 })
      else none
    | _, _ => none

/-- The engine a command names (R257, R258). -/
def commandEngine (ws : List W32) : Nat := Bits.get (word ws 0) 23 20

/-- The words a lone or paired word is laid out with when it is fetched by itself: a paired C-word stands
beside `nop.a`, a paired A-word beside `nop.c` (R179, R195). -/
def tableBundle (w : W32) : W32 × W32 :=
  if w.extractLsb' 30 2 = 0 then (w, 0x40000000)
  else if w.extractLsb' 30 2 = 1 then (0, w)
  else (w, 0)

/-- The instruction of a bundle that the table's word stands for. -/
def Bundle.tableInstr (w : W32) : Bundle → Instr
  | .single i => i
  | .pair c a => if w.extractLsb' 30 2 = 1 then a else c

/-- The reading of a table word as a bundle word. -/
def decodeTableBundle (w : W32) : Option Instr :=
  match decodeBundle (tableBundle w).1 (tableBundle w).2 with
  | .ok b => some (b.tableInstr w)
  | .error _ => none

/-- Whether a table word is read as a sampler word: sampler words and bundle words share their bits. A word that
decodes as a bundle word is that, unless it has LONE = 1, is ill-formed so, and well-formed as a sampler word (log
entry 11). -/
def tableIsSampler (w : W32) : Bool :=
  match decodeTableBundle w, decodeSampler w with
  | some i, some j => w.getLsbD 31 && !i.wf && j.wf
  | none, some _ => true
  | _, none => false

/-- The instruction of a table word (log entry 11). -/
def decodeTableWord (nbits w : Nat) : Option Instr :=
  if nbits = 32 then
    if tableIsSampler (BitVec.ofNat 32 w) then decodeSampler (BitVec.ofNat 32 w)
    else decodeTableBundle (BitVec.ofNat 32 w)
  else none

/-- The OP of a C-word (R193). -/
def Instr.cOp : Instr → Nat
  | .nopC _ => 0x00
  | .jmp _ => 0x01
  | .jal _ => 0x02
  | .jr _ => 0x03
  | .bz _ => 0x04
  | .bnz _ => 0x05
  | .bkany _ => 0x06
  | .bkall _ => 0x07
  | .loop _ => 0x08
  | .endStrand _ => 0x09
  | .fork _ => 0x0A
  | .join _ => 0x0B
  | .jend _ => 0x0C
  | .migr _ => 0x0D
  | .yield _ => 0x0E
  | .trap _ => 0x0F
  | .send _ => 0x10
  | .spawn _ => 0x11
  | .bar _ => 0x12
  | .mon _ => 0x13
  | .waitm _ => 0x14
  | .snap _ => 0x15
  | .solicit _ => 0x16
  | .cwait _ => 0x17
  | .catIns _ => 0x18
  | .catDel _ => 0x18
  | .catGive _ => 0x18
  | .replyCen _ => 0x19
  | .replyMsg _ => 0x19
  | .ldB _ => 0x20
  | .ldH _ => 0x21
  | .ldW _ => 0x22
  | .ldD _ => 0x23
  | .ldBu _ => 0x24
  | .ldHu _ => 0x25
  | .ldWu _ => 0x26
  | .stB _ => 0x27
  | .stH _ => 0x28
  | .stW _ => 0x29
  | .stD _ => 0x2A
  | .vldB _ => 0x2B
  | .vldH _ => 0x2C
  | .vldW _ => 0x2D
  | .vstB _ => 0x2E
  | .vstH _ => 0x2F
  | .vstW _ => 0x30
  | .vgat _ => 0x31
  | .vsca _ => 0x32
  | .ldf _ => 0x33
  | .ldfc _ => 0x34
  | .stf _ => 0x35
  | .stnt _ => 0x36
  | .vstnt _ => 0x37
  | .pref _ => 0x38
  | .stmx _ => 0x39
  | .atomAdd _ => 0x40
  | .atomAnd _ => 0x40
  | .atomOr _ => 0x40
  | .atomXor _ => 0x40
  | .atomMin _ => 0x40
  | .atomMax _ => 0x40
  | .atomMinu _ => 0x40
  | .atomMaxu _ => 0x40
  | .atomSwap _ => 0x40
  | .atomCas _ => 0x40
  | .atomFadd _ => 0x40
  | .vatomAdd _ => 0x41
  | .vatomAnd _ => 0x41
  | .vatomOr _ => 0x41
  | .vatomXor _ => 0x41
  | .vatomMin _ => 0x41
  | .vatomMax _ => 0x41
  | .vatomMinu _ => 0x41
  | .vatomMaxu _ => 0x41
  | .vatomSwap _ => 0x41
  | .vatomFadd _ => 0x41
  | .fence _ => 0x42
  | .drain _ => 0x43
  | .wbr _ => 0x44
  | .invL1 _ => 0x45
  | .invHome _ => 0x45
  | .wmaskSet _ => 0x46
  | .wmaskClr _ => 0x46
  | .wmaskPut _ => 0x46
  | .cmd _ => 0x50
  | .jwait _ => 0x51
  | .jpoll _ => 0x52
  | .topk _ => 0x53
  | .sfuRcp _ => 0x54
  | .sfuSqrt _ => 0x54
  | .sfuRsqrt _ => 0x54
  | .sfuExp2 _ => 0x54
  | .sfuLog2 _ => 0x54
  | .sfuSinpi _ => 0x54
  | .sfuCospi _ => 0x54
  | .sfuTanh _ => 0x54
  | .enc8 _ => 0x55
  | .ltab _ => 0x56
  | .samp _ => 0x57
  | .csrr _ => 0x60
  | .csrw _ => 0x61
  | .resume _ => 0x62
  | .tinvPage _ => 0x63
  | .tinvCtx _ => 0x63
  | .tinvPart _ => 0x63
  | .ctxsw _ => 0x64
  | .rollback _ => 0x65
  | .hmset _ => 0x66
  | _ => 0

/-- The OP of an A-word (R194). -/
def Instr.aOp : Instr → Nat
  | .nopA _ => 0x00
  | .add _ => 0x01
  | .sub _ => 0x02
  | .mul _ => 0x03
  | .mulh _ => 0x04
  | .mulhu _ => 0x05
  | .mad _ => 0x06
  | .min _ => 0x07
  | .max _ => 0x08
  | .minu _ => 0x09
  | .maxu _ => 0x0A
  | .and _ => 0x0B
  | .or _ => 0x0C
  | .xor _ => 0x0D
  | .andn _ => 0x0E
  | .shl _ => 0x0F
  | .shr _ => 0x10
  | .sar _ => 0x11
  | .rot _ => 0x12
  | .popc _ => 0x13
  | .clz _ => 0x13
  | .ctz _ => 0x13
  | .neg _ => 0x13
  | .not _ => 0x13
  | .abs _ => 0x13
  | .brev _ => 0x13
  | .lid _ => 0x13
  | .cmp _ => 0x14
  | .cmpu _ => 0x15
  | .fadd _ => 0x16
  | .fsub _ => 0x17
  | .fmul _ => 0x18
  | .ffma _ => 0x19
  | .fmin _ => 0x1A
  | .fmax _ => 0x1B
  | .fneg _ => 0x1C
  | .fabs _ => 0x1C
  | .ffloor _ => 0x1C
  | .fceil _ => 0x1C
  | .ftrunc _ => 0x1C
  | .fround _ => 0x1C
  | .frint _ => 0x1C
  | .fclass _ => 0x1C
  | .fsgn _ => 0x1C
  | .fcmp _ => 0x1D
  | .cvtFtoi _ => 0x1E
  | .cvtFtou _ => 0x1E
  | .cvtFtoiz _ => 0x1E
  | .cvtFtouz _ => 0x1E
  | .cvtItof _ => 0x1E
  | .cvtUtof _ => 0x1E
  | .cvtFtoh _ => 0x1E
  | .cvtFtob _ => 0x1E
  | .cvtHtof _ => 0x1E
  | .cvtBtof _ => 0x1E
  | .cvtFtol _ => 0x1E
  | .cvtLtof _ => 0x1E
  | .sel _ => 0x1F
  | .mov _ => 0x20
  | .bcast _ => 0x21
  | .shuf _ => 0x22
  | .lrot _ => 0x23
  | .redAdd _ => 0x24
  | .redAnd _ => 0x24
  | .redOr _ => 0x24
  | .redXor _ => 0x24
  | .redMin _ => 0x24
  | .redMax _ => 0x24
  | .redMinu _ => 0x24
  | .redMaxu _ => 0x24
  | .redFadd _ => 0x24
  | .redFmin _ => 0x24
  | .redFmax _ => 0x24
  | .scanAdd _ => 0x25
  | .scanAnd _ => 0x25
  | .scanOr _ => 0x25
  | .scanXor _ => 0x25
  | .scanMin _ => 0x25
  | .scanMax _ => 0x25
  | .scanMinu _ => 0x25
  | .scanMaxu _ => 0x25
  | .scanFadd _ => 0x25
  | .scanFmin _ => 0x25
  | .scanFmax _ => 0x25
  | .kopAnd _ => 0x26
  | .kopOr _ => 0x26
  | .kopXor _ => 0x26
  | .kopAndn _ => 0x26
  | .kopNot _ => 0x26
  | .kopMov _ => 0x26
  | .kopLow _ => 0x26
  | .addsat _ => 0x27
  | .subsat _ => 0x28
  | .dp4 _ => 0x29
  | .fdp2 _ => 0x2A
  | _ => 0

/-- The OP of a sampler word (R322). -/
def Instr.sOp : Instr → Nat
  | .samplerHalt _ => 0x00
  | .samplerLdi _ => 0x01
  | .samplerAdd _ => 0x02
  | .samplerSub _ => 0x03
  | .samplerMulq _ => 0x04
  | .samplerXfer _ => 0x05
  | .samplerBz _ => 0x06
  | .samplerBnz _ => 0x07
  | .samplerLdc _ => 0x08
  | .samplerStc _ => 0x09
  | .samplerLdr _ => 0x0A
  | .samplerLogit _ => 0x0B
  | .samplerKeep _ => 0x0C
  | .samplerGmask _ => 0x0D
  | .samplerPen _ => 0x0E
  | .samplerScale _ => 0x0F
  | .samplerExpw _ => 0x10
  | .samplerNucl _ => 0x11
  | .samplerRand _ => 0x12
  | .samplerPick _ => 0x13
  | .samplerFind _ => 0x14
  | .samplerEmit _ => 0x15
  | _ => 0

/-- The LONE bit of a word (R179). -/
def Ext.bit : Ext → BitVec 1
  | .paired => 0
  | .lone _ => 1

/-- A C-word's bits (R184). -/
def encodeCWord (op : BitVec 7) (c : CWord) : W32 :=
  c.ext.bit ++ (0#1) ++ op ++ c.la ++ c.d ++ c.ta.tag ++ c.a ++ c.b ++ c.msk

/-- An A-word's bits (R189). -/
def encodeAWord (op : BitVec 6) (w : AWord) : W32 :=
  w.ext.bit ++ (1#1) ++ op ++ BitVec.ofBool w.fzi ++ BitVec.ofBool w.fzo ++ w.d ++ w.tb.tag ++ w.b ++
    w.ta.tag ++ w.a ++ w.k

/-- A sampler word's bits (R322). -/
def encodeSWord (op : BitVec 5) (w : SWord) : W32 := op ++ w.d ++ w.a ++ w.b ++ w.imm

/-- The words of a lone bundle, or the one word of a pair. -/
def Ext.words (w : W32) : Ext → List W32
  | .paired => [w]
  | .lone w1 => [w, w1]

/-- Word 0 of a command (R257). -/
def encodeWord0 (x : CmdCtx) (eng eop : Nat) : W32 :=
  BitVec.ofNat 32 (x.node % 2 ^ 16 + x.wempty.toNat * 2 ^ 16 + x.fence.toNat * 2 ^ 17 + eng * 2 ^ 20 + eop * 2 ^ 24)

def loWord (v : Word) : W32 := v.extractLsb' 0 32
def hiWord (v : Word) : W32 := v.extractLsb' 32 32

/-- The 16 words of an engine command (R265-R278). -/
def encodeCommand : Instr → List W32
  | .zcfg x t v => encodeWord0 x 0 1 :: [t.setWidth 32, v.setWidth 32] ++ List.replicate 13 0
  | .zzero x t => encodeWord0 x 0 2 :: [t.setWidth 32] ++ List.replicate 14 0
  | .mma x c =>
    [encodeWord0 x 0 3,
     BitVec.ofNat 32 (c.n + (c.m - 1) * 2 ^ 4 + (c.nn - 1) * 2 ^ 11 + c.esza.toNat * 2 ^ 18 + c.eszb.toNat * 2 ^ 20 +
       c.start * 2 ^ 22),
     BitVec.ofNat 32 (c.k - 1), loWord c.a, hiWord c.a, c.astr, loWord c.b, hiWord c.b, c.bstr,
     loWord c.asc, hiWord c.asc, c.bscstr ++ c.ascstr, loWord c.bsc, hiWord c.bsc, 0, 0]
  | .drainCommand x c =>
    [encodeWord0 x 0 4,
     BitVec.ofNat 32 (c.n + c.r0 * 2 ^ 4 + (c.rows - 1) * 2 ^ 9 + c.raw.toNat * 2 ^ 14 + c.clr.toNat * 2 ^ 15),
     c.entry, loWord c.dst, hiWord c.dst, c.dstr, loWord c.arg, hiWord c.arg] ++ List.replicate 8 0
  | .merr x c =>
    [encodeWord0 x 0 5, BitVec.ofNat 32 c.n, c.count, loWord c.list, hiWord c.list, c.base] ++ List.replicate 10 0
  | .copy1d x c =>
    [encodeWord0 x 1 1, c.bytes, loWord c.src, hiWord c.src, 0, loWord c.dst, hiWord c.dst] ++ List.replicate 9 0
  | .copy2d x c =>
    [encodeWord0 x 1 2, c.height ++ c.width, loWord c.src, hiWord c.src, c.fpitch, loWord c.dst, hiWord c.dst,
     c.tpitch] ++ List.replicate 8 0
  | .fillCmd x c =>
    [encodeWord0 x 1 4, c.bytes, 0, 0, 0, loWord c.dst, hiWord c.dst, 0, loWord c.pattern, hiWord c.pattern] ++
      List.replicate 6 0
  | .gather2d x c =>
    [encodeWord0 x 1 3,
     BitVec.ofNat 32 (c.pw - 1 + (c.ph - 1) * 2 ^ 7 + c.esz.toNat * 2 ^ 14 + c.count.toNat * 2 ^ 16),
     loWord c.image, hiWord c.image, c.ipitch, loWord c.dst, hiWord c.dst, c.tstr, c.ih ++ c.iw,
     loWord c.list, hiWord c.list, c.pad] ++ List.replicate 4 0
  | .gatherCmd x c =>
    [encodeWord0 x 2 1, BitVec.ofNat 32 (c.esz.toNat + c.shift.toNat * 2 ^ 2), c.lmask, loWord c.base, hiWord c.base,
     loWord c.idx, hiWord c.idx, loWord c.dst, hiWord c.dst] ++ List.replicate 7 0
  | .decodeCmd x c =>
    [encodeWord0 x 3 1, c.ofmt.setWidth 32, loWord c.input, hiWord c.input, c.inLen, loWord c.out, hiWord c.out,
     c.outCap, (0#8) ++ c.rtype ++ c.budget, c.rcls.setWidth 32, c.rkey.extractLsb' 0 32,
     c.rkey.extractLsb' 32 32, c.rkey.extractLsb' 64 32, c.rkey.extractLsb' 96 32, 0, 0]
  | _ => []

/-- The words of an instruction; an event has none. -/
def encode (i : Instr) : List W32 :=
  match i.cword, i.aword, i.sword with
  | some (_, c), _, _ => c.ext.words (encodeCWord (BitVec.ofNat 7 i.cOp) c)
  | _, some (_, w), _ => w.ext.words (encodeAWord (BitVec.ofNat 6 i.aOp) w)
  | _, _, some (_, _, _, _, w) => [encodeSWord (BitVec.ofNat 5 i.sOp) w]
  | _, _, _ => encodeCommand i

end Sys2Proof
end

