-- ==== Sys2Proof/Config.lean ====
section
/-! DEFINITION. What the VT-4096 fixes (R9), the unloaded costs of R14, and the free values: opaque
constants that stand for everything the manual leaves open. No free value has a body, so no proof
can see what it is. -/

namespace Sys2Proof.Config

def dies : Nat := 4
def quiresPerDie : Nat := 256
def cores : Nat := 4096
def partitions : Nat := 24
def contexts : Nat := 64
def ports : Nat := 65536
/-- HBM bytes: 12 stacks of 64 GiB (R9). -/
def hbmBytes : Nat := 12 * 64 * 2 ^ 30
/-- Base of the engine frames (R260). -/
def engineFrame : Nat := 0x000FFFC000000000
/-- Base of the notify pages (R347). -/
def notifyPage : Nat := 0x000FFFD000000000
/-- Base of the local aperture (R118). -/
def aperture : Nat := 0x01FFFFF000000000
/-- Cycles from a grant to the moment the commit takes effect (R14, R331). -/
def commitCycles : Nat := 28
/-- A read of HBM (R14). -/
def hbmCycles : Nat := 600

/-- DESIGN CHOICE (log 1): the free values of R18, R191, R423, R406, R401 and R357. The argument is
`State.free`, which every draw advances, so each draw is a fresh value. -/
opaque freeValue : Nat → BitVec 64

/-- DESIGN CHOICE (log 17): the entries of the decode table that a matrix command of the command processor reads: such a
command has no issuing core (R106). Arguments: `State.free` and the code. -/
opaque freeEntry : Nat → Nat → BitVec 19

/-- DESIGN CHOICE (log 6): `enc8` of a table that is not monotone gives a deterministic code that R101
does not specify: a function of the table and of the FP32 bits. -/
opaque enc8Unspecified : List (BitVec 19) → W32 → Byte

/-- A component of a picture as its stream holds it: each sample stands for `stepX` by `stepY` pixels. -/
structure Plane where
  stepX : Nat
  stepY : Nat
  stride : Nat
  samples : List Nat
  deriving DecidableEq, Repr

/-- The colours of a picture's components (R353). -/
inductive Colour where
  | grey
  | rgb
  | ycc
  | palette (entries : List (Byte × Byte × Byte))
  deriving DecidableEq, Repr

/-- How a picture is coded (R353): a JPEG's process, a PNG, or a TIFF's compression with its photometric tag. -/
inductive Coding where
  | jpeg (huffman lossless : Bool)
  | png
  | tiff (compression : Nat) (tiled whiteIsZero : Bool)
  deriving DecidableEq, Repr

/-- A picture before R353's conversion to 8-bit RGB. -/
structure Picture where
  width : Nat
  height : Nat
  coding : Coding
  depth : Nat
  colour : Colour
  planes : List Plane
  deriving DecidableEq, Repr

/-- DESIGN CHOICE (log 7): the picture a Folio decoder reads out of a compressed page, or the reason of R357 why it does not: R353 names the standards
and gives none of their tables, and says of the IDCT that it is integer. -/
opaque folioPicture : List Byte → Except Nat Picture

/-- DESIGN CHOICE (log 7): the integer conversion of YCbCr to RGB, which R353 takes from T.871 without its rounding. -/
opaque folioColour : Nat → Nat → Nat → Byte × Byte × Byte

/-- DESIGN CHOICE (log 8): the rounding of a transcendental function where the model's enclosure does
not decide it (R238). Arguments: function code and FP32 bits. -/
opaque sfuUndecided : Nat → W32 → W32

/-- DESIGN CHOICE (log 9): the bytes of a dump record whose layout R294 does not give, by unit kind, unit number and what the unit holds. -/
opaque dumpBytes : Nat → Nat → List (BitVec 64) → List Byte

/-- DESIGN CHOICE (log 9): the number of the link in a channel record, by the receiving unit's kind and number; R295 numbers no links. -/
opaque linkNumber : Nat → Nat → BitVec 32

/-- DESIGN CHOICE (log 9): the content of a barrier or census packet in a channel record, by the kind of R295: the spec lays none out. -/
opaque packetBytes : Nat → List Byte

/-- DESIGN CHOICE (log 1): the weight of a candidate between `keep` and `expw` (R322), by its place in the list of tokens and values; R316 has
a result depend on the logits, the image and the request alone. -/
opaque keepWeight : List (Nat × Int) → Nat → BitVec 32

/-- DESIGN CHOICE (log 1): the token of a `pick` whose target no cumulative weight exceeds (R322), by the list and the operands. -/
opaque pickUnmatched : List (Nat × Int × Nat) → Word → Word → Word

/-- DESIGN CHOICE (log 9): the 16 bytes of a candidate in the candidate memory (R317, R327), by token, value and weight. -/
opaque candBytes : Nat → Int → Nat → List Byte

/-- DESIGN CHOICE (log 10): the signed attestation report of R361, a function of the nonce and of the measured state. -/
opaque attestation : List Byte → List Byte

/-- DESIGN CHOICE (log 96): the quires that a partition owns in another package of its pod home list, ascending (R28, R29). The fabric manager
sets them up, and no register of this package holds them. -/
opaque peerHomes (pkg part : Nat) : List Nat

/-- DESIGN CHOICE (log 59): the packages through which the non-minimal paths from a package to another run (R349: chosen at random). -/
opaque intermediates (pkg dst : Nat) : List Nat

end Sys2Proof.Config
end

