-- ==== Sys2Proof/Machine/Flags.lean ====
section
/-! DEFINITION. Float arithmetic and the sticky flags it raises (R93-R98, R230-R235): operands become exact
dyadic numbers, an operation is computed exactly, and the result is rounded once. -/

namespace Sys2Proof.Machine

/-- The sticky bits an operation raises, NV DZ OF UF NX from bit 4 down: bits [8:4] of the flags word (R79). -/
abbrev Sticky := BitVec 5

def flagNV : Sticky := 0b10000
def flagDZ : Sticky := 0b01000
def flagOF : Sticky := 0b00100
def flagUF : Sticky := 0b00010
def flagNX : Sticky := 0b00001

/-- `f` when `b` holds, else no flag. -/
def flagIf (b : Bool) (f : Sticky) : Sticky := if b then f else 0

/-- A binary float format (R93): precision with the hidden bit, exponent width. -/
structure Fmt where
  prec : Nat
  expBits : Nat
  deriving DecidableEq, Repr

def fp32 : Fmt := ⟨24, 8⟩
def fp16 : Fmt := ⟨11, 5⟩
def bf16 : Fmt := ⟨8, 8⟩

namespace Fmt

def fracBits (f : Fmt) : Nat := f.prec - 1
def bias (f : Fmt) : Int := 2 ^ (f.expBits - 1) - 1
def emax (f : Fmt) : Int := f.bias
def emin (f : Fmt) : Int := 1 - f.bias
def signBit (f : Fmt) : Nat := f.fracBits + f.expBits
/-- The exponent of the subnormal grid. -/
def qmin (f : Fmt) : Int := f.emin - (f.prec - 1)
def infBits (f : Fmt) : Nat := (2 ^ f.expBits - 1) * 2 ^ f.fracBits
/-- The largest finite magnitude's bits. -/
def maxBits (f : Fmt) : Nat := f.infBits - 1
/-- The canonical quiet NaN (R94). -/
def nanBits (f : Fmt) : Nat := f.infBits + 2 ^ (f.fracBits - 1)
def withSign (f : Fmt) (neg : Bool) (mag : Nat) : Nat := if neg then 2 ^ f.signBit + mag else mag

end Fmt

/-- An operand as an exact number: `fin neg m e` is ±m·2^e, zero when m = 0. -/
inductive Num where
  | nan (signalling : Bool)
  | inf (neg : Bool)
  | fin (neg : Bool) (m : Nat) (e : Int)
  deriving DecidableEq, Repr

/-- The number that bits of format `f` hold (R93). -/
def unpack (f : Fmt) (x : Nat) : Num :=
  let frac := x % 2 ^ f.fracBits
  let ex := x / 2 ^ f.fracBits % 2 ^ f.expBits
  let neg := x.testBit f.signBit
  if ex = 0 then .fin neg frac f.qmin
  else if ex = 2 ^ f.expBits - 1 then
    if frac = 0 then .inf neg else .nan (!frac.testBit (f.fracBits - 1))
  else .fin neg (2 ^ f.fracBits + frac) (f.qmin + (ex - 1 : Nat))

/-- Whether bits are a subnormal of format `f` (R93). -/
def isSubnormal (f : Fmt) (x : Nat) : Bool :=
  x / 2 ^ f.fracBits % 2 ^ f.expBits == 0 && x % 2 ^ f.fracBits != 0

/-- FZI (R96): a subnormal source is read as a zero of its sign. -/
def flushSource (f : Fmt) (fzi : Bool) (x : Nat) : Nat :=
  if fzi && isSubnormal f x then f.withSign (x.testBit f.signBit) 0 else x

/-- FZO on a delivered operand (R96, R231, R232). -/
def flushResult (f : Fmt) (fzo : Bool) (x : Nat) : Nat × Sticky :=
  if fzo && isSubnormal f x then (f.withSign (x.testBit f.signBit) 0, flagUF ||| flagNX) else (x, 0)

/-- NV of a signalling input (R95). -/
def Num.signalling : Num → Sticky
  | .nan true => flagNV
  | _ => 0

def Num.isNaN : Num → Bool
  | .nan _ => true
  | _ => false

def Num.isNeg : Num → Bool
  | .nan _ => false
  | .inf n => n
  | .fin n _ _ => n

def Num.negate : Num → Num
  | .nan g => .nan g
  | .inf n => .inf !n
  | .fin n m e => .fin (!n) m e

/-- Rounding a magnitude between `m·2^e` and `(m+1)·2^e` (not the former exactly when `sticky`) to a
multiple of 2^q: the multiple and whether it differs. `rm` is the code of R79. -/
def roundAt (rm : Nat) (neg : Bool) (m : Nat) (e : Int) (sticky : Bool) (q : Int) : Nat × Bool :=
  if q ≤ e then (m * 2 ^ (e - q).toNat, sticky)
  else
    let sh := (q - e).toNat
    let n := m / 2 ^ sh
    let rem := m % 2 ^ sh
    let half := 2 ^ (sh - 1)
    let inexact := rem != 0 || sticky
    let up :=
      match rm with
      | 0 => rem > half || (rem == half && (sticky || n % 2 == 1))
      | 1 => false
      | 2 => inexact && !neg
      | _ => inexact && neg
    (if up then n + 1 else n, inexact)

/-- The value delivered on overflow (R95). -/
def overflowMag (f : Fmt) (rm : Nat) (neg : Bool) : Nat :=
  match rm with
  | 0 => f.infBits
  | 1 => f.maxBits
  | 2 => if neg then f.maxBits else f.infBits
  | _ => if neg then f.infBits else f.maxBits

/-- Rounding a non-zero magnitude once to format `f` (R94), with the flags of R95 and FZO (R96). With
`sticky`, `m` must hold at least two bits more than the precision. -/
def roundMag (f : Fmt) (rm : Nat) (fzo : Bool) (neg : Bool) (m : Nat) (e : Int) (sticky : Bool) : Nat × Sticky :=
  let top : Int := e + Nat.log2 m
  let qu := top - (f.prec - 1)
  let u := roundAt rm neg m e sticky qu
  let topU := if u.1 = 2 ^ f.prec then top + 1 else top
  if topU > f.emax then (f.withSign neg (overflowMag f rm neg), flagOF ||| flagNX)
  else
    let tiny : Bool := topU < f.emin
    let q := max qu f.qmin
    let r := roundAt rm neg m e sticky q
    let mag := (q - f.qmin).toNat * 2 ^ f.fracBits + r.1
    if fzo && (tiny || isSubnormal f mag) then (f.withSign neg 0, flagUF ||| flagNX)
    else (f.withSign neg mag, flagIf (tiny && r.2) flagUF ||| flagIf r.2 flagNX)

/-- A number delivered in format `f` (R94-R96). -/
def deliver (f : Fmt) (rm : Nat) (fzo : Bool) : Num → Nat × Sticky
  | .nan _ => (f.nanBits, 0)
  | .inf n => (f.withSign n f.infBits, 0)
  | .fin n m e => if m = 0 then (f.withSign n 0, 0) else roundMag f rm fzo n m e false

/-- The exact product; 0 × ∞ is invalid (R95). -/
def Num.mul : Num → Num → Num × Sticky
  | .nan a, y => (.nan false, flagIf a flagNV ||| y.signalling)
  | x, .nan b => (.nan false, flagIf b flagNV ||| x.signalling)
  | .inf a, .inf b => (.inf (a != b), 0)
  | .inf a, .fin b m _ => if m = 0 then (.nan false, flagNV) else (.inf (a != b), 0)
  | .fin a m _, .inf b => if m = 0 then (.nan false, flagNV) else (.inf (a != b), 0)
  | .fin a m e, .fin b n g => (.fin (a != b) (m * n) (e + g), 0)

/-- A finite number as an integer on the grid 2^q, `q` at most its exponent. -/
def gridInt (q : Int) : Num → Int
  | .fin n m e => (if n then -1 else 1) * (m * 2 ^ (e - q).toNat : Nat)
  | _ => 0

/-- The exact sum. Opposite infinities are invalid; an exact zero of opposite signs is +0, and −0 under
RM 3 (R94). -/
def Num.add (rm : Nat) : Num → Num → Num × Sticky
  | .nan a, y => (.nan false, flagIf a flagNV ||| y.signalling)
  | x, .nan b => (.nan false, flagIf b flagNV ||| x.signalling)
  | .inf a, .inf b => if a = b then (.inf a, 0) else (.nan false, flagNV)
  | .inf a, .fin _ _ _ => (.inf a, 0)
  | .fin _ _ _, .inf b => (.inf b, 0)
  | .fin a m e, .fin b n g =>
    let q := min e g
    let t := gridInt q (.fin a m e) + gridInt q (.fin b n g)
    if t = 0 then (.fin (if a = b then a else rm == 3) 0 q, 0)
    else (.fin (t < 0) t.natAbs q, 0)

/-- A float operand of 32 bits after FZI. -/
def src32 (fzi : Bool) (x : W32) : Num := unpack fp32 (flushSource fp32 fzi x.toNat)

/-- What a float operation needs besides its operands: RM, FZI, FZO. -/
structure FCtl where
  rm : Nat
  fzi : Bool
  fzo : Bool
  deriving DecidableEq, Repr

/-- Rounding an exact result to FP32. -/
def FCtl.out (c : FCtl) (x : Num × Sticky) : W32 × Sticky :=
  let r := deliver fp32 c.rm c.fzo x.1
  (BitVec.ofNat 32 r.1, x.2 ||| r.2)

/-- `fadd` (R231). -/
def floatAdd (c : FCtl) (a b : W32) : W32 × Sticky := c.out ((src32 c.fzi a).add c.rm (src32 c.fzi b))

/-- `fsub` (R231). -/
def floatSub (c : FCtl) (a b : W32) : W32 × Sticky :=
  c.out ((src32 c.fzi a).add c.rm (src32 c.fzi b).negate)

/-- `fmul` (R231). -/
def floatMul (c : FCtl) (a b : W32) : W32 × Sticky := c.out ((src32 c.fzi a).mul (src32 c.fzi b))

/-- `ffma` (R231): rounded once; 0 × ∞ is invalid whatever `d` holds. -/
def floatFma (c : FCtl) (d a b : W32) : W32 × Sticky :=
  let p := (src32 c.fzi a).mul (src32 c.fzi b)
  let s := p.1.add c.rm (src32 c.fzi d)
  c.out (s.1, p.2 ||| s.2)

/-- `x < y` of two numbers that are not NaN; zeros are equal. -/
def Num.lt (x y : Num) : Bool :=
  match x, y with
  | .nan _, _ => false
  | _, .nan _ => false
  | .inf a, .inf b => a && !b
  | .inf a, .fin _ _ _ => a
  | .fin _ _ _, .inf b => !b
  | .fin a m e, .fin b n g => gridInt (min e g) (.fin a m e) < gridInt (min e g) (.fin b n g)

def Num.eqv (x y : Num) : Bool := !x.isNaN && !y.isNaN && !x.lt y && !y.lt x

/-- `fmin` and `fmax` (R231): −0 counts below +0. -/
def floatMinMax (c : FCtl) (isMax : Bool) (a b : W32) : W32 × Sticky :=
  let x := src32 c.fzi a
  let y := src32 c.fzi b
  let g := x.signalling ||| y.signalling
  if x.isNaN || y.isNaN then (BitVec.ofNat 32 fp32.nanBits, g)
  else
    let less := x.lt y || (x.eqv y && x.isNeg && !y.isNeg)
    let pick := if less != isMax then a else b
    let r := flushResult fp32 c.fzo (flushSource fp32 c.fzi pick.toNat)
    (BitVec.ofNat 32 r.1, r.2)

/-- A finite magnitude rounded to an integer, and whether that changed it. -/
def roundToInt (rm : Nat) (neg : Bool) (m : Nat) (e : Int) : Nat × Bool := roundAt rm neg m e false 0

/-- The integral functions of R232 under rounding `rm`; the result keeps the sign of the operand. -/
def floatIntegral (c : FCtl) (rm : Nat) (nx : Bool) (a : W32) : W32 × Sticky :=
  match src32 c.fzi a with
  | .fin n m e =>
    let r := roundToInt rm n m e
    let o := c.out (.fin n r.1 0, 0)
    (o.1, o.2 ||| flagIf (nx && r.2) flagNX)
  | x => c.out (x, x.signalling)

/-- `fneg` and `fabs` (R232). -/
def floatSign (c : FCtl) (f : Bool → Bool) (a : W32) : W32 × Sticky :=
  let bits := flushSource fp32 c.fzi a.toNat
  let x := unpack fp32 bits
  if x.isNaN then (BitVec.ofNat 32 fp32.nanBits, x.signalling)
  else
    let r := flushResult fp32 c.fzo (fp32.withSign (f (bits.testBit 31)) (bits % 2 ^ 31))
    (BitVec.ofNat 32 r.1, r.2)

/-- `fclass` (R232): one bit for the class of the operand; FZI is ignored. -/
def floatClass (a : W32) : W32 :=
  let bit : Nat :=
    match unpack fp32 a.toNat with
    | .nan g => if g then 8 else 9
    | .inf n => if n then 0 else 7
    | .fin n m _ =>
      if m = 0 then (if n then 3 else 4)
      else if isSubnormal fp32 a.toNat then (if n then 2 else 5) else (if n then 1 else 6)
  BitVec.ofNat 32 (2 ^ bit)

/-- `fsgn` (R232). -/
def floatSgn (c : FCtl) (a : W32) : W32 × Sticky :=
  match src32 c.fzi a with
  | .nan g => c.out (.nan g, flagIf g flagNV)
  | .inf n => c.out (.fin n 1 0, 0)
  | .fin n m e => c.out (.fin n (if m = 0 then 0 else 1) (if m = 0 then e else 0), 0)

/-- `fcmp` (R233) by the condition code of R190. -/
def floatCmp (fzi : Bool) (cond : Nat) (a b : W32) : Bool × Sticky :=
  let x := src32 fzi a
  let y := src32 fzi b
  let nan := x.isNaN || y.isNaN
  let quiet := x.signalling ||| y.signalling
  let any := flagIf nan flagNV
  match cond with
  | 0 => (x.eqv y, quiet)
  | 1 => (!x.eqv y, quiet)
  | 2 => (x.lt y, any)
  | 3 => (!nan && !y.lt x, any)
  | 4 => (y.lt x, any)
  | 5 => (!nan && !x.lt y, any)
  | 6 => (nan, quiet)
  | _ => (!nan, quiet)

/-- A float converted to an integer of the range `lo` to `hi` (R98). -/
def floatToInt (fzi : Bool) (rm : Nat) (lo hi : Int) (a : W32) : Int × Sticky :=
  match src32 fzi a with
  | .nan _ => (0, flagNV)
  | .inf n => (if n then lo else hi, flagNV)
  | .fin n m e =>
    let r := roundToInt rm n m e
    let v : Int := if n then -(r.1 : Int) else r.1
    if v > hi then (hi, flagNV) else if v < lo then (lo, flagNV) else (v, flagIf r.2 flagNX)

/-- An integer converted to FP32 (R97). -/
def intToFloat (c : FCtl) (v : Int) : W32 × Sticky := c.out (.fin (v < 0) v.natAbs 0, 0)

/-- FP32 narrowed to FP16 or BF16 (R97). -/
def floatNarrow (c : FCtl) (f : Fmt) (a : W32) : W32 × Sticky :=
  let x := src32 c.fzi a
  let r := deliver f c.rm c.fzo x
  (BitVec.ofNat 32 r.1, x.signalling ||| r.2)

/-- FP16 or BF16 widened to FP32, exactly (R97). -/
def floatWiden (c : FCtl) (f : Fmt) (a : W32) : W32 × Sticky :=
  let x := unpack f (flushSource f c.fzi (a.toNat % 2 ^ (f.signBit + 1)))
  c.out (x, x.signalling)

/-- `fdp2` (R235): the addend plus two BF16 products, rounded once. -/
def floatDp2 (c : FCtl) (d a b : W32) : W32 × Sticky :=
  let half (x : W32) (hi : Bool) : Num :=
    unpack bf16 (flushSource bf16 c.fzi (if hi then x.toNat / 2 ^ 16 else x.toNat % 2 ^ 16))
  let p0 := (half a false).mul (half b false)
  let p1 := (half a true).mul (half b true)
  let x := src32 c.fzi d
  let s0 := x.add c.rm p0.1
  let s1 := s0.1.add c.rm p1.1
  c.out (s1.1, p0.2 ||| p1.2 ||| s0.2 ||| s1.2)

end Sys2Proof.Machine
end

