-- ==== Sys2Proof/Machine/Formats.lean ====
section
/-! DEFINITION. The number formats beside FP32 (R99-R115): the decode table of E8M10 entries, the
microscaling elements, the accumulator of the matrix engine and the narrowing of `stmx`. -/

namespace Sys2Proof.Machine

/-- E8M10 as a format: FP32 with ten fraction bits (R99). -/
def e8m10 : Fmt := ⟨11, 8⟩

/-- The FP32 bits of an E8M10 entry (R99). -/
def e8m10Widen (e : BitVec 19) : W32 := e ++ (0#13)

/-- A signed exact number n·2^e. -/
def Num.ofInt (n : Int) (e : Int) : Num := .fin (n < 0) n.natAbs e

/-- The elements of R103 before scaling. -/
def mxint8Num (c : Nat) : Num := Num.ofInt (Bits.sext c 8) (-6)

def e4m3Num (c : Nat) : Num :=
  let neg := c.testBit 7
  let e := Bits.get c 6 3
  let f := Bits.get c 2 0
  if e = 15 ∧ f = 7 then .nan false
  else if e = 0 then .fin neg f (-9) else .fin neg (8 + f) ((e : Int) - 10)

def e5m2Num (c : Nat) : Num :=
  let neg := c.testBit 7
  let e := Bits.get c 6 2
  let f := Bits.get c 1 0
  if e = 31 then (if f = 0 then .inf neg else .nan false)
  else if e = 0 then .fin neg f (-16) else .fin neg (4 + f) ((e : Int) - 17)

def e2m1Num (c : Nat) : Num :=
  let neg := c.testBit 3
  let e := Bits.get c 2 1
  let f := Bits.get c 0 0
  if e = 0 then .fin neg f (-1) else .fin neg (2 + f) ((e : Int) - 2)

/-- An element times its block scale (R102): a NaN scale makes every element NaN. -/
def mxScaled (scale : Nat) (x : Num) : Num :=
  if scale = 255 then .nan false
  else
    match x with
    | .fin n m e => .fin n m (e + scale - 127)
    | y => y

/-- An MX element read through its window (R104): nearest even, subnormals kept, no flag. -/
def mxRead (scale : Nat) (x : Num) : W32 := BitVec.ofNat 32 (deliver fp32 0 false (mxScaled scale x)).1

/-- The decode table after reset: the E4M3 values (R100). DESIGN CHOICE (log 12): the NaN entries are the
quiet NaN of the code's sign. -/
def resetTable : List (BitVec 19) :=
  (List.range 256).map fun c =>
    let x := e4m3Num c
    if x.isNaN then BitVec.ofNat 19 (e8m10.withSign (c.testBit 7) e8m10.nanBits)
    else BitVec.ofNat 19 (deliver e8m10 0 false x).1

/-- Entry `c` of a decode table. -/
def tableEntry (t : List (BitVec 19)) (c : Nat) : BitVec 19 := t.getD c 0

/-- A table entry as a number; its magnitude drops the sign. -/
def entryNum (t : List (BitVec 19)) (c : Nat) : Num := unpack e8m10 (tableEntry t c).toNat
def entryMag (t : List (BitVec 19)) (c : Nat) : Num := unpack e8m10 ((tableEntry t c).toNat % 2 ^ 18)

/-- The monotone tables of R101. -/
def monotone (t : List (BitVec 19)) : Bool :=
  (List.range 256).all fun c =>
    ((tableEntry t c).getLsbD 18 == c.testBit 7) &&
    (match entryMag t c with
     | .fin _ _ _ => c % 128 == 0 || (entryMag t (c - 1)).lt (entryMag t c)
     | _ => c % 128 == 127)

/-- `x − y` for finite numbers, x not below y. -/
def Num.gap (x y : Num) : Num := (x.add 0 y.negate).1

/-- The code of R101 for the magnitude `m` in the half that starts at `base`, the table being monotone. -/
def encodeMag (t : List (BitVec 19)) (base : Nat) (m : Num) : Nat :=
  let below := (List.range 128).countP fun j => !(entryMag t (base + j)).isNaN && !m.lt (entryMag t (base + j))
  if below = 0 then base
  else if below = 128 then base + 127
  else
    let lo := below - 1
    match entryMag t (base + below), m with
    | .fin a b c, .fin x y z =>
      let dlo := (Num.fin x y z).gap (entryMag t (base + lo))
      let dhi := (Num.fin a b c).gap (.fin x y z)
      if dlo.lt dhi then base + lo
      else if dhi.lt dlo then base + below
      else if lo % 2 = 0 then base + lo else base + below
    | _, _ => base + lo

/-- `enc8` of one value (R101, R239): the code and its flags. -/
def enc8Value (t : List (BitVec 19)) (fzi : Bool) (x : W32) : Byte × Sticky :=
  let bits := flushSource fp32 fzi x.toNat
  let n := unpack fp32 bits
  let neg := bits.testBit 31
  let base := if neg then 128 else 0
  if n.isNaN then (BitVec.ofNat 8 (base + 127), flagNV)
  else if monotone t then
    let c := encodeMag t base (unpack fp32 (bits % 2 ^ 31))
    (BitVec.ofNat 8 c, flagIf (!n.eqv (entryNum t c)) flagNX)
  else
    let c := Config.enc8Unspecified t (BitVec.ofNat 32 bits)
    (c, flagIf (!n.eqv (entryNum t c.toNat)) flagNX)

/-! ## The accumulator -/

/-- An element of a tile (R105). -/
structure Elem where
  acc : BitVec 80
  ovf : Bool
  nan : Bool
  deriving DecidableEq, Repr

def Elem.zero : Elem := ⟨0, false, false⟩

def accMax : Int := 2 ^ 79 - 1
def accMin : Int := -2 ^ 79

/-- The update of an element by one command (R108). -/
def Elem.update (x : Elem) (sum : Int) (nan : Bool) : Elem :=
  let s := x.acc.toInt + sum
  let n := x.nan || nan
  if x.ovf then { x with nan := n }
  else if s > accMax then ⟨BitVec.ofInt 80 accMax, true, n⟩
  else if s < accMin then ⟨BitVec.ofInt 80 accMin, true, n⟩
  else ⟨BitVec.ofInt 80 s, false, n⟩

/-- The element drained to FP32 (R110). -/
def Elem.drain (x : Elem) (et : Int) (sat : Bool) (rm : Nat) : W32 :=
  let neg := x.acc.msb
  let top (s : Bool) : W32 := BitVec.ofNat 32 (fp32.withSign neg (if s then fp32.maxBits else fp32.infBits))
  if x.nan then BitVec.ofNat 32 fp32.nanBits
  else if x.ovf then top sat
  else if x.acc = 0 then 0
  else
    let r := roundMag fp32 rm false neg x.acc.toInt.natAbs (et - 56) false
    if sat && r.2 &&& flagOF != 0 then top true else BitVec.ofNat 32 r.1

/-- The three raw words of an element (R111). -/
def Elem.raw (x : Elem) : W32 × W32 × W32 :=
  (x.acc.extractLsb' 0 32, x.acc.extractLsb' 32 32,
   BitVec.ofNat 32 ((x.acc.extractLsb' 64 16).toNat + x.ovf.toNat * 2 ^ 16 + x.nan.toNat * 2 ^ 17))

/-- `floor(p · 2^s)` (R107). -/
def shiftFloor (p : Int) (s : Int) : Int := if 0 ≤ s then p * 2 ^ s.toNat else p >>> (-s).toNat

/-- The contribution of an FP32 value (R112); `none` sets NAN. -/
def errataContribution (et : Int) (f : W32) : Option Int :=
  match unpack fp32 f.toNat with
  | .fin n m e => some (shiftFloor (if n then -(m : Int) else m) (e + 56 - et))
  | _ => none

/-- Whether a format code reads MX scales (R267). -/
def fmtScaled (f : Nat) : Bool := 2 ≤ f && f ≤ 5

/-- A finite number over 2^q, rounded to nearest even. -/
def scaledRne (x : Num) (q : Int) : Int :=
  match x with
  | .fin n m e => (if n then -1 else 1) * ((roundAt 0 n m e false q).1 : Int)
  | _ => 0

def clampTo (lo hi x : Int) : Int := max lo (min hi x)

/-- The value of an element of formats 3 to 8 before alignment (R106). -/
def elementNum (f : Nat) (t : List (BitVec 19)) (scale code : Nat) : Num :=
  match f with
  | 3 => mxScaled scale (e4m3Num code)
  | 4 => mxScaled scale (e5m2Num code)
  | 5 => mxScaled scale (e2m1Num code)
  | 6 => entryNum t code
  | 7 => unpack bf16 code
  | _ => unpack fp16 code

/-- The significands and the exponent of a K-block (R106); `none` is a NaN element. -/
def kBlock (f w : Nat) (t : List (BitVec 19)) (scale : Nat) (codes : List Nat) : Int × List (Option Int) :=
  let hi : Int := 2 ^ (w - 1) - 1
  let lo : Int := -2 ^ (w - 1)
  match f with
  | 0 => (0, codes.map fun c => some (Bits.sext c w))
  | 1 => (0, codes.map fun c => some ((c % 2 ^ w : Nat) : Int))
  | 2 =>
    ((scale : Int) - 133 + (8 - w : Nat),
     codes.map fun c =>
       if scale = 255 then none
       else if 8 ≤ w then some (Bits.sext c 8)
       else some (clampTo lo hi (scaledRne (Num.ofInt (Bits.sext c 8) 0) (8 - w : Nat))))
  | _ =>
    let vs := codes.map (elementNum f t scale)
    let tops := vs.filterMap fun v =>
      match v with
      | .fin _ m e => if m = 0 then none else some (e + (Nat.log2 m : Int))
      | _ => none
    match tops with
    | [] => (0, vs.map fun v => match v with | .fin _ _ _ => some 0 | _ => none)
    | x :: r =>
      let eb := r.foldl max x - ((w : Int) - 2)
      (eb, vs.map fun v =>
        match v with
        | .fin _ _ _ => some (clampTo lo hi (scaledRne v eb))
        | _ => none)

/-- The contributions of one pair of K-blocks to an element: their sum and whether one is NaN (R107). -/
def blockContribution (et : Int) (a b : Int × List (Option Int)) : Int × Bool :=
  (a.2.zip b.2).foldl (fun acc p =>
    match p with
    | (some x, some y) => (acc.1 + shiftFloor (x * y) (a.1 + b.1 - (et - 56)), acc.2)
    | _ => (acc.1, true)) (0, false)

/-! ## Narrowing to MX (R113-R115) -/

/-- An element format of `stmx`: precision, subnormal grid, bits of the largest finite magnitude, sign bit,
and the exponent of its largest power of two (R103, R113). MXINT8 is format 0. -/
structure MxElem where
  prec : Nat
  qmin : Int
  maxMag : Nat
  signAt : Nat
  emaxel : Int
  deriving DecidableEq, Repr

def mxElem (fmt : Nat) : MxElem :=
  match fmt with
  | 0 => ⟨0, -6, 127, 7, 0⟩
  | 1 => ⟨4, -9, 0x7E, 7, 8⟩
  | 2 => ⟨3, -16, 0x7B, 7, 15⟩
  | _ => ⟨2, -1, 7, 3, 2⟩

/-- The scale exponent of AUTO mode (R113). -/
def autoScale (fmt : Nat) (xs : List W32) : Int :=
  let tops := xs.filterMap fun x =>
    match unpack fp32 x.toNat with
    | .fin _ m e => if m = 0 then none else some (e + (Nat.log2 m : Int))
    | _ => none
  match tops with
  | [] => 0
  | t :: r => clampTo (-127) 127 (r.foldl max t - (mxElem fmt).emaxel)

/-- One lane narrowed at scale exponent `xe` (R114); `none` is out of range. -/
def narrowLane (fmt : Nat) (auto : Bool) (xe : Int) (x : W32) : Option Nat :=
  match unpack fp32 x.toNat with
  | .fin neg m e =>
    if fmt = 0 then
      let n := scaledRne (.fin neg m e) (xe - 6)
      if n > 127 then (if auto then some 127 else none)
      else if n < -128 then none
      else some (BitVec.ofInt 8 n).toNat
    else
      let f := mxElem fmt
      let top : Int := e + Nat.log2 m
      let q := max (top - (f.prec - 1)) (f.qmin + xe)
      let r := roundAt 0 neg m e false q
      let mag := if m = 0 then 0 else (q - f.qmin - xe).toNat * 2 ^ (f.prec - 1) + r.1
      let sign := if neg then 2 ^ f.signAt else 0
      if mag > f.maxMag then (if auto then some (sign + f.maxMag) else none) else some (sign + mag)
  | _ => none

/-- A block narrowed: its scale byte, and the code of each lane, or none for an errata entry. -/
def narrowBlock (fmt : Nat) (auto : Bool) (fixed : Nat) (xs : List W32) : Nat × List (Option Nat) :=
  if auto then
    let xe := autoScale fmt xs
    ((xe + 127).toNat, xs.map (narrowLane fmt true xe))
  else if fixed = 255 then (255, xs.map fun _ => none)
  else (fixed, xs.map (narrowLane fmt false ((fixed : Int) - 127)))

/-- The element bytes of a block; two E2M1 codes share a byte (R103). -/
def packCodes (fmt : Nat) (cs : List Nat) : List Byte :=
  if fmt = 3 then (List.range 16).map fun i => BitVec.ofNat 8 (cs.getD (2 * i) 0 + 16 * cs.getD (2 * i + 1) 0)
  else cs.map (BitVec.ofNat 8)

end Sys2Proof.Machine
end

