-- ==== Sys2Proof/Machine/State.lean ====
section
/-! DEFINITION. The whole state of the part as plain data, the reasons a step can stop, and the state after
reset. Sparse tables stand for the per-core, per-quire, per-context and per-partition state: an absent
entry reads as its reset value. A strand's `startedAt` is a number of its own for every strand. -/

namespace Sys2Proof.Machine

/-- Reasons for which the part itself stops. -/
inductive Fault where
  /-- Raised by every step after a junction has reached 110 degrees: the package has removed its power
  (R362). Safe: nothing runs. -/
  | packageStopped
  deriving DecidableEq, Repr

/-- Reasons for which the model has no answer. -/
inductive Refusal where
  /-- Raised by an arm of `exec` that has no meaning yet. Safe: nothing is claimed of it. -/
  | notModelled (mnemonic : String)
  deriving DecidableEq, Repr

/-! ## Strands -/

/-- The registers a checkpoint keeps (R154): s0-s15, v0-v31, k1-k7, the flags word and pc (R75, R78, R79). -/
structure Regs where
  s : Vector Word 16
  v : Vector VReg 32
  k : Vector W32 7
  flags : Word
  pc : Word
  deriving DecidableEq, Repr

def Regs.zero : Regs :=
  { s := Vector.replicate 16 0, v := Vector.replicate 32 (Vector.replicate 32 0), k := Vector.replicate 7 0,
    flags := 0, pc := 0 }

/-- A write of a register when a result lands (R191). -/
inductive RegWrite where
  | s (n : BitVec 5) (val : Word)
  | v (n : BitVec 5) (val : VReg) (mask : W32)
  | sticky (f : Word)
  deriving DecidableEq, Repr

/-- A descriptor of the deque (R53, R209): what the child starts with, and its join counter. -/
structure Desc where
  pc : Word
  regs : List Word
  flags : Word
  budget : Word
  counted : Bool
  classBudget : Word
  task : Nat
  clsType : Word
  msg : Word
  state : Word
  keyLo : Word
  keyHi : Word
  part : Nat
  ctx : Nat
  code : Word
  codeLim : Word
  cbank : Word
  counter : Nat × Nat
  deriving DecidableEq, Repr

/-- What an instruction in its window waits for (R191): a journal entry, an outbound entry, or an entry of an engine's queue. -/
inductive Want where
  | journal (p : PostedStore) (va : Word) (width : Nat)
  | outbound (msg : Msg)
  | queue (engine : Nat) (d : BitVec 5) (words : List W32) (x : CmdCtx)
  deriving DecidableEq, Repr

/-- An effect held to its chunk's commit (R160). A store whose home has not answered its check has no grant yet (R422); `wants`
stands for the effect of an instruction that waits for its resource (R191). -/
inductive Held where
  | wants (tag : Nat) (w : Want)
  | store (va : Word) (data : List Byte) (g : Option Grant)
  | scratch (off : Nat) (data : List Byte) (setFull : Bool)
  | fullBits (set clr : NatSet)
  | posted (p : PostedStore)
  | nontemporal (va : Word) (data : List Byte) (g : Option Grant)
  | send (entry : Nat) (msg : Msg)
  | spawn (tag target : Nat) (slot : Option Nat) (child : Launch)
  | command (engine : Nat) (words : List W32) (x : CmdCtx)
  | fork (off : Nat) (d : Desc)
  | pop (d : Desc)
  | decrement (core off : Nat)
  | csr (sel : Nat) (val : Word)
  | ctxsw (scope : Nat) (val : Word)
  | resume (slot : Nat)
  | sample (tag : Nat) (r : SampReq)
  | catIns (index : Nat) (e : CatEntry)
  | catDel (index : Nat)
  | give (tag : Nat) (g : Give)
  | solicit (tag part slot : Nat) (q : Solicit)
  | collect (c : CensusId)
  | maintain (kind : Nat) (base len : Word)
  | endStrand
  | joinEnd
  | migrate (addr : Word)
  | dropReply
  deriving DecidableEq, Repr

/-- A monitor (R288, R289): the sector and the latched event codes. -/
structure Monitor where
  va : Word
  onScratch : Bool
  events : NatSet
  first : Option Nat
  id : Nat
  deriving DecidableEq, Repr

/-- A saved joiner frame (R212). -/
structure Frame where
  s : Vector Word 16
  flags : Word
  pc : Word
  counter : Option (Nat × Nat)
  deriving DecidableEq, Repr

/-- A chunk (R153-R155): its checkpoint, signatures, held effects in program order and bundle count.
`granted` holds the cycle at which a granted commit takes effect (R156). `done` and `vec` are what the strand
keeps of a partly performed vector access when the chunk starts (R406), `scale` and `mon` its SCALEBASE and its monitor (R85, R157), `frames`
and `counter` its saved frames and its join counter (R212).
`bundle` is the first bundle, and `hit` says that a commit has written what a chunk of one bundle has read (R158). `squashes` counts how often it has been
squashed in a row (R158), `alone` says that its one bundle has been performed (R162), and `inOrder` that its loads are waited for, since one of them
has faulted behind its window (R394). -/
structure Chunk where
  id : Nat
  check : Regs
  jobLast : Word
  done : W32
  vec : Option VReg
  reads : NatSet
  writes : NatSet
  held : List Held
  count : Nat
  granted : Option Nat
  scale : Word
  mon : Option Monitor
  frames : List Frame
  counter : Option (Nat × Nat)
  bundle : Option Bundle
  hit : Bool
  squashes : Nat
  alone : Bool
  inOrder : Bool
  deriving DecidableEq, Repr

/-- A lookahead window (R191): what it will write, or nothing yet, and the bundles that may still issue. -/
structure Window where
  tag : Nat
  chunk : Nat
  dests : List Dest
  left : Nat
  due : Nat
  writes : Option (List RegWrite)
  deriving DecidableEq, Repr

/-- What follows a completed release (R166-R170, R252, R284). -/
inductive After where
  | go
  | acquire (scope : Nat)
  | arrive (b : BarKey) (desc : Word)
  | answer (c : CensusId) (val : Word)
  deriving DecidableEq, Repr

/-- What a sleeping strand is woken by: a line, remote elements (R127), and so on. -/
inductive SleepOn where
  | fill (line : Nat)
  | remote
  | sector (n : Nat)
  | counter (off : Nat)
  | monitor
  | job (id : BitVec 16)
  | census (c : CensusId)
  | barrier (b : BarKey) (phase : Nat)
  deriving DecidableEq, Repr

/-- What a strand's next bundle waits for; `waking` when the bundle that slept ends its sleep in this cycle (R336, R341), `faulting` while a fault is not yet reported (R394), `stopped` from its report on (R403). -/
inductive Wait where
  | ready
  | untilCycle (t : Nat)
  | committed
  | release (scope : Nat) (next : After)
  | drained (scope : Nat)
  | maintained
  | asleep (on : SleepOn)
  | waking
  | faulting
  | stopped
  deriving DecidableEq, Repr

/-- The constant buffer's copy (R81): arrived, wanted, asked for at its home or in another core's store with the words that have come back,
or faulted. -/
inductive CopyState where
  | present
  | wanted
  | asked
  | remote (got : List (Nat × Word))
  | faulted (f : FaultInfo)
  deriving DecidableEq, Repr

/-- What a stalled bundle has received (log entry 5): data of lines, remote elements by lane, a fault; or what it
has asked of a remote core, an atomic that has been sent among it. -/
inductive Received where
  | line (va : Word) (bytes : List Byte) (g : Grant)
  | element (lane : Nat) (va : Word) (val : Word)
  | asked (lane : Nat) (va : Word)
  | sent (lane : Nat) (va : Word)
  | fault (f : FaultInfo)
  deriving DecidableEq, Repr

/-- A load that has issued behind its window and misses the L1 (R191): its window, its chunk with the effects held before it, its word, what it
reads besides memory as it stood at its issue, the line it waits for, what has come, and whether it is to go on. -/
structure Pending where
  tag : Nat
  chunk : Nat
  held : Nat
  instr : Instr
  regs : Regs
  cbuf : List Word
  scale : Word
  line : Nat
  got : List Received
  ready : Bool
  deriving DecidableEq, Repr

/-- A strand in its slot (R49-R52). `known` holds what homes have answered to the checks of its stores (R394, R422): a fault, or a
page with O = 1. `ntOut` holds its non-temporal stores that no home has acknowledged, by number, `ntDone` the lines of those since its last
`drain` (R173), `podWrites` the OWNED peer lines it has written since its last release at pod scope, and whether by a non-temporal store (R166, R173). -/
structure Strand where
  part : Nat
  ctx : Nat
  kind : StartKind
  regs : Regs
  keyLo : Word
  keyHi : Word
  clsType : Word
  msg : Word
  state : Word
  budget : Word
  budgetAt : Nat
  counted : Bool
  budgetStart : Word
  spent : Bool
  jobLast : Word
  scaleBase : Word
  cbank : Word
  cbuf : List Word
  copy : CopyState
  code : Word
  codeLim : Word
  task : Nat
  startedAt : Nat
  counter : Option (Nat × Nat)
  frames : List Frame
  monitor : Option Monitor
  wait : Wait
  opened : Chunk
  closed : List Chunk
  windows : List Window
  pending : List Pending
  tag : Nat
  fault : Option FaultInfo
  asyncFaults : List FaultInfo
  doneLanes : W32
  vecBefore : Option VReg
  byUpcall : Bool
  received : List Received
  known : List Received
  ntOut : List (Nat × Word × List Byte)
  ntDone : List (Nat × Nat)
  podWrites : List (Nat × Bool)
  unackedWrites : Nat
  unackedStores : Nat
  unackedPod : Nat
  unackedMaint : Nat
  solo : Nat
  row : Option (Nat × Nat)
  jobWait : Option (BitVec 16 × Word)
  back : Option Regs
  deriving DecidableEq, Repr

def Chunk.empty (id : Nat) (r : Regs) (jobLast : Word) : Chunk :=
  { id := id, check := r, jobLast := jobLast, done := 0, vec := none, reads := [], writes := [], held := [], count := 0,
    granted := none, scale := 0, mon := none, frames := [], counter := none, bundle := none, hit := false, squashes := 0, alone := false, inOrder := false }

/-- A strand slot's default: what reads of an empty slot see. -/
def Strand.none : Strand :=
  { part := 0, ctx := 0, kind := .message, regs := Regs.zero, keyLo := 0, keyHi := 0, clsType := 0, msg := 0,
    state := 0, budget := 0, budgetAt := 0, counted := false, budgetStart := 0, spent := false, jobLast := 0,
    scaleBase := 0, cbank := 0, cbuf := [], copy := .present, code := 0, codeLim := 0, task := 0,
    startedAt := 0, counter := .none, frames := [], monitor := .none, wait := .ready,
    opened := Chunk.empty 0 Regs.zero 0, closed := [], windows := [], pending := [], tag := 0, fault := .none,
    asyncFaults := [], doneLanes := 0, vecBefore := .none, byUpcall := false, received := [],
    known := [], ntOut := [], ntDone := [], podWrites := [], unackedWrites := 0, unackedStores := 0, unackedPod := 0, unackedMaint := 0, solo := 0, row := .none,
    jobWait := .none, back := .none }

/-! ## Cores -/

/-- A line of an L1 (R130) in its way: clean bytes by offset, valid sectors, what its leaf says, and whether an invalidation is pending
(R166). A line that a store has allocated has neither sectors nor rights. -/
structure L1Line where
  part : Nat
  line : Nat
  way : Nat
  data : Mem
  valid : NatSet
  g : Grant
  pending : Bool
  deriving DecidableEq, Repr

/-- An entry of the posted-store journal (R129); `refused` from its refusal to the report (R411). -/
structure Posted where
  slot : Nat
  va : Word
  width : Nat
  chunk : Nat
  startedAt : Nat
  task : Nat
  refused : Bool
  deriving DecidableEq, Repr

/-- An upcall that waits for its slot (R407): the stopped strand's slot, the cycle of its first bundle at the earliest, what it starts with. -/
structure Upcall where
  slot : Nat
  due : Nat
  launch : Launch
  deriving DecidableEq, Repr

/-- Phases of an actor slot (R33-R39). -/
inductive SlotPhase where
  | filling | live | retiring | moving
  deriving DecidableEq, Repr

/-- An actor slot of a core (R33-R39); `noticed` is set when an ASLOT write has told the home of its retirement (R33). -/
structure ActorSlot where
  actor : ActorId
  phase : SlotPhase
  entry : ClassEntry
  slice : Nat
  dirIndex : Nat
  lastUse : Nat
  head : Option Msg
  next : Option ActOrder
  noticed : Bool
  deriving DecidableEq, Repr

/-- A message in an arrival queue (R44): the actor's message, or the message of a task of no actor. -/
structure Arrival where
  number : Nat
  actor : ActorId
  slot : Nat
  msg : Msg
  entry : ClassEntry
  deriving DecidableEq, Repr

/-- A job of a core (R262, R263). -/
structure Job where
  id : BitVec 16
  status : Option Word
  deriving DecidableEq, Repr

/-- A census at a core that has processed it (R303, R305): responder tasks that have not ended, GIVEs whose
acknowledgement it waits for, and the answers so far. -/
structure CoreCensus where
  id : CensusId
  live : Nat
  gives : List Nat
  answers : List CenAnswer
  sent : Bool
  deriving DecidableEq, Repr

/-- A GIVE that has been installed and whose acknowledgement waits for responders (R306). -/
structure GiveIn where
  tag : Nat
  src : Nat
  live : Nat
  answers : List CenAnswer
  deriving DecidableEq, Repr

/-- A decode table that an `ltab` has read and its core has not switched to: the cycle of the switch, and the chunk of
the `ltab` (R240). -/
structure TableSwitch where
  due : Nat
  chunk : Nat
  entries : List (BitVec 19)
  deriving DecidableEq, Repr

/-- A message that has its channel's number, with the package and slice of its home (R28, R41). -/
structure Numbered where
  pkg : Nat
  home : Nat
  packet : Packet
  deriving DecidableEq, Repr

/-- An entry of the outbound queue (R214, R328): when it was filled, and the message once its chunk has committed and it has not been injected. -/
structure Outbound where
  fill : Nat
  ready : Option Numbered
  deriving DecidableEq, Repr

/-- The registers and structures of a core (R84-R91, R118-R132). -/
structure Core where
  slots : Table Strand
  serials : Table Nat
  reserved : List Nat
  store : Mem
  full : NatSet
  wayMask : Word
  frecBase : Word
  frecWritten : Bool
  aslot : Word
  aslotWritten : Bool
  coresched : Word
  ctxRun : Word
  ctxReq : Word
  engFlt0 : Word
  engFlt1 : Word
  table : List (BitVec 19)
  tables : List TableSwitch
  lsprot : Table Word
  l1 : List L1Line
  fills : List (Nat × Nat)
  deque : List Desc
  dequeReserved : Nat
  lowQ : List Arrival
  highQ : List Arrival
  starts : List Launch
  upcalls : List Upcall
  actors : Table ActorSlot
  orders : List ActOrder
  outbound : Table Outbound
  injected : Option Nat
  journal : Table Posted
  journalNext : Nat
  catalogue : Table CatEntry
  catReserved : List Nat
  seen : List (Nat × Nat)
  cens : List CoreCensus
  early : List CenAnswer
  givesOut : List Nat
  givesIn : List GiveIn
  aslotTo : Option Word
  aslotBy : List Nat
  maskBy : List Nat
  orderedAt : Option Nat
  trigger : Option W32
  lowSent : Nat
  highSent : Nat
  retFaults : List (Nat × Nat × BitVec 16)
  jobSeq : Nat
  jobs : List Job
  staging : Table Mem
  edition : W32
  recordSeq : Word
  lastIssue : Option Nat
  pointers : Table Nat
  starved : Table Nat
  raised : Nat
  deriving DecidableEq, Repr

def Core.reset : Core :=
  { slots := [], serials := [], reserved := [], store := [], full := [], wayMask := 0xFF00, frecBase := 0,
    frecWritten := false, aslot := 0, aslotWritten := false, coresched := 0x10240, ctxRun := BitVec.allOnes 64,
    ctxReq := BitVec.allOnes 64, engFlt0 := 0, engFlt1 := 0, table := resetTable, tables := [], lsprot := [], l1 := [], fills := [],
    deque := [], dequeReserved := 0, lowQ := [], highQ := [], starts := [], upcalls := [], actors := [],
    orders := [], outbound := [], injected := none, journal := [], journalNext := 0, catalogue := [], catReserved := [],
    seen := [], cens := [], early := [], givesOut := [], givesIn := [], aslotTo := none, aslotBy := [], maskBy := [], orderedAt := none, trigger := none,
    lowSent := 0, highSent := 0, retFaults := [], jobSeq := 0, jobs := [], staging := [], edition := 0,
    recordSeq := 0, lastIssue := none, pointers := [], starved := [], raised := 0 }

/-! ## Memory beyond the core -/

/-- A line of the L2 (R130-R139): bytes and valid sectors, dirty bytes, what the leaf says and where its entry lies, if known. A peer line has
`peer`: whether it is OWNED (R138). -/
structure L2Line where
  part : Nat
  line : Nat
  data : Mem
  valid : NatSet
  dirty : NatSet
  g : Grant
  entryPa : Option Nat
  peer : Option Bool
  deriving DecidableEq, Repr

/-- An entry of a walk cache (R147): the covered range, its tags, and the entry as read. -/
structure WalkEntry where
  part : Nat
  ctx : Nat
  global : Bool
  level : Nat
  base : Nat
  size : Nat
  pte : Word
  entryPa : Nat
  deriving DecidableEq, Repr

/-- A committed store of a die on its way to an off-die home (R159). -/
structure SpineWrite where
  part : Nat
  va : Word
  data : List Byte
  seq : Nat
  deriving DecidableEq, Repr

/-- A chunk that asks the commit arbiter for its grant, and since when (R333). -/
structure GrantReq where
  who : Ref
  chunk : Nat
  since : Nat
  deriving DecidableEq, Repr

/-- A die: commit arbiter (R156), walk cache (R147), the queue at the spine port (R159), clock (R362). -/
structure Die where
  requests : List GrantReq
  lastGrant : Option Nat
  walk : List WalkEntry
  spine : List SpineWrite
  spineSeq : Nat
  clockMHz : Nat
  deriving DecidableEq, Repr

def Die.reset : Die :=
  { requests := [], lastGrant := none, walk := [], spine := [], spineSeq := 0, clockMHz := 2500 }

/-- A task (R50): the actor slot it holds, the strand slot whose message line it holds (R34), its live strands and waiting descriptors, the node that reports it (R71), the message that started it and whether it has replied (R304), the census it answers with the catalogue
entry matched (R303), its answer, a GIVE whose acknowledgement waits for it (R306), the head message that waits for
a constructor (R39), and its writes that no home has acknowledged, with the non-temporal stores among them. -/
structure Task where
  part : Nat
  ctx : Nat
  core : Nat
  actor : Option (Nat × Nat)
  line : Option Nat
  live : Nat
  node : Nat
  start : Option Msg
  replied : Bool
  census : Option (CensusId × Nat)
  answer : Option Word
  answered : Bool
  give : Option (Nat × Nat)
  head : Option Msg
  unacked : Nat
  nontemporal : Nat
  ended : Bool
  deriving DecidableEq, Repr

def Task.none : Task :=
  { part := 0, ctx := 0, core := 0, actor := .none, line := .none, live := 0, node := 0, start := .none, replied := false,
    census := .none, answer := .none, answered := false, give := .none, head := .none, unacked := 0, nontemporal := 0, ended := false }

/-! ## Censuses and samplers -/

/-- A census slot of a partition (R302-R307): the sequence last allocated, the census it holds, the cores in its
scope that have not sent DONE, the answers so far, whether it has completed or timed out, and the strands asleep at its
completion that have not collected it. -/
structure Census where
  seq : Nat
  open_ : Bool
  sent : Bool
  complete : Bool
  timedOut : Bool
  q : Option Solicit
  left : List Nat
  counted : Nat
  answers : List CenAnswer
  due : List Ref
  deriving DecidableEq, Repr

def Census.reset : Census :=
  { seq := 0, open_ := false, sent := false, complete := false, timedOut := false, q := none, left := [], counted := 0, answers := [], due := [] }

/-- The arrivals a quire has counted in a phase of a barrier, and the descriptor its first one fixed (R286). -/
structure BarCount where
  phase : Nat
  quire : Nat
  desc : Word
  n : Nat
  deriving DecidableEq, Repr

/-- A barrier (R286, R379): its phase, counts, and whether its release is on its way. -/
structure Barrier where
  key : BarKey
  phase : Nat
  counts : List BarCount
  releasing : Bool
  deriving DecidableEq, Repr

/-- An entry of a candidate list (R320): token, signed Q32.32 value, Q1.31 weight. -/
structure Cand where
  token : Nat
  value : Int
  weight : Nat
  deriving DecidableEq, Repr

/-- A request as it runs or is parked (R318, R323): its program counter, registers, instructions run, tokens emitted,
and the cycle from which its next instruction runs. -/
structure Run where
  req : SampReq
  order : Nat
  pc : Nat
  g : Vector Word 16
  count : Nat
  emitted : List W32
  due : Nat
  deriving DecidableEq, Repr

/-- A place of a sampler's queue (R318): a request in acceptance order, and its run if it is parked, with whether it can
resume. -/
structure Waiting where
  req : SampReq
  order : Nat
  parked : Option Run
  ready : Bool
  deriving DecidableEq, Repr

/-- An Astrolabe sampler (R317-R327, R360): program store, context images, candidate lists, queue, the number the next
request takes, the partitions of the places reserved, the run in progress, HOLD, and the SAMPOWN bytes. -/
structure Sampler where
  store : Table W32
  images : Table (Table Word)
  lists : Table (List Cand)
  queue : List Waiting
  order : Nat
  reserved : List Nat
  running : Option Run
  hold : Bool
  own : Table Byte
  deriving DecidableEq, Repr

def Sampler.reset : Sampler :=
  { store := [], images := [], lists := [], queue := [], order := 0, reserved := [], running := none, hold := true, own := [] }

/-! ## The Ephemeris -/

/-- The states of an Ephemeris entry (R35). -/
inductive EphPhase where
  | activating | live | retiring | moving
  deriving DecidableEq, Repr

/-- An Ephemeris entry (R35): the core it was sent to or is live on, its pending queue, how many messages at its front
have been returned (the head rule), the ranking of its order's candidates and whether it is R37's fallback, those of them that have refused the order and those that are unfit for
it (R37, R369: quires under SPREAD, cores otherwise), and the cycle of its READY or MOVED report (R30). -/
structure Eph where
  actor : ActorId
  phase : EphPhase
  core : Nat
  index : Nat
  pend : List Msg
  heads : Nat
  ranking : List Nat
  fallback : Bool
  refused : List Nat
  unfit : List Nat
  liveAt : Nat
  deriving DecidableEq, Repr

/-- A message that a home holds for a core whose queue is full (R45). -/
structure Forward where
  core : Nat
  actor : ActorId
  msg : Msg
  deriving DecidableEq, Repr

/-- A home slice's share of the Ephemeris (R29): its entries, the packets that have arrived and are not accepted, the
next number of each channel (R42), the messages it holds (R45), the core chosen last for LOCAL (R37), the quire chosen
last for a class without room (R37), the actors asked in this round, whether one runs and when the next starts (R30), the cycle of its last
lookup (R329), whether it waits to
switch to an edition and the events that would start a transition meanwhile (R294), and its edition. -/
structure Slice where
  ephs : List Eph
  arrived : List Packet
  nextSeq : List (Sender × Nat)
  forwards : List Forward
  lastCore : Nat
  fallback : List ((Nat × BitVec 16) × Nat)
  asked : List ActorId
  asking : Bool
  roundAt : Option Nat
  lookedAt : Option Nat
  switching : Bool
  heldReports : List Event
  edition : W32
  deriving DecidableEq, Repr

def Slice.reset : Slice :=
  { ephs := [], arrived := [], nextSeq := [], forwards := [], lastCore := 3, fallback := [], asked := [], asking := false, roundAt := none, lookedAt := none,
    switching := false, heldReports := [], edition := 0 }

/-- A quire's record at the master distributor (R66). Records are kept by quire, and under 1024 + die the one record that
every quire of the die without an entry has sent. -/
structure QuireRecord where
  freeLo : Nat
  freeHi : Nat
  freeAct : Nat
  maxSize : Nat
  fitSize : Nat
  mxCost : Nat
  cpCost : Nat
  deriving DecidableEq, Repr

def QuireRecord.none : QuireRecord :=
  { freeLo := 0, freeHi := 0, freeAct := 0, maxSize := 0, fitSize := 0, mxCost := 0, cpCost := 0 }

/-! ## Contexts and partitions -/

/-- The registers of a context (R23, R71, R72, R87, R142, R313), its watchdog (R72, R377), and the expert class and
fallback field that its homes hold (R313). -/
structure Context where
  upcall : Word
  clsTab : Word
  clsNum : Word
  graphBase : Word
  wdogWin : Word
  expcap : Word
  ttroot : Word
  lastPulse : Nat
  silent : Bool
  expert : Option (BitVec 16 × BitVec 16)
  deriving DecidableEq, Repr

def Context.reset : Context :=
  { upcall := 0, clsTab := 0, clsNum := 0, graphBase := 0, wdogWin := 0, expcap := 0, ttroot := 0, lastPulse := 0,
    silent := false, expert := none }

/-- The registers of a partition (R88, R134, R136, R344, R346, R347 with the words of its MSI-X table, R358, R359, R365, R378), its censuses, whether it
is in the checkpoint state (R390), the edition it is returning to (R299), and the `hmset`s under way with the slices that have not adopted the first one's
value (R137, R227), and the packets of the open edition that units which have not switched hold unprocessed (R294). -/
structure Partition where
  hmask : Word
  plimit : Word
  hmapB : Table Word
  hmapL : Table Word
  podN : Word
  podHome : Table Word
  pctl : Word
  phbm : Word
  hwinBase : Word
  notifyVal : Word
  evBase : Word
  evCnt : Word
  coltmo : Word
  msixTable : Table Word
  edition : W32
  census : Table Census
  censusQueue : List (Ref × Nat × Solicit)
  checkpoint : Bool
  restoring : Option W32
  hmsets : List (Ref × Word)
  adoptLeft : List Nat
  ahead : List (UnitId × Event)
  deriving DecidableEq, Repr

def Partition.reset : Partition :=
  { hmask := 0xFFFF, plimit := 0xB0008, hmapB := [], hmapL := [], podN := 0, podHome := [], pctl := 0, phbm := 0,
    hwinBase := 0, notifyVal := 0, evBase := 0, evCnt := 0, coltmo := 0, msixTable := [], edition := 0, census := [], censusQueue := [], checkpoint := false, restoring := none, hmsets := [],
    adoptLeft := [], ahead := [] }

/-! ## Quires -/

/-- A command in an input queue (R259), and the cycle at which it is there (R68). -/
structure Queued where
  words : List W32
  x : CmdCtx
  due : Nat
  deriving DecidableEq, Repr

/-- How far a row of a DRAIN has come (R272): it waits for a slot, its epilogue runs, or has ended with its v31,
its output waits for empty sectors, or has landed. -/
inductive RowPhase where
  | waiting | running | ended (v31 : VReg) | writing | landed
  deriving DecidableEq, Repr

/-- A row that has been taken out of a tile (R58, R272): when, the row registers of R273, and the task of its epilogue strand (R50). -/
structure DrainRow where
  taken : Nat
  regs : List (Nat × VReg)
  phase : RowPhase
  task : Nat
  deriving DecidableEq, Repr

/-- A DRAIN in progress (R271, R272): what it captured, the rows taken out, the cycle of the last take-out, and the
cycle at which the last output write is acknowledged. -/
structure Drain where
  x : CmdCtx
  c : DrainCmd
  et : Int
  sat : Bool
  rows : List DrainRow
  lastTake : Option Nat
  ackDue : Nat
  fault : Option (EventCode × Word × Nat)
  deriving DecidableEq, Repr

/-- An engine write that waits for an empty sector (R257): the core, the sector's offset, the bytes within it, and
the address named in a fault. -/
structure EngineWrite where
  core : Nat
  off : Nat
  data : List (Nat × Byte)
  va : Word
  deriving DecidableEq, Repr

/-- An engine of a quire (R259): queues 0-3 of the cores and 4 of the command processor, the entries reserved in
them, the queue served last, the command in progress, its cost (R67), its writes that wait for empty sectors, how
it will end and no earlier than when, a DRAIN's rows, and the bytes that the command has written of sectors by core and sector (R124). -/
structure Engine where
  queues : Table (List Queued)
  reserved : Table Nat
  last : Nat
  running : Option CmdCtx
  cost : Nat
  waiting : List EngineWrite
  ends : Option (JobEnd × Nat)
  drain : Option Drain
  written : List ((Nat × Nat) × NatSet)
  deriving DecidableEq, Repr

def Engine.reset : Engine :=
  { queues := [], reserved := [], last := 4, running := none, cost := 0, waiting := [], ends := none, drain := none, written := [] }

/-- A command in a Folio decoder's queue (R278), and once it runs when it ends and how: the fault, the reason of R357, the
patches and the bytes written. -/
structure DecodeJob where
  x : CmdCtx
  c : DecodeCmd
  due : Nat
  result : Option (Option (EventCode × Word × Nat) × Nat × Nat × Nat)
  deriving DecidableEq, Repr

/-- The partition that an ownership byte names (R345, R359, R360): bit 7 is V. -/
def ownerOf (b : Byte) : Option Nat := if b.getLsbD 7 then some (b.toNat % 32) else none

/-- A quire: its QOWN byte (R359), precision registers (R83), tiles (R82), engines (R259). -/
structure Quire where
  own : Byte
  zp : Table Word
  tiles : Table (Table Elem)
  engines : Table Engine
  deriving DecidableEq, Repr

def Quire.owner (q : Quire) : Option Nat := ownerOf q.own

def Quire.reset : Quire := { own := 0, zp := [], tiles := [], engines := [] }

/-- A packet that has left through an Orrery port (R348-R350): a request for a line of another package, or for OWNED of it (R138), a
message, a strand's image (R56, R90), the dirty bytes of a line for its owner, a grant or a refusal to another package (R139), the recall of a line from
it on behalf of a write, the answer to a recall, the result of an access to a page with O = 1 (R148), a collective (R385), a marker (R295), a line that moves (R151) and
its acknowledgement, a `tinv` and its acknowledgement (R226). What the other package does is
outside the model: what it answers reaches this one as a HOME_REQUEST or a HOME_ACKNOWLEDGEMENT. -/
inductive FabricPacket where
  | request (pkg : Nat) (r : HomeReq)
  | own (pkg part line by_ : Nat)
  | message (pkg : Nat) (p : Packet)
  | migrant (pkg part : Nat) (m : Msg)
  | writeBack (pkg part line : Nat) (data : List (Nat × Byte)) (ack : Option (Ref × AckKind × Nat × Nat))
  | grant (pkg part line : Nat) (owned : Bool) (data : List Byte) (g : Grant)
  | recall (pkg part line : Nat) (ack : Option (Ref × AckKind × Nat × Nat))
  | refused (pkg part line : Nat) (f : FaultInfo)
  | recalled (pkg part line : Nat)
  | value (pkg part : Nat) (who : Ref) (lane : Nat) (va : Word) (res : RemoteAnswer)
  | collective (pkg part : Nat) (loss : Bool) (info : Word) (detail : List Byte)
  | marker (pkg part : Nat) (edition : W32) (count : Nat)
  | line (pkg part line : Nat) (data : List Byte)
  | moved (pkg part line : Nat)
  | tinv (pkg part kind : Nat) (ctx va : Nat) (ack : Ref × Nat × Nat)
  | tinvDone (pkg part : Nat) (ack : Ref × Nat × Nat)
  deriving DecidableEq, Repr

/-- A packet with its header (R350), whose kind is the body's, and the port it has left by. -/
structure Flight where
  dst : Nat
  src : Nat
  part : Nat
  vc : Nat
  edition : BitVec 16
  flits : Nat
  port : Nat
  body : FabricPacket
  deriving DecidableEq, Repr

/-- Flits queued at a port in a virtual channel until they are sent (R349). -/
structure PortFlits where
  port : Nat
  vc : Nat
  flits : Nat
  due : Nat
  deriving DecidableEq, Repr

/-- The flows whose packets arrive in the order they left (R41, R42, R85, R128, R159, R318). -/
inductive Channel where
  | posted (src target : Nat)
  | spine (die slice : Nat)
  | message (sender : Sender) (slice : Nat)
  | activation (slice : Nat) (actor : ActorId)
  | report (core slice : Nat) (actor : ActorId)
  | sample (core sampler : Nat)
  | registers (die : Nat)
  deriving DecidableEq, Repr

/-- What became of the bundle that executes: it waits, it has issued, it has issued and ends its chunk, it has been performed as a chunk of its own
(R153, R162), or has been performed at a page with O = 1, which waits for no grant (R163). -/
inductive Issue where
  | no | goes | ends | alone | strong
  deriving DecidableEq, Repr

/-- A host port (R46-R48) with its PORTOWN byte (R345). -/
structure Port where
  own : Byte
  bind : Word
  key0 : Word
  key1 : Word
  posted : Nat
  accepted : Nat
  slots : Table Mem
  held : List (Nat × List Byte)
  deriving DecidableEq, Repr

def Port.owner (p : Port) : Option Nat := ownerOf p.own

def Port.reset : Port :=
  { own := 0, bind := 0, key0 := 0, key1 := 0, posted := 0, accepted := 0, slots := [], held := [] }

/-- A line's pod directory entry at its owner (R139): the packages that hold it, all of the partition's when they are more than
eight, whether the one that holds it has it OWNED, and how many have not answered a recall. -/
structure PodEntry where
  part : Nat
  line : Nat
  holders : List Nat
  owned : Bool
  acks : Nat
  deriving DecidableEq, Repr

/-- A granule move (R151): its home-map entry, the next line, and the line locked until its copy is acknowledged. -/
structure HomeMove where
  part : Nat
  n : Nat
  base : Nat
  index : Nat
  deriving DecidableEq, Repr

/-- What a unit has recorded at its switch (R294). -/
inductive UnitRecord where
  | core (c : Core) (tasks : Table Task)
  | slice (x : Slice)
  | engines (q : Quire)
  | node (b : List Barrier) (c : Table Census)
  | sampler (x : Sampler)
  | base (c : Table Context) (accepted : Table Nat)
  deriving DecidableEq, Repr

/-- A copied leaf (R296): its entries as they stood, its size and its page's address. -/
structure PageCopy where
  entries : List (Nat × Word)
  size : Nat
  page : Word
  deriving DecidableEq, Repr

/-- An edition (R291-R299): its header and whose address space it lies in, STATE, the partition registers at the cut, the
records made, the units that have not switched and those of them whose marker has arrived, the channel record, and the pages copied. -/
structure Edition where
  part : Nat
  n : W32
  header : Word
  ctx : Nat
  state : Nat
  records : List (UnitId × UnitRecord)
  left : List UnitId
  marked : List UnitId
  channel : List (UnitId × Event)
  pages : List PageCopy
  hmask : Word
  plimit : Word
  deriving DecidableEq, Repr

/-- What a step does to the events that are due: nothing, or it drops all of them or those of a partition (R299, R358,
R363, R388), or answers under a translation that has been removed (R226). -/
inductive Flush where
  | keep | all | part (p : Nat) | drop (es : List Event)
  deriving DecidableEq, Repr

/-! ## The part -/

/-- Everything the part holds. The fields of the last group are the model's own: time, pending events,
the packet
at hand, the strand whose bundle executes, the sampler whose word executes, the registers as they stood before the bundle, what became of it,
the times of the last packets of each flow, fresh identities, and the counter that draws free values. -/
structure State where
  cores : Table Core
  quires : Table Quire
  dies : Table Die
  hbm : Mem
  l2 : List L2Line
  contexts : Table Context
  partitions : Table Partition
  samplers : Table Sampler
  decoders : Table (List DecodeJob)
  slices : Table Slice
  chseq : List ((Sender × Nat) × Nat)
  records : Table QuireRecord
  tasks : Table Task
  pkgid : Nat
  barriers : List Barrier
  ports : Table Port
  minthr : Word
  corrected : Nat
  uncorrected : Nat
  deven : Table Word
  started : Bool
  mailbox : List Byte
  portsUp : NatSet
  lostLinks : List (Nat × Nat)
  portFlits : List PortFlits
  pathNext : Table Nat
  moves : List HomeMove
  podDir : List PodEntry
  peerWait : List HomeReq
  cowQueue : List CowWrite
  migrants : List (Nat × Launch)
  cpBusy : Nat
  capBusy : Nat
  editions : List Edition
  hostReads : List (Nat × List Byte)
  fabricOut : List Flight
  msix : List (Nat × Nat)
  halted : Bool
  now : Nat
  agenda : List (Nat × Nat × Event)
  sent : List (Nat × Event)
  flush : Flush
  ev : Event
  cur : Ref
  smp : Nat
  latch : Option Regs
  issue : Issue
  channels : List (Channel × Nat)
  ids : Nat
  free : Nat
  deriving DecidableEq, Repr

/-- The periodic reports of R66 and R73 (log entry 2). -/
def resetAgenda : List (Nat × Nat × Event) :=
  (List.range 4).map (fun d => (64, 0, .freeCountReport d)) ++ [(256, 0, .powerManagerExamine true)]

/-- The machine right after reset. -/
def State.reset : State :=
  { cores := [], quires := [], dies := [], hbm := [], l2 := [], contexts := [], partitions := [], samplers := [], decoders := [], slices := [], chseq := [], records := [],
    tasks := [], pkgid := 0,
    barriers := [], ports := [], minthr := 16, corrected := 0, uncorrected := 0, deven := [], started := false,
    mailbox := [], portsUp := [], lostLinks := [], portFlits := [], pathNext := [], moves := [], podDir := [], peerWait := [], cowQueue := [], migrants := [], cpBusy := 0, capBusy := 0, editions := [],
    hostReads := [], fabricOut := [], msix := [], halted := false,
    now := 0, agenda := resetAgenda, sent := [], flush := .keep, ev := .powerGood, cur := ⟨0, 0⟩, smp := 0, latch := none, issue := .no, channels := [],
    ids := 1, free := 0 }

end Sys2Proof.Machine
end

