-- ==== Sys2Proof/Machine/Ops.lean ====
section
/-! DEFINITION. The named operations over the state: byte storage in its canonical form, the registers of the
executing strand, time and events, chunk bookkeeping, and the taking of a strand fault with its return. -/

namespace Sys2Proof.Machine

/-! ## Byte storage -/

/-- What a byte reads as; an unlisted address reads as zero (R363 zeroes memory; log entry 3 for local
stores). -/
def memGet (m : Mem) (a : Nat) : Byte := look 0 a m

/-- One byte written; zero is not listed, so equal contents are equal lists. -/
def memSet : Mem → Nat → Byte → Mem
  | [], a, b => if b = 0 then [] else [(a, b)]
  | (k, v) :: r, a, b =>
    if a < k then (if b = 0 then (k, v) :: r else (a, b) :: (k, v) :: r)
    else if a = k then (if b = 0 then r else (k, b) :: r)
    else (k, v) :: memSet r a b

/-- `n` bytes from `a`. -/
def memLoad (m : Mem) (a n : Nat) : List Byte := (List.range n).map fun i => memGet m (a + i)

/-- Bytes stored from `a`. -/
def memStore (m : Mem) (a : Nat) : List Byte → Mem
  | [] => m
  | b :: r => memStore (memSet m a b) (a + 1) r

/-- `n` zero bytes from `a`. -/
def memZero (m : Mem) (a n : Nat) : Mem := m.filter fun c => !(a ≤ c.1 && c.1 < a + n)

/-- A 64-bit word of a store moved by `d` modulo 2^64 (R209, R211). -/
def memAdd (m : Mem) (a : Nat) (d : Word) : Mem :=
  memStore m a (Bytes.ofNat 8 (BitVec.ofNat 64 (Bytes.toNat (memLoad m a 8)) + d).toNat)

/-- The canonical form: addresses rise strictly and no zero is listed. -/
def Memory.wf : Mem → Bool
  | [] => true
  | [(_, v)] => v != 0
  | (k, v) :: (j, w) :: r => v != 0 && decide (k < j) && Memory.wf ((j, w) :: r)

/-! ## Access to the tables -/

namespace State

def core (s : State) (n : Nat) : Core := look Core.reset n s.cores
def setCore (s : State) (n : Nat) (c : Core) : State := { s with cores := put n c s.cores }
def updCore (s : State) (n : Nat) (f : Core → Core) : State := s.setCore n (f (s.core n))

def strand (s : State) (r : Ref) : Strand := look Strand.none r.slot (s.core r.core).slots
def occupied (s : State) (r : Ref) : Bool := has r.slot (s.core r.core).slots
def setStrand (s : State) (r : Ref) (t : Strand) : State :=
  s.updCore r.core fun c => { c with slots := put r.slot t c.slots }
/-- A change of a strand that still holds its slot. -/
def updStrand (s : State) (r : Ref) (f : Strand → Strand) : State :=
  if s.occupied r then s.setStrand r (f (s.strand r)) else s
def freeSlot (s : State) (r : Ref) : State :=
  s.updCore r.core fun c => { c with slots := drop r.slot c.slots }

def quire (s : State) (n : Nat) : Quire := look Quire.reset n s.quires
def setQuire (s : State) (n : Nat) (q : Quire) : State := { s with quires := put n q s.quires }
def die (s : State) (n : Nat) : Die := look Die.reset n s.dies
def setDie (s : State) (n : Nat) (d : Die) : State := { s with dies := put n d s.dies }
def updDie (s : State) (n : Nat) (f : Die → Die) : State := s.setDie n (f (s.die n))
def partition (s : State) (n : Nat) : Partition := look Partition.reset n s.partitions
def setPartition (s : State) (n : Nat) (p : Partition) : State := { s with partitions := put n p s.partitions }
def updPartition (s : State) (n : Nat) (f : Partition → Partition) : State := s.setPartition n (f (s.partition n))
/-- Contexts are numbered 64·partition + context. -/
def context (s : State) (part ctx : Nat) : Context := look Context.reset (64 * part + ctx) s.contexts
def setContext (s : State) (part ctx : Nat) (c : Context) : State :=
  { s with contexts := put (64 * part + ctx) c s.contexts }
def updContext (s : State) (part ctx : Nat) (f : Context → Context) : State :=
  s.setContext part ctx (f (s.context part ctx))

def engine (s : State) (q e : Nat) : Engine := look Engine.reset e (s.quire q).engines
def updEngine (s : State) (q e : Nat) (f : Engine → Engine) : State :=
  s.setQuire q { s.quire q with engines := put e (f (s.engine q e)) (s.quire q).engines }
/-- A core's queue at an engine has an entry neither occupied nor reserved (R259, R261). -/
def queueFree (s : State) (q engine core : Nat) : Bool :=
  let e := s.engine q engine
  decide ((look [] (core % 4) e.queues).length + look 0 (core % 4) e.reserved < 8)

def sampler (s : State) (n : Nat) : Sampler := look Sampler.reset n s.samplers
def updSampler (s : State) (n : Nat) (f : Sampler → Sampler) : State :=
  { s with samplers := put n (f (s.sampler n)) s.samplers }
def census (s : State) (part slot : Nat) : Census := look Census.reset slot (s.partition part).census
def updCensus (s : State) (part slot : Nat) (f : Census → Census) : State :=
  s.updPartition part fun p => { p with census := put slot (f (look Census.reset slot p.census)) p.census }

def slice (s : State) (n : Nat) : Slice := look Slice.reset n s.slices
def updSlice (s : State) (n : Nat) (f : Slice → Slice) : State := { s with slices := put n (f (s.slice n)) s.slices }
def decoder (s : State) (n : Nat) : List DecodeJob := look [] n s.decoders
def setDecoder (s : State) (n : Nat) (q : List DecodeJob) : State := { s with decoders := put n q s.decoders }
def task (s : State) (n : Nat) : Task := look Task.none n s.tasks
/-- A change of a task that the part still keeps. -/
def updTask (s : State) (n : Nat) (f : Task → Task) : State :=
  if has n s.tasks then { s with tasks := put n (f (s.task n)) s.tasks } else s

/-- The strand whose bundle executes. -/
def me (s : State) : Strand := s.strand s.cur
def setMe (s : State) (t : Strand) : State := s.setStrand s.cur t
def updMe (s : State) (f : Strand → Strand) : State := s.setMe (f s.me)
def myCore (s : State) : Core := s.core s.cur.core
def updMyCore (s : State) (f : Core → Core) : State := s.updCore s.cur.core f

/-! ## Time, events and free values -/

/-- An event sent `delay` cycles from now; `step` merges it into the agenda. -/
def emit (s : State) (delay : Nat) (e : Event) : State := { s with sent := s.sent ++ [(s.now + delay, e)] }

/-- A free value (log entry 1). -/
def draw (s : State) : Word := Config.freeValue s.free
def drawn (s : State) : State := { s with free := s.free + 1 }

/-- An event that crosses shared links: its delay exceeds the unloaded cost by a free contention (R18). -/
def emitNet (s : State) (delay : Nat) (e : Event) : State := (s.emit (delay + s.draw.toNat) e).drawn

/-- An event of a flow that keeps its order: it is never due before the last one of its flow. One that crosses no router arrives in the cycle
it is sent (R329). -/
def emitOrdered (s : State) (k : Channel) (delay : Nat) (e : Event) : State :=
  let last := ((s.channels.find? fun c => c.1 == k).map (·.2)).getD 0
  let due := max (s.now + delay + if delay = 0 then 0 else s.draw.toNat) last
  { s.drawn with sent := s.sent ++ [(due, e)], channels := (k, due) :: s.channels.filter fun c => c.1 != k && decide (s.now < c.2) }

/-- A fresh identity for a window, a chunk or a task. -/
def fresh (s : State) : State := { s with ids := s.ids + 1 }

end State

/-! ## Places (R10, R11, R15) -/

def dieOf (core : Nat) : Nat := core / 1024
/-- The quire of a core, die·256 + quire. -/
def quireOf (core : Nat) : Nat := core / 4
def quireX (q : Nat) : Nat := q % 16
def quireY (q : Nat) : Nat := q % 256 / 16
def spineHops (q : Nat) : Nat := quireX q + quireY q
def absDiff (a b : Nat) : Nat := (a - b) + (b - a)
/-- Cycles for a packet from one quire's router to another's: 2 per hop, and 40 between dies. -/
def travel (p q : Nat) : Nat :=
  if p / 256 = q / 256 then 2 * (absDiff (quireX p) (quireX q) + absDiff (quireY p) (quireY q))
  else 40 + 2 * (spineHops p + spineHops q)
/-- Cycles of a request from a quire to a home slice beyond the 24 of the access itself (R14): the hops, and off the die 40 and the hops of
the home's die. -/
def toSlice (p q : Nat) : Nat := if p / 256 = q / 256 then travel p q else 40 + 2 * spineHops q
def travelCores (a b : Nat) : Nat := travel (quireOf a) (quireOf b)
/-- Cycles between a quire and a base-die unit. -/
def toBase (q : Nat) : Nat := 20 + 2 * spineHops q

namespace State

/-- Something that may start on a core is looked for (R44, R54). -/
def offer (s : State) (core : Nat) : State := s.emit 0 (.taskStart core none)

/-- The same on every core of a quire, the core itself first: its neighbours may steal (R54). -/
def offerQuire (s : State) (core : Nat) : State :=
  (List.range 4).foldl (fun s j => s.offer (core / 4 * 4 + (core + j) % 4)) s

/-- Rows of a DRAIN that wait for a slot are looked for (R58). -/
def offerRows (s : State) (core : Nat) : State :=
  match (s.engine (quireOf core) 0).drain with
  | some d => if d.x.core == some core && d.rows.any (fun r => r.phase == .waiting) then s.emit 0 (.epilogueStart (quireOf core)) else s
  | none => s

/-- A reservation for a spawned child is given up, and its slot is offered to what waits for one (R52, R54, R58). -/
def unreserve (s : State) (core slot : Nat) : State :=
  ((s.updCore core fun c => { c with reserved := c.reserved.erase slot }).offerRows core).offerQuire core

end State

/-! ## Registers -/

/-- Writes of s0-s15; s16-s31 discard (R77). -/
def Regs.setS (r : Regs) (n : BitVec 5) (x : Word) : Regs :=
  if h : n.toNat < 16 then { r with s := r.s.set n.toNat x h } else r

/-- A v register's number is in range. -/
theorem vIndex (n : BitVec 5) : n.toNat < 32 := n.isLt

/-- Lanes of `new` where the mask bit is 1, of `old` elsewhere. -/
def mergeLanes (mask : W32) (new old : VReg) : VReg := lanes fun i => if laneOn mask i then new[i] else old[i]

def Regs.getV (r : Regs) (n : BitVec 5) : VReg := r.v[n.toNat]'(vIndex n)

/-- Lanes of `v[n]` whose mask bit is 1 take the lanes of `x` (R190). -/
def Regs.setV (r : Regs) (n : BitVec 5) (x : VReg) (mask : W32) : Regs :=
  { r with v := r.v.set n.toNat (mergeLanes mask x (r.getV n)) (vIndex n) }

/-- Writes of k1-k7; k0 discards (R78). -/
def Regs.setK (r : Regs) (n : BitVec 3) (x : W32) : Regs :=
  if h : 1 ≤ n.toNat ∧ n.toNat - 1 < 7 then { r with k := r.k.set (n.toNat - 1) x h.2 } else r

def Regs.getK (r : Regs) (n : BitVec 3) : W32 :=
  if h : 1 ≤ n.toNat ∧ n.toNat - 1 < 7 then r.k[n.toNat - 1]'h.2 else BitVec.allOnes 32

def Regs.apply (r : Regs) : RegWrite → Regs
  | .s n x => r.setS n x
  | .v n x m => r.setV n x m
  | .sticky f => { r with flags := r.flags ||| f }

/-- The rounding mode (R79). -/
def rmOf (flags : Word) : Nat := Bits.get flags.toNat 1 0
def privOf (flags : Word) : Bool := flags.getLsbD 16
def cbselOf (flags : Word) : BitVec 16 := flags.extractLsb' 24 16

/-- BUDGET as it stands at cycle `now` (R62): it counts down while the strand holds its slot, and not
while it is stopped. -/
def Strand.budgetNow (t : Strand) (now : Nat) : Word :=
  if t.counted && !t.spent && t.wait != .stopped then BitVec.ofNat 64 (t.budget.toNat - (now - t.budgetAt))
  else t.budget

/-- BUDGET brought up to cycle `now`. -/
def Strand.syncBudget (t : Strand) (now : Nat) : Strand :=
  { t with budget := t.budgetNow now, budgetAt := now }

/-- Whether the strand sleeps (R153). -/
def Strand.asleep (t : Strand) : Bool := match t.wait with | .asleep _ => true | _ => false

namespace State

/-- The registers as they stood before the bundle (R180). -/
def pre (s : State) : Regs := s.latch.getD s.me.regs

/-- The address of the bundle that executes (R201). -/
def bpc (s : State) : Word := s.pre.pc

/-- The specials s16-s31 (R76). -/
def special (s : State) (n : Nat) : Word :=
  let t := s.me
  match n with
  | 16 => 32
  | 17 => BitVec.ofNat 64 s.cur.core
  | 18 => BitVec.ofNat 64 s.cur.slot
  | 19 => BitVec.ofNat 64 t.part
  | 20 => BitVec.ofNat 64 t.ctx
  | 21 => s.myCore.edition.setWidth 64
  | 22 => t.keyLo
  | 23 => t.keyHi
  | 24 => t.clsType
  | 25 => t.msg
  | 26 => t.state
  | 27 => t.budgetNow s.now
  | 28 => BitVec.ofNat 64 s.now
  | 29 => t.jobLast
  | 30 => 0
  | _ => BitVec.allOnes 64

/-- `s[n]`, specials included (R75, R76). -/
def readS (s : State) (n : BitVec 5) : Word :=
  if h : n.toNat < 16 then s.pre.s[n.toNat]'h else s.special n.toNat

def readV (s : State) (n : BitVec 5) : VReg := s.pre.getV n
def readK (s : State) (n : BitVec 3) : W32 := s.pre.getK n

/-- `cb[n]`: the slot's copy of the constant window (R81). -/
def readCb (s : State) (n : BitVec 5) : Word := s.me.cbuf.getD n.toNat 0

def writeReg (s : State) (w : RegWrite) : State := s.updMe fun t => { t with regs := t.regs.apply w }
def writeS (s : State) (n : BitVec 5) (x : Word) : State := s.writeReg (.s n x)
def writeV (s : State) (n : BitVec 5) (x : VReg) (mask : W32) : State := s.writeReg (.v n x mask)
def writeK (s : State) (n : BitVec 3) (x : W32) : State := s.updMe fun t => { t with regs := t.regs.setK n x }
/-- Sticky bits are ORed into flags [8:4] (R80, R95). -/
def orSticky (s : State) (f : Sticky) : State := s.writeReg (.sticky (f.setWidth 64 <<< 4))

def setPc (s : State) (pc : Word) : State := s.updMe fun t => { t with regs := { t.regs with pc := pc } }

/-- The bundle has issued with all it does at issue: the strand goes on at `next`. -/
def retire (s : State) (next : Word) : State :=
  { (s.setPc next).updMe (fun t => { t with received := [], doneLanes := 0, vecBefore := none }) with issue := .goes }

/-- The strand goes on at pc + 8 (R201). -/
def advance (s : State) : State := s.retire (s.bpc + 8)

/-- The bundle ends its chunk (R153). -/
def thenEnd (s : State) : State := { s with issue := .ends }

/-- The bundle has been performed as a chunk of its own (R162). -/
def thenAlone (s : State) : State := { s with issue := .alone }

/-- The bundle has been performed at a page with O = 1 (R163). -/
def thenStrong (s : State) : State := { s with issue := .strong }

/-- The strand's next bundle issues no earlier than `n` cycles from now. -/
def after (s : State) (n : Nat) : State := s.updMe fun t => { t with wait := .untilCycle (s.now + n) }

/-- The bundle does not issue now; the strand waits and issues it again. -/
def stall (s : State) (w : Wait) : State := { s.updMe (fun t => { t with wait := w }) with issue := .no }

end State

/-- The decode table of a core: the last it has switched to (R240). -/
def Core.tableAt (c : Core) (now : Nat) : List (BitVec 19) :=
  ((c.tables.filter fun x => decide (x.due ≤ now)).foldl (fun (acc : Nat × List (BitVec 19)) x =>
    if acc.1 ≤ x.due then (x.due, x.entries) else acc) (0, c.table)).2

/-- The ids of the chunks of a core's strands that have not committed. -/
def Core.uncommitted (c : Core) : List Nat := c.slots.flatMap fun e => (e.2.closed ++ [e.2.opened]).map (·.id)

/-- The last table that a committed chunk has brought is the core's table; it and those before it are no longer kept apart. -/
def Core.settleTable (c : Core) (now : Nat) : Core :=
  let pending := c.uncommitted
  let settled (x : TableSwitch) : Bool := decide (x.due ≤ now) && !pending.contains x.chunk
  match c.tables.zipIdx.foldl (fun (best : Option (TableSwitch × Nat)) x =>
      if settled x.1 && (match best with | some b => decide (b.1.due ≤ x.1.due) | none => true) then some x else best) none with
  | none => c
  | some (x, j) =>
    { c with table := x.entries
             tables := (c.tables.zipIdx.filter fun y => !settled y.1 && (decide (x.due < y.1.due) || (x.due == y.1.due && decide (j < y.2)))).map (·.1) }

/-! ## Chunks and windows -/

/-- The signature bit of a sector (R155). -/
def sigBit (part : Nat) (va : Nat) : Nat :=
  let a := Bits.get va 56 5
  (Bits.get a 9 0) ^^^ (Bits.get a 19 10) ^^^ (Bits.get a 29 20) ^^^ (Bits.get a 39 30) ^^^ (Bits.get a 49 40) ^^^
    (Bits.get a 51 50 * 256) ^^^ (part % 32)

/-- The sectors that `n` bytes from `va` touch, as their first addresses. -/
def sectorsOf (va n : Nat) : List Nat :=
  if n = 0 then [] else (List.range ((va + n - 1) / 32 + 1 - va / 32)).map fun j => (va / 32 + j) * 32

def sigOf (part : Nat) (sectors : List Nat) : NatSet := sectors.foldl (fun acc a => NatSet.add (sigBit part a) acc) []

/-- The aperture address that stands for an own scratch offset (R155). -/
def scratchVa (off : Nat) : Nat := Config.aperture + 0xFFF * 2 ^ 20 + off

/-- A window's result is there and due (R191). -/
def Window.landable (w : Window) (now : Nat) : Bool := w.writes.isSome && decide (w.due ≤ now)

/-- Windows that `f` picks land. -/
def Strand.landWhere (t : Strand) (f : Window → Bool) : Strand :=
  { t with
    regs := (t.windows.filter f).foldl (fun r w => (w.writes.getD []).foldl Regs.apply r) t.regs
    windows := t.windows.filter fun w => !f w }

/-- The chunk's end (R153): its windows close (R191), and the next chunk starts empty. An unstarted chunk has no end. -/
def Strand.endChunk (t : Strand) (id : Nat) : Strand :=
  if t.opened.count = 0 then t
  else
    { t with windows := t.windows.map fun w => { w with left := 0 }, closed := t.closed ++ [t.opened]
             opened := { Chunk.empty id t.regs t.jobLast with
               done := t.doneLanes, vec := t.vecBefore, scale := t.scaleBase, mon := t.monitor, frames := t.frames, counter := t.counter }
             known := t.known.filter fun x => match x with | .line _ _ _ => true | _ => false }

/-- The tag of a held effect that waits for another unit's answer. -/
def heldTag : Held → Option Nat
  | .spawn tag _ _ _ | .sample tag _ | .give tag _ | .solicit tag _ _ _ => some tag
  | _ => none

/-- A chunk of one bundle that reads again at its commit (R158). DESIGN CHOICE (log 71): one that has asked another unit keeps what it read at
issue. -/
def Chunk.rereads (c : Chunk) : Bool := c.count == 1 && !c.reads.isEmpty && !c.held.any fun h => (heldTag h).isSome

/-- The kind of resource that a waiting instruction takes (R191). -/
def Want.kind : Want → Nat
  | .journal .. => 0
  | .outbound _ => 1
  | .queue e _ _ _ => 2 + e

/-- What a strand's instructions wait for, in program order. -/
def Strand.wants (t : Strand) : List (Nat × Want) :=
  ((t.closed ++ [t.opened]).flatMap (·.held)).filterMap fun h => match h with | .wants tag w => some (tag, w) | _ => .none

/-- An earlier instruction of the strand waits for a resource of a kind (R191). -/
def Strand.wantsKind (t : Strand) (k : Nat) : Bool := t.wants.any fun w => w.2.kind == k

/-- The strand's next chunk waits for the registers of one that reads at its commit (R158, R191). -/
def Strand.owes (t : Strand) : Bool := t.closed.any Chunk.rereads

namespace State

/-- The end of strand `r`'s chunk; its commit is asked for (R333). -/
def endChunkOf (s : State) (r : Ref) : State :=
  if (s.strand r).opened.count = 0 then s
  else
    let s' := s.updStrand r fun t => t.endChunk s.ids
    let d := dieOf r.core
    ((s'.updDie d fun x => { x with requests := x.requests ++ [{ who := r, chunk := (s.strand r).opened.id, since := s.now }] }).emit 0 (.commitGrant d)).fresh

/-- The executing strand's chunk ends before this bundle (R153). -/
def endBefore (s : State) : State := s.endChunkOf s.cur

/-- An effect held to the commit (R160). -/
def hold (s : State) (h : Held) : State :=
  s.updMe fun t => { t with opened := { t.opened with held := t.opened.held ++ [h] } }

/-- A core's lines, the most recently used first, after accesses at some addresses (R130). -/
def recent (part : Nat) (vas : List Nat) (ls : List L1Line) : List L1Line :=
  let used (l : L1Line) : Bool := l.part == part && vas.any fun a => a / 256 == l.line
  ls.filter used ++ ls.filter fun l => !used l

/-- A strand's core uses the lines of some addresses (R130). -/
def useLines (s : State) (r : Ref) (vas : List Nat) : State :=
  if vas.isEmpty then s else s.updCore r.core fun c => { c with l1 := recent (s.strand r).part vas c.l1 }

/-- Sectors read, in the chunk's read signature (R155). -/
def noteReads (s : State) (sectors : List Nat) : State :=
  (s.updMe fun t => { t with opened := { t.opened with reads := t.opened.reads.union (sigOf t.part sectors) } }).useLines s.cur sectors

def noteWrites (s : State) (sectors : List Nat) : State :=
  (s.updMe fun t => { t with opened := { t.opened with writes := t.opened.writes.union (sigOf t.part sectors) } }).useLines s.cur sectors

/-- No uncommitted chunk of the strand is left, and none is open (R162). -/
def aloneNow (s : State) : Bool := s.me.closed.isEmpty && s.me.opened.count == 0

/-- A result under LA (R191), `cost` cycles after issue: with LA = 0 it is written before the next bundle,
which waits for it; otherwise it lands while the window is open. -/
def result (s : State) (la : BitVec 4) (cost : Nat) (dests : List Dest) (ws : List RegWrite) : State :=
  if la = 0 then
    (ws.foldl writeReg s).updMe fun t => { t with wait := if cost = 0 then t.wait else .untilCycle (s.now + cost) }
  else
    (s.updMe fun t =>
      { t with windows := t.windows ++
          [{ tag := s.ids, chunk := t.opened.id, dests := dests, left := la.toNat, due := s.now + cost, writes := some ws }] }).fresh

/-- A window whose result another unit answers; its tag is `s.ids` before the call. -/
def openWindow (s : State) (la : BitVec 4) (dests : List Dest) : State :=
  (s.updMe fun t =>
    { t with windows := t.windows ++
        [{ tag := s.ids, chunk := t.opened.id, dests := dests, left := la.toNat, due := s.now, writes := none }] }).fresh

/-- The bundle's effect waits for its resource in a window under LA (R191). -/
def wantHeld (s : State) (la : BitVec 4) (dests : List Dest) (w : Want) : State :=
  (s.hold (.wants s.ids w)).openWindow la dests

/-- The answer to a window: written at once when no bundle may issue before it, else when it closes. -/
def answer (s : State) (r : Ref) (tag : Nat) (ws : List RegWrite) : State :=
  s.updStrand r fun t =>
    if t.windows.any fun w => w.tag == tag && w.left == 0 then
      { t with regs := ws.foldl Regs.apply t.regs, windows := t.windows.filter fun w => w.tag != tag }
    else { t with windows := t.windows.map fun w => if w.tag = tag then { w with writes := some ws } else w }

/-- A wake-up: the strand's next bundle may issue after `delay` cycles. -/
def wake (s : State) (r : Ref) (delay : Nat) : State :=
  s.updStrand r fun t =>
    if t.asleep then { t with wait := if delay = 0 then .ready else .untilCycle (s.now + delay) } else t

/-! ## Partition events and pulses (R72, R365-R367) -/

/-- A pulse for a context's watchdog (R72). -/
def pulse (s : State) (part ctx : Nat) : State :=
  s.updContext part ctx fun c => { c with lastPulse := s.now, silent := false }

/-- Whether a physical range lies in a partition's HBM share (R359). -/
def inShare (s : State) (part pa n : Nat) : Bool :=
  let r := (s.partition part).phbm.toNat
  r.testBit 63 && decide (Bits.get r 9 0 * 2 ^ 30 ≤ pa) && decide (pa + n ≤ (Bits.get r 41 32 + 1) * 2 ^ 30)

/-- Bytes written straight to HBM; an address beyond the stacks holds nothing (R9). -/
def hbmWrite (s : State) (pa : Nat) (data : List Byte) : State :=
  if pa + data.length ≤ Config.hbmBytes then { s with hbm := memStore s.hbm pa data } else s

/-- An event record (R365, R366): written when the ring is enabled and in the share, and counted in any
case. `ctx` is none when the event concerns the whole partition. -/
def report (s : State) (part : Nat) (ctx : Option Nat) (code : Byte) (src unit : Nat) (info : Word)
    (detail : List Byte) : State :=
  let p := s.partition part
  let n := p.evCnt.toNat
  let ring := Bits.get p.evBase.toNat 51 16 * 65536 + 64 * (n % 1024)
  let rec64 := code :: BitVec.ofNat 8 src :: (Bytes.ofNat 2 unit ++
    [BitVec.ofNat 8 (match ctx with | some c => c % 64 | none => 128), 0, 0, 0] ++
    Bytes.ofNat 4 p.edition.toNat ++ Bytes.ofNat 4 n ++ Bytes.ofNat 8 s.now ++ Bytes.ofNat 8 info.toNat ++
    (detail ++ List.replicate (32 - detail.length) 0).take 32)
  let s1 := if p.evBase.getLsbD 0 && s.inShare part ring 64 then s.hbmWrite ring rec64 else s
  s1.updPartition part fun q => { q with evCnt := q.evCnt + 1 }

/-- An MSI-X vector of a partition's virtual function (R347). -/
def raiseVector (s : State) (part vec : Nat) : State := { s with msix := s.msix ++ [(part, vec)] }

/-! ## Taking a strand fault (R394, R403-R408) and returning from it (R229, R409) -/

/-- The executing strand's chunk ends and the strand issues nothing more; the report follows once every older chunk has committed (R394). -/
def stopWith (s : State) (f : FaultInfo) : State :=
  let t := s.endBefore
  let u := t.updMe fun m => { m with fault := some f, wait := .faulting, received := [], known := [] }
  let v := { u with issue := .no }
  if v.me.closed.isEmpty then v.emit 0 (.strandFaultReport s.cur) else v

/-- A fault at the executing bundle. Where the chunk before it has still to read, the bundle issues again after that (R158). -/
def raise (s : State) (f : FaultInfo) : State :=
  if s.endBefore.me.owes then s.endBefore.stall .ready else s.stopWith f

/-- A fault that carries nothing but its code. -/
def raiseCode (s : State) (c : EventCode) : State := s.raise { code := c }

/-- The fault record's area of a core, and whether it lies in scratch ways (R87, R404). -/
def recordBase (c : Core) : Nat := Bits.get c.frecBase.toNat 17 11 * 2048
def recordInScratch (c : Core) : Bool := c.wayMask.getLsbD (recordBase c / 16384)

/-- The record of R404. -/
def faultRecord (pc : Word) (f : FaultInfo) (seq : Word) : List Byte :=
  let flags := f.async.toNat + 2 * f.vec.toNat + 4 * f.isWrite.toNat + 8 * f.isFetch.toNat
  Bytes.ofNat 8 pc.toNat ++ [f.code.byte, BitVec.ofNat 8 flags, BitVec.ofNat 8 f.level, BitVec.ofNat 8 f.jidx] ++
    Bytes.ofNat 4 f.lanes.toNat ++ Bytes.ofNat 8 f.va.toNat ++ Bytes.ofNat 8 f.info.toNat ++
    Bytes.ofNat 8 f.pte.toNat ++ Bytes.ofNat 8 seq.toNat ++ List.replicate 80 0

/-- The report of a strand fault (R403-R408): the record is written at FRECBASE.OFF + 128·slot and counted,
the strand stops, with its budget (R62), and its upcall follows; where the record area is not scratch, an event record
takes their place. The journal entry of a refused store is free again (R411). -/
def takeException (s : State) (r : Ref) (f : FaultInfo) : State :=
  let t := s.strand r
  let c := s.core r.core
  let bytes := faultRecord t.regs.pc f c.recordSeq
  let stopped := (if f.async then s.updCore r.core fun c => { c with journal := drop f.jidx c.journal } else s).updStrand r fun t =>
    { t.syncBudget s.now with wait := .stopped }
  if recordInScratch c then
    (stopped.updCore r.core fun c =>
      { c with store := memStore c.store (recordBase c + 128 * r.slot) bytes, recordSeq := c.recordSeq + 1 }).emit 0 (.upcallStart r)
  else stopped.report t.part (some t.ctx) f.code.byte 1 r.core t.regs.pc ((bytes.drop 8).take 32)

/-- What `resume` restores at its commit (R229, R375, R409): the stopped strand issues again in the next
cycle, at its faulting bundle, or at pc + 8 after `trap`; a budget overrun restores the class default. -/
def resumeStrand (s : State) (r : Ref) : State :=
  s.updStrand r fun t =>
    match t.wait, t.fault with
    | .stopped, some f =>
      { t with
        copy := match t.copy with | .faulted _ => .wanted | c => c
        fault := none, byUpcall := false, wait := .untilCycle (s.now + 1), budgetAt := s.now
        budget := if f.code = .budgetOverrun then t.budgetStart else t.budget
        regs := match f.code with
          | .trap _ => { t.regs with pc := t.regs.pc + 8 }
          | _ => t.regs }
    | _, _ => t

end State

end Sys2Proof.Machine
end

