-- ==== Sys2Proof/Machine/Operands.lean ====
section
/-! DEFINITION. Operand forms (R186-R190, R201) and the shapes that the meanings of A-words share. -/

namespace Sys2Proof.Machine

/-- What a meaning answers. -/
abbrev Result := Host.Outcome State Fault Refusal

/-- A literal operand: the sign-extended field of a paired bundle, or word 1 sign-extended (R186). -/
def literal (n : BitVec 5) : Ext → Word
  | .paired => n.signExtend 64
  | .lone w => w.signExtend 64

/-- A literal of a float operation, as FP32 bits (R187). -/
def floatLiteral (n : BitVec 5) : Ext → W32
  | .paired => BitVec.ofNat 32 (deliver fp32 0 false (Num.ofInt n.toInt 0)).1
  | .lone w => w

/-- The offset of R201: sext(B, 5) in a paired bundle, word 1 in a lone one. -/
def CWord.off (c : CWord) : Word := literal c.b c.ext

/-- The atomics (R252, R253). -/
def isAtomic : Instr → Bool
  | .atomAdd _ | .atomAnd _ | .atomOr _ | .atomXor _ | .atomMin _ | .atomMax _ | .atomMinu _ | .atomMaxu _
  | .atomSwap _ | .atomCas _ | .atomFadd _ | .vatomAdd _ | .vatomAnd _ | .vatomOr _ | .vatomXor _
  | .vatomMin _ | .vatomMax _ | .vatomMinu _ | .vatomMaxu _ | .vatomSwap _ | .vatomFadd _ => true
  | _ => false

/-- Whether a word reads the constant buffer (R81); `lid` reads no operand (R219). -/
def readsCb (i : Instr) : Bool :=
  match i.cword, i.aword with
  | some (_, c), _ => c.ta == .cb || (isAtomic i && Bits.get c.ext.word1.toNat 6 5 == 2)
  | _, some (_, w) => (match i with | .lid _ => false | _ => w.ta == .cb) || w.tb == .cb
  | _, _ => false

/-- The checks every bundle word makes before its effect: its fields (R203, R396), then the constant buffer it
reads (R81): a faulted copy is reported here, and a copy under way is waited for. -/
def checked (i : Instr) (s : State) (k : State → State) : Result :=
  .next <|
    if !i.wf then s.raiseCode .reservedField
    else if readsCb i then
      match s.me.copy with
      | .present => k s
      | .wanted | .asked | .remote _ => s.stall .ready
      | .faulted f => s.raise f
    else k s

/-- The same for an instruction whose data alone may come from the constant buffer: the faults of its items 1 to 4, if any, come before that of the
copy (R395). -/
def checkedAfter (first : State → Option FaultInfo) (i : Instr) (s : State) (k : State → State) : Result :=
  match s.me.copy, first s with
  | .faulted _, some x => if i.wf && readsCb i then .next (s.raise x) else checked i s k
  | _, _ => checked i s k

/-- The fault of a check. -/
def faultOf {α : Type} : Except FaultInfo α → Option FaultInfo
  | .error x => some x
  | .ok _ => none

/-- A privileged instruction (R203, R395): PERMISSION with PRIV = 0, after the checks of its fields and before any other fault. -/
def privileged (i : Instr) (s : State) (k : State → State) : Result :=
  if i.wf && !privOf s.pre.flags then .next (s.raiseCode .permission) else checked i s k

namespace State

/-- A scalar operand: s, cb or literal; a v register gives its low eight bytes (R242). -/
def scalar (s : State) (t : Kind) (n : BitVec 5) (e : Ext) : Word :=
  match t with
  | .v => (s.readV n)[1] ++ (s.readV n)[0]
  | .s => s.readS n
  | .cb => s.readCb n
  | .lit => literal n e

/-- Operand A of a C-word (R201). -/
def opA (s : State) (c : CWord) : Word := s.scalar c.ta c.a c.ext

/-- An integer operand in lane `i` (R188). -/
def laneInt (s : State) (t : Kind) (n : BitVec 5) (e : Ext) (i : Fin 32) : W32 :=
  match t with
  | .v => (s.readV n)[i]
  | t => (s.scalar t n e).setWidth 32

/-- A float operand of an s form (R187, R188). -/
def scalarFloat (s : State) (t : Kind) (n : BitVec 5) (e : Ext) : W32 :=
  match t with
  | .lit => floatLiteral n e
  | t => (s.scalar t n e).setWidth 32

/-- A float operand in lane `i`. -/
def laneFloat (s : State) (t : Kind) (n : BitVec 5) (e : Ext) (i : Fin 32) : W32 :=
  match t with
  | .v => (s.readV n)[i]
  | t => s.scalarFloat t n e

/-- The float controls of an A-word (R79, R189). -/
def fctl (s : State) (w : AWord) : FCtl := ⟨rmOf s.pre.flags, w.fzi, w.fzo⟩

end State

/-- The flags of the lanes whose mask bit is 1 (R95). -/
def stickyOf (mask : W32) (f : Fin 32 → Sticky) : Sticky :=
  laneList.foldl (fun acc i => if laneOn mask i then acc ||| f i else acc) 0

/-- The destination R190 selects takes an integer result: every lane under k[K], or the 64-bit register. -/
def intForm (vd : Bool) (w : AWord) (lane : Fin 32 → W32) (val : Word) (s : State) : State :=
  if vd then (s.writeV w.d (lanes lane) (s.readK w.k)).advance else (s.writeS w.d val).advance

/-- An integer operation of two operands at both widths (R216, R217). -/
def intBinary (i : Instr) (w : AWord) (f : (n : Nat) → BitVec n → BitVec n → BitVec n) (s : State) : Result :=
  checked i s fun s =>
    intForm w.vDest w (fun j => f 32 (s.laneInt w.ta w.a w.ext j) (s.laneInt w.tb w.b w.ext j))
      (f 64 (s.scalar w.ta w.a w.ext) (s.scalar w.tb w.b w.ext)) s

/-- An operation that accumulates into its destination (R190, R218, R223). -/
def intAccumulate (i : Instr) (w : AWord) (f : (n : Nat) → BitVec n → BitVec n → BitVec n → BitVec n) (s : State) : Result :=
  checked i s fun s =>
    intForm w.vDest w
      (fun j => f 32 (s.readV w.d)[j] (s.laneInt w.ta w.a w.ext j) (s.laneInt w.tb w.b w.ext j))
      (f 64 (s.readS w.d) (s.scalar w.ta w.a w.ext) (s.scalar w.tb w.b w.ext)) s

/-- An integer operation of one operand; the lane index is 0 for an s destination (R219). -/
def intUnary (i : Instr) (w : AWord) (f : (n : Nat) → Nat → BitVec n → BitVec n) (s : State) : Result :=
  checked i s fun s =>
    intForm (w.ta == .v) w (fun j => f 32 j.val (s.laneInt w.ta w.a w.ext j)) (f 64 0 (s.scalar w.ta w.a w.ext)) s

/-- A comparison (R220): all 32 bits of k[D] are written; scalar sources give every bit the one result. -/
def intCompare (i : Instr) (w : AWord) (f : (n : Nat) → BitVec n → BitVec n → Bool) (s : State) : Result :=
  checked i s fun s =>
    let bits : W32 :=
      if w.vDest then
        laneList.foldl (fun acc j =>
          if f 32 (s.laneInt w.ta w.a w.ext j) (s.laneInt w.tb w.b w.ext j) then acc ||| (1 <<< j.val) else acc) 0
      else if f 64 (s.scalar w.ta w.a w.ext) (s.scalar w.tb w.b w.ext) then BitVec.allOnes 32 else 0
    (s.writeK (w.d.setWidth 3) bits).advance

/-- The destination of a float result (R230): lanes under k[K] with their flags, or zext into s[D]. -/
def floatForm (vd : Bool) (w : AWord) (lane : Fin 32 → W32 × Sticky) (val : W32 × Sticky) (s : State) : State :=
  if vd then
    let mask := s.readK w.k
    ((s.writeV w.d (lanes fun j => (lane j).1) mask).orSticky (stickyOf mask fun j => (lane j).2)).advance
  else ((s.writeS w.d (val.1.setWidth 64)).orSticky val.2).advance

/-- A float operation of two operands (R231). -/
def floatBinary (i : Instr) (w : AWord) (f : FCtl → W32 → W32 → W32 × Sticky) (s : State) : Result :=
  checked i s fun s =>
    floatForm w.vDest w
      (fun j => f (s.fctl w) (s.laneFloat w.ta w.a w.ext j) (s.laneFloat w.tb w.b w.ext j))
      (f (s.fctl w) (s.scalarFloat w.ta w.a w.ext) (s.scalarFloat w.tb w.b w.ext)) s

/-- A float operation that accumulates into its destination (R190). -/
def floatAccumulate (i : Instr) (w : AWord) (f : FCtl → W32 → W32 → W32 → W32 × Sticky) (s : State) : Result :=
  checked i s fun s =>
    floatForm w.vDest w
      (fun j => f (s.fctl w) (s.readV w.d)[j] (s.laneFloat w.ta w.a w.ext j) (s.laneFloat w.tb w.b w.ext j))
      (f (s.fctl w) ((s.readS w.d).setWidth 32) (s.scalarFloat w.ta w.a w.ext) (s.scalarFloat w.tb w.b w.ext)) s

/-- A float function of one operand (R232). -/
def floatUnary (i : Instr) (w : AWord) (f : FCtl → W32 → W32 × Sticky) (s : State) : Result :=
  checked i s fun s =>
    floatForm (w.ta == .v) w (fun j => f (s.fctl w) (s.laneFloat w.ta w.a w.ext j))
      (f (s.fctl w) (s.scalarFloat w.ta w.a w.ext)) s

/-- A conversion whose source is an integer or a narrow float: literals keep their integer reading. -/
def convertFrom (i : Instr) (w : AWord) (lane : FCtl → W32 → W32 × Sticky) (val : FCtl → Word → Word × Sticky)
    (s : State) : Result :=
  checked i s fun s =>
    if w.ta == .v then
      floatForm true w (fun j => lane (s.fctl w) (s.laneInt w.ta w.a w.ext j)) (0, 0) s
    else
      let r := val (s.fctl w) (s.scalar w.ta w.a w.ext)
      ((s.writeS w.d r.1).orSticky r.2).advance

end Sys2Proof.Machine
end

