-- ==== Sys2Proof/Machine/FloatAlu.lean ====
section
/-! DEFINITION. The float A-words (R230-R235): arithmetic, functions, compares, conversions and the BF16 pair
product. -/

namespace Sys2Proof.Machine

/-- `fadd` (R231). -/
def execFadd (w : AWord) (s : State) : Result := floatBinary (.fadd w) w floatAdd s
/-- `fsub` (R231). -/
def execFsub (w : AWord) (s : State) : Result := floatBinary (.fsub w) w floatSub s
/-- `fmul` (R231). -/
def execFmul (w : AWord) (s : State) : Result := floatBinary (.fmul w) w floatMul s
/-- `ffma` (R231). -/
def execFfma (w : AWord) (s : State) : Result := floatAccumulate (.ffma w) w floatFma s
/-- `fmin` (R231). -/
def execFmin (w : AWord) (s : State) : Result := floatBinary (.fmin w) w (fun c => floatMinMax c false) s
/-- `fmax` (R231). -/
def execFmax (w : AWord) (s : State) : Result := floatBinary (.fmax w) w (fun c => floatMinMax c true) s

/-- `fneg` (R232). -/
def execFneg (w : AWord) (s : State) : Result := floatUnary (.fneg w) w (fun c => floatSign c not) s
/-- `fabs` (R232). -/
def execFabs (w : AWord) (s : State) : Result := floatUnary (.fabs w) w (fun c => floatSign c fun _ => false) s
/-- `ffloor` (R232). -/
def execFfloor (w : AWord) (s : State) : Result := floatUnary (.ffloor w) w (fun c => floatIntegral c 3 false) s
/-- `fceil` (R232). -/
def execFceil (w : AWord) (s : State) : Result := floatUnary (.fceil w) w (fun c => floatIntegral c 2 false) s
/-- `ftrunc` (R232). -/
def execFtrunc (w : AWord) (s : State) : Result := floatUnary (.ftrunc w) w (fun c => floatIntegral c 1 false) s
/-- `fround` (R232). -/
def execFround (w : AWord) (s : State) : Result := floatUnary (.fround w) w (fun c => floatIntegral c 0 false) s
/-- `frint` (R232). -/
def execFrint (w : AWord) (s : State) : Result := floatUnary (.frint w) w (fun c => floatIntegral c c.rm true) s
/-- `fclass` (R232). -/
def execFclass (w : AWord) (s : State) : Result := floatUnary (.fclass w) w (fun _ a => (floatClass a, 0)) s
/-- `fsgn` (R232). -/
def execFsgn (w : AWord) (s : State) : Result := floatUnary (.fsgn w) w floatSgn s

/-- `fcmp` (R233). -/
def execFcmp (w : AWord) (s : State) : Result :=
  checked (.fcmp w) s fun s =>
    let f (a b : W32) := floatCmp w.fzi w.k.toNat a b
    if w.vDest then
      let r (j : Fin 32) := f (s.laneFloat w.ta w.a w.ext j) (s.laneFloat w.tb w.b w.ext j)
      let bits : W32 := laneList.foldl (fun acc j => if (r j).1 then acc ||| (1 <<< j.val) else acc) 0
      ((s.writeK (w.d.setWidth 3) bits).orSticky (stickyOf (BitVec.allOnes 32) fun j => (r j).2)).advance
    else
      let r := f (s.scalarFloat w.ta w.a w.ext) (s.scalarFloat w.tb w.b w.ext)
      ((s.writeK (w.d.setWidth 3) (if r.1 then BitVec.allOnes 32 else 0)).orSticky r.2).advance

/-- A conversion from FP32 to an integer of `bits` bits (R98, R234): an s result is extended by its sign. -/
def convertToInt (i : Instr) (w : AWord) (lo hi : Int) (rm : FCtl → Nat) (s : State) : Result :=
  checked i s fun s =>
    let f (a : W32) := floatToInt w.fzi (rm (s.fctl w)) lo hi a
    if w.ta == .v then
      floatForm true w (fun j =>
        let r := f (s.laneFloat w.ta w.a w.ext j)
        (BitVec.ofInt 32 r.1, r.2)) (0, 0) s
    else
      let r := f (s.scalarFloat w.ta w.a w.ext)
      ((s.writeS w.d (BitVec.ofInt 64 r.1)).orSticky r.2).advance

def int32Min : Int := -2 ^ 31
def int32Max : Int := 2 ^ 31 - 1
def uint32Max : Int := 2 ^ 32 - 1

/-- `cvt.ftoi` (R234). -/
def execCvtFtoi (w : AWord) (s : State) : Result := convertToInt (.cvtFtoi w) w int32Min int32Max FCtl.rm s
/-- `cvt.ftou` (R234). -/
def execCvtFtou (w : AWord) (s : State) : Result := convertToInt (.cvtFtou w) w 0 uint32Max FCtl.rm s
/-- `cvt.ftoiz` (R234). -/
def execCvtFtoiz (w : AWord) (s : State) : Result :=
  convertToInt (.cvtFtoiz w) w int32Min int32Max (fun _ => 1) s
/-- `cvt.ftouz` (R234). -/
def execCvtFtouz (w : AWord) (s : State) : Result := convertToInt (.cvtFtouz w) w 0 uint32Max (fun _ => 1) s
/-- `cvt.ftol` (R234). -/
def execCvtFtol (w : AWord) (s : State) : Result :=
  convertToInt (.cvtFtol w) w (-2 ^ 63) (2 ^ 63 - 1) FCtl.rm s

/-- An FP32 result of a scalar form. -/
def zextFloat (r : W32 × Sticky) : Word × Sticky := (r.1.setWidth 64, r.2)

/-- `cvt.itof` (R234). -/
def execCvtItof (w : AWord) (s : State) : Result :=
  convertFrom (.cvtItof w) w (fun c a => intToFloat c a.toInt)
    (fun c a => zextFloat (intToFloat c (a.setWidth 32).toInt)) s
/-- `cvt.utof` (R234). -/
def execCvtUtof (w : AWord) (s : State) : Result :=
  convertFrom (.cvtUtof w) w (fun c a => intToFloat c a.toNat)
    (fun c a => zextFloat (intToFloat c (a.setWidth 32).toNat)) s
/-- `cvt.ltof` (R234). -/
def execCvtLtof (w : AWord) (s : State) : Result :=
  convertFrom (.cvtLtof w) w (fun c a => intToFloat c a.toInt) (fun c a => zextFloat (intToFloat c a.toInt)) s

/-- `cvt.ftoh` (R234). -/
def execCvtFtoh (w : AWord) (s : State) : Result := floatUnary (.cvtFtoh w) w (fun c => floatNarrow c fp16) s
/-- `cvt.ftob` (R234). -/
def execCvtFtob (w : AWord) (s : State) : Result := floatUnary (.cvtFtob w) w (fun c => floatNarrow c bf16) s

/-- The 16-bit source of `htof` and `btof` (R187, R234): a paired literal is its integer in the source format,
a lone one is narrowed from FP32 under RM without FZO, with its flags. -/
def narrowLiteral (c : FCtl) (f : Fmt) (n : BitVec 5) : Ext → W32 × Sticky
  | .paired => (BitVec.ofNat 32 (deliver f 0 false (Num.ofInt n.toInt 0)).1, 0)
  | .lone w => floatNarrow { c with fzi := false, fzo := false } f w

/-- A conversion from a 16-bit float (R234). -/
def convertWiden (i : Instr) (w : AWord) (f : Fmt) (s : State) : Result :=
  checked i s fun s =>
    let c := s.fctl w
    if w.ta == .v then floatForm true w (fun j => floatWiden c f (s.laneInt w.ta w.a w.ext j)) (0, 0) s
    else
      let x : W32 × Sticky :=
        if w.ta == .lit then narrowLiteral c f w.a w.ext else ((s.scalar w.ta w.a w.ext).setWidth 32, 0)
      let r := floatWiden c f x.1
      ((s.writeS w.d (r.1.setWidth 64)).orSticky (x.2 ||| r.2)).advance

/-- `cvt.htof` (R234). -/
def execCvtHtof (w : AWord) (s : State) : Result := convertWiden (.cvtHtof w) w fp16 s
/-- `cvt.btof` (R234). -/
def execCvtBtof (w : AWord) (s : State) : Result := convertWiden (.cvtBtof w) w bf16 s

/-- `fdp2` (R235). DESIGN CHOICE (log 88): of a paired literal R187 converts the integer to "the operation's float format", which may be FP32 or
BF16 here; the model takes its FP32 bits, whose halves are the two BF16 values. -/
def execFdp2 (w : AWord) (s : State) : Result := floatAccumulate (.fdp2 w) w floatDp2 s

end Sys2Proof.Machine
end

