-- ==== Sys2Proof/Machine/IntAlu.lean ====
section
/-! DEFINITION. The integer A-words (R195, R216-R223): arithmetic, logic, shifts, compares, moves, masks and the
byte dot product. -/

namespace Sys2Proof.Machine

/-- A shift count is taken modulo the width (R217). -/
def shiftCount (n : Nat) (b : BitVec n) : Nat := b.toNat % n

/-- A signed value clamped to `n` bits (R217). -/
def saturate (n : Nat) (x : Int) : BitVec n := BitVec.ofInt n (clampTo (-2 ^ (n - 1)) (2 ^ (n - 1) - 1) x)

def popCount {n : Nat} (x : BitVec n) : Nat := (List.range n).countP fun i => x.getLsbD i

/-- Trailing zero bits; `n` for zero (R219). -/
def trailingZeros {n : Nat} (x : BitVec n) : Nat := ((List.range n).find? fun i => x.getLsbD i).getD n

/-- Leading zero bits; `n` for zero (R219). -/
def leadingZeros {n : Nat} (x : BitVec n) : Nat := ((List.range n).find? fun i => x.getMsbD i).getD n

/-- The bits in reverse order. -/
def reverseBits {n : Nat} (x : BitVec n) : BitVec n :=
  BitVec.ofNat n ((List.range n).foldl (fun acc i => 2 * acc + (x.getLsbD i).toNat) 0)

/-- The high half of a product of two integers (R217). -/
def mulHigh (n : Nat) (x y : Int) : BitVec n := BitVec.ofInt n ((x * y) >>> n)

/-- `nop.c` (R195). -/
def execNopC (c : CWord) (s : State) : Result := checked (.nopC c) s State.advance

/-- `nop.a` (R195). -/
def execNopA (w : AWord) (s : State) : Result := checked (.nopA w) s State.advance

/-- `add` (R217). -/
def execAdd (w : AWord) (s : State) : Result := intBinary (.add w) w (fun _ a b => a + b) s
/-- `sub` (R217). -/
def execSub (w : AWord) (s : State) : Result := intBinary (.sub w) w (fun _ a b => a - b) s
/-- `mul` (R217). -/
def execMul (w : AWord) (s : State) : Result := intBinary (.mul w) w (fun _ a b => a * b) s
/-- `mulh` (R217). -/
def execMulh (w : AWord) (s : State) : Result :=
  intBinary (.mulh w) w (fun n a b => mulHigh n a.toInt b.toInt) s
/-- `mulhu` (R217). -/
def execMulhu (w : AWord) (s : State) : Result :=
  intBinary (.mulhu w) w (fun n a b => mulHigh n a.toNat b.toNat) s
/-- `mad` (R218). -/
def execMad (w : AWord) (s : State) : Result := intAccumulate (.mad w) w (fun _ d a b => d + a * b) s
/-- `min` (R217). -/
def execMin (w : AWord) (s : State) : Result := intBinary (.min w) w (fun _ a b => if b.slt a then b else a) s
/-- `max` (R217). -/
def execMax (w : AWord) (s : State) : Result := intBinary (.max w) w (fun _ a b => if a.slt b then b else a) s
/-- `minu` (R217). -/
def execMinu (w : AWord) (s : State) : Result := intBinary (.minu w) w (fun _ a b => if b.ult a then b else a) s
/-- `maxu` (R217). -/
def execMaxu (w : AWord) (s : State) : Result := intBinary (.maxu w) w (fun _ a b => if a.ult b then b else a) s
/-- `and` (R217). -/
def execAnd (w : AWord) (s : State) : Result := intBinary (.and w) w (fun _ a b => a &&& b) s
/-- `or` (R217). -/
def execOr (w : AWord) (s : State) : Result := intBinary (.or w) w (fun _ a b => a ||| b) s
/-- `xor` (R217). -/
def execXor (w : AWord) (s : State) : Result := intBinary (.xor w) w (fun _ a b => a ^^^ b) s
/-- `andn` (R217). -/
def execAndn (w : AWord) (s : State) : Result := intBinary (.andn w) w (fun _ a b => a &&& ~~~b) s
/-- `shl` (R217). -/
def execShl (w : AWord) (s : State) : Result := intBinary (.shl w) w (fun n a b => a <<< shiftCount n b) s
/-- `shr` (R217). -/
def execShr (w : AWord) (s : State) : Result := intBinary (.shr w) w (fun n a b => a >>> shiftCount n b) s
/-- `sar` (R217). -/
def execSar (w : AWord) (s : State) : Result :=
  intBinary (.sar w) w (fun n a b => a.sshiftRight (shiftCount n b)) s
/-- `rot` (R217). -/
def execRot (w : AWord) (s : State) : Result :=
  intBinary (.rot w) w (fun n a b => (a <<< shiftCount n b) ||| (a >>> ((n - shiftCount n b) % n))) s
/-- `addsat` (R217). -/
def execAddsat (w : AWord) (s : State) : Result :=
  intBinary (.addsat w) w (fun n a b => saturate n (a.toInt + b.toInt)) s
/-- `subsat` (R217). -/
def execSubsat (w : AWord) (s : State) : Result :=
  intBinary (.subsat w) w (fun n a b => saturate n (a.toInt - b.toInt)) s

/-- `popc` (R219). -/
def execPopc (w : AWord) (s : State) : Result :=
  intUnary (.popc w) w (fun n _ a => BitVec.ofNat n (popCount a)) s
/-- `clz` (R219). -/
def execClz (w : AWord) (s : State) : Result :=
  intUnary (.clz w) w (fun n _ a => BitVec.ofNat n (leadingZeros a)) s
/-- `ctz` (R219). -/
def execCtz (w : AWord) (s : State) : Result :=
  intUnary (.ctz w) w (fun n _ a => BitVec.ofNat n (trailingZeros a)) s
/-- `neg` (R219). -/
def execNeg (w : AWord) (s : State) : Result := intUnary (.neg w) w (fun _ _ a => -a) s
/-- `not` (R219). -/
def execNot (w : AWord) (s : State) : Result := intUnary (.not w) w (fun _ _ a => ~~~a) s
/-- `abs` (R219). -/
def execAbs (w : AWord) (s : State) : Result := intUnary (.abs w) w (fun _ _ a => if a.msb then -a else a) s
/-- `brev` (R219). -/
def execBrev (w : AWord) (s : State) : Result := intUnary (.brev w) w (fun _ _ a => reverseBits a) s
/-- `lid` (R219). -/
def execLid (w : AWord) (s : State) : Result := intUnary (.lid w) w (fun n i _ => BitVec.ofNat n i) s

/-- The conditions of `cmp` and `cmpu` from "less than" and equality (R190). -/
def condition (k : Nat) (eq lt : Bool) : Bool :=
  match k with
  | 0 => eq
  | 1 => !eq
  | 2 => lt
  | 3 => lt || eq
  | 4 => !lt && !eq
  | _ => !lt

/-- `cmp` (R220). -/
def execCmp (w : AWord) (s : State) : Result :=
  intCompare (.cmp w) w (fun _ a b => condition w.k.toNat (a == b) (a.slt b)) s
/-- `cmpu` (R220). -/
def execCmpu (w : AWord) (s : State) : Result :=
  intCompare (.cmpu w) w (fun _ a b => condition w.k.toNat (a == b) (a.ult b)) s

/-- `sel` (R221): every lane is written; an s destination is selected by bit 0. -/
def execSel (w : AWord) (s : State) : Result :=
  checked (.sel w) s fun s =>
    let k := s.readK w.k
    if w.vDest then
      (s.writeV w.d (lanes fun j => if laneOn k j then s.laneInt w.ta w.a w.ext j else s.laneInt w.tb w.b w.ext j)
        (BitVec.allOnes 32)).advance
    else
      (s.writeS w.d (if k.getLsbD 0 then s.scalar w.ta w.a w.ext else s.scalar w.tb w.b w.ext)).advance

/-- `mov` (R221). -/
def execMov (w : AWord) (s : State) : Result := intUnary (.mov w) w (fun _ _ a => a) s

/-- `bcast` (R221). -/
def execBcast (w : AWord) (s : State) : Result :=
  checked (.bcast w) s fun s =>
    (s.writeV w.d (lanes fun _ => (s.scalar w.ta w.a w.ext).setWidth 32) (s.readK w.k)).advance

/-- The mask operations of R222. -/
def maskOp (i : Instr) (w : AWord) (f : W32 → W32 → W32) (s : State) : Result :=
  checked i s fun s =>
    (s.writeK (w.d.setWidth 3) (f (s.readK (w.a.setWidth 3)) (s.readK w.k))).advance

/-- `kop.and` (R222). -/
def execKopAnd (w : AWord) (s : State) : Result := maskOp (.kopAnd w) w (fun a k => a &&& k) s
/-- `kop.or` (R222). -/
def execKopOr (w : AWord) (s : State) : Result := maskOp (.kopOr w) w (fun a k => a ||| k) s
/-- `kop.xor` (R222). -/
def execKopXor (w : AWord) (s : State) : Result := maskOp (.kopXor w) w (fun a k => a ^^^ k) s
/-- `kop.andn` (R222). -/
def execKopAndn (w : AWord) (s : State) : Result := maskOp (.kopAndn w) w (fun a k => a &&& ~~~k) s
/-- `kop.not` (R222). -/
def execKopNot (w : AWord) (s : State) : Result := maskOp (.kopNot w) w (fun a _ => ~~~a) s
/-- `kop.mov` (R222). -/
def execKopMov (w : AWord) (s : State) : Result := maskOp (.kopMov w) w (fun a _ => a) s
/-- `kop.low` (R222). -/
def execKopLow (w : AWord) (s : State) : Result := maskOp (.kopLow w) w (fun a _ => a &&& -a) s

/-- The sum of four signed byte products (R223). -/
def byteDot (a b : W32) : Int :=
  (List.range 4).foldl (fun acc j =>
    acc + (a.extractLsb' (8 * j) 8).toInt * (b.extractLsb' (8 * j) 8).toInt) 0

/-- `dp4` (R223): an s destination uses the low 32 bits of each source. -/
def execDp4 (w : AWord) (s : State) : Result :=
  intAccumulate (.dp4 w) w (fun n d a b => d + BitVec.ofInt n (byteDot (a.setWidth 32) (b.setWidth 32))) s

end Sys2Proof.Machine
end

