-- ==== Sys2Proof/Machine/Lanes.lean ====
section
/-! DEFINITION. Lane permutes (R236), reductions and scans (R116, R117, R237). -/

namespace Sys2Proof.Machine

/-- A lane number from the low five bits of a word. -/
def laneOf (x : W32) : Fin 32 := ⟨x.toNat % 32, Nat.mod_lt _ (by decide)⟩

/-- `shuf` (R236). -/
def execShuf (w : AWord) (s : State) : Result :=
  checked (.shuf w) s fun s =>
    let a := s.readV w.a
    (s.writeV w.d (lanes fun j => a[laneOf (s.laneInt w.tb w.b w.ext j)]) (s.readK w.k)).advance

/-- `lrot` (R236). -/
def execLrot (w : AWord) (s : State) : Result :=
  checked (.lrot w) s fun s =>
    let a := s.readV w.a
    let n := (s.scalar w.tb w.b w.ext).setWidth 32
    (s.writeV w.d (lanes fun j => a[laneOf (BitVec.ofNat 32 (j.val + n.toNat % 32))]) (s.readK w.k)).advance

/-- A node operation with its flags and its identity (R116). -/
structure NodeOp where
  op : W32 → W32 → W32 × Sticky
  id : W32

/-- One level of the tree (R116): the lower lane is the first operand. -/
def treeLevel (op : W32 → W32 → W32 × Sticky) : List W32 → List W32 × Sticky
  | a :: b :: r =>
    let x := op a b
    let y := treeLevel op r
    (x.1 :: y.1, x.2 ||| y.2)
  | r => (r, 0)

/-- The five levels of `red` (R116). -/
def treeReduce (n : NodeOp) (x : VReg) (mask : W32) : W32 × Sticky :=
  let leaves := laneList.map fun i => if laneOn mask i then x[i] else n.id
  let r := (List.range 5).foldl (fun acc _ =>
    let y := treeLevel n.op acc.1
    (y.1, acc.2 ||| y.2)) (leaves, (0 : Sticky))
  (r.1.headD 0, r.2)

/-- The five steps of `scan` (R117). -/
def prefixScan (n : NodeOp) (x : VReg) (mask : W32) : VReg × Sticky :=
  [1, 2, 4, 8, 16].foldl (fun (acc : VReg × Sticky) (d : Nat) =>
    let node (i : Fin 32) : W32 × Sticky :=
      if d ≤ i.val then n.op (acc.1[laneOf (BitVec.ofNat 32 (i.val - d))]) acc.1[i] else (acc.1[i], 0)
    (lanes fun i => (node i).1, laneList.foldl (fun f i => f ||| (node i).2) acc.2))
    (lanes fun i => if laneOn mask i then x[i] else n.id, 0)

def intNode (f : W32 → W32 → W32) (id : W32) : NodeOp := ⟨fun a b => (f a b, 0), id⟩

/-- The node operations of R237 by function code, with the identities of R116. -/
def nodeOp (c : FCtl) (code : Nat) : NodeOp :=
  match code with
  | 0 => intNode (· + ·) 0
  | 1 => intNode (· &&& ·) (BitVec.allOnes 32)
  | 2 => intNode (· ||| ·) 0
  | 3 => intNode (· ^^^ ·) 0
  | 4 => intNode (fun a b => if b.slt a then b else a) 0x7FFFFFFF
  | 5 => intNode (fun a b => if a.slt b then b else a) 0x80000000
  | 6 => intNode (fun a b => if b.ult a then b else a) (BitVec.allOnes 32)
  | 7 => intNode (fun a b => if a.ult b then b else a) 0
  | 8 => ⟨floatAdd c, 0x80000000⟩
  | 9 => ⟨floatMinMax c false, 0x7F800000⟩
  | _ => ⟨floatMinMax c true, 0xFF800000⟩

/-- `red` writes s[D], sign-extended for `add`, `min` and `max` (R237). -/
def reduceOp (i : Instr) (w : AWord) (code : Nat) (s : State) : Result :=
  checked i s fun s =>
    let r := treeReduce (nodeOp (s.fctl w) code) (s.readV w.a) (s.readK w.k)
    let signed := code == 0 || code == 4 || code == 5
    ((s.writeS w.d (if signed then r.1.signExtend 64 else r.1.setWidth 64)).orSticky r.2).advance

/-- `scan` writes the lanes masked in by k[K] (R237). -/
def scanOp (i : Instr) (w : AWord) (code : Nat) (s : State) : Result :=
  checked i s fun s =>
    let r := prefixScan (nodeOp (s.fctl w) code) (s.readV w.a) (s.readK w.k)
    ((s.writeV w.d r.1 (s.readK w.k)).orSticky r.2).advance

/-- `red.add` (R237). -/
def execRedAdd (w : AWord) (s : State) : Result := reduceOp (.redAdd w) w 0 s
/-- `red.and` (R237). -/
def execRedAnd (w : AWord) (s : State) : Result := reduceOp (.redAnd w) w 1 s
/-- `red.or` (R237). -/
def execRedOr (w : AWord) (s : State) : Result := reduceOp (.redOr w) w 2 s
/-- `red.xor` (R237). -/
def execRedXor (w : AWord) (s : State) : Result := reduceOp (.redXor w) w 3 s
/-- `red.min` (R237). -/
def execRedMin (w : AWord) (s : State) : Result := reduceOp (.redMin w) w 4 s
/-- `red.max` (R237). -/
def execRedMax (w : AWord) (s : State) : Result := reduceOp (.redMax w) w 5 s
/-- `red.minu` (R237). -/
def execRedMinu (w : AWord) (s : State) : Result := reduceOp (.redMinu w) w 6 s
/-- `red.maxu` (R237). -/
def execRedMaxu (w : AWord) (s : State) : Result := reduceOp (.redMaxu w) w 7 s
/-- `red.fadd` (R237). -/
def execRedFadd (w : AWord) (s : State) : Result := reduceOp (.redFadd w) w 8 s
/-- `red.fmin` (R237). -/
def execRedFmin (w : AWord) (s : State) : Result := reduceOp (.redFmin w) w 9 s
/-- `red.fmax` (R237). -/
def execRedFmax (w : AWord) (s : State) : Result := reduceOp (.redFmax w) w 10 s
/-- `scan.add` (R237). -/
def execScanAdd (w : AWord) (s : State) : Result := scanOp (.scanAdd w) w 0 s
/-- `scan.and` (R237). -/
def execScanAnd (w : AWord) (s : State) : Result := scanOp (.scanAnd w) w 1 s
/-- `scan.or` (R237). -/
def execScanOr (w : AWord) (s : State) : Result := scanOp (.scanOr w) w 2 s
/-- `scan.xor` (R237). -/
def execScanXor (w : AWord) (s : State) : Result := scanOp (.scanXor w) w 3 s
/-- `scan.min` (R237). -/
def execScanMin (w : AWord) (s : State) : Result := scanOp (.scanMin w) w 4 s
/-- `scan.max` (R237). -/
def execScanMax (w : AWord) (s : State) : Result := scanOp (.scanMax w) w 5 s
/-- `scan.minu` (R237). -/
def execScanMinu (w : AWord) (s : State) : Result := scanOp (.scanMinu w) w 6 s
/-- `scan.maxu` (R237). -/
def execScanMaxu (w : AWord) (s : State) : Result := scanOp (.scanMaxu w) w 7 s
/-- `scan.fadd` (R237). -/
def execScanFadd (w : AWord) (s : State) : Result := scanOp (.scanFadd w) w 8 s
/-- `scan.fmin` (R237). -/
def execScanFmin (w : AWord) (s : State) : Result := scanOp (.scanFmin w) w 9 s
/-- `scan.fmax` (R237). -/
def execScanFmax (w : AWord) (s : State) : Result := scanOp (.scanFmax w) w 10 s

end Sys2Proof.Machine
end

