-- ==== Sys2Proof/Machine/Sfu.lean ====
section
/-! DEFINITION. The special functions of R238. `rcp`, `sqrt` and `rsqrt` are rounded from an exact integer
quotient or root. The others are enclosed between two fixed-point numbers and rounded where both ends
round alike. -/

namespace Sys2Proof.Machine

/-- Fixed-point fraction bits of the enclosures. -/
def fxBits : Nat := 320
def fxOne : Int := 2 ^ fxBits
/-- The bound on the error of an enclosure's centre, in units of the last place. -/
def fxError : Int := 2 ^ 24

def fxMul (a b : Int) : Int := (a * b) >>> fxBits

/-- Largest `r` with `r * r ≤ n`, below 2^k. -/
def isqrt (n : Nat) (k : Nat) : Nat :=
  (List.range k).reverse.foldl (fun r i => if (r + 2 ^ i) * (r + 2 ^ i) ≤ n then r + 2 ^ i else r) 0

/-- Σ ±1 / ((2k+1)·n^(2k+1)) in fixed point: the inverse tangent of 1/n, hyperbolic when `hyper`. -/
def fxAtanInv (hyper : Bool) (n : Nat) : Int :=
  ((List.range 160).foldl (fun (acc : Int × Int) k =>
    let t := acc.2 / (2 * k + 1 : Nat)
    (if hyper || k % 2 == 0 then acc.1 + t else acc.1 - t, acc.2 / (n * n : Nat)))
    (0, fxOne / (n : Nat))).1

def fxPi : Int := 16 * fxAtanInv false 5 - 4 * fxAtanInv false 239
def fxLn2 : Int := 2 * fxAtanInv true 3

/-- Σ t^k / k!, for |t| at most 1. -/
def fxExp (t : Int) : Int :=
  ((List.range 80).foldl (fun (acc : Int × Int) k =>
    (acc.1 + acc.2, fxMul acc.2 t / (k + 1 : Nat))) (0, fxOne)).1

/-- Sine (`odd`) or cosine of `t`, for |t| at most 2. -/
def fxSinCos (odd : Bool) (t : Int) : Int :=
  let sq := fxMul t t
  let o : Nat := if odd then 1 else 0
  ((List.range 60).foldl (fun (acc : Int × Int) k =>
    (if k % 2 = 0 then acc.1 + acc.2 else acc.1 - acc.2,
     fxMul acc.2 sq / ((2 * k + 1 + o) * (2 * k + 2 + o) : Nat)))
    (0, if odd then t else fxOne)).1

/-- `2·atanh z` by its series, for z at most 1/3. -/
def fxLog (z : Int) : Int :=
  let sq := fxMul z z
  2 * ((List.range 110).foldl (fun (acc : Int × Int) k =>
    (acc.1 + acc.2 / (2 * k + 1 : Nat), fxMul acc.2 sq)) (0, z)).1

/-- `m·2^e` in fixed point, rounded down. -/
def fxOf (m : Nat) (e : Int) : Int :=
  let s := e + fxBits
  if 0 ≤ s then (m * 2 ^ s.toNat : Nat) else (m / 2 ^ (-s).toNat : Nat)

/-- A special function's result: bits and flags. -/
abbrev SfuOut := W32 × Sticky

def sfuNaN (nv : Bool) : SfuOut := (BitVec.ofNat 32 fp32.nanBits, flagIf nv flagNV)
def sfuInf (neg : Bool) (f : Sticky) : SfuOut := (BitVec.ofNat 32 (fp32.withSign neg fp32.infBits), f)
def sfuZero (neg : Bool) : SfuOut := (BitVec.ofNat 32 (fp32.withSign neg 0), 0)
def sfuRound (rm : Nat) (neg : Bool) (m : Nat) (e : Int) (sticky : Bool) : SfuOut :=
  let r := roundMag fp32 rm false neg m e sticky
  (BitVec.ofNat 32 r.1, r.2)
/-- An exactly known value. -/
def sfuExact (x : Num) : SfuOut :=
  let r := deliver fp32 0 false x
  (BitVec.ofNat 32 r.1, r.2)

/-- The irrational value near `centre·2^(e − fxBits)`, rounded to nearest even where the enclosure decides. -/
def sfuEnclosed (fn : Nat) (x : W32) (neg : Bool) (centre : Int) (e : Int) : SfuOut :=
  let lo := sfuRound 0 neg (centre - fxError).toNat (e - fxBits) true
  let hi := sfuRound 0 neg (centre + fxError).toNat (e - fxBits) true
  if lo = hi then lo else (Config.sfuUndecided fn x, flagNX)

def sfuRcpNum (rm : Nat) : Num → SfuOut
  | .nan g => sfuNaN g
  | .inf n => sfuZero n
  | .fin n m e =>
    if m = 0 then sfuInf n flagDZ
    else sfuRound rm n (2 ^ 80 / m) (-80 - e) (2 ^ 80 % m != 0)

/-- A magnitude with an even exponent. -/
def evenExp (m : Nat) (e : Int) : Nat × Int := if e % 2 = 0 then (m, e) else (2 * m, e - 1)

def sfuSqrtNum (rm : Nat) : Num → SfuOut
  | .nan g => sfuNaN g
  | .inf n => if n then sfuNaN true else sfuInf false 0
  | .fin n m e =>
    if m = 0 then sfuZero n
    else if n then sfuNaN true
    else
      let p := evenExp m e
      let r := isqrt (p.1 * 2 ^ 64) 46
      sfuRound rm false r (p.2 / 2 - 32) (r * r != p.1 * 2 ^ 64)

def sfuRsqrtNum : Num → SfuOut
  | .nan g => sfuNaN g
  | .inf n => if n then sfuNaN true else sfuZero false
  | .fin n m e =>
    if m = 0 then sfuInf n flagDZ
    else if n then sfuNaN true
    else
      let p := evenExp m e
      let r := isqrt (2 ^ 140 / p.1) 71
      sfuRound 0 false r (-70 - p.2 / 2) (r * r * p.1 != 2 ^ 140)

def sfuExp2Num (x : W32) : Num → SfuOut
  | .nan g => sfuNaN g
  | .inf n => if n then sfuZero false else sfuInf false 0
  | .fin n m e =>
    if m = 0 then sfuExact (.fin false 1 0)
    else if 8 < e + (Nat.log2 m : Int) then
      if n then sfuRound 0 false 1 (-1000) true else sfuRound 0 false 1 1000 true
    else
      let v : Int := if n then -(fxOf m e) else fxOf m e
      let whole := v / fxOne
      let frac := v - whole * fxOne
      if frac = 0 then sfuRound 0 false 1 whole false
      else sfuEnclosed 3 x false (fxExp (fxMul frac fxLn2)) whole

def sfuLog2Num (x : W32) : Num → SfuOut
  | .nan g => sfuNaN g
  | .inf n => if n then sfuNaN true else sfuInf false 0
  | .fin n m e =>
    if m = 0 then sfuInf true flagDZ
    else if n then sfuNaN true
    else
      let top : Int := e + Nat.log2 m
      if m = 2 ^ Nat.log2 m then sfuExact (Num.ofInt top 0)
      else
        let y := fxOf m (-(Nat.log2 m : Int))
        let z := (y - fxOne) * fxOne / (y + fxOne)
        let v := top * fxOne + fxLog z * fxOne / fxLn2
        sfuEnclosed 4 x (v < 0) v.natAbs 0

/-- sin(π·x) for a dyadic `x` of sign `n` that is not a multiple of ½: `r` is |x| mod 2. -/
def sfuTurn (fn : Nat) (x : W32) (neg : Bool) (r : Int) (cos : Bool) : SfuOut :=
  let half := fxOne / 2
  let quad := r / half
  let f := r - quad * half
  -- sin on quadrant 0, cos on quadrant 1, and so on; cosine is one quadrant ahead
  let q := (quad + if cos then 1 else 0) % 4
  let odd := q == 0 || q == 2
  let sign := q == 2 || q == 3
  sfuEnclosed fn x (if cos then sign else neg != sign) (fxSinCos odd (fxMul f fxPi)) 0

/-- |x| mod 2 in fixed point; exact, since an FP32 number has its bits above 2^-149. -/
def modTwo (m : Nat) (e : Int) : Int :=
  if 1 ≤ e then 0 else fxOf (m % 2 ^ ((1 - e).toNat)) e

def sfuSinpiNum (x : W32) : Num → SfuOut
  | .nan g => sfuNaN g
  | .inf _ => sfuNaN true
  | .fin n m e =>
    let r := modTwo m e
    let half := fxOne / 2
    if r % fxOne = 0 then sfuZero n
    else if r = half then sfuExact (.fin n 1 0)
    else if r = 3 * half then sfuExact (.fin (!n) 1 0)
    else sfuTurn 5 x n r false

def sfuCospiNum (x : W32) : Num → SfuOut
  | .nan g => sfuNaN g
  | .inf _ => sfuNaN true
  | .fin n m e =>
    let r := modTwo m e
    let half := fxOne / 2
    if r = 0 then sfuExact (.fin false 1 0)
    else if r = fxOne then sfuExact (.fin true 1 0)
    else if r % half = 0 then sfuZero false
    else sfuTurn 6 x n r true

def sfuTanhNum (x : W32) : Num → SfuOut
  | .nan g => sfuNaN g
  | .inf n => sfuExact (.fin n 1 0)
  | .fin n m e =>
    if m = 0 then sfuZero n
    else if 6 ≤ e + (Nat.log2 m : Int) then sfuRound 0 n (2 ^ 100 - 1) (-100) true
    else
      let w := (List.range 7).foldl (fun a _ => fxMul a a) (fxExp (-(fxOf m e) / 64))
      sfuEnclosed 7 x n ((fxOne - w) * fxOne / (fxOne + w)) 0

/-- `sfu` with function code `fn` (R238). -/
def sfuEval (fn rm : Nat) (x : W32) : SfuOut :=
  let n := unpack fp32 x.toNat
  match fn with
  | 0 => sfuRcpNum rm n
  | 1 => sfuSqrtNum rm n
  | 2 => sfuRsqrtNum n
  | 3 => sfuExp2Num x n
  | 4 => sfuLog2Num x n
  | 5 => sfuSinpiNum x n
  | 6 => sfuCospiNum x n
  | _ => sfuTanhNum x n

end Sys2Proof.Machine
end

