-- ==== Sys2Proof/Machine/Fabric.lean ====
section
/-! DEFINITION. The Orrery fabric of this package: the geometry of the pod (R348), the paths to another package (R349), and the packets that leave by a
port (R350, R351). -/

namespace Sys2Proof.Machine

/-! ## Geometry (R348) -/

/-- The point that a package id names. -/
def polarPoint (id : Nat) : Nat × Nat × Nat :=
  if id = 0 then (0, 0, 1) else if id < 32 then (0, 1, id - 1) else (1, (id - 32) / 31, (id - 32) % 31)

def polarAdjacent (a b : Nat) : Bool :=
  let x := polarPoint a
  let y := polarPoint b
  a != b && (x.1 * y.1 + x.2.1 * y.2.1 + x.2.2 * y.2.2) % 31 == 0

/-- The neighbours of a package in ascending id order: port j links to the j-th. -/
def packageNeighbours (id : Nat) : List Nat := (List.range 993).filter (polarAdjacent id)

/-- The port of a package that links to a neighbour. -/
def portTo (id neighbour : Nat) : Nat := ((List.range neighbour).filter (polarAdjacent id)).length

/-- The inverse of a residue mod 31. -/
def inv31 (a : Nat) : Nat := a ^ 29 % 31

/-- The package of a point, its first coordinate that is not zero taken to 1. -/
def polarId (p : Nat × Nat × Nat) : Nat :=
  let x := p.1 % 31
  let y := p.2.1 % 31
  let z := p.2.2 % 31
  if x ≠ 0 then 32 + 31 * (y * inv31 x % 31) + z * inv31 x % 31
  else if y ≠ 0 then 1 + z * inv31 y % 31
  else 0

/-- The package between two that are not adjacent: their cross product (R349). -/
def polarBetween (a b : Nat) : Nat :=
  let x := polarPoint a
  let y := polarPoint b
  let minus (u v : Nat) : Nat := (u + 31 * 31 - v) % 31
  polarId (minus (x.2.1 * y.2.2) (x.2.2 * y.2.1), minus (x.2.2 * y.1) (x.1 * y.2.2), minus (x.1 * y.2.1) (x.2.1 * y.1))

/-- The packages on the minimal path from one to another, the last one included (R349). -/
def minimalPath (a b : Nat) : List Nat := if a = b then [] else if polarAdjacent a b then [b] else [polarBetween a b, b]

/-! ## Packets (R350) -/

/-- Data flits of 64 bytes. -/
def dataFlits (bytes : Nat) : Nat := Bits.ceilDiv bytes 64

/-- The bytes that a request carries. -/
def opBytes : HomeOp → Nat
  | .store d _ | .nontemporal _ d _ | .strongStore d => d.length
  | .atomic .. => 16
  | _ => 0

/-- A packet's destination, its partition, its virtual channel and its data flits. DEDUCED (log 59): requests and their own writes in channel 0, what
answers them in 1, lines and acknowledgements that leave a holder, and invalidations, in 3. -/
def FabricPacket.route : FabricPacket → Nat × Nat × Nat × Nat
  | .request pkg r => (pkg, r.part, 0, dataFlits (opBytes r.op))
  | .own pkg part _ _ => (pkg, part, 0, 0)
  | .message pkg p => (pkg, p.part, 2, 4)
  | .migrant pkg part _ => (pkg, part, 2, 4)
  | .writeBack pkg part _ _ _ => (pkg, part, 3, 4)
  | .grant pkg part _ _ data _ => (pkg, part, 1, dataFlits data.length)
  | .recall pkg part _ _ => (pkg, part, 3, 0)
  | .refused pkg part _ _ => (pkg, part, 1, 0)
  | .recalled pkg part _ => (pkg, part, 3, 0)
  | .value pkg part _ _ _ _ => (pkg, part, 1, 1)
  | .collective pkg part _ _ _ => (pkg, part, 4, 1)
  | .marker pkg part _ _ => (pkg, part, 4, 0)
  | .line pkg part _ _ => (pkg, part, 3, 4)
  | .moved pkg part _ => (pkg, part, 1, 0)
  | .tinv pkg part _ _ _ _ => (pkg, part, 3, 1)
  | .tinvDone pkg part _ => (pkg, part, 1, 0)

/-- The edition a packet carries, or none where it is the partition's (R291). -/
def FabricPacket.stamp : FabricPacket → Option W32
  | .message _ p => some p.edition
  | .request _ r => some r.edition
  | _ => none

/-- A packet of the kinds that a marker counts (R295). -/
def FabricPacket.counts : FabricPacket → Bool
  | .message _ _ => true
  | _ => false

namespace State

/-! ## Paths (R349) -/

/-- A link is up: of this package as its port is, elsewhere unless it is known to be lost (log 59). -/
def linkUp (s : State) (a b : Nat) : Bool :=
  if a = s.pkgid then s.portsUp.contains (portTo a b)
  else if b = s.pkgid then s.portsUp.contains (portTo b a)
  else !s.lostLinks.contains (min a b, max a b)

/-- Every link of a path is up. -/
def pathUp (s : State) (p : List Nat) : Bool := (p.foldl (fun (acc : Bool × Nat) k => (acc.1 && s.linkUp acc.2 k, k)) (true, s.pkgid)).1

/-- The non-minimal paths to a package, up to eight, through the intermediates of the router table. -/
def otherPaths (s : State) (dst : Nat) : List (List Nat) :=
  (((Config.intermediates s.pkgid dst).filter fun w => w != s.pkgid && w != dst && decide (w < 993)).take 8).map fun w =>
    minimalPath s.pkgid w ++ minimalPath w dst

/-- The paths to a package that are left (R385). -/
def pathsTo (s : State) (dst : Nat) : List (List Nat) := (minimalPath s.pkgid dst :: s.otherPaths dst).filter s.pathUp

/-- A package is reached: it is this one, or a path to it is left. -/
def reachable (s : State) (pkg : Nat) : Bool := pkg == s.pkgid || !(s.pathsTo pkg).isEmpty

/-- The flits that a port holds queued in a virtual channel. -/
def flitsAt (s : State) (port vc : Nat) : Nat :=
  (s.portFlits.filter fun f => f.port == port && f.vc == vc && decide (s.now < f.due)).foldl (fun n f => n + f.flits) 0

/-- The port by which a path leaves. -/
def pathPort (s : State) (p : List Nat) : Nat := portTo s.pkgid (p.headD s.pkgid)

/-- The path a packet takes and whether it is the next one of the non-minimal ones (R349). DEDUCED (log 59): "fewer" is fewer than the minimal path's
first port holds; where the minimal path is lost the next of the others is taken, and that one's turn passes. -/
def choosePath (s : State) (dst vc : Nat) : Option (Nat × Bool) :=
  let least := minimalPath s.pkgid dst
  let others := (s.otherPaths dst).filter s.pathUp
  let next := (others[look 0 dst s.pathNext % others.length]?).map s.pathPort
  if s.pathUp least then
    let q := s.flitsAt (s.pathPort least) vc
    match next with
    | some w => if decide (s.minthr.toNat < q) && decide (s.flitsAt w vc < q) then some (w, true) else some (s.pathPort least, false)
    | none => some (s.pathPort least, false)
  else next.map fun w => (w, true)

/-- A packet leaves through an Orrery port with its header (R350). It is queued there until the port has sent it, 7 flits in 5 cycles (DEDUCED from R351,
log 59); where no path is left it is lost (R385). -/
def toFabric (s : State) (p : FabricPacket) : State :=
  let (dst, part, vc, n) := p.route
  match s.choosePath dst vc with
  | none => s
  | some (port, turn) =>
    let live := s.portFlits.filter fun f => decide (s.now < f.due)
    let from_ := (live.filter fun f => f.port == port).foldl (fun t f => max t f.due) s.now
    { s with
      fabricOut := s.fabricOut ++ [{ dst := dst, src := s.pkgid, part := part, vc := vc, edition := (p.stamp.getD (s.partition part).edition).setWidth 16, flits := n,
                                     port := port, body := p }]
      portFlits := live ++ [{ port := port, vc := vc, flits := n + 1, due := from_ + Bits.ceilDiv (5 * (n + 1)) 7 }]
      pathNext := if turn then put dst (look 0 dst s.pathNext + 1) s.pathNext else s.pathNext }

/-- The counted packets that a partition has sent since its start on the link by which a package is reached now (R295). -/
def linkCount (s : State) (part pkg : Nat) : Nat :=
  match s.choosePath pkg 4 with
  | some (port, _) => (s.fabricOut.filter fun f => f.part == part && f.port == port && f.body.counts).length
  | none => 0

/-! ## Packets from other packages (R350) -/

/-- The packages that PODHOME lists for a partition (R344). -/
def listed (s : State) (part : Nat) : List Nat :=
  (List.range ((s.partition part).podN.toNat % 1024)).map fun j => Bits.get (look 0 j (s.partition part).podHome).toNat 9 0

/-- A packet of a partition from another package is taken: PODHOME lists this package, and the partition runs here (R350, R358) and is not returning to
a cut (R299). -/
def takesPackets (s : State) (part : Nat) : Bool :=
  (s.listed part).contains s.pkgid && (s.partition part).pctl == 1 && (s.partition part).restoring.isNone

end State

end Sys2Proof.Machine
end

