-- ==== Sys2Proof/Machine/Memory.lean ====
section
/-! DEFINITION. Memory beyond the executing core: homes (R133-R139), translation (R141-R147, R405, R417), the
L2, the copies that cores hold, and how a strand reads cached bytes. -/

namespace Sys2Proof.Machine

/-! ## Rights: R W X U O G COW from bit 0 up (R144) -/

def pteRights (e : Word) : BitVec 7 :=
  BitVec.ofBool (e.getLsbD 10) ++ BitVec.ofBool (e.getLsbD 11) ++ BitVec.ofBool (e.getLsbD 6) ++
    BitVec.ofBool (e.getLsbD 5) ++ BitVec.ofBool (e.getLsbD 4) ++ BitVec.ofBool (e.getLsbD 3) ++
    BitVec.ofBool (e.getLsbD 2)

def strong (r : BitVec 7) : Bool := r.getLsbD 4
def globalLeaf (r : BitVec 7) : Bool := r.getLsbD 5
def cowLeaf (r : BitVec 7) : Bool := r.getLsbD 6

/-- The rights an access needs (R145). -/
def rightsOk (acc : Access) (priv : Bool) (r : BitVec 7) : Bool :=
  (priv || r.getLsbD 3) &&
  (match acc with
   | .load => r.getLsbD 0
   | .store => r.getLsbD 1
   | .atomic => r.getLsbD 0 && r.getLsbD 1
   | .fetch => r.getLsbD 2)

/-! ## Physical memory -/

namespace State

def l2Find (s : State) (part line : Nat) : Option L2Line := s.l2.find? fun l => l.part == part && l.line == line

/-- A line's new contents; it is the last put of its set. -/
def l2Keep (s : State) (l : L2Line) : State :=
  { s with l2 := l :: s.l2.filter fun m => !(m.part == l.part && m.line == l.line) }

def l2Drop (s : State) (part line : Nat) : State :=
  { s with l2 := s.l2.filter fun m => !(m.part == part && m.line == line) }

/-- A byte of a frame as the homes hold it: the L2 line that caches the frame, else HBM (R141). -/
def physByte (s : State) (pa : Nat) : Byte :=
  match s.l2.find? fun l => l.peer.isNone && l.g.frame == pa / 256 * 256 && l.valid.contains (pa % 256 / 32) with
  | some l => memGet l.data (pa % 256)
  | none => memGet s.hbm pa

def physWord (s : State) (pa : Nat) : Word :=
  BitVec.ofNat 64 (Bytes.toNat ((List.range 8).map fun i => s.physByte (pa + i)))

/-- Bytes of one line written where its frame is held. -/
def physWrite (s : State) (pa : Nat) (data : List Byte) : State :=
  match s.l2.find? fun l => l.peer.isNone && l.g.frame == pa / 256 * 256 && l.valid.contains (pa % 256 / 32) with
  | some l =>
    s.l2Keep { l with data := memStore l.data (pa % 256) data,
                      dirty := (List.range data.length).foldl (fun d i => NatSet.add (pa % 256 + i) d) l.dirty }
  | none => s.hbmWrite pa data

/-! ## Ownership and homes -/

def owner (s : State) (q : Nat) : Option Nat := (s.quire q).owner

/-- The quires of a partition on a die, ascending (R135). -/
def ownedOn (s : State) (part die : Nat) : List Nat :=
  (s.quires.filter fun e => e.2.owner == some part && e.1 / 256 == die).map (·.1)

def lowestDie (s : State) (part : Nat) : Nat :=
  ((List.range 4).find? fun d => !(s.ownedOn part d).isEmpty).getD 0

/-- The home-map entry used for an address (R134). -/
def homeEntry (s : State) (part va : Nat) : Option (Nat × Nat) :=
  let p := s.partition part
  let g := Bits.get va 56 21
  (List.range 64).findSome? fun n =>
    let b := (look 0 n p.hmapB).toNat
    let l := (look 0 n p.hmapL).toNat
    if l.testBit 63 && decide (Bits.get b 35 0 ≤ g) && decide (g ≤ Bits.get l 35 0) then some (n, l) else none

/-- The packages of a partition (R344): this one and those of PODHOME. -/
def inPodHome (s : State) (part pkg : Nat) : Bool :=
  pkg == s.pkgid || (s.listed part).contains pkg

/-- HOME_MOVED (R393, R415): the entry names a package outside PODHOME. -/
def homeMoved (s : State) (part va : Nat) : Bool :=
  match s.homeEntry part va with
  | none => false
  | some (_, l) =>
    !s.inPodHome part (Bits.get l 59 50) || (l.testBit 62 && !s.inPodHome part (Bits.get l 47 38))

/-- A move has copied the line of an address to its new home (R152). -/
def lineMoved (s : State) (part va n : Nat) : Bool :=
  s.moves.any fun m => m.part == part && m.n == n && decide (m.base ≤ va) && decide (va / 256 < m.base / 256 + m.index)

/-- The package and the die to which an entry sends an address (R134, R152). -/
def entryHome (s : State) (part va n l : Nat) : Nat × Nat :=
  if l.testBit 62 && s.lineMoved part va n then (Bits.get l 47 38, Bits.get l 37 36) else (Bits.get l 59 50, Bits.get l 49 48)

/-- The package an address is homed in (R134). -/
def homePackage (s : State) (part va : Nat) : Nat :=
  match s.homeEntry part va with
  | none => s.pkgid
  | some (n, l) => (s.entryHome part va n l).1

/-- The list of a domain on a die (R135). -/
def domainList (s : State) (part die dom : Nat) (mask : Word) : List Nat :=
  let all := s.ownedOn part die
  let of (d : Nat) := all.filter fun q => mask.getLsbD (16 * d + quireY q)
  if !(of dom).isEmpty then of dom else if !(of 0).isEmpty then of 0 else all

/-- The fold of R135. -/
def fold16 (va : Nat) : Nat :=
  let g := Bits.get va 56 8
  Bits.get g 15 0 ^^^ Bits.get g 31 16 ^^^ Bits.get g 47 32 ^^^ Bits.get g 48 48

/-- The home slice of an address under a value of HMASK (R133-R135, R138). -/
def homeUnder (s : State) (part va : Nat) (mask : Word) : Nat :=
  let (die, dom) :=
    match s.homeEntry part va with
    | none => (if (s.ownedOn part 0).isEmpty then s.lowestDie part else 0, 0)
    | some (n, l) =>
      let d := (s.entryHome part va n l).2
      (if (s.ownedOn part d).isEmpty then s.lowestDie part else d, Bits.get l 61 60)
  let list := s.domainList part die dom mask
  list.getD (fold16 va * list.length / 65536) 0

def homeOf (s : State) (part va : Nat) : Nat := s.homeUnder part va (s.partition part).hmask

/-! ## The slices' lines -/

/-- The dirty bytes of a line by their offsets. -/
def dirtyBytes (l : L2Line) : List (Nat × Byte) := l.dirty.map fun o => (o, memGet l.data o)

/-- A line's dirty bytes reach memory, or of a peer line the owning package; the line stays, clean (R139, R255). -/
def writeBack (s : State) (l : L2Line) : State :=
  let s1 :=
    if l.peer.isNone then (dirtyBytes l).foldl (fun s b => s.hbmWrite (l.g.frame + b.1) [b.2]) s
    else if l.dirty.isEmpty then s
    else s.toFabric (.writeBack (s.homePackage l.part (l.line * 256)) l.part l.line (dirtyBytes l) none)
  s1.l2Keep { l with dirty := [] }

/-- The ways of a slice that a partition's lines take (R88). -/
def l2Ways (s : State) (part : Nat) : Nat :=
  let n := Bits.get (s.partition part).plimit.toNat 19 16
  if n = 0 then 1 else min n 11

/-- A line enters its slice, in a set of 512 and the ways of its partition (R9, R88). DESIGN CHOICE (log 54): the set is VA[16:8], and the line put longest ago
makes way; its dirty bytes are written back first. -/
def l2Put (s : State) (l : L2Line) : State :=
  let home := s.homeOf l.part (l.line * 256)
  let s1 := s.l2Keep l
  ((s1.l2.filter fun x => x.part == l.part && x.line % 512 == l.line % 512 && s.homeOf x.part (x.line * 256) == home).drop (s.l2Ways l.part)).foldl
    (fun s x => (s.writeBack x).l2Drop x.part x.line) s1

end State

/-! ## The walk -/

/-- A translation: where the access goes and what its page allows. -/
structure Leaf where
  rights : BitVec 7
  pa : Nat
  entryPa : Nat
  size : Nat
  deriving DecidableEq, Repr

/-- Bytes covered by one entry of a level (R143). -/
def levelSize (lvl : Nat) : Nat := 2 ^ (12 + 9 * (lvl - 1))

/-- The index of an address at a level (R143). -/
def levelIndex (va lvl : Nat) : Nat := va / levelSize lvl % 512

def ptePfn (e : Word) : Nat := Bits.get e.toNat 51 12

/-- The rules of R144. -/
def pteOk (lvl : Nat) (e : Word) : Bool :=
  let n := e.toNat
  Bits.get n 62 60 == 0 &&
  (if e.getLsbD 1 then lvl != 1 && Bits.get n 59 52 == 0 && Bits.get n 11 2 == 0
   else
     lvl < 4 && (!e.getLsbD 3 || e.getLsbD 2) && !(lvl == 3 && e.getLsbD 7) &&
     (lvl != 2 || Bits.get (ptePfn e) 8 0 == 0) && (lvl != 3 || Bits.get (ptePfn e) 17 0 == 0))

/-- The range a leaf stands for: a contiguous group covers sixteen pages (R146). -/
def leafSize (lvl : Nat) (e : Word) : Nat := if e.getLsbD 7 && lvl < 3 then 16 * levelSize lvl else levelSize lvl

/-- Where a leaf sends an address (R143, R146). -/
def leafPa (lvl : Nat) (e : Word) (va : Nat) : Nat :=
  let size := leafSize lvl e
  ptePfn e * 4096 / size * size + va % size

/-- An engine frame's quire (R260) and a notify page's partition (R347). -/
def engineFrameQuire (pa : Nat) : Option Nat :=
  if Config.engineFrame ≤ pa && pa < Config.engineFrame + 4096 * 1024 then some ((pa - Config.engineFrame) / 4096)
  else none

def notifyPartition (pa : Nat) : Option Nat :=
  if Config.notifyPage ≤ pa && pa < Config.notifyPage + 4096 * 24 then some ((pa - Config.notifyPage) / 4096) else none

namespace State

/-- A frame of the partition's share, or one of the exceptions of R359 for a leaf with O = 1. Addresses
beyond the stacks belong to no share (R9). -/
def frameOk (s : State) (part pa : Nat) (strongLeaf : Bool) : Bool :=
  (s.inShare part pa 1 && decide (pa < Config.hbmBytes)) ||
  (strongLeaf &&
    ((match engineFrameQuire pa with | some q => s.owner q == some part | none => false) ||
     notifyPartition pa == some part))

/-- What a walk wants. -/
structure WalkFor where
  part : Nat
  ctx : Nat
  va : Nat
  acc : Access
  priv : Bool
  deriving DecidableEq, Repr

def WalkFor.fault (w : WalkFor) (c : EventCode) (lvl : Nat) (e : Word) : FaultInfo :=
  { code := c, va := BitVec.ofNat 64 w.va, level := lvl, pte := e, isFetch := w.acc == .fetch,
    isWrite := w.acc == .store || w.acc == .atomic }

/-- The checks of R405 on a leaf that has been read or kept. DEDUCED (log 90): R260's row for a leaf with O = 0 stands for the engine frames that
R359 lets the partition map, and R359's PERMISSION for every other frame outside the share. -/
def checkLeaf (s : State) (w : WalkFor) (lvl : Nat) (e : Word) (entryPa : Nat) : Except FaultInfo Leaf :=
  let r := pteRights e
  let pa := leafPa lvl e w.va
  if !rightsOk w.acc w.priv r then .error (w.fault .permission lvl e)
  else if !s.frameOk w.part pa (strong r) then
    .error (w.fault (if s.frameOk w.part pa true && (engineFrameQuire pa).isSome then .strongMisuse else .permission) lvl e)
  else .ok ⟨r, pa, entryPa, leafSize lvl e⟩

def cacheEntry (w : WalkFor) (lvl size : Nat) (e : Word) (entryPa : Nat) : WalkEntry :=
  { part := w.part, ctx := w.ctx, global := !e.getLsbD 1 && e.getLsbD 11, level := lvl, base := w.va / size * size,
    size := size, pte := e, entryPa := entryPa }

/-- The levels read from memory, from `lvl` down (R143, R405): the leaf or the fault, the entries to keep
(R147) and the number of reads. -/
def descend (s : State) (w : WalkFor) : Nat → Nat → Except FaultInfo Leaf × List WalkEntry × Nat
  | 0, _ => (.error (w.fault .notPresent 0 0), [], 0)
  | lvl + 1, t =>
    let l := lvl + 1
    let pa := t * 4096 + 8 * levelIndex w.va l
    let e := s.physWord pa
    if !e.getLsbD 0 then (.error (w.fault .notPresent l e), [], 1)
    else if !pteOk l e then (.error (w.fault .reservedBit l e), [], 1)
    else if e.getLsbD 1 then
      if !s.frameOk w.part (ptePfn e * 4096) false then (.error (w.fault .permission l e), [], 1)
      else
        let r := s.descend w lvl (ptePfn e)
        (r.1, cacheEntry w l (levelSize l) e pa :: r.2.1, r.2.2 + 1)
    else
      match s.checkLeaf w l e pa with
      | .error f => (.error f, [], 1)
      | .ok leaf =>
        (.ok leaf, if l == 1 && !e.getLsbD 7 then [] else [cacheEntry w l (leafSize l e) e pa], 1)

/-- The deepest entry a walk cache holds for an address (R147). -/
def probe (d : Die) (w : WalkFor) : Option WalkEntry :=
  (List.range 5).findSome? fun k =>
    d.walk.find? fun e =>
      e.level == k + 1 && e.part == w.part && (e.global || e.ctx == w.ctx) &&
        decide (e.base ≤ w.va) && decide (w.va < e.base + e.size)

/-- The hardware's atomic write of A (R145). -/
def setAccessed (s : State) (leaf : Leaf) : State :=
  let e := s.physWord leaf.entryPa
  if e.getLsbD 8 then s else s.physWrite leaf.entryPa (Bytes.ofNat 8 (e ||| 0x100).toNat)

/-- The hardware's atomic write of D at a store the home performs (R145). -/
def setDirty (s : State) (entryPa : Option Nat) : State :=
  match entryPa with
  | none => s
  | some a =>
    let e := s.physWord a
    if e.getLsbD 9 || !e.getLsbD 0 then s else s.physWrite a (Bytes.ofNat 8 (e ||| 0x200).toNat)

/-- The leaf of an address, walked without the walk cache. -/
def pageLeaf (s : State) (part ctx va : Nat) : Option (Leaf × Word) :=
  match (s.descend { part := part, ctx := ctx, va := va, acc := .load, priv := true } 5 (ptePfn (s.context part ctx).ttroot)).1 with
  | .ok l => some (l, s.physWord l.entryPa)
  | .error _ => none

/-- A walk at a die's home translation unit (R143-R147, R405, R417): the state with its walk cache, the entry that answered the probe
used last, and the A bit of a leaf that was read, the cost, and the translation or the fault. No entry is kept of a faulting walk. -/
def translate (s : State) (die : Nat) (w : WalkFor) : State × Nat × Except FaultInfo Leaf :=
  let d := s.die die
  let root := ptePfn (s.context w.part w.ctx).ttroot
  let keep (s : State) (l : List WalkEntry) : State :=
    s.updDie die fun d => { d with walk := (l ++ d.walk.filter fun e => !l.contains e).take 256 }
  let finish (s : State) (used : List WalkEntry) (r : Except FaultInfo Leaf × List WalkEntry × Nat) :
      State × Nat × Except FaultInfo Leaf :=
    match r.1 with
    | .error f => (keep s used, 4 + 600 * r.2.2, .error f)
    | .ok leaf =>
      let s1 := keep s (r.2.1.reverse ++ used)
      (if r.2.2 = 0 then s1 else s1.setAccessed leaf, 4 + 600 * r.2.2, .ok leaf)
  match probe d w with
  | some e =>
    if e.pte.getLsbD 1 then finish s [e] (s.descend w (e.level - 1) (ptePfn e.pte))
    else finish s [e] (s.checkLeaf w e.level e.pte e.entryPa, [], 0)
  | none =>
    if !s.frameOk w.part (root * 4096) false then (s, 4, .error (w.fault .permission 5 0))
    else finish s [] (s.descend w 5 root)

/-- Bytes from `a` with later writes laid over them. -/
def overlay (ws : List (Nat × List Byte)) (a : Nat) (base : List Byte) : List Byte :=
  ws.foldl (fun bs w =>
    if w.1 < a + bs.length && a < w.1 + w.2.length then
      (List.range bs.length).map fun i =>
        if w.1 ≤ a + i && a + i < w.1 + w.2.length then w.2.getD (a + i - w.1) 0 else bs.getD i 0
    else bs) base

/-! ## Lines at their homes -/

/-- A line at its home for an access (R130, R145): held with the rights it needs, or translated and filled
from memory. The answer has the cost beyond the slice, the line's bytes, its rights and its frame; a leaf with
O = 1 answers no bytes (R148). DEDUCED (log 13): a held line that lacks the right is walked again, so that the
report names the entry. -/
def homeLine (s : State) (w : WalkFor) : State × Nat × Except FaultInfo (List Byte × Grant) :=
  let line := w.va / 256
  let walked (held : Option L2Line) : State × Nat × Except FaultInfo (List Byte × Grant) :=
    match s.translate (s.homeOf w.part w.va / 256) w with
    | (s1, cost, .error f) => (s1, cost, .error f)
    | (s1, cost, .ok leaf) =>
      let g : Grant := { rights := leaf.rights, frame := leaf.pa / 256 * 256, size := leaf.size }
      if strong leaf.rights then (s1, cost + Config.hbmCycles, .ok ([], g))
      else
        let l : L2Line :=
          match held with
          | some l => { l with g := { g with frame := l.g.frame } }
          | none =>
            { part := w.part, line := line, data := memStore [] 0 (memLoad s1.hbm g.frame 256), valid := List.range 8,
              dirty := [], g := g, entryPa := some leaf.entryPa, peer := none }
        (s1.l2Put l, cost + Config.hbmCycles, .ok (memLoad l.data 0 256, l.g))
  match s.l2Find w.part line with
  | some l =>
    if rightsOk w.acc w.priv l.g.rights then (s, 0, .ok (memLoad l.data 0 256, l.g))
    else walked (some l)
  | none => walked none

/-- Bytes within one line applied at its home: the line is held, or filled from its frame with the leaf of context `ctx`, whose D the
store sets (R145). -/
def storeInLine (s : State) (part ctx va : Nat) (data : List Byte) (g : Grant) : State :=
  let line := va / 256
  let l := (s.l2Find part line).getD
    { part := part, line := line, data := memStore [] 0 (memLoad s.hbm g.frame 256), valid := List.range 8,
      dirty := [], g := g, entryPa := (s.pageLeaf part ctx va).map fun x => x.1.entryPa, peer := none }
  let o := va % 256
  (s.l2Put { l with data := memStore l.data o data,
                    dirty := (List.range data.length).foldl (fun d i => NatSet.add (o + i) d) l.dirty }).setDirty l.entryPa

/-- The cores whose L1 holds a line (R166). -/
def holders (s : State) (part line : Nat) : List Nat :=
  (s.cores.filter fun c => c.2.l1.any fun l => l.part == part && l.line == line).map (·.1)

/-- A line's copies on a die take the bytes of a committed store: L1 lines and what stalled bundles have
received (R159). -/
def patchReceived (va : Nat) (data : List Byte) : Received → Received
  | .line a bytes g =>
    if a.toNat / 256 == va / 256 && !bytes.isEmpty then .line a (memLoad (memStore (memStore [] 0 bytes) (va % 256) data) 0 256) g
    else .line a bytes g
  | x => x

def patchCore (part va : Nat) (data : List Byte) (c : Core) : Core :=
  { c with
    l1 := c.l1.map fun l =>
      if l.part == part && l.line == va / 256 then { l with data := memStore l.data (va % 256) data } else l
    slots := c.slots.map fun e =>
      (e.1, if e.2.part ≠ part then e.2 else { e.2 with
        received := e.2.received.map (patchReceived va data)
        pending := e.2.pending.map fun p => { p with got := p.got.map (patchReceived va data) } }) }

def patchDie (s : State) (die part va : Nat) (data : List Byte) : State :=
  { s with cores := s.cores.map fun e => if dieOf e.1 == die then (e.1, patchCore part va data e.2) else e }

/-- The home's invalidations to the holders that `keep` does not name, and the cycle by which the last is delivered (R166). -/
def invalidateHolders (s : State) (part line : Nat) (keep : Nat → Bool) : State × Nat :=
  ((s.holders part line).filter fun c => !keep c).foldl (fun x c =>
    let d := travel (x.1.homeOf part (line * 256)) (quireOf c) + x.1.draw.toNat
    ((x.1.emit d (.invalidationArrival c part line)).drawn, max x.2 (x.1.now + d))) (s, s.now)

/-- The home's acknowledgement of a write, once its invalidations have been delivered (R166, R173). -/
def homeAcks (x : State × Nat) (back : Nat) (w : CowWrite) : State :=
  (x.1.emit (max (back + x.1.draw.toNat) (x.2 - x.1.now)) (.homeAcknowledgement w.who w.kind w.task w.start)).drawn

/-! ## Copy on write (R296) and writes at their homes -/

def pedOf (e : Word) : Nat := Bits.get e.toNat 59 52

def editionOf (s : State) (part : Nat) (n : W32) : Option Edition := s.editions.find? fun e => e.part == part && e.n == n

/-- What a write through a COW = 1 leaf does first. -/
inductive CowCase where
  | perform
  | copy (l : Leaf) (pte : Word)
  | both (old : Nat)
  | level3
  deriving DecidableEq, Repr

/-- The case of a write (R296). DEDUCED (log 88): every write through a leaf at level 3 aborts an open edition, as R296's text and R382 say, whatever its
table says of the page's PED. -/
def cowCase (s : State) (part ctx va : Nat) (edition : W32) (rights : BitVec 7) : CowCase :=
  let n := (s.partition part).edition
  if !cowLeaf rights then .perform
  else
    match s.pageLeaf part ctx va with
    | none => .perform
    | some (l, pte) =>
      if 2 ^ 30 ≤ l.size && (s.editions.any fun e => e.part == part && e.state == 0) then .level3
      else if edition = n then
        if pedOf pte = n.toNat % 256 || decide (2 ^ 30 ≤ l.size) then .perform
        else if (s.editionOf part n).isNone then .perform
        else .copy l pte
      else
        match (s.editionOf part n).bind fun e => e.pages.findSome? fun p => (p.entries.find? fun x => x.1 == l.entryPa) with
        | some (_, old) => .both (ptePfn old * 4096 / l.size * l.size + va % l.size)
        | none => .perform

/-- Writes in the page of an address that wait at their homes (R296, R384). -/
def pageWrites (s : State) (part va size : Nat) : List CowWrite :=
  s.cowQueue.filter fun w => w.part == part && w.va.toNat / size == va / size

/-- A write that waits at its home: for the copy of its page, which the first of its page starts, behind those that wait already, or for
the edition's abort (R296, R384); `none` when it is performed at once. -/
def cowDefer (s : State) (w : CowWrite) : Option State :=
  let va := w.va.toNat
  if !cowLeaf w.g.rights then none
  else
    match s.pageLeaf w.part w.ctx va with
    | none => none
    | some (l, _) =>
      let joined := { s with cowQueue := s.cowQueue ++ [w] }
      if !(s.pageWrites w.part va l.size).isEmpty then some joined
      else
        match s.cowCase w.part w.ctx va w.edition w.g.rights with
        | .copy l _ => some (joined.emit (1200 + 8 * (l.size / 256)) (.cowCopy w))
        | .level3 => some (joined.emit 0 (.cowCopy w))
        | _ => none

/-- A write performed at its home, in the frames that R296 says: under what it was checked, or in a page with COW = 1 in the frame that its
leaf names now. -/
def performWrite (s : State) (w : CowWrite) : State :=
  let va := w.va.toNat
  let leaf := if cowLeaf w.g.rights || strong w.g.rights then s.pageLeaf w.part w.ctx va else none
  let g := match leaf with
    | some (l, _) => if cowLeaf w.g.rights then { rights := l.rights, frame := l.pa / 256 * 256, size := l.size } else w.g
    | none => w.g
  let s1 := match s.cowCase w.part w.ctx va w.edition w.g.rights with
    | .both old => s.hbmWrite old w.data
    | _ => s
  if w.data.isEmpty then s
  else if strong g.rights then (s1.hbmWrite (g.frame + va % 256) w.data).setDirty (leaf.map (·.1.entryPa))
  else s1.storeInLine w.part w.ctx va w.data g

/-- A recall of a line leaves for a package that holds it (R139); the writer at pod scope, or its `drain`, waits for the acknowledgement
(R166, R173). -/
def recallFrom (s : State) (part line : Nat) (w : Option CowWrite) (pkg : Nat) : State :=
  match w with
  | none => s.toFabric (.recall pkg part line none)
  | some w =>
    let mine := s.occupied w.who && (s.strand w.who).startedAt == w.start
    match w.kind with
    | .unit | .maintenance | .pod => s.toFabric (.recall pkg part line none)
    | .write =>
      (if mine then s.updStrand w.who fun t => { t with unackedPod := t.unackedPod + 1 } else s).toFabric
        (.recall pkg part line (some (w.who, .pod, w.task, w.start)))
    | .nontemporal _ =>
      ((if mine then s.updStrand w.who fun t => { t with ntOut := t.ntOut ++ [(s.ids, w.va, [])] } else s).toFabric
        (.recall pkg part line (some (w.who, .nontemporal s.ids, 0, w.start)))).fresh

/-- The other packages that hold a line drop it or give it back (R139). -/
def podRecall (s : State) (part line : Nat) (w : Option CowWrite) : State :=
  match s.podDir.find? fun e => e.part == part && e.line == line with
  | none => s
  | some e =>
    let s1 := { s with podDir := s.podDir.filterMap fun x =>
      if x != e then some x
      else if x.owned || w.isNone then some { x with holders := [], acks := x.acks + x.holders.length }
      else none }
    e.holders.foldl (fun s p => s.recallFrom part line w p) s1

/-! ## What units of the package reach (R138-R140, R150-R152) -/

/-- A line that a home move has locked (R151, R152). -/
def lockedLine (s : State) (part va : Nat) : Bool := s.moves.any fun m => m.part == part && m.base / 256 + m.index == va / 256

/-- The package at which a unit's access to a line is performed: its home's, or where the line is locked on its way to another package that one, since
the access waits for the lock and is forwarded (R152). -/
def linePackage (s : State) (part va : Nat) : Nat :=
  match s.moves.find? fun m => m.part == part && m.base / 256 + m.index == va / 256 with
  | some m => Bits.get (look 0 m.n (s.partition part).hmapL).toNat 47 38
  | none => s.homePackage part va

/-- What another package answers to a unit's access. DESIGN CHOICE (log 98): a line with what its leaf says, or a fault of R405, all free values, and
at once. -/
def peerAnswer (s : State) (w : WalkFor) : State × Except FaultInfo (List Byte × Grant) :=
  let d := s.draw
  let s1 := { s with free := s.free + 258 }
  if d.getLsbD 0 then
    let code : EventCode := match Bits.get d.toNat 2 1 with | 0 => .notPresent | 1 => .reservedBit | 2 => .permission | _ => .homeMoved
    (s1, .error (w.fault code (Bits.get d.toNat 5 3) (Config.freeValue (s.free + 257))))
  else
    let need : BitVec 7 := (match w.acc with | .load => 1 | .store => 2 | .atomic => 3 | .fetch => 4) ||| (if w.priv then 0 else 8)
    (s1, .ok ((List.range 256).map fun j => (Config.freeValue (s.free + 1 + j)).setWidth 8,
              { rights := ((d >>> 6).setWidth 7 &&& 0x2F) ||| need, frame := Bits.get d.toNat 51 20 * 256, size := 4096 }))

/-- A line for the access of a unit of the package, as an access of a core would find it: one homed in another package is asked for there, SHARED or
OWNED, and one that another package holds OWNED is recalled first (R138-R140, R150). -/
def unitLine (s : State) (w : WalkFor) : State × Nat × Except FaultInfo (List Byte × Grant) :=
  let line := w.va / 256
  let write := w.acc == .store || w.acc == .atomic
  let pkg := s.linePackage w.part w.va
  let held := (s.l2Find w.part line).filter fun l => rightsOk w.acc w.priv l.g.rights
  if pkg ≠ s.pkgid then
    let ask (held : Option L2Line) : State × Nat × Except FaultInfo (List Byte × Grant) :=
      let r := (s.toFabric (if write then .own pkg w.part line s.pkgid else
        .request pkg { who := ⟨0, 0⟩, part := w.part, ctx := w.ctx, priv := w.priv, die := 0, va := BitVec.ofNat 64 w.va, op := .need w.acc,
                       edition := (s.partition w.part).edition, task := 0 })).peerAnswer w
      match r.2 with
      | .error f => (r.1, 0, .error f)
      | .ok (b, g) =>
        let l : L2Line := match held with
          | some l => { l with peer := some write }
          | none => { part := w.part, line := line, data := memStore [] 0 b, valid := List.range 8, dirty := [], g := g, entryPa := none,
                      peer := some write }
        (r.1.l2Put l, 0, .ok (memLoad l.data 0 256, l.g))
    match held with
    | some l => if l.peer.isSome && (!write || l.peer == some true) then (s, 0, .ok (memLoad l.data 0 256, l.g)) else ask (some l)
    | none => ask none
  else
    match (s.podDir.find? fun e => e.part == w.part && e.line == line && e.owned && !e.holders.isEmpty) with
    | none => s.homeLine w
    | some e =>
      let s1 := e.holders.foldl (fun (s : State) p => s.toFabric (.recall p w.part line none)) { s with podDir := s.podDir.filter fun x => x != e }
      match s1.homeLine w with
      | (s2, cost, .ok (b, g)) =>
        if b.isEmpty then (s2, cost, .ok (b, g))
        else
          match s2.peerAnswer w with
          | (s3, .ok (b', _)) =>
            ((match s3.l2Find w.part line with
              | some l => s3.l2Put { l with data := memStore [] 0 b', dirty := List.range 256 }
              | none => s3), cost, .ok (b', g))
          | (s3, .error _) => (s3, cost, .ok (b, g))
      | r => r

/-- A write is performed, every other copy of its line but those that `keep` names is invalidated, and it is acknowledged (R166, R173). -/
def writeNow (s : State) (w : CowWrite) (back : Nat) (keep : Nat → Bool) : State :=
  let line := w.va.toNat / 256
  let s1 := (s.performWrite w).podRecall w.part line (some w)
  let x := s1.invalidateHolders w.part line keep
  if w.kind == .unit then x.1 else homeAcks x back w

/-- A write reaches its home. -/
def writeAtHome (s : State) (w : CowWrite) (back : Nat) (keep : Nat → Bool) : State :=
  match s.cowDefer w with
  | some s1 => s1
  | none => s.writeNow w back keep

/-- Writes of a partition's units wait at their homes (R296). -/
def unitWaiting (s : State) (part : Nat) : Bool := s.cowQueue.any fun w => w.part == part && w.kind == .unit

/-- A unit's write of its own that waits at its home is seen by the units of the package (R164, R296). -/
def unitOverlay (s : State) (part : Nat) : List (Nat × List Byte) :=
  (s.cowQueue.filter fun w => w.part == part && w.kind == .unit).map fun w => (w.va.toNat, w.data)

/-! ## What a strand reads -/

/-- The strand's own writes that its reads see (R154, R160, R164), oldest first: cached bytes by address. -/
def ownCached (t : Strand) : List (Nat × List Byte) :=
  t.ntOut.map (fun w => (w.2.1.toNat, w.2.2)) ++
  ((t.closed ++ [t.opened]).flatMap fun c => c.held.filterMap fun h =>
    match h with
    | .store va data _ => some (va.toNat, data)
    | .nontemporal va data _ => some (va.toNat, data)
    | _ => none)

/-- A core's store as strand `r`'s chunk sees it (R154, R160): held stores and counter updates in program order. -/
def storeView (s : State) (r : Ref) : Mem :=
  let t := s.strand r
  ((t.closed ++ [t.opened]).flatMap (·.held)).foldl (fun m h =>
    match h with
    | .scratch off data _ => memStore m off data
    | .fork off _ => memAdd m off 1
    | .decrement core off => if core = r.core then memAdd m off (-1) else m
    | _ => m) (s.core r.core).store

/-- Own scratch bytes as the strand's chunk sees them. -/
def scratchBytes (s : State) (off n : Nat) : List Byte := memLoad (s.storeView s.cur) off n

/-- Own full bits as the strand's chunk sees them (R160). -/
def sectorFull (s : State) (sector : Nat) : Bool :=
  ((s.me.closed ++ [s.me.opened]).flatMap (·.held)).foldl (fun f h =>
    match h with
    | .scratch off data true => f || (sectorsOf off data.length).contains (32 * sector)
    | .fullBits set clr => (f || set.contains sector) && !clr.contains sector
    | _ => f) (s.myCore.full.contains sector)

/-- What a cached access finds. -/
inductive CacheLook where
  | held (bytes : List Byte) (g : Grant)
  | strong (g : Grant)
  | miss
  | fault (f : FaultInfo)
  deriving DecidableEq, Repr

/-- What a strand has received of a line: its bytes or a page with O = 1, else a fault. -/
def receivedLine (rs : List Received) (line : Nat) : Option CacheLook :=
  (rs.findSome? fun r =>
    match r with
    | .line a bytes g => if a.toNat / 256 == line then some (if bytes.isEmpty then .strong g else .held bytes g) else none
    | _ => none).orElse fun _ => rs.findSome? fun r =>
      match r with
      | .fault f => if f.va.toNat / 256 == line then some (.fault f) else none
      | _ => none

/-- The executing strand's line in its core's L1 (R130). -/
def l1Line (s : State) (va : Nat) : Option L1Line := s.myCore.l1.find? fun l => l.part == s.me.part && l.line == va / 256

/-- The line of an address as the executing strand holds it: what it has received, or the sector in its core's L1
(R130, R131). -/
def lookLine (s : State) (va : Nat) : CacheLook :=
  match receivedLine s.me.received (va / 256) with
  | some x => x
  | none =>
    match s.l1Line va with
    | some l => if l.valid.contains (va % 256 / 32) then .held (memLoad l.data 0 256) l.g else .miss
    | none => .miss

/-- What a home has answered of a load that faulted behind its window (R394): its fault, or a page with O = 1. -/
def knownLoad (s : State) (va : Nat) : Option CacheLook :=
  s.me.known.findSome? fun r =>
    match r with
    | .line a [] g => if a.toNat / 256 == va / 256 then some (.strong g) else none
    | .fault f => if !f.isWrite && f.va.toNat == va then some (.fault f) else none
    | _ => none

/-- A cached access of `n` bytes within one line by the executing strand (R145, R422): where the rights held
with the line do not allow it, the home is asked. -/
def lookCached (s : State) (va n : Nat) (acc : Access) : CacheLook :=
  match (s.knownLoad va).getD (s.lookLine va) with
  | .held bytes g =>
    if rightsOk acc (privOf s.pre.flags) g.rights then
      .held (overlay (ownCached s.me) va ((bytes.drop (va % 256)).take n)) g
    else .miss
  | .strong g => if rightsOk acc (privOf s.pre.flags) g.rights then .strong g else .miss
  | x => x

/-- What the executing strand knows of a line it stores to (R130, R422): the rights of its line in the L1, whatever sectors that holds, or what
the home has answered; `miss` where the home is to be asked. -/
def lookStore (s : State) (va : Nat) : CacheLook :=
  match receivedLine (s.me.known.filter fun x => match x with | .fault f => f.isWrite | _ => true) (va / 256) with
  | some x => x
  | none =>
    match s.l1Line va with
    | some l => if rightsOk .store (privOf s.pre.flags) l.g.rights then .held [] l.g else .miss
    | none => .miss

/-- The ways of a core's L1 (R130). -/
def l1Ways (c : Core) : Nat := ((List.range 16).filter fun j => !c.wayMask.getLsbD j).length

/-- The set of a line, VA[13:8] (R130). -/
def l1Set (line : Nat) : Nat := line % 64

/-- The lines that uncommitted stores of a core's strands have made dirty (R130, R131). -/
def dirtyLines (c : Core) : List (Nat × Nat) :=
  c.slots.flatMap fun e => (e.2.closed ++ [e.2.opened]).flatMap fun k => k.held.flatMap fun h =>
    match h with
    | .store va data _ => (List.range (Bits.ceilDiv (va.toNat % 256 + data.length) 256)).map fun j => (e.2.part, va.toNat / 256 + j)
    | _ => []

/-- Every way of a further line's set holds a dirty line (R132). -/
def setIsDirty (c : Core) (part line : Nat) : Bool :=
  let d := (dirtyLines c).eraseDups.filter fun x => l1Set x.2 == l1Set line
  decide (0 < l1Ways c) && !d.contains (part, line) && decide (l1Ways c ≤ d.length)

/-- A request of the executing strand to the home slice of an address (R133); a check is asked for its chunk (R394). -/
def askHome (s : State) (va : Nat) (op : HomeOp) : State :=
  let t := s.me
  let q := quireOf s.cur.core
  s.emitNet (toSlice q (s.homeOf t.part va))
    (.homeRequest { who := s.cur, part := t.part, ctx := t.ctx, priv := privOf s.pre.flags, die := dieOf s.cur.core,
                    va := BitVec.ofNat 64 va, op := op, edition := s.myCore.edition, task := t.task,
                    start := if op == .check then t.opened.id else t.startedAt })

/-- A miss (R130, R418): the home is asked for the line, unless its fill is under way (R311), and the strand sleeps until the answer; its bundle
then issues again. Where dirty lines fill the set, the chunk ends before the bundle, which waits until that is over (R132). -/
def requestLine (s : State) (va : Nat) (acc : Access) : State :=
  let k := (s.me.part, va / 256)
  let asleep : Wait := .asleep (.fill (va / 256))
  if setIsDirty s.myCore s.me.part (va / 256) then s.endBefore.stall (.untilCycle (s.now + 1))
  else if s.myCore.fills.contains k then s.stall asleep
  else ((s.updMyCore fun c => { c with fills := k :: c.fills }).askHome va (.need acc)).stall asleep

/-- A load that misses (R191): with LA = 0, in a chunk whose loads are waited for, or partly performed already (R406), as `requestLine`; else it issues, its window stays open until the
line has come, and `word` runs then, on what the load reads now. -/
def requestLoad (s : State) (la : BitVec 4) (dests : List Dest) (word : Instr) (va : Nat) (acc : Access) : State :=
  if la = 0 || s.me.opened.inOrder || s.me.doneLanes ≠ 0 || setIsDirty s.myCore s.me.part (va / 256) then s.requestLine va acc
  else
    let t := s.me
    let k := (t.part, va / 256)
    let s1 := if s.myCore.fills.contains k then s else (s.updMyCore fun c => { c with fills := k :: c.fills }).askHome va (.need acc)
    let p : Pending := { tag := s1.ids, chunk := t.opened.id, held := t.opened.held.length, instr := word, regs := s.pre, cbuf := t.cbuf,
                         scale := t.scaleBase, line := va / 256, got := [], ready := false }
    ((s1.openWindow la dests).updMe fun t => { t with pending := t.pending ++ [p] }).advance

end State

end Sys2Proof.Machine
end

