-- ==== Sys2Proof/Machine/Chunks.lean ====
section
/-! DEFINITION. What a commit or a write does to other strands: squashes (R156-R158, R161), and the wakes of
sectors, join counters and monitors (R124, R210, R289). -/

namespace Sys2Proof.Machine

namespace State

/-- A census slot is free again; a request that waits for one is looked at (R302). -/
def freeCensus (s : State) (part slot : Nat) : State :=
  let s1 := s.updCensus part slot fun x => { Census.reset with seq := x.seq }
  match (s1.partition part).censusQueue with
  | [] => s1
  | (r, tag, q) :: rest => (s1.updPartition part fun p => { p with censusQueue := rest }).emit 0 (.censusSlotRequest r tag q)

/-- What a squash frees of a held effect (R129, R157, R52, R209, R212, R214, R261, R283, R301, R302). -/
def releaseHeld (s : State) (core : Nat) : Held → State
  | .posted p =>
    match p.idx with
    | some n => s.updCore core fun c => { c with journal := drop n c.journal }
    | none => s
  | .send n _ => s.updCore core fun c => { c with outbound := drop n c.outbound }
  | .spawn _ target (some slot) _ => s.unreserve target slot
  | .fork _ _ => s.updCore core fun c => { c with dequeReserved := c.dequeReserved - 1 }
  | .pop d => ((s.updCore core fun c => { c with deque := c.deque ++ [d] }).updTask d.task fun k => { k with live := k.live + 1 }).offerQuire core
  | .command engine _ x =>
    (s.updEngine (quireOf core) engine fun e =>
      { e with reserved := put (core % 4) (look 0 (core % 4) e.reserved - 1) e.reserved }).updCore core fun c =>
        { c with jobs := c.jobs.filter fun j => !(j.id == x.job && j.status.isNone) }
  | .sample _ r => s.updSampler r.sampler fun x => { x with reserved := x.reserved.erase r.part }
  | .catIns n _ => s.updCore core fun c => { c with catReserved := c.catReserved.erase n }
  | .give _ g => s.updCore g.dst fun c => { c with catReserved := c.catReserved.erase g.index }
  | .solicit _ part slot _ => s.freeCensus part slot
  | _ => s

/-- The monitor as a chunk found it, when the chunk is squashed (R157): one that the chunk replaced or disarmed is armed again and latches a
spurious wake, since its events have not been latched meanwhile (log 16). -/
def monitorBack (now before : Option Monitor) : Option Monitor :=
  match before with
  | none => none
  | some m => if now.map (·.id) == some m.id then now else some { m with events := NatSet.add 4 m.events }

/-- Strand `r` squashed from its uncommitted chunk number `j` on (R156, R157): the checkpoint is restored, every
effect of the chunk and of the later ones is dropped (a table that the core has not switched to among them), and a fault not yet reported goes with them, or a
fault that a home has answered (R394); a refusal and an expired budget are due still (R374, R412). After four squashes in a row the chunk's bundles are
issued as chunks of their own (R158). DESIGN CHOICE (log 88): where the checkpoint has another CBSEL, its window is copied afresh (R81). -/
def squashFrom (s : State) (r : Ref) (j : Nat) : State :=
  let t := s.strand r
  let all := t.closed ++ [t.opened]
  match all[j]? with
  | none => s
  | some c =>
    let lost := all.drop j
    let ids := lost.map (·.id)
    let n := c.squashes + 1
    let t' : Strand :=
      { t with
        regs := c.check, jobLast := c.jobLast, scaleBase := c.scale, monitor := monitorBack t.monitor c.mon
        frames := c.frames, counter := c.counter, closed := t.closed.take j
        opened := { Chunk.empty s.ids c.check c.jobLast with done := c.done, vec := c.vec, squashes := if n < 4 then n else 0, inOrder := c.inOrder }
        windows := t.windows.filter fun w => !ids.contains w.chunk
        pending := t.pending.filter fun p => !ids.contains p.chunk
        fault := none, wait := .ready, received := [], doneLanes := c.done, vecBefore := c.vec
        known := t.known.filter fun x => match x with | .fault _ => false | _ => true
        asyncFaults := (match t.fault with | some f => if f.async || f.code == .budgetOverrun then [f] else [] | none => []) ++ t.asyncFaults
        jobWait := none, back := none
        solo := if n < 4 then t.solo else c.count }
    let s1 := (((s.setStrand r t').updCore r.core fun k => { k with tables := k.tables.filter fun x => !ids.contains x.chunk }).fresh).updDie (dieOf r.core) fun d =>
      { d with requests := d.requests.filter fun q => !(q.who == r && ids.contains q.chunk) }
    let waits (h : Held) : Bool :=
      match heldTag h with
      | some n => t.windows.any fun w => w.tag == n && w.writes.isNone
      | none => false
    let s2 := ((lost.flatMap (·.held)).reverse.filter fun h => !waits h).foldl (fun s h => s.releaseHeld r.core h) s1
    if cbselOf c.check.flags = cbselOf t.regs.flags then s2
    else (s2.updStrand r fun t => { t with copy := .wanted }).emit 0 (.cbselWrite r ((cbselOf c.check.flags).setWidth 64))

/-- The first chunk of a strand that a write signature squashes: it has read a sector that shares a bit (R156). At a
grant (`atGrant`) the chunks granted before are passed over, since they take effect first; chunks of one bundle are not squashed (R158). -/
def firstHit (t : Strand) (sig : NatSet) (atGrant : Bool) : Option Nat :=
  match t.closed.findIdx? fun c => c.count != 1 && !(atGrant && c.granted.isSome) && c.reads.meets sig with
  | some j => some j
  | none => if t.opened.reads.meets sig then some t.closed.length else none

/-- Chunks of one bundle note that what they have read is written (R158). -/
def markHit (sig : NatSet) (t : Strand) : Strand :=
  { t with closed := t.closed.map fun c => if c.count == 1 && c.reads.meets sig then { c with hit := true } else c }

/-- Every strand slot in use that satisfies a test. -/
def strandsWhere (s : State) (f : Ref → Strand → Bool) : List Ref :=
  s.cores.flatMap fun e => (e.2.slots.filter fun x => f ⟨e.1, x.1⟩ x.2).map fun x => ⟨e.1, x.1⟩

/-- Squashes by a write signature among the strands `f` admits. -/
def squashWhere (s : State) (sig : NatSet) (atGrant : Bool) (f : Ref → Bool) : State :=
  (s.strandsWhere fun r t => f r && (t.closed ++ [t.opened]).any fun c => c.reads.meets sig).foldl (fun s r =>
    let s1 := s.updStrand r (markHit sig)
    match firstHit (s1.strand r) sig atGrant with
    | some j => s1.squashFrom r j
    | none => s1) s

/-- An event latched by a strand's monitor (R289); a strand asleep at `waitm` wakes 4 cycles later (R336). -/
def latchMonitor (s : State) (r : Ref) (code : Nat) : State :=
  let t := s.strand r
  match t.monitor with
  | none => s
  | some m =>
    let asleepHere := t.wait == .asleep .monitor
    let s1 := s.updStrand r fun t =>
      { t with monitor := some { m with events := NatSet.add code m.events,
                                        first := if asleepHere then (m.first.orElse fun _ => some code) else m.first } }
    if asleepHere then s1.emit 4 (.waitmWake r) else s1

/-- A write signature reaches a die (R156): chunks that have read its sectors are squashed, and the monitors of
cached sectors whose bit it sets latch a write (R289). -/
def broadcast (s : State) (die : Nat) (by_ : Ref) (sig : NatSet) : State :=
  let s1 := s.squashWhere sig false fun r => dieOf r.core == die && r != by_
  (s1.strandsWhere fun r t =>
    dieOf r.core == die &&
      (match t.monitor with | some m => !m.onScratch && sig.contains (sigBit t.part m.va.toNat) | none => false)).foldl
    (fun s r => s.latchMonitor r 0) s1

/-- The strands of a core whose monitor is armed on a line. -/
def armedOn (s : State) (core part line : Nat) : List Ref :=
  s.strandsWhere fun r t =>
    r.core == core && t.part == part &&
      (match t.monitor with | some m => !m.onScratch && m.va.toNat / 256 == line | none => false)

/-- Bundles that wait and loads behind their windows forget what they have received of some lines. -/
def forgetLines (part : Nat) (lines : List Nat) (c : Core) : Core :=
  let keep (x : Received) : Bool := match x with | .line va _ _ => !lines.contains (va.toNat / 256) | _ => true
  { c with slots := c.slots.map fun e => (e.1, if e.2.part ≠ part then e.2 else { e.2 with
      received := e.2.received.filter keep, pending := e.2.pending.map fun p => { p with got := p.got.filter keep } }) }

/-- Lines leave a core's L1, and a monitor of one of them latches event 1 (R289). -/
def leaveL1 (s : State) (core : Nat) (f : L1Line → Bool) : State :=
  (((s.core core).l1.filter f).flatMap fun x => s.armedOn core x.part x.line).foldl (fun s r => s.latchMonitor r 1)
    (s.updCore core fun c => { c with l1 := c.l1.filter fun l => !f l })

/-- The way a line takes in a core's L1 (R130): the one it holds, a free one of its set, or that of the set's least recently used clean line. -/
def wayFor (c : Core) (part line : Nat) : Option Nat :=
  let same := c.l1.filter fun x => l1Set x.line == l1Set line
  ((same.find? fun x => x.part == part && x.line == line).map (·.way)).orElse fun _ =>
    ((List.range 16).find? fun w => !c.wayMask.getLsbD w && !same.any fun x => x.way == w).orElse fun _ =>
      (same.reverse.find? fun x => !(dirtyLines c).contains (x.part, x.line)).map (·.way)

/-- A line enters a core's L1 (R130); the line that held its way leaves. -/
def fillL1 (s : State) (core : Nat) (l : L1Line) : State :=
  match wayFor (s.core core) l.part l.line with
  | none => s
  | some w =>
    let mine (x : L1Line) : Bool := x.part == l.part && x.line == l.line
    (s.leaveL1 core fun x => l1Set x.line == l1Set l.line && x.way == w && !mine x).updCore core fun c =>
      { c with l1 := { l with way := w } :: c.l1.filter fun x => !mine x }

/-- An invalidation reaches a core (R423, R288): it waits as pending, or, where a monitor of the line is armed, is
applied at once. -/
def invalidated (s : State) (core part line : Nat) : State :=
  if (s.armedOn core part line).isEmpty then
    s.updCore core fun c =>
      { c with l1 := c.l1.map fun l => if l.part == part && l.line == line then { l with pending := true } else l }
  else s.leaveL1 core fun l => l.part == part && l.line == line

/-- The copies of a line that cores hold receive their invalidations now. -/
def invalidateNow (s : State) (part line : Nat) : State :=
  (s.holders part line).foldl (fun s c => s.invalidated c part line) s

/-- Sectors of a core become full or empty (R124); a strand asleep at one that fills is woken 4 cycles later
(R421), and an engine write that waits for one that empties goes on (R257). -/
def setFull (s : State) (core : Nat) (set clr : NatSet) : State :=
  let s0 := s.updCore core fun c => { c with full := (c.full.union set).filter fun x => !clr.contains x }
  let waited (n : Nat) : Bool := s0.quires.any fun q => q.2.engines.any fun e => e.2.waiting.any fun w =>
    w.core == core && w.off / 32 == n
  let s1 := (clr.filter waited).foldl (fun s n => s.emit 0 (.wemptyWrite core n)) s0
  (s1.strandsWhere fun r t =>
    r.core == core && (match t.wait with | .asleep (.sector n) => set.contains n | _ => false)).foldl
    (fun s r => s.emit 4 (.ldfWake r)) s1

/-- The answer of another unit to a window (R52, R283, R301, R302): the held effect with its tag is kept as `keep`
says and the window has its result. `none` when the chunk has been squashed meanwhile. -/
def settle (s : State) (r : Ref) (tag : Nat) (keep : Held → Option Held) (ws : List RegWrite) : Option State :=
  if (s.strand r).windows.any fun w => w.tag == tag then
    let f (c : Chunk) : Chunk :=
      { c with held := c.held.filterMap fun h => if heldTag h == some tag then keep h else some h }
    some ((s.updStrand r fun t => { t with opened := f t.opened, closed := t.closed.map f }).answer r tag ws)
  else none

/-- What a write of scratch bytes wakes: joiners of a counter it covers (R210) and the monitors of its sectors
(R289). -/
def scratchWritten (s : State) (core off n : Nat) : State :=
  let s1 := (s.strandsWhere fun r t =>
    r.core == core && (match t.wait with
      | .asleep (.counter o) => decide (o < off + n) && decide (off < o + 8)
      | _ => false)).foldl (fun s r => s.emit 0 (.joinWake r)) s
  (s1.strandsWhere fun r t =>
    r.core == core && (match t.monitor with
      | some m => m.onScratch && (sectorsOf off n).contains (m.va.toNat % 262144 / 32 * 32)
      | none => false)).foldl (fun s r => s.latchMonitor r 0) s1

/-- Bytes written into a core's store, with what they wake. -/
def writeStore (s : State) (core off : Nat) (data : List Byte) : State :=
  (s.updCore core fun c => { c with store := memStore c.store off data }).scratchWritten core off data.length

/-- A write from outside the core's strands that counts as committed at its moment (R161): the core's chunks
that have read its sector and are not granted are squashed (R333). -/
def remoteWritten (s : State) (core part : Nat) (offs : List Nat) : State :=
  s.squashWhere (sigOf part (offs.map fun o => scratchVa (o / 32 * 32))) true fun r => r.core == core

end State

end Sys2Proof.Machine
end

