-- ==== Sys2Proof/Machine/Access.lean ====
section
/-! DEFINITION. One access of a strand: the checks of R395 in their order, the alias windows (R118-R122), and what
reading or writing one element takes. -/

namespace Sys2Proof.Machine

/-- The fields of a local-aperture address (R118). -/
def inAperture (va : Nat) : Bool := Bits.get va 56 36 == 2 ^ 21 - 1
def apWindow (va : Nat) : Nat := Bits.get va 35 32
def apSel (va : Nat) : Nat := Bits.get va 31 20
def apNib (va : Nat) : Nat := Bits.get va 18 18
def apOff (va : Nat) : Nat := Bits.get va 17 0

/-- Bytes an element occupies in its window (R120). -/
def windowBytes (win size : Nat) : Nat :=
  match win with
  | 1 | 3 | 4 | 5 | 6 => 1
  | 2 => 2
  | _ => size

/-- A form of access: what it does, its element size, and what R120-R122 and its entry let it do. -/
structure Form where
  acc : Access
  size : Nat
  decodes : Bool
  syncs : Bool
  remote : Bool
  vec : Bool
  deriving DecidableEq, Repr

def Form.isWrite (f : Form) : Bool := f.acc == .store || f.acc == .atomic

/-- INFO of an access fault (R404): the size and the alias window. DESIGN CHOICE (log 95): of 256 bytes, which the field of eight bits does not
hold, the low eight bits. -/
def accessInfo (size va : Nat) : Word := BitVec.ofNat 64 (size % 256 + if inAperture va then 256 * apWindow va else 0)

/-- The fault of an access at `va` (R404). -/
def Form.fault (f : Form) (c : EventCode) (va : Nat) : FaultInfo :=
  { code := c, va := BitVec.ofNat 64 va, isWrite := f.isWrite, vec := f.vec,
    info := accessInfo f.size va }

/-- A fault found by the home, with the access's own record fields. -/
def Form.dress (f : Form) (va : Nat) (x : FaultInfo) : FaultInfo :=
  { x with va := BitVec.ofNat 64 va, isWrite := f.isWrite, vec := f.vec, info := accessInfo f.size va, isFetch := false }

/-- Where an address lies. -/
inductive Place where
  | scratch (off win nib : Nat)
  | remote (core : Nat)
  | cached
  deriving DecidableEq, Repr

/-- Whether `n` bytes from an offset lie in one scratch way (R118). -/
def inScratch (c : Core) (off n : Nat) : Bool :=
  decide (off + n ≤ 262144) && off / 16384 == (off + n - 1) / 16384 && c.wayMask.getLsbD (off / 16384)

/-- The protection regions of a core (R125, R126) for one sector. DESIGN CHOICE (log 88): a region of another partition matches nothing (R126), and
where no other region matches, the owner's default of R125 stands. -/
def protectionOk (c : Core) (owner : Option Nat) (part sector : Nat) (remote rd wr : Bool) : Bool :=
  match (List.range 8).findSome? fun j =>
      let r := (look 0 j c.lsprot).toNat
      if r.testBit 35 && Bits.get r 34 30 == part && decide (Bits.get r 12 0 ≤ sector) && decide (sector ≤ Bits.get r 25 13) then
        some r
      else none with
  | none => owner == some part
  | some r =>
    (!rd || (if remote then r.testBit 28 else r.testBit 26)) && (!wr || (if remote then r.testBit 29 else r.testBit 27))

namespace State

/-- Protection of `n` own bytes (R126). -/
def ownProtection (s : State) (acc : Access) (off n : Nat) : Bool :=
  (sectorsOf off n).all fun a =>
    protectionOk s.myCore (some s.me.part) s.me.part (a / 32) false (acc != .store) (acc == .store || acc == .atomic)

/-- The checks of R395 steps 2 to 4 for one element at `va`. -/
def place (s : State) (f : Form) (va : Nat) : Except FaultInfo Place :=
  if va / 2 ^ 57 != 0 then .error (f.fault .notPresent va)
  else if inAperture va then
    let win := apWindow va
    let n := if f.decodes then windowBytes win f.size else f.size
    if va % n != 0 then .error (f.fault .misalignedData va)
    else if win > 7 || (win == 7 && !f.syncs) || (1 ≤ win && win < 7 && !f.decodes) || va.testBit 19 ||
        (win != 6 && apNib va != 0) then .error (f.fault .aperture va)
    else if apSel va = 0xFFF then
      if !inScratch s.myCore (apOff va) n then .error (f.fault .aperture va)
      else if !s.ownProtection f.acc (apOff va) n then .error (f.fault .protection va)
      else .ok (.scratch (apOff va) win (apNib va))
    else if f.remote && s.owner (quireOf (apSel va)) == some s.me.part then .ok (.remote (apSel va))
    else .error (f.fault .aperture va)
  else if va % f.size != 0 then .error (f.fault .misalignedData va)
  else if s.homeMoved s.me.part va then .error (f.fault .homeMoved va)
  else .ok .cached

end State

/-! ## Window decoding (R120, R121) -/

/-- The element index that names the scale of a window's element. -/
def scaleIndex (win off nib : Nat) : Nat := if win = 6 then 2 * off + nib else off

/-- The store offset of an element's scale byte (R121). -/
def scaleOffset (base win off nib : Nat) : Nat := (base + scaleIndex win off nib / 32) % 262144

/-- An element of windows 1 to 6 as FP32 (R100, R104, R120). -/
def decodeElement (table : List (BitVec 19)) (win nib scale : Nat) (bytes : List Byte) : W32 :=
  let x := Bytes.toNat bytes
  match win with
  | 1 => e8m10Widen (tableEntry table x)
  | 2 => BitVec.ofNat 32 (deliver fp32 0 false (unpack bf16 x)).1
  | 3 => mxRead scale (mxint8Num x)
  | 4 => mxRead scale (e4m3Num x)
  | 5 => mxRead scale (e5m2Num x)
  | _ => mxRead scale (e2m1Num (if nib = 1 then x / 16 else x % 16))

/-- The bytes of a core's store read at a target or by the core itself: decoded by the window, or raw,
zero-extended (R120, R127). -/
def readWindow (bytes : Nat → Nat → List Byte) (table : List (BitVec 19)) (scaleBase win off nib size : Nat) : Word :=
  if 1 ≤ win && win < 7 then
    (decodeElement table win nib (Bytes.toNat (bytes (scaleOffset scaleBase win off nib) 1))
      (bytes off (windowBytes win size))).setWidth 64
  else BitVec.ofNat 64 (Bytes.toNat (bytes off size))

/-! ## One element -/

/-- The strand's bundle is under way at another core or a home (R127, R162): it completes before a fault that is none of its own stops the strand. A
load that sleeps is not: it issues again (R374, R411). -/
def Strand.inFlight (t : Strand) : Bool :=
  (t.received.any fun r => match r with | .sent _ _ => true | _ => false) ||
    ((t.received.any fun r => match r with | .element _ _ _ => true | _ => false) &&
      !t.received.any fun r => match r with | .asked _ _ => true | _ => false)


/-- What reading one element finds. -/
inductive Got where
  | val (w : Word) (sectors : List Nat)
  | fault (f : FaultInfo)
  | need
  | empty (sector : Nat)
  | remote (core : Nat)
  | asked
  | strong (g : Grant)
  deriving DecidableEq, Repr

namespace State

/-- A remote element that has come back for a lane (R127). -/
def receivedElement (s : State) (lane va : Nat) : Option Word :=
  s.me.received.findSome? fun r =>
    match r with
    | .element l a v => if l == lane && a.toNat == va then some v else none
    | _ => none

def receivedFault (s : State) (va : Nat) : Option FaultInfo :=
  s.me.received.findSome? fun r => match r with | .fault f => if f.va.toNat == va then some f else none | _ => none

/-- A remote element that has been asked for and has not come back. -/
def askedElement (s : State) (lane va : Nat) : Bool :=
  s.me.received.any fun r => match r with | .asked l a | .sent l a => l == lane && a.toNat == va | _ => false

/-- Reading an element at `va` (R241-R245): its value, zero-extended or decoded, or what it waits for. -/
def readElement (s : State) (f : Form) (lane va : Nat) : Got :=
  match s.place f va with
  | .error x => .fault x
  | .ok (.scratch off win nib) =>
    if win = 7 && !((sectorsOf off f.size).all fun a => s.sectorFull (a / 32)) then
      .empty (((sectorsOf off f.size).find? fun a => !s.sectorFull (a / 32)).getD 0 / 32)
    else
      .val (readWindow s.scratchBytes (s.myCore.tableAt s.now) s.me.scaleBase.toNat win off nib f.size)
        (((sectorsOf off (windowBytes win f.size)).map scratchVa) ++
          (if 3 ≤ win && win < 7 then [scratchVa (scaleOffset s.me.scaleBase.toNat win off nib / 32 * 32)] else []))
  | .ok (.remote core) =>
    match s.receivedElement lane va with
    | some v => .val v []
    | none =>
      match s.receivedFault va with
      | some x => .fault (f.dress va x)
      | none => if s.askedElement lane va then .asked else .remote core
  | .ok .cached =>
    match s.lookCached va f.size f.acc with
    | .held bytes _ => .val (BitVec.ofNat 64 (Bytes.toNat bytes)) [va / 32 * 32]
    | .strong g => if f.vec then .fault (f.fault .strongMisuse va) else .strong g
    | .miss => .need
    | .fault x => .fault (f.dress va x)

/-- The bundle waits to stand alone (R153, R162): earlier chunks commit first. -/
def waitAlone (s : State) : State := s.endBefore.stall .committed

/-- The bundle sleeps; the chunk ends before it (R153). Where that chunk has still to read, the bundle issues again after it (R158). -/
def sleepOn (s : State) (w : SleepOn) : State :=
  if s.endBefore.me.owes then s.endBefore.stall .ready else s.endBefore.stall (.asleep w)

/-- A remote load of elements by lane and address leaves for its target (R127); it stands alone (R162). -/
def sendRemoteLoad (s : State) (f : Form) (core : Nat) (elems : List (Nat × Nat)) : State :=
  let es := elems.map fun e => (e.1, BitVec.ofNat 64 e.2)
  (s.updMe fun t => { t with received := es.map (fun e => .asked e.1 e.2) ++ t.received }).emitNet
    (4 + travelCores s.cur.core core)
    (.remoteLoadAtTarget { who := s.cur, part := s.me.part, target := core, elems := es, size := f.size,
                           scaleOff := s.me.scaleBase.toNat, wait := elems.any fun e => apWindow e.2 == 7 })

/-- Whether HBM holds a frame's newest bytes: a dirty line of another mapping may have been written back by
replacement or not (R416; a free choice, log entry 14). -/
def maybeEvict (s : State) (pa : Nat) : State :=
  match s.l2.find? fun l => l.g.frame == pa / 256 * 256 && l.peer.isNone && !l.dirty.isEmpty with
  | some l => if s.draw.getLsbD 0 then (s.drawn).writeBack l else s.drawn
  | none => s

/-- A byte string in a page with O = 1, read at its home (R148, R163); an engine frame reads as zero (R260). -/
def strongRead (s : State) (pa n : Nat) : State × Word :=
  if pa ≥ Config.engineFrame then (s, 0)
  else
    let s1 := s.maybeEvict pa
    (s1, BitVec.ofNat 64 (Bytes.toNat (memLoad s1.hbm pa n)))

/-- The cost of a load by where its element lay (R14); one whose line a home has just answered has waited for it (R418). -/
def loadCost (s : State) (va : Nat) : Nat :=
  if inAperture va then 4 else if (receivedLine s.me.received (va / 256)).isSome then 0 else 6

/-- A scalar load's end: signature, result under LA, next bundle. -/
def finishLoad (s : State) (c : CWord) (va : Nat) (sectors : List Nat) (val : Word) : State :=
  ((s.noteReads sectors).result c.la (s.loadCost va) [.s c.d] [.s c.d val]).advance

/-- An access to a page with O = 1 that is homed in another package is performed there, once (R148): it is sent, and the answer lets the bundle go on. -/
def strongAway (s : State) (f : Form) (va : Nat) (op : HomeOp) (k : Word → State) : State :=
  match s.receivedElement 0 va, s.receivedFault va with
  | some v, _ => k v
  | none, some x => s.raise (f.dress va x)
  | none, none =>
    if s.askedElement 0 va then s.stall (.asleep .remote)
    else
      let t := s.me
      let a := BitVec.ofNat 64 va
      ((s.updMe fun t => { t with received := (if f.isWrite then .sent 0 a else .asked 0 a) :: t.received }).toFabric
        (.request (s.homePackage t.part va)
          { who := s.cur, part := t.part, ctx := t.ctx, priv := privOf s.pre.flags, die := dieOf s.cur.core, va := a, op := op,
            edition := s.myCore.edition, task := t.task, start := t.startedAt })).stall (.asleep .remote)

/-- A scalar load of a form at an address (R242), its value taken to 64 bits by `conv`; `word` is the load itself. -/
def scalarLoad (s : State) (f : Form) (c : CWord) (word : Instr) (va : Nat) (conv : Word → Word) : State :=
  match s.readElement f 0 va with
  | .val w sectors =>
    if inAperture va && apSel va != 0xFFF then ((s.writeS c.d (conv w)).advance).thenAlone
    else s.finishLoad c va sectors (conv w)
  | .fault x => s.raise x
  | .need => s.requestLoad c.la [.s c.d] word va f.acc
  | .empty n => s.sleepOn (.sector n)
  | .remote core => if s.aloneNow then (s.sendRemoteLoad f core [(0, va)]).stall (.asleep .remote) else s.waitAlone
  | .asked => s.stall (.asleep .remote)
  | .strong g =>
    if !s.aloneNow then s.waitAlone
    else if s.homePackage s.me.part va ≠ s.pkgid then
      s.strongAway f va (.strongLoad f.size) fun v => ((s.writeS c.d (conv v)).advance).thenStrong
    else if (notifyPartition (g.frame + va % 256)).isSome then s.raise (f.fault .permission va)
    else if s.lockedLine s.me.part va then s.stall (.untilCycle (s.now + 1))
    else
      let r := s.strongRead (g.frame + va % 256) f.size
      ((r.1.writeS c.d (conv r.2)).advance).thenStrong

/-- The address of a load (R241). -/
def loadAddress (s : State) (c : CWord) (scale : Nat) : Nat :=
  (s.opA c + (match c.ext with
    | .paired => c.b.signExtend 64 * BitVec.ofNat 64 scale
    | .lone w => w.signExtend 64)).toNat

/-- The address of a store (R185, R241): with data tagged 11 a lone store scales B as a paired one does. -/
def storeAddress (s : State) (c : CWord) (scale : Nat) : Nat :=
  (s.readS c.d + (match c.ext, c.ta with
    | .paired, _ | .lone _, .lit => c.b.signExtend 64 * BitVec.ofNat 64 scale
    | .lone w, _ => w.signExtend 64)).toNat

/-- What storing one element takes. -/
inductive Put where
  | hold (h : Held) (sectors : List Nat)
  | fault (f : FaultInfo)
  | need
  | strong (g : Grant)
  deriving DecidableEq, Repr

/-- The lowest free journal entry from the round-robin index on (R129). -/
def journalFree (c : Core) : Option Nat :=
  ((List.range 64).map fun k => (c.journalNext + k) % 64).find? fun n => !has n c.journal

/-- Storing bytes at `va` (R241, R242, R128): a held effect, or what it waits for. A store whose line the L1 does not hold with write rights is
held without a grant (R130, R422); where dirty lines fill the set it waits (R132). -/
def putElement (s : State) (f : Form) (va : Nat) (data : List Byte) (full : Bool) : Put :=
  match s.place f va with
  | .error x => .fault x
  | .ok (.scratch off win _) => .hold (.scratch off data (full || win == 7)) ((sectorsOf off data.length).map scratchVa)
  | .ok (.remote core) =>
    .hold (.posted { src := s.cur.core, idx := none, part := s.me.part, target := core,
                     data := data.zipIdx.map fun b => (apOff va + b.2, b.1), setFull := full || apWindow va == 7,
                     reply := none, edition := s.myCore.edition }) []
  | .ok .cached =>
    match s.lookStore va with
    | .held _ g => .hold (.store (BitVec.ofNat 64 va) data (some g)) [va / 32 * 32]
    | .strong g => if f.vec then .fault (f.fault .strongMisuse va) else .strong g
    | .miss =>
      if setIsDirty s.myCore s.me.part (va / 256) then .need else .hold (.store (BitVec.ofNat 64 va) data none) [va / 32 * 32]
    | .fault x => .fault (f.dress va x)

/-- A posted store with its journal entry, held (R129). -/
def takeJournal (s : State) (n chunk : Nat) (r : Ref) (va : Word) (width : Nat) : State :=
  let t := s.strand r
  s.updCore r.core fun c =>
    { c with journal := put n { slot := r.slot, va := va, width := width, chunk := chunk, startedAt := t.startedAt, task := t.task, refused := false } c.journal,
             journalNext := (n + 1) % 64 }

/-- A posted store is issued (R129): it takes a journal entry, or waits for one under its LA (R191). -/
def holdPosted (s : State) (la : BitVec 4) (va width : Nat) (p : PostedStore) : State :=
  match (journalFree s.myCore).filter fun _ => !s.me.wantsKind 0 with
  | some n => (s.takeJournal n s.me.opened.id s.cur (BitVec.ofNat 64 va) width).hold (.posted { p with idx := some n })
  | none => s.wantHeld la [] (.journal p (BitVec.ofNat 64 va) width)

/-- A store of the executing strand to the line of an address waits for the home's check (R422). -/
def checkAsked (s : State) (va : Nat) : Bool :=
  (s.me.closed ++ [s.me.opened]).any fun c => c.held.any fun h =>
    match h with
    | .store a _ none | .nontemporal a _ none => a.toNat / 256 == va / 256
    | _ => false

/-- The home is asked whether a store may be performed (R422). -/
def askCheck (s : State) (va : Nat) : State := if s.checkAsked va then s else s.askHome va .check

/-- A store that misses allocates its line without fetching (R130). -/
def allocate (s : State) (va : Nat) : State :=
  if (s.l1Line va).isSome || l1Ways s.myCore == 0 then s
  else s.fillL1 s.cur.core { part := s.me.part, line := va / 256, way := 0, data := [], valid := [], g := ⟨0, 0, 0⟩, pending := false }

/-- An effect held, with its journal entry, its check and its sectors in the write signature (R129, R155, R334, R422). -/
def holdPut (s : State) (la : BitVec 4) (f : Form) (va : Nat) (h : Held) (sectors : List Nat) : State :=
  match h with
  | .posted p => s.holdPosted la va f.size p
  | .store _ _ none => (((s.askCheck va).allocate va).hold h).noteWrites sectors
  | .nontemporal _ _ none => (s.askCheck va).hold h
  | _ => (s.hold h).noteWrites sectors

/-- The executing strand's write to a page with O = 1 (R148); where it waits for a copy of its page (R296), the strand waits for its
acknowledgement as for that of maintenance. -/
def strongWrite (s : State) (va : Nat) (data : List Byte) (g : Grant) : CowWrite :=
  { kind := .maintenance, who := s.cur, task := s.me.task, start := s.me.startedAt, part := s.me.part, ctx := s.me.ctx, va := BitVec.ofNat 64 va,
    data := data, edition := s.myCore.edition, g := g }

/-- A store to a page with O = 1, performed at its home (R148, R163): memory, an engine window (R260) or a
notify page (R347). -/
def strongStore (s : State) (f : Form) (va : Nat) (g : Grant) (data : List Byte) : State :=
  let pa := g.frame + va % 256
  let q := quireOf s.cur.core
  let n := data.length
  if s.homePackage s.me.part va ≠ s.pkgid then s.strongAway f va (.strongStore data) fun _ => s.advance.thenStrong
  else
  match engineFrameQuire pa, notifyPartition pa with
  | some fq, _ =>
    let off := pa % 4096
    if fq = q && off / 256 = s.cur.core % 4 && off < 1024 then
      if off % 64 + n = 64 && !s.queueFree q (off % 256 / 64) s.cur.core then s.raise (f.fault .windowFull va) else
      (s.emit 0 (.engineWindowStore s.cur pa n (BitVec.ofNat 64 (Bytes.toNat data)))).advance.thenStrong
    else s.raise (f.fault .permission va)
  | none, some p =>
    if pa % 4096 = 0 && n = 8 then
      (s.emit (toBase q) (.notifyPageStore p (BitVec.ofNat 64 (Bytes.toNat data)))).advance.thenStrong
    else s.raise (f.fault .permission va)
  | none, none =>
    if s.lockedLine s.me.part va then s.stall (.untilCycle (s.now + 1)) else
    let w := s.strongWrite va data g
    match s.cowDefer w with
    | some s1 => (s1.advance.thenStrong).updMe fun t => { t with wait := .maintained, unackedMaint := t.unackedMaint + 1 }
    | none => (s.performWrite w).advance.thenStrong

/-- A scalar store (R242). -/
def scalarStore (s : State) (la : BitVec 4) (f : Form) (va : Nat) (data : List Byte) (full : Bool) : State :=
  match s.putElement f va data full with
  | .hold h sectors => (s.holdPut la f va h sectors).advance
  | .fault x => s.raise x
  | .need => s.requestLine va .store
  | .strong g => if s.aloneNow then s.strongStore f va g data else s.waitAlone

end State

end Sys2Proof.Machine
end

