-- ==== Sys2Proof/Machine/LoadStore.lean ====
section
/-! DEFINITION. Scalar loads and stores (R241, R242), full-bit access (R246, R247), the non-temporal scalar store
and the prefetch (R248, R249). -/

namespace Sys2Proof.Machine

def loadForm (size : Nat) (decodes : Bool) : Form :=
  { acc := .load, size := size, decodes := decodes, syncs := true, remote := true, vec := false }

def storeForm (size : Nat) : Form :=
  { acc := .store, size := size, decodes := false, syncs := true, remote := true, vec := false }

/-- A value's low `n` bytes, sign-extended. -/
def sextBytes (n : Nat) (w : Word) : Word := BitVec.ofInt 64 (Bits.sext w.toNat (8 * n))

/-- The low `n` bytes of a store's data (R242). -/
def State.storeData (s : State) (c : CWord) (n : Nat) : List Byte := Bytes.ofNat n (s.opA c).toNat

/-- A load of R242. -/
def loadOf (k : CWord → Instr) (c : CWord) (n : Nat) (decodes sext : Bool) (s : State) : Result :=
  checked (k c) s fun s =>
    s.scalarLoad (loadForm n decodes) c (k c) (s.loadAddress c n) (if sext then sextBytes n else id)

/-- A store of R242. -/
def storeOf (i : Instr) (c : CWord) (n : Nat) (s : State) : Result :=
  checkedAfter (fun s => faultOf (s.place (storeForm n) (s.storeAddress c n))) i s fun s =>
    s.scalarStore c.la (storeForm n) (s.storeAddress c n) (s.storeData c n) false

def execLdB (c : CWord) (s : State) : Result := loadOf .ldB c 1 false true s
def execLdH (c : CWord) (s : State) : Result := loadOf .ldH c 2 false true s
def execLdW (c : CWord) (s : State) : Result := loadOf .ldW c 4 true true s
def execLdD (c : CWord) (s : State) : Result := loadOf .ldD c 8 false false s
def execLdBu (c : CWord) (s : State) : Result := loadOf .ldBu c 1 false false s
def execLdHu (c : CWord) (s : State) : Result := loadOf .ldHu c 2 false false s
def execLdWu (c : CWord) (s : State) : Result := loadOf .ldWu c 4 true false s
def execStB (c : CWord) (s : State) : Result := storeOf (.stB c) c 1 s
def execStH (c : CWord) (s : State) : Result := storeOf (.stH c) c 2 s
def execStW (c : CWord) (s : State) : Result := storeOf (.stW c) c 4 s
def execStD (c : CWord) (s : State) : Result := storeOf (.stD c) c 8 s

/-! ## Full bits (R246, R247) -/

/-- A form that only reaches scratch raw: window 0 of the local aperture (R246, R247). -/
def fullForm (acc : Access) (remote : Bool) : Form :=
  { acc := acc, size := 8, decodes := false, syncs := false, remote := remote, vec := false }

namespace State

/-- `ldf` and `ldfc` (R246): `clear` empties the sector at the commit. DESIGN CHOICE (log 88): an address outside the local aperture, for which R246
names no event, raises APERTURE, here and at `stf`. -/
def fullLoad (s : State) (c : CWord) (clear : Bool) : State :=
  let va := s.loadAddress c 8
  let f := fullForm .load false
  match s.place f va with
  | .error x => s.raise x
  | .ok (.scratch off _ _) =>
    let sector := off / 32
    if s.sectorFull sector then
      let s1 := if clear then (s.hold (.fullBits [] [sector])).noteWrites [scratchVa (32 * sector)] else s
      s1.finishLoad c va [scratchVa (32 * sector)] (BitVec.ofNat 64 (Bytes.toNat (s.scratchBytes off 8)))
    else s.sleepOn (.sector sector)
  | .ok _ => s.raise (f.fault .aperture va)

/-- Where `stf` stores (R246): in the local aperture alone. -/
def fullPlace (s : State) (va : Nat) : Except FaultInfo Place :=
  let f := fullForm .store true
  if va / 2 ^ 57 = 0 && va % 8 = 0 && !inAperture va then .error (f.fault .aperture va) else s.place f va

/-- The base of `wmask` (R247): own scratch, window 0, aligned to a sector. -/
def maskBase (s : State) (va : Nat) (changed : List Nat) : Except FaultInfo Nat :=
  let f : Form := { fullForm .store false with size := 32 }
  let off := apOff va
  if va / 2 ^ 57 != 0 then .error (f.fault .notPresent va)
  else if va % 32 != 0 then .error (f.fault .misalignedData va)
  else if !inAperture va || apWindow va != 0 || apSel va != 0xFFF || va.testBit 19 || apNib va != 0 ||
      !(decide (off + 1024 ≤ 262144) &&
        s.myCore.wayMask.getLsbD (off / 16384) && s.myCore.wayMask.getLsbD ((off + 1023) / 16384)) then
    .error (f.fault .aperture va)
  else if !(changed.all fun j => s.ownProtection .store (off + 32 * j) 32) then .error (f.fault .protection va)
  else .ok off

/-- `wmask` (R247): sectors that become full and sectors that become empty. -/
def maskFull (s : State) (c : CWord) (set clr : W32) : State :=
  let bits (m : W32) := (List.range 32).filter fun j => m.getLsbD j
  match s.maskBase (s.readS c.d).toNat (bits (set ||| clr)) with
  | .error x => s.raise x
  | .ok off =>
    ((s.hold (.fullBits ((bits set).map (off / 32 + ·)) ((bits clr).map (off / 32 + ·)))).noteWrites
      ((bits (set ||| clr)).map fun j => scratchVa (off + 32 * j))).advance

end State

def execLdf (c : CWord) (s : State) : Result := checked (.ldf c) s fun s => s.fullLoad c false
def execLdfc (c : CWord) (s : State) : Result := checked (.ldfc c) s fun s => s.fullLoad c true

def execStf (c : CWord) (s : State) : Result :=
  checkedAfter (fun s => faultOf (s.fullPlace (s.storeAddress c 8))) (.stf c) s fun s =>
    let va := s.storeAddress c 8
    match s.fullPlace va with
    | .error x => s.raise x
    | .ok _ => s.scalarStore c.la (fullForm .store true) va (s.storeData c 8) true

/-- The faults of `wmask` that do not depend on its mask. -/
def maskFirst (c : CWord) (s : State) : Option FaultInfo := faultOf (s.maskBase (s.readS c.d).toNat [])

def execWmaskSet (c : CWord) (s : State) : Result :=
  checkedAfter (maskFirst c) (.wmaskSet c) s fun s => s.maskFull c ((s.opA c).setWidth 32) 0
def execWmaskClr (c : CWord) (s : State) : Result :=
  checkedAfter (maskFirst c) (.wmaskClr c) s fun s => s.maskFull c 0 ((s.opA c).setWidth 32)
def execWmaskPut (c : CWord) (s : State) : Result :=
  checkedAfter (maskFirst c) (.wmaskPut c) s fun s => s.maskFull c ((s.opA c).setWidth 32) (~~~((s.opA c).setWidth 32))

/-! ## Non-temporal store and prefetch (R248, R249) -/

/-- A form that no local-aperture address takes. -/
def cachedForm (acc : Access) (size : Nat) (vec : Bool) : Form :=
  { acc := acc, size := size, decodes := false, syncs := false, remote := false, vec := vec }

namespace State

/-- Where a non-temporal store goes (R248): no local-aperture address. -/
def ntPlace (s : State) (f : Form) (va : Nat) : Except FaultInfo Place :=
  if va / 2 ^ 57 = 0 && va % f.size = 0 && inAperture va then .error (f.fault .aperture va) else s.place f va

/-- One non-temporal store of `n` bytes (R172, R248): it is checked as a store is (R422), bypasses the L1, is held, and sets no signature. -/
def putNontemporal (s : State) (f : Form) (va : Nat) (data : List Byte) : Put :=
    match s.ntPlace f va with
    | .error x => .fault x
    | .ok _ =>
      match s.lookStore va with
      | .held _ g => .hold (.nontemporal (BitVec.ofNat 64 va) data (some g)) []
      | .strong _ => .fault (f.fault .strongMisuse va)
      | .miss => .hold (.nontemporal (BitVec.ofNat 64 va) data none) []
      | .fault x => .fault (f.dress va x)

end State

def execStnt (c : CWord) (s : State) : Result :=
  checkedAfter (fun s => faultOf (s.ntPlace (cachedForm .store 8 false) (s.storeAddress c 8))) (.stnt c) s fun s =>
    let va := s.storeAddress c 8
    match s.putNontemporal (cachedForm .store 8 false) va (s.storeData c 8) with
    | .hold h _ => (s.holdPut c.la (cachedForm .store 8 false) va h []).advance
    | .fault x => s.raise x
    | .need => s.requestLine va .store
    | .strong _ => s.raise ((cachedForm .store 8 false).fault .strongMisuse va)

/-- `pref` (R249): the home is asked for the line of a cached address; only STRONG_MISUSE is raised, and of an
absent page or a lacking right nothing is reported. DESIGN CHOICE (log 15): the bundle waits for the answer, since
STRONG_MISUSE is exact. -/
def execPref (c : CWord) (s : State) : Result :=
  checked (.pref c) s fun s =>
    let va := s.loadAddress c 256
    if va / 2 ^ 57 != 0 || inAperture va || s.homeMoved s.me.part va then s.advance
    else
      match s.lookLine va with
      | .held _ _ => s.advance
      | .strong _ => s.raise ((cachedForm .load 1 false).fault .strongMisuse va)
      | .miss => s.requestLine va .load
      | .fault x => if x.code == .strongMisuse then s.raise x else s.advance

end Sys2Proof.Machine
end

