-- ==== Sys2Proof/Machine/VectorMem.lean ====
section
/-! DEFINITION. Vector loads and stores, gather and scatter (R243-R245, R406), and the vector non-temporal store
(R248). -/

namespace Sys2Proof.Machine

/-- A vector form: whether its lanes are consecutive from `base`, and the register a load writes. -/
structure VecForm where
  f : Form
  run : Bool
  base : Nat
  mask : W32
  deriving DecidableEq, Repr

/-- The address of lane `i` of a run of elements from `base` (R120, R243). -/
def runAddress (base size i : Nat) : Nat :=
  if inAperture base && apWindow base = 6 then base + i / 2 + (if i % 2 = 1 then 2 ^ 18 else 0)
  else (base + i * (if inAperture base then windowBytes (apWindow base) size else size)) % 2 ^ 64

/-- Whether the masked-in bytes of a run lie in one way of one core, a scratch way when it is the own core
(R118, R241). -/
def oneWay (c : Core) (n : Nat) (vas : List Nat) : Bool :=
  match vas with
  | [] => true
  | a :: r =>
    let z := r.getLastD a
    apSel a == apSel z && apOff a / 16384 == (apOff z + n - 1) / 16384 &&
      (apSel a != 0xFFF || c.wayMask.getLsbD (apOff a / 16384))

/-- The checks of the whole instruction (R395): window, form and one scratch way, and the alignment of a run
through window 7 (R243). `none` when they pass. -/
def vectorCheck (c : Core) (v : VecForm) (lanes : List (Fin 32 × Nat)) : Option FaultInfo :=
  let bad := lanes.find? fun l =>
    let w := apWindow l.2
    decide (l.2 / 2 ^ 57 = 0) && inAperture l.2 &&
      (w > 7 || (w == 7 && !v.f.syncs) || (1 ≤ w && w < 7 && !v.f.decodes) || l.2.testBit 19)
  match bad, lanes.find? fun l => decide (l.2 / 2 ^ 57 = 0) && inAperture l.2 with
  | some l, _ => some (v.f.fault .aperture l.2)
  | none, none => none
  | none, some l =>
    let w := apWindow v.base
    if !v.run then none
    else if v.base / 2 ^ 57 ≠ 0 || !inAperture v.base || apNib v.base ≠ 0 then some (v.f.fault .aperture l.2)
    else if w = 7 && v.base % (32 * v.f.size) ≠ 0 then some (v.f.fault .misalignedData l.2)
    else if !oneWay c (windowBytes w v.f.size) (lanes.map (·.2)) then some (v.f.fault .aperture l.2)
    else none

/-- Lanes of a mask, ascending, with their addresses. -/
def laneAddresses (mask : W32) (addr : Nat → Nat) : List (Fin 32 × Nat) :=
  (laneList.filter fun i => laneOn mask i).map fun i => (i, addr i.val)

def maskOf (ls : List (Fin 32)) : W32 := ls.foldl (fun m i => m ||| (1 <<< i.val)) 0

namespace State

/-- Lanes still to perform: masked in and left undone by an earlier report (R406). -/
def undone (s : State) (mask : W32) : W32 := mask &&& ~~~s.me.doneLanes

/-- A fault of a vector access with the lanes that have been performed or are masked out (R404). -/
def raiseVec (s : State) (mask : W32) (x : FaultInfo) : State :=
  s.raise { x with vec := true, lanes := ~~~mask ||| s.me.doneLanes }

/-- The performed lanes become a chunk of their own that commits before the record is written (R406). -/
def partly (s : State) (performed : W32) (effect : State → State) : State :=
  if performed = 0 then s
  else
    ((effect s.endBefore).updMe fun t =>
      { t with doneLanes := t.doneLanes ||| performed, opened := { t.opened with count := 1 } }).endBefore

/-- Lanes of a load written by a partial access; v[D] as it stood before is kept for the bundle's A-word (R406). -/
def partlyLoad (s : State) (d : BitVec 5) (val : VReg) (performed : W32) (sectors : List Nat) : State :=
  s.partly performed fun s =>
    (s.updMe fun t => { t with vecBefore := t.vecBefore.orElse fun _ => some (t.regs.getV d) }).writeV d val performed |>.noteReads sectors

/-- A vector load of the masked-in lanes (R243-R245): every line is fetched first; the lowest faulting lane decides
the fault, and of the others a free set is performed before the report. -/
def vectorLoad (s : State) (v : VecForm) (la : BitVec 4) (d : BitVec 5) (word : Instr) (addr : Nat → Nat) (conv : Word → W32) : State :=
  let todo := laneAddresses (s.undone v.mask) addr
  match vectorCheck s.myCore v todo with
  | some x => s.raiseVec v.mask x
  | none =>
    let got := todo.map fun l => (l.1, l.2, s.readElement v.f l.1.val l.2)
    let vals := got.filterMap fun g => match g.2.2 with | .val w x => some (g.1, w, x) | _ => none
    let result : VReg := lanes fun i => ((vals.find? fun x => x.1 == i).map fun x => conv x.2.1).getD 0
    let firstFault := got.findSome? fun g => match g.2.2 with | .fault x => some (g.1, x) | _ => none
    let before (i : Fin 32) : Bool := match firstFault with | some (j, _) => decide (i < j) | none => true
    let far := got.filterMap fun g =>
      match g.2.2 with
      | .remote core => if before g.1 then some (g.1, g.2.1, core) else none
      | _ => none
    let pending := got.any fun g => (match g.2.2 with | .asked => true | _ => false) && before g.1
    match got.findSome? (fun g => match g.2.2 with | .need => some g.2.1 | _ => none) with
    | some va => s.requestLoad la [.v d] word va v.f.acc
    | none =>
      if !far.isEmpty then
        if s.aloneNow then
          (if v.run then s.sendRemoteLoad v.f ((far.map (·.2.2)).headD 0) (far.map fun g => (g.1.val, g.2.1))
           else far.foldl (fun s g => s.sendRemoteLoad v.f g.2.2 [(g.1.val, g.2.1)]) s).stall (.asleep .remote)
        else s.waitAlone
      else if pending then s.stall (.asleep .remote)
      else
        match firstFault with
        | some (_, x) =>
          let performed := maskOf (vals.map (·.1)) &&& s.draw.setWidth 32
          let sectors := (vals.filter fun e => laneOn performed e.1).flatMap fun e => e.2.2
          (s.drawn.partlyLoad d result performed sectors).raiseVec v.mask x
        | none =>
          match got.findSome? (fun g => match g.2.2 with | .empty n => some n | _ => none) with
          | some n => s.sleepOn (.sector n)
          | none =>
            let mask := s.undone v.mask
            let s1 := s.noteReads (vals.flatMap fun e => e.2.2)
            if todo.any fun l => inAperture l.2 && apSel l.2 != 0xFFF then ((s.writeV d result mask).advance).thenAlone
            else (s1.result la (s.loadCost ((todo.map (·.2)).headD 0)) [.v d] [.v d result mask]).advance

/-- One lane of a store performed: its effect is held. -/
def putLane (s : State) (la : BitVec 4) (f : Form) (va : Nat) (p : Put) : State :=
  match p with
  | .hold h sectors => s.holdPut la f va h sectors
  | _ => s

/-- The lanes of a scatter in ascending order (R245): a lane in another core's store takes a journal entry. -/
def putLanes (la : BitVec 4) (f : Form) (data : Fin 32 → List Byte) (todo : List (Fin 32 × Nat)) (s : State) : State :=
  todo.foldl (fun s l => s.putLane la f l.2 (s.putElement f l.2 (data l.1) false)) s

/-- The lanes of a run of stores: own lanes are held each, and the lanes of a remote store leave as one posted store, of their bytes
alone, with one journal entry (R128, R129, R243). -/
def putRun (la : BitVec 4) (f : Form) (data : Fin 32 → List Byte) (todo : List (Fin 32 × Nat)) (s : State) : State :=
  let posted := (todo.map fun l => (l.2, s.putElement f l.2 (data l.1) false)).filterMap fun p =>
    match p.2 with | .hold (.posted x) _ => some (p.1, x) | _ => none
  match posted with
  | (va, p) :: r => s.holdPosted la va (32 * f.size) { p with data := p.data ++ r.flatMap fun q => q.2.data }
  | [] => putLanes la f data todo s

/-- A vector store of the masked-in lanes (R243-R245, R406). `find` says what storing one lane takes and `perform`
holds the lanes it is given. Where a lane faults, the lanes below it whose lines the homes have still to check are among those performed, so
that the report names the lowest lane that faults. -/
def vectorStore (s : State) (v : VecForm) (addr : Nat → Nat) (find : State → Nat → Fin 32 → Put)
    (perform : List (Fin 32 × Nat) → State → State) : State :=
  let todo := laneAddresses (s.undone v.mask) addr
  match vectorCheck s.myCore v todo with
  | some x => s.raiseVec v.mask x
  | none =>
    let puts := todo.map fun l => (l.1, l.2, find s l.2 l.1)
    match puts.findSome? (fun p => match p.2.2 with | .need => some p.2.1 | _ => none) with
    | some va => s.requestLine va .store
    | none =>
      match puts.findSome? (fun p => match p.2.2 with | .fault x => some (p.1, x) | _ => none) with
      | some (j, x) =>
        let sound := puts.filter fun p => match p.2.2 with | .hold _ _ => true | _ => false
        let asks (h : Held) : Bool := match h with | .store _ _ none | .nontemporal _ _ none => true | _ => false
        let unchecked := puts.filter fun p => p.1 < j && (match p.2.2 with | .hold h _ => asks h | _ => false)
        let free := (maskOf (sound.map (·.1)) &&& s.draw.setWidth 32) ||| maskOf (unchecked.map (·.1))
        let performed := if v.run then free else maskOf ((sound.filter fun p => p.1 < j).map (·.1))
        let s1 := if v.run then s.drawn else s
        (s1.partly performed (perform (todo.filter fun l => laneOn performed l.1))).raiseVec v.mask x
      | none => (perform todo s).advance

end State

/-- The mask k0-k3 a C-word names (R243). -/
def State.maskC (s : State) (c : CWord) : W32 := s.readK (c.msk.setWidth 3)

def vecForm (acc : Access) (size : Nat) (decodes syncs remote : Bool) : Form :=
  { acc := acc, size := size, decodes := decodes, syncs := syncs, remote := remote, vec := true }

/-- A load of R243. -/
def vecLoadOf (k : CWord → Instr) (c : CWord) (n : Nat) (s : State) : Result :=
  checked (k c) s fun s =>
    let base := s.loadAddress c (32 * n)
    s.vectorLoad { f := vecForm .load n (n == 4) true true, run := true, base := base, mask := s.maskC c } c.la c.d (k c)
      (runAddress base n) fun w => (sextBytes n w).setWidth 32

/-- A lane's bytes (R243). -/
def State.laneData (s : State) (c : CWord) (n : Nat) (i : Fin 32) : List Byte := Bytes.ofNat n (s.readV c.a)[i].toNat

/-- A store of R243. -/
def vecStoreOf (i : Instr) (c : CWord) (n : Nat) (s : State) : Result :=
  checked i s fun s =>
    let base := s.storeAddress c (32 * n)
    let f := vecForm .store n false true true
    s.vectorStore { f := f, run := true, base := base, mask := s.maskC c } (runAddress base n)
      (fun s va j => s.putElement f va (s.laneData c n j) false) (State.putRun c.la f (s.laneData c n))

def execVldB (c : CWord) (s : State) : Result := vecLoadOf .vldB c 1 s
def execVldH (c : CWord) (s : State) : Result := vecLoadOf .vldH c 2 s
def execVldW (c : CWord) (s : State) : Result := vecLoadOf .vldW c 4 s
def execVstB (c : CWord) (s : State) : Result := vecStoreOf (.vstB c) c 1 s
def execVstH (c : CWord) (s : State) : Result := vecStoreOf (.vstH c) c 2 s
def execVstW (c : CWord) (s : State) : Result := vecStoreOf (.vstW c) c 4 s

/-! ## Gather and scatter (R245) -/

/-- Element bytes and shift of a gather or scatter: words at shift 2 in a paired bundle. -/
def gatherShape (e : Ext) : Nat × Nat :=
  match e with
  | .paired => (4, 2)
  | .lone w => (2 ^ Bits.get w.toNat 1 0, Bits.get w.toNat 3 2)

/-- The address of lane `i` (R245). -/
def State.indexAddress (s : State) (base : Word) (index : BitVec 5) (shift i : Nat) : Nat :=
  (base + (((s.readV index)[i]?.getD 0).signExtend 64 <<< shift)).toNat

def execVgat (c : CWord) (s : State) : Result :=
  checked (.vgat c) s fun s =>
    let sh := gatherShape c.ext
    s.vectorLoad { f := vecForm .load sh.1 (sh.1 == 4) true true, run := false, base := 0, mask := s.maskC c } c.la c.d
      (.vgat c) (s.indexAddress (s.opA c) c.b sh.2) fun w => (sextBytes sh.1 w).setWidth 32

def execVsca (c : CWord) (s : State) : Result :=
  checked (.vsca c) s fun s =>
    let sh := gatherShape c.ext
    let f := vecForm .store sh.1 false true true
    s.vectorStore { f := f, run := false, base := 0, mask := s.maskC c } (s.indexAddress (s.readS c.d) c.b sh.2)
      (fun s va j => s.putElement f va (s.laneData c sh.1 j) false) (State.putLanes c.la f (s.laneData c sh.1))

/-! ## The vector non-temporal store (R248) -/

/-- Non-temporal lanes held. -/
def State.holdNontemporal (la : BitVec 4) (f : Form) (data : Fin 32 → List Byte) (todo : List (Fin 32 × Nat)) (s : State) : State :=
  todo.foldl (fun s l => s.putLane la f l.2 (s.putNontemporal f l.2 (data l.1))) s

def execVstnt (c : CWord) (s : State) : Result :=
  checked (.vstnt c) s fun s =>
    let base := s.storeAddress c 128
    let f := cachedForm .store 4 true
    s.vectorStore { f := f, run := true, base := base, mask := s.maskC c } (fun i => (base + 4 * i) % 2 ^ 64)
      (fun s va j => s.putNontemporal f va (s.laneData c 4 j)) (State.holdNontemporal c.la f (s.laneData c 4))

end Sys2Proof.Machine
end

