-- ==== Sys2Proof/Machine/LongAlu.lean ====
section
/-! DEFINITION. C-slot arithmetic: special functions (R238), decode-table codes (R239, R240) and narrowing to MX
(R250). -/

namespace Sys2Proof.Machine

/-- The result of a C-slot float function under LA: lanes under k0-k3, or zext into s[D], with the flags. -/
def State.longFloat (s : State) (c : CWord) (cost : Nat) (f : W32 → W32 × Sticky) : State :=
  let flagWord (x : Sticky) : RegWrite := .sticky (x.setWidth 64 <<< 4)
  if c.ta == .v then
    let mask := s.maskC c
    let r := (s.readV c.a).map f
    (s.result c.la cost [.v c.d]
      [.v c.d (r.map (·.1)) mask, flagWord (stickyOf mask fun i => (r[i]).2)]).advance
  else
    let r := f (s.scalarFloat c.ta c.a c.ext)
    (s.result c.la cost [.s c.d] [.s c.d (r.1.setWidth 64), flagWord r.2]).advance

/-- A special function (R238): 16 cycles. -/
def sfuOf (i : Instr) (c : CWord) (fn : Nat) (s : State) : Result :=
  checked i s fun s => s.longFloat c 16 (sfuEval fn (rmOf s.pre.flags))

def execSfuRcp (c : CWord) (s : State) : Result := sfuOf (.sfuRcp c) c 0 s
def execSfuSqrt (c : CWord) (s : State) : Result := sfuOf (.sfuSqrt c) c 1 s
def execSfuRsqrt (c : CWord) (s : State) : Result := sfuOf (.sfuRsqrt c) c 2 s
def execSfuExp2 (c : CWord) (s : State) : Result := sfuOf (.sfuExp2 c) c 3 s
def execSfuLog2 (c : CWord) (s : State) : Result := sfuOf (.sfuLog2 c) c 4 s
def execSfuSinpi (c : CWord) (s : State) : Result := sfuOf (.sfuSinpi c) c 5 s
def execSfuCospi (c : CWord) (s : State) : Result := sfuOf (.sfuCospi c) c 6 s
def execSfuTanh (c : CWord) (s : State) : Result := sfuOf (.sfuTanh c) c 7 s

def execEnc8 (c : CWord) (s : State) : Result :=
  checked (.enc8 c) s fun s =>
    s.longFloat c 8 fun x =>
      let r := enc8Value (s.myCore.tableAt s.now) (c.b.getLsbD 0) x
      (r.1.setWidth 32, r.2)

/-! ## The decode table (R240) -/

/-- What reading one line of a table finds: its bytes with its sector, or what the bundle waits for. -/
def State.tableLine (s : State) (va : Nat) : Got × List Byte :=
  let f : Form := { vecForm .load 4 false false false with size := 256 }
  match s.place f va with
  | .error x => (.fault { x with info := (x.info >>> 8 <<< 8) ||| 4, vec := false }, [])
  | .ok (.scratch off _ _) => (.val 0 ((sectorsOf off 256).map scratchVa), s.scratchBytes off 256)
  | .ok (.remote _) => (.fault (f.fault .aperture va), [])
  | .ok .cached =>
    match s.lookCached va 256 .load with
    | .held bytes _ => (.val 0 (sectorsOf va 256), bytes)
    | .strong _ => (.fault { cachedForm .load 4 false |>.fault .strongMisuse va with vec := false }, [])
    | .miss => (.need, [])
    | .fault x => (.fault ((cachedForm .load 4 false).dress va x), [])

/-- The 256 entries of a table of 1 KiB: bits [18:0] of each word. -/
def tableEntries (bytes : List Byte) : List (BitVec 19) :=
  (List.range 256).map fun j => BitVec.ofNat 19 (Bytes.toNat ((bytes.drop (4 * j)).take 4))

/-- `ltab` (R240): the four lines are read at issue, and the core switches to their table when the cost has passed. -/
def execLtab (c : CWord) (s : State) : Result :=
  checked (.ltab c) s fun s =>
    let va := (s.opA c).toNat
    let got := (List.range 4).map fun j => (va + 256 * j, s.tableLine (va + 256 * j))
    match got.findSome? (fun g => match g.2.1 with | .need => some g.1 | _ => none),
          got.findSome? (fun g => match g.2.1 with | .fault x => some x | _ => none) with
    | some a, _ => s.requestLine a .load
    | none, some x => s.raise x
    | none, none =>
      let sectors := got.flatMap fun g => match g.2.1 with | .val _ x => x | _ => []
      let cost := s.loadCost va + s.draw.toNat
      let s1 := ((s.noteReads sectors).drawn).updMyCore fun k =>
        { k.settleTable s.now with
          tables := (k.settleTable s.now).tables ++ [{ due := s.now + cost, chunk := s.me.opened.id, entries := tableEntries (got.flatMap (·.2.2)) }] }
      (s1.result c.la cost [] []).advance

/-! ## Narrowing to MX (R250) -/

/-- The stores of a `stmx`, in order: address, bytes. -/
def stmxStores (s : State) (c : CWord) : List (Nat × List Byte) × Nat × Nat :=
  let fmt := Bits.get c.b.toNat 1 0
  let auto := !c.b.getLsbD 2
  let group (j : Nat) : Word := s.readS (c.d + BitVec.ofNat 5 j)
  let mask := s.maskC c
  let xs := laneList.map fun i => if laneOn mask i then (s.readV c.a)[i] else 0
  let block := narrowBlock fmt auto (Bits.get (group 3).toNat 39 32) xs
  let out := ((block.2.zip xs).zipIdx.filterMap fun e => if e.1.1.isNone then some (e.2, e.1.2) else none)
  let room := Bits.get (group 3).toNat 63 40
  let entries := out.take room
  ([((group 0).toNat, packCodes fmt (block.2.map (·.getD 0))), ((group 1).toNat, [BitVec.ofNat 8 block.1])] ++
    entries.zipIdx.map (fun e =>
      ((group 2 + BitVec.ofNat 64 (8 * e.2)).toNat,
       Bytes.ofNat 4 ((group 3).toNat % 2 ^ 32 + e.1.1) ++ Bytes.ofNat 4 e.1.2.toNat)),
   entries.length, out.length)

namespace State

/-- Ordinary stores of one bundle performed in order, each aligned to its size: the state that holds them all, or
the first that does not go. -/
def putAll (la : BitVec 4) : List (Nat × List Byte) → State → Put × Nat × State
  | [], s => (.hold .endStrand [], 0, s)
  | (va, data) :: r, s =>
    let f : Form := { storeForm data.length with vec := true }
    match s.putElement f va data false with
    | .hold h sectors => putAll la r (s.holdPut la f va h sectors)
    | p => (p, va, s)

end State

/-- `stmx` (R113-R115, R250): elements, scale and errata entries are ordinary held stores; s[D+2], s[D+3] and
ERRFULL follow under LA. -/
def execStmx (c : CWord) (s : State) : Result :=
  checked (.stmx c) s fun s =>
    let w := stmxStores s c
    match State.putAll c.la w.1 s with
    | (.hold _ _, _, s1) =>
      let tail := s.readS (c.d + 2) + BitVec.ofNat 64 (8 * w.2.1)
      let room := s.readS (c.d + 3) - (BitVec.ofNat 64 w.2.1 <<< 40)
      let full : List RegWrite := if w.2.1 < w.2.2 then [.sticky (1 <<< 10)] else []
      (s1.result c.la 4 [.s (c.d + 2), .s (c.d + 3)] ([.s (c.d + 2) tail, .s (c.d + 3) room] ++ full)).advance
    | (.fault x, _, _) => s.raise { x with vec := false }
    | (.need, va, _) => s.requestLine va .store
    | (.strong _, va, _) => s.raise ((cachedForm .store 32 false).fault .strongMisuse va)

end Sys2Proof.Machine
end

