-- ==== Sys2Proof/Machine/Fences.lean ====
section
/-! DEFINITION. Releases and acquires (R165-R168), fences, `drain`, and cache maintenance (R173, R254-R256). -/

namespace Sys2Proof.Machine

namespace State

/-- Whether a strand's release at a scope has completed (R166): no journal entry of its committed chunks is left but refused ones (R412),
at pkg and pod its homes have acknowledged every committed write, and at pod the directories have and its OWNED lines have been written back. -/
def releaseDone (s : State) (r : Ref) (scope : Nat) : Bool :=
  let t := s.strand r
  !((s.core r.core).journal.any fun e => e.2.slot == r.slot && e.2.startedAt == t.startedAt && !e.2.refused &&
      !((t.closed ++ [t.opened]).map (·.id)).contains e.2.chunk) &&
    (decide (scope < 3) || t.unackedWrites == 0) && (decide (scope < 4) || (t.podWrites.isEmpty && t.unackedPod == 0))

/-- A strand's wait at pod scope: for a release, or for a `drain`, which concerns non-temporal stores alone. -/
def podWait (t : Strand) : Option Bool :=
  match t.wait with
  | .release scope _ => if 4 ≤ scope && t.unackedWrites == 0 then some false else none
  | .drained scope => if 4 ≤ scope && t.unackedStores == 0 then some true else none
  | _ => none

/-- The lines of other packages that a strand's committed writes have made dirty are to be written back for its release or its `drain` at pod
scope (R166, R173). -/
def podDue (t : Strand) : Bool :=
  t.closed.isEmpty && (match podWait t with | some nt => t.podWrites.any fun w => w.2 || !nt | none => false)

/-- They leave for their owners, whose acknowledgements the strand waits for (R139, R166, R173). -/
def podWriteBack (s : State) (r : Ref) : State :=
  let t := s.strand r
  let nt := (podWait t).getD false
  let due := ((t.podWrites.filter fun w => w.2 || !nt).map (·.1)).eraseDups
  due.foldl (fun (s : State) n =>
      match s.l2Find t.part n with
      | some l =>
        let send (s : State) (k : AckKind) : State :=
          s.toFabric (.writeBack (s.homePackage t.part (n * 256)) t.part n (dirtyBytes l) (some (r, k, t.task, t.startedAt)))
        let clean := s.l2Keep { l with dirty := [] }
        if l.peer.isNone || l.dirty.isEmpty then s
        else if nt then (send (clean.updStrand r fun t => { t with ntOut := t.ntOut ++ [(s.ids, BitVec.ofNat 64 (n * 256), [])] }) (.nontemporal s.ids)).fresh
        else send (clean.updStrand r fun t => { t with unackedPod := t.unackedPod + 1 }) .pod
      | none => s)
    (s.updStrand r fun t => { t with podWrites := t.podWrites.filter fun w => nt && !w.2 })

/-- A `drain` has completed (R173): on its die the stores that it has waited for are committed writes from now on. -/
def drainEnds (s : State) (r : Ref) : State :=
  let t := s.strand r
  let lines := (t.ntDone.map fun w => w.1 / 256).eraseDups
  let mine (l : L1Line) : Bool := l.part == t.part && lines.contains l.line
  let s1 := if lines.isEmpty then s
    else (s.cores.filter fun c => dieOf c.1 == dieOf r.core).foldl (fun (s : State) c => (s.leaveL1 c.1 mine).updCore c.1 (forgetLines t.part lines))
      (s.broadcast (dieOf r.core) r (sigOf t.part (t.ntDone.flatMap fun w => sectorsOf w.1 w.2)))
  s1.updStrand r fun t => { t with ntDone := [], wait := .ready }

/-- The acquire of a core (R167): at pkg and pod its pending invalidations are applied and the lines whose home lies
off its die are dropped, and at pod the SHARED lines of other packages that its own slice holds. -/
def acquire (s : State) (core scope : Nat) : State :=
  if scope < 3 then s
  else
    let s1 := s.leaveL1 core fun l => l.pending || s.homeOf l.part (l.line * 256) / 256 != dieOf core || s.homePackage l.part (l.line * 256) != s.pkgid
    if scope < 4 then s1
    else { s1 with l2 := s1.l2.filter fun l => !(l.peer == some false && s.homeOf l.part (l.line * 256) == quireOf core) }

/-- The strand waits for its release, then `next` follows. -/
def releaseThen (s : State) (scope : Nat) (next : After) : State :=
  s.updMe fun t => { t with wait := .release scope next }

/-- The lines of a partition that overlap `n` bytes from `a`, in the L2. -/
def linesOver (s : State) (part a n : Nat) : List L2Line :=
  s.l2.filter fun l => l.part == part && decide (l.line * 256 < a + n) && decide (a < l.line * 256 + 256) && n != 0

/-- What `wbr`, `inv.l1` and `inv.home` do once their chunk has committed (R255, R256). -/
def maintainNow (s : State) (core part kind a n : Nat) : State :=
  let overlaps (l : L1Line) : Bool :=
    l.part == part && decide (l.line * 256 < a + n) && decide (a < l.line * 256 + 256) && n != 0
  match kind with
  | 0 => (s.linesOver part a n).foldl (fun s l => s.writeBack l) s
  | 1 => s.leaveL1 core overlaps
  | _ =>
    let s1 := (s.linesOver part a n).foldl (fun s l => (s.writeBack l).l2Drop l.part l.line) s
    s1.cores.foldl (fun (s : State) c => s.leaveL1 c.1 overlaps) s1

/-- Committed stores on their way to their homes or waiting there: address, length, and what each was checked under. -/
def writesUnderWay (s : State) (part : Nat) : List (Nat × Nat × Grant) :=
  let of (r : HomeReq) : Option (Nat × Nat × Grant) :=
    match r.op with
    | .store data g | .nontemporal _ data g => if r.part == part && r.pkg.isNone then some (r.va.toNat, data.length, g) else none
    | _ => none
  ((s.agenda.map (·.2.2) ++ s.sent.map (·.2)).filterMap fun e => match e with | .homeRequest r => of r | _ => none) ++ s.peerWait.filterMap of ++
    (s.cowQueue.filter fun w => w.part == part).map fun w => (w.va.toNat, w.data.length, w.g)

/-- Some of them meet a range (R256). -/
def storesOver (s : State) (part a n : Nat) : Bool :=
  (s.writesUnderWay part).any fun w => decide (w.1 < a + n) && decide (a < w.1 + w.2.1)

/-- A maintenance instruction (R255): held to the commit, and the strand waits for the acknowledgements. -/
def maintain (s : State) (c : CWord) (kind : Nat) : State :=
  let a := s.opA c
  let len := s.readS c.d
  if len.toNat / 2 ^ 31 ≠ 0 then s.raiseCode .reservedField
  else if a.toNat / 2 ^ 57 ≠ 0 then s.raise { code := .notPresent, va := a }
  else if len ≠ 0 && (inAperture a.toNat || decide (a.toNat + len.toNat > Config.aperture)) then s.raise { code := .aperture, va := a, info := accessInfo 0 a.toNat }
  else (((s.hold (.maintain kind a len)).advance).thenEnd).updMe fun t => { t with wait := .maintained }

end State

/-- `fence` (R168, R254): MK is the order, 1 acquire, 2 release, 3 both. -/
def execFence (c : CWord) (s : State) : Result :=
  checked (.fence c) s fun s =>
    let scope := c.d.toNat % 8
    let s1 := s.advance.thenEnd
    match c.msk.toNat with
    | 1 => s1.acquire s.cur.core scope
    | 2 => s1.releaseThen scope .go
    | _ => s1.releaseThen scope (.acquire scope)

/-- `drain` (R173): the strand waits for its non-temporal stores. -/
def execDrain (c : CWord) (s : State) : Result :=
  checked (.drain c) s fun s => (s.advance.thenEnd).updMe fun t => { t with wait := .drained (c.d.toNat % 8) }

def execWbr (c : CWord) (s : State) : Result := checked (.wbr c) s fun s => s.maintain c 0
def execInvL1 (c : CWord) (s : State) : Result := checked (.invL1 c) s fun s => s.maintain c 1
def execInvHome (c : CWord) (s : State) : Result := checked (.invHome c) s fun s => s.maintain c 2

end Sys2Proof.Machine
end

