-- ==== Sys2Proof/Machine/Atomics.lean ====
section
/-! DEFINITION. Atomics (R169, R251-R253): the new value of each function, and the accesses that stand alone. -/

namespace Sys2Proof.Machine

/-- The new value of an atomic over `8 * n` bits (R251); the FP32 sum rounds to nearest even and sets no flag. -/
def atomNew (fn : AtomFn) (n : Nat) (old v cmp : Word) : Word :=
  let w := 8 * n
  let o := old.toNat % 2 ^ w
  let x := v.toNat % 2 ^ w
  BitVec.ofNat 64 <|
    match fn with
    | .add => (o + x) % 2 ^ w
    | .and => o &&& x
    | .or => o ||| x
    | .xor => o ^^^ x
    | .min => if Bits.sext o w ≤ Bits.sext x w then o else x
    | .max => if Bits.sext o w ≤ Bits.sext x w then x else o
    | .minu => if o ≤ x then o else x
    | .maxu => if o ≤ x then x else o
    | .swap => x
    | .cas => if o = cmp.toNat % 2 ^ w then x else o
    | .fadd => (floatAdd ⟨0, false, false⟩ (BitVec.ofNat 32 o) (BitVec.ofNat 32 x)).1.toNat

/-- The fields of word 1 (R251). -/
structure AtomArgs where
  imm : Word
  km : BitVec 3
  cr : BitVec 5
  vr : BitVec 5
  vt : Nat
  size : Nat
  scope : Nat
  deriving DecidableEq, Repr

def atomArgs (e : Ext) : AtomArgs :=
  let w := e.word1
  { imm := (w.extractLsb' 20 12).signExtend 64, km := w.extractLsb' 17 3, cr := w.extractLsb' 12 5,
    vr := w.extractLsb' 7 5, vt := Bits.get w.toNat 6 5, size := if Bits.get w.toNat 4 3 = 0 then 4 else 8,
    scope := Bits.get w.toNat 2 0 }

/-- The value operand in lane `i`. -/
def State.atomValue (s : State) (a : AtomArgs) (i : Nat) : Word :=
  match a.vt with
  | 0 => ((s.readV a.vr)[i]?.getD 0).setWidth 64
  | 1 => s.readS a.vr
  | 2 => s.readCb a.vr
  | _ => a.imm

/-- Whether an order releases and whether it acquires (R169). -/
def ordRel (msk : BitVec 2) : Bool := msk.getLsbD 1
def ordAcq (msk : BitVec 2) : Bool := msk.getLsbD 0

/-- The old value, sign-extended from its width (R252). -/
def atomOld (n : Nat) (bytes : List Byte) : Word := sextBytes n (BitVec.ofNat 64 (Bytes.toNat bytes))

/-- One element's atomic: performed with its old value, at a page with O = 1 or elsewhere, under way, waiting for a copy of its page (R296), or not performed. -/
inductive AtomGot where
  | old (w : Word)
  | strong (w : Word)
  | sent
  | waits
  | locked
  | need
  | fault (f : FaultInfo)
  deriving DecidableEq, Repr

namespace State

/-- A write that has been performed reaches the other strands of its die (R156, R289). -/
def wrote (s : State) (sectors : List Nat) : State :=
  s.broadcast (dieOf s.cur.core) s.cur (sigOf s.me.part sectors)

/-- One atomic at `va`, performed where its bytes live (R162, R163, R127): in the own store at once, at a page with
O = 1 at once, elsewhere by a request whose answer lets the bundle go on. -/
def atomElement (s : State) (f : Form) (fn : AtomFn) (lane va : Nat) (v cmp : Word) : AtomGot × State :=
  let asked (s : State) : State := s.updMe fun t => { t with received := .sent lane (BitVec.ofNat 64 va) :: t.received }
  match s.receivedElement lane va with
  | some w =>
    (match s.place f va, s.lookCached va f.size .atomic with
     | .ok .cached, .strong _ => .strong w
     | _, _ => .old w, s)
  | none =>
    match s.receivedFault va, s.askedElement lane va with
    | some x, _ => (.fault (f.dress va x), s)
    | none, true => (.sent, s)
    | none, false =>
      match s.place f va with
      | .error x => (.fault x, s)
      | .ok (.scratch off _ _) =>
        let old := atomOld f.size (memLoad s.myCore.store off f.size)
        let s1 := (s.writeStore s.cur.core off (Bytes.ofNat f.size (atomNew fn f.size old v cmp).toNat)).wrote [scratchVa (off / 32 * 32)]
        (.old old, s1.updMe fun t => { t with received := .element lane (BitVec.ofNat 64 va) old :: t.received })
      | .ok (.remote core) =>
        (.sent, (asked s).emitNet (4 + travelCores s.cur.core core)
          (.remoteAtomicAtTarget { who := s.cur, part := s.me.part, target := core, va := BitVec.ofNat 64 va,
                                   size := f.size, lane := lane, fn := fn, val := v, cmp := cmp }))
      | .ok .cached =>
        match s.lookCached va f.size .atomic with
        | .held _ g =>
          let home := s.homeOf s.me.part va
          (.sent, (asked s).emitOrdered (.spine (dieOf s.cur.core) home) (toSlice (quireOf s.cur.core) home)
            (.homeRequest { who := s.cur, part := s.me.part, ctx := s.me.ctx, priv := privOf s.pre.flags,
                            die := dieOf s.cur.core, va := BitVec.ofNat 64 va,
                            op := .atomic fn f.size lane v cmp g, edition := s.myCore.edition, task := s.me.task,
                            start := s.me.startedAt }))
        | .strong g =>
          let pa := g.frame + va % 256
          if f.vec then (.fault (f.fault .strongMisuse va), s)
          else if s.homePackage s.me.part va ≠ s.pkgid then
            (.sent, (asked s).toFabric (.request (s.homePackage s.me.part va)
              { who := s.cur, part := s.me.part, ctx := s.me.ctx, priv := privOf s.pre.flags, die := dieOf s.cur.core, va := BitVec.ofNat 64 va,
                op := .atomic fn f.size lane v cmp g, edition := s.myCore.edition, task := s.me.task, start := s.me.startedAt }))
          else if pa ≥ Config.engineFrame then (.fault (f.fault .permission va), s)
          else if s.lockedLine s.me.part va then (.locked, s)
          else
            let r := s.strongRead pa f.size
            let old := sextBytes f.size r.2
            match r.1.cowDefer (r.1.strongWrite va [] g) with
            | some s1 => (.waits, s1.updMe fun t => { t with unackedMaint := t.unackedMaint + 1 })
            | none => (.strong old, r.1.performWrite (r.1.strongWrite va (Bytes.ofNat f.size (atomNew fn f.size old v cmp).toNat) g))
        | .miss => (.need, s)
        | .fault x => (.fault (f.dress va x), s)

/-- What an atomic waits for before it is performed (R162, R169): earlier chunks, then its release. -/
def beforeAtom (s : State) (msk : BitVec 2) (scope : Nat) (k : State → State) : State :=
  if !s.aloneNow then s.waitAlone
  else if ordRel msk && !s.releaseDone s.cur scope then s.stall (.release scope .go)
  else k s

def afterAtom (s : State) (msk : BitVec 2) (scope : Nat) (strong : Bool) : State :=
  let s1 := if strong then s.advance.thenStrong else s.advance.thenAlone
  if ordAcq msk then s1.acquire s.cur.core scope else s1

end State

def atomForm (size : Nat) (vec : Bool) : Form :=
  { acc := .atomic, size := size, decodes := false, syncs := false, remote := true, vec := vec }

/-- `atom` (R252). -/
def atomOf (i : Instr) (c : CWord) (fn : AtomFn) (s : State) : Result :=
  checkedAfter (fun s => if c.ta = .cb then none else faultOf (s.place (atomForm (atomArgs c.ext).size false) (s.opA c).toNat)) i s fun s =>
    let a := atomArgs c.ext
    let f := atomForm a.size false
    let va := (s.opA c).toNat
    match s.place f va with
    | .error x => s.raise x
    | .ok _ =>
      s.beforeAtom c.msk a.scope fun s =>
        match s.atomElement f fn 0 va (s.atomValue a 0) (s.readS a.cr) with
        | (.old w, s1) => (s1.writeS c.d w).afterAtom c.msk a.scope false
        | (.strong w, s1) => (s1.writeS c.d w).afterAtom c.msk a.scope true
        | (.sent, s1) => s1.stall (.asleep .remote)
        | (.waits, s1) => (s1.updMe fun t => { t with received := [] }).stall .maintained
        | (.locked, s1) => s1.stall (.untilCycle (s1.now + 1))
        | (.need, s1) => s1.requestLine va .atomic
        | (.fault x, s1) => s1.raise x

/-- The lanes of a `vatom` in ascending order (R253): the old values, or what stops at a lane. -/
def State.atomLanes (f : Form) (fn : AtomFn) (a : AtomArgs) : List (Fin 32 × Nat) → State → AtomGot × Nat × Fin 32 × State
  | [], s => (.old 0, 0, 0, s)
  | (i, va) :: r, s =>
    match s.atomElement f fn i.val va (s.atomValue a i.val) 0 with
    | (.old _, s1) | (.strong _, s1) => State.atomLanes f fn a r s1
    | (g, s1) => (g, va, i, s1)

/-- The old values that lanes have received, and which lanes those are. -/
def State.oldLanes (s : State) (todo : List (Fin 32 × Nat)) : VReg × W32 :=
  let got := todo.filterMap fun l => (s.receivedElement l.1.val l.2).map fun w => (l.1, w)
  (lanes fun i => ((got.find? fun g => g.1 == i).map fun g => g.2.setWidth 32).getD 0, maskOf (got.map (·.1)))

/-- `vatom` (R253): a fault leaves the lanes below it performed (R406). -/
def vatomOf (i : Instr) (c : CWord) (fn : AtomFn) (s : State) : Result :=
  let a := atomArgs c.ext
  let f := atomForm 4 true
  let mask := s.readK a.km
  let todo := laneAddresses (s.undone mask) (s.indexAddress (s.readS a.cr) c.a 2)
  let check := vectorCheck s.myCore { f := f, run := false, base := 0, mask := mask } todo
  let lowest := todo.head?.bind fun l => faultOf (s.place f l.2)
  checkedAfter (fun s => (check.orElse fun _ => lowest).map fun x => { x with vec := true, lanes := ~~~mask ||| s.me.doneLanes }) i s fun s =>
    match check with
    | some x => s.raiseVec mask x
    | none =>
      s.beforeAtom c.msk a.scope fun s =>
        match State.atomLanes f fn a todo s with
        | (.old _, _, _, s1) | (.strong _, _, _, s1) =>
          let r := s1.oldLanes todo
          (s1.writeV c.d r.1 (s.undone mask)).afterAtom c.msk a.scope false
        | (.sent, _, _, s1) => s1.stall (.asleep .remote)
        | (.waits, _, _, s1) => s1.stall .maintained
        | (.locked, _, _, s1) => s1.stall (.untilCycle (s1.now + 1))
        | (.need, va, _, s1) => s1.requestLine va .atomic
        | (.fault x, _, _, s1) =>
          let r := s1.oldLanes todo
          (s1.partlyLoad c.d r.1 r.2 []).raiseVec mask x

def execAtomAdd (c : CWord) (s : State) : Result := atomOf (.atomAdd c) c .add s
def execAtomAnd (c : CWord) (s : State) : Result := atomOf (.atomAnd c) c .and s
def execAtomOr (c : CWord) (s : State) : Result := atomOf (.atomOr c) c .or s
def execAtomXor (c : CWord) (s : State) : Result := atomOf (.atomXor c) c .xor s
def execAtomMin (c : CWord) (s : State) : Result := atomOf (.atomMin c) c .min s
def execAtomMax (c : CWord) (s : State) : Result := atomOf (.atomMax c) c .max s
def execAtomMinu (c : CWord) (s : State) : Result := atomOf (.atomMinu c) c .minu s
def execAtomMaxu (c : CWord) (s : State) : Result := atomOf (.atomMaxu c) c .maxu s
def execAtomSwap (c : CWord) (s : State) : Result := atomOf (.atomSwap c) c .swap s
def execAtomCas (c : CWord) (s : State) : Result := atomOf (.atomCas c) c .cas s
def execAtomFadd (c : CWord) (s : State) : Result := atomOf (.atomFadd c) c .fadd s
def execVatomAdd (c : CWord) (s : State) : Result := vatomOf (.vatomAdd c) c .add s
def execVatomAnd (c : CWord) (s : State) : Result := vatomOf (.vatomAnd c) c .and s
def execVatomOr (c : CWord) (s : State) : Result := vatomOf (.vatomOr c) c .or s
def execVatomXor (c : CWord) (s : State) : Result := vatomOf (.vatomXor c) c .xor s
def execVatomMin (c : CWord) (s : State) : Result := vatomOf (.vatomMin c) c .min s
def execVatomMax (c : CWord) (s : State) : Result := vatomOf (.vatomMax c) c .max s
def execVatomMinu (c : CWord) (s : State) : Result := vatomOf (.vatomMinu c) c .minu s
def execVatomMaxu (c : CWord) (s : State) : Result := vatomOf (.vatomMaxu c) c .maxu s
def execVatomSwap (c : CWord) (s : State) : Result := vatomOf (.vatomSwap c) c .swap s
def execVatomFadd (c : CWord) (s : State) : Result := vatomOf (.vatomFadd c) c .fadd s

end Sys2Proof.Machine
end

