-- ==== Sys2Proof/Machine/Starts.lean ====
section
/-! DEFINITION. Strands that start, end and leave (R49-R58, R81, R89), and what hardware reads of a context's memory. -/

namespace Sys2Proof.Machine

/-! ## Slots -/

/-- Low slots reserved for epilogue strands (R58, R65). -/
def epiReserved (c : Core) : Nat := min 4 (Bits.get c.coresched.toNat 10 8)

/-- Free low slots, ascending, that neither EPIRSV nor a spawn has reserved (R52, R58). -/
def lowFree (c : Core) : List Nat := (List.range (12 - epiReserved c)).filter fun n => !has n c.slots && !c.reserved.contains n

/-- The free unreserved low slot that a task takes (R330). -/
def lowStart (c : Core) : Option Nat := (lowFree c).head?

/-- A free high slot. -/
def highStart (c : Core) : Option Nat := [12, 13, 14, 15].find? fun n => !has n c.slots

/-- A slot for an epilogue strand: a reserved one first, then any free low slot (R58). -/
def epilogueStart (c : Core) : Option Nat :=
  (((List.range (epiReserved c)).map fun j => 11 - j).find? fun n => !has n c.slots && !c.reserved.contains n).orElse fun _ => lowStart c

/-- A row's new phase. -/
def Drain.setRow (n : Nat) (p : RowPhase) (d : Drain) : Drain :=
  { d with rows := d.rows.zipIdx.map fun (r, j) => if j = n then { r with phase := p } else r }

/-- A row's strand has started, as a task. -/
def Drain.startRow (n task : Nat) (d : Drain) : Drain :=
  { d with rows := d.rows.zipIdx.map fun (r, j) => if j = n then { r with phase := .running, task := task } else r }

/-- A strand goes on with other registers at the start of a chunk; where they name another constant window, it is copied (R81, R212). -/
def Strand.withFlags (t : Strand) (regs : Regs) : Strand :=
  { t with regs := regs, opened := { t.opened with check := regs }
           copy := if cbselOf regs.flags = cbselOf t.regs.flags then t.copy else .wanted }

/-- The rows of a DRAIN that have landed, counted from the first: the PROG of its status (R263). -/
def Drain.landed (d : Drain) : Nat := (d.rows.findIdx? fun r => r.phase != .landed).getD d.rows.length

namespace State

/-! ## Memory that hardware reads for a context -/

/-- Bytes of one line as a unit of the package reads them at their home. -/
def unitReadLine (s : State) (part ctx : Nat) (priv : Bool) (va n : Nat) : State × Except FaultInfo (List Byte) :=
  if s.homeMoved part va then (s, .error { code := .homeMoved, va := BitVec.ofNat 64 va })
  else match s.unitLine { part := part, ctx := ctx, va := va, acc := .load, priv := priv } with
  | (s1, _, .error f) => (s1, .error f)
  | (s1, _, .ok (line, g)) =>
    if strong g.rights then (s1, .error { code := .strongMisuse, va := BitVec.ofNat 64 va })
    else (s1, .ok (overlay (s1.unitOverlay part) va ((line.drop (va % 256)).take n)))

/-- Bytes of a context's memory as a unit of the package reads them, line by line (R25, R31, R69). -/
def unitRead (s : State) (part ctx va n : Nat) : State × Except FaultInfo (List Byte) :=
  let go := (List.range (n / 256 + 2)).foldl (fun (acc : State × Except FaultInfo (List Byte)) _ =>
    match acc with
    | (s, .error f) => (s, .error f)
    | (s, .ok b) =>
      if n ≤ b.length then (s, .ok b)
      else
        let a := va + b.length
        match s.unitReadLine part ctx true a (min (n - b.length) (256 - a % 256)) with
        | (s1, .error f) => (s1, .error f)
        | (s1, .ok b') => (s1, .ok (b ++ b'))) (s, .ok [])
  go

def unitWord (s : State) (part ctx va n : Nat) : State × Except FaultInfo Nat :=
  match s.unitRead part ctx va n with
  | (s1, .error f) => (s1, .error f)
  | (s1, .ok b) => (s1, .ok (Bytes.toNat b))

/-- A write of a unit is performed, and every copy of its line has its invalidation at once: the unit goes on when they are delivered (R174-R177). -/
def unitPerform (s : State) (w : CowWrite) : State :=
  ((s.performWrite w).podRecall w.part (w.va.toNat / 256) none).invalidateNow w.part (w.va.toNat / 256)

/-- Bytes of one line written at its home by a unit of the package, whose walk gives the line; the write carries an edition (R296). -/
def unitWriteLine (s : State) (part ctx : Nat) (priv : Bool) (edition : W32) (va : Nat) (data : List Byte) : State × Except FaultInfo Unit :=
  if s.homeMoved part va then (s, .error { code := .homeMoved, va := BitVec.ofNat 64 va, isWrite := true })
  else match s.unitLine { part := part, ctx := ctx, va := va, acc := .store, priv := priv } with
  | (s1, _, .error f) => (s1, .error f)
  | (s1, _, .ok (_, g)) =>
    if strong g.rights then (s1, .error { code := .strongMisuse, va := BitVec.ofNat 64 va })
    else
      let w : CowWrite := { kind := .unit, who := ⟨0, 0⟩, task := 0, start := 0, part := part, ctx := ctx, va := BitVec.ofNat 64 va,
                            data := data, edition := edition, g := g }
      match s1.cowDefer w with
      | some s2 => (s2, .ok ())
      | none => (s1.unitPerform w, .ok ())

/-- Bytes written by a unit of the package, line by line, in an edition. -/
def unitWriteIn (s : State) (edition : W32) (part ctx va : Nat) (data : List Byte) : State × Except FaultInfo Unit :=
  (List.range (data.length + 1)).foldl (fun acc _ =>
    match acc with
    | ((s, .error f), _, _) => ((s, .error f), 0, [])
    | ((s, .ok ()), a, rest) =>
      if rest.isEmpty then ((s, .ok ()), a, rest)
      else
        let n := min rest.length (256 - a % 256)
        (s.unitWriteLine part ctx true edition a (rest.take n), a + n, rest.drop n)) ((s, .ok ()), va, data) |>.1

/-- Bytes written by a unit of the package in the partition's edition. -/
def unitWrite (s : State) (part ctx va : Nat) (data : List Byte) : State × Except FaultInfo Unit :=
  s.unitWriteIn (s.partition part).edition part ctx va data

/-- A class entry (R24), read at CLSTAB.BASE + 64·class. -/
def classEntry (s : State) (part ctx cls : Nat) : State × Except FaultInfo ClassEntry :=
  match s.unitRead part ctx ((s.context part ctx).clsTab.toNat + 64 * cls) 64 with
  | (s1, .error f) => (s1, .error f)
  | (s1, .ok b) =>
    let f (o n : Nat) : Nat := Bytes.toNat ((b.drop o).take n)
    (s1, .ok
      { code := BitVec.ofNat 64 (f 0 8), codeLim := BitVec.ofNat 32 (f 8 4), nTypes := BitVec.ofNat 16 (f 12 2),
        stLines := BitVec.ofNat 8 (f 14 1), attr := BitVec.ofNat 8 (f 15 1), pinCore := BitVec.ofNat 16 (f 16 2),
        ctor := BitVec.ofNat 32 (f 20 4), hTab := BitVec.ofNat 64 (f 24 8), recDir := BitVec.ofNat 64 (f 32 8),
        recPool := BitVec.ofNat 64 (f 40 8), budget := BitVec.ofNat 32 (f 48 4), dirLog := BitVec.ofNat 8 (f 52 1),
        cbank := BitVec.ofNat 64 (f 56 8), resZero := f 18 2 == 0 && f 53 3 == 0 && Bits.get (f 15 1) 7 4 == 0 })

/-! ## The constant buffer (R81) -/

def windowVa (t : Strand) : Nat := (t.cbank + (cbselOf t.regs.flags).setWidth 64 * 256).toNat

/-- What waits in a core for a line asks for it again: its fill is no longer under way. -/
def refill (s : State) (core part line : Nat) : State :=
  s.updCore core fun c =>
    { c with
      fills := c.fills.filter fun k => k != (part, line)
      slots := c.slots.map fun e => (e.1,
        if e.2.part ≠ part then e.2
        else { e.2 with
          wait := if e.2.wait = .asleep (.fill line) then .ready else e.2.wait
          copy := if e.2.copy = .asked && windowVa e.2 / 256 == line then .wanted else e.2.copy
          pending := e.2.pending.map fun p => if p.line = line && !p.ready then { p with ready := true } else p }) }

def words64 (bytes : List Byte) : List Word :=
  (List.range 32).map fun j => BitVec.ofNat 64 (Bytes.toNat ((bytes.drop (8 * j)).take 8))

def copied (s : State) (r : Ref) (bytes : List Byte) : State :=
  s.updStrand r fun t => { t with cbuf := words64 bytes, copy := .present }

def copyFault (s : State) (r : Ref) (c : EventCode) (va : Nat) : State :=
  s.updStrand r fun t => { t with copy := .faulted { code := c, va := BitVec.ofNat 64 va, info := accessInfo 256 va } }

/-- The lanes under which the words of a constant window in another core's store come back. -/
def copyLane (n : Nat) : Nat := 64 + n

/-- The copy waits for the sectors of a window-7 window in the own store (R81, R122). -/
def copyWaits (s : State) (r : Ref) (t : Strand) : Bool :=
  let va := windowVa t
  inAperture va && apWindow va == 7 && apSel va == 0xFFF && va % 256 == 0 && inScratch (s.core r.core) (apOff va) 256 &&
    !((sectorsOf (apOff va) 256).all fun a => { s with cur := r }.sectorFull (a / 32))

/-- The copy of a strand's constant window starts: a 256-byte load by the strand. -/
def copyStart (s : State) (r : Ref) : State :=
  let t := s.strand r
  let c := s.core r.core
  let va := windowVa t
  let off := apOff va
  if va / 2 ^ 57 ≠ 0 then s.copyFault r .notPresent va
  else if va % 256 ≠ 0 then s.copyFault r .misalignedData va
  else if inAperture va then
    if (apWindow va ≠ 0 && apWindow va ≠ 7) || va.testBit 19 || apNib va ≠ 0 then s.copyFault r .aperture va
    else if apSel va = 0xFFF then
      if !inScratch c off 256 then s.copyFault r .aperture va
      else if !((sectorsOf off 256).all fun a =>
          protectionOk c (some t.part) t.part (a / 32) false true false) then s.copyFault r .protection va
      else if s.copyWaits r t then s
      else s.copied r (memLoad (s.storeView r) off 256)
    else if s.owner (quireOf (apSel va)) = some t.part then
      (s.updStrand r fun t => { t with copy := .remote [] }).emitNet (4 + travelCores r.core (apSel va))
        (.remoteLoadAtTarget { who := r, part := t.part, target := apSel va, size := 8, scaleOff := 0, wait := apWindow va == 7,
                               elems := (List.range 32).map fun n => (copyLane n, BitVec.ofNat 64 (va + 8 * n)) })
    else s.copyFault r .aperture va
  else if s.homeMoved t.part va then s.copyFault r .homeMoved va
  else
    match c.l1.find? fun l => l.part == t.part && l.line == va / 256 && l.valid.length == 8 &&
        rightsOk .load (privOf t.regs.flags) l.g.rights with
    | some l => (s.copied r (overlay (ownCached t) va (memLoad l.data 0 256))).useLines r [va]
    | none =>
      let s1 := s.updStrand r fun t => { t with copy := .asked }
      if c.fills.contains (t.part, va / 256) then s1
      else
        (s1.updCore r.core fun c => { c with fills := (t.part, va / 256) :: c.fills }).emitNet (toSlice (quireOf r.core) (s.homeOf t.part va))
          (.homeRequest { who := r, part := t.part, ctx := t.ctx, priv := privOf t.regs.flags, die := dieOf r.core,
                          va := BitVec.ofNat 64 va, op := .need .load, edition := c.edition, task := t.task, start := t.startedAt })

/-- A word of a constant window in another core's store has come back, or its target has refused it (R81, R127). -/
def copyWord (s : State) (r : Ref) (lane : Nat) (va : Word) (res : RemoteAnswer) : State :=
  let t := s.strand r
  match t.copy, res with
  | .remote got, .value w =>
    if va.toNat ≠ windowVa t + 8 * (lane - 64) then s
    else
      let all := (lane - 64, w) :: got
      if all.length < 32 then s.updStrand r fun t => { t with copy := .remote all }
      else s.updStrand r fun t => { t with cbuf := (List.range 32).map fun n => look 0 n all, copy := .present }
  | .remote _, .fault f => s.copyFault r f.code (windowVa t)
  | _, _ => s

/-! ## Starting a strand (R51, R89) -/

def launchFlags (l : Launch) : Word :=
  (l.cbsel.setWidth 64 <<< 24) ||| (if l.ctx = 0 then 0x10000 else 0) ||| (l.sticky &&& 0x7F0) ||| l.rm.setWidth 64

def launchRegs (l : Launch) : Regs :=
  l.vregs.foldl (fun r v => r.setV (BitVec.ofNat 5 v.1) v.2 (BitVec.allOnes 32))
    { Regs.zero with s := Vector.ofFn fun i => l.regs.getD i.val 0, flags := launchFlags l, pc := l.pc }

/-- A strand starts in a slot; its first bundle issues no earlier than `delay` cycles from now. DESIGN CHOICE (log 88): JOBLAST starts at 0 for a strand
that arrives by `migr` too, whose image does not carry it (R76, R90). -/
def begin_ (s : State) (r : Ref) (l : Launch) (delay : Nat) : State :=
  let regs := launchRegs l
  let t : Strand :=
    { Strand.none with
      part := l.part, ctx := l.ctx, kind := l.kind, regs := regs, keyLo := l.keyLo, keyHi := l.keyHi,
      clsType := l.clsType, msg := l.msg, state := l.state, budget := l.budget, budgetAt := s.now, counted := l.counted,
      budgetStart := l.classBudget, cbank := l.cbank, copy := .wanted, code := l.code, codeLim := l.codeLim,
      task := l.task, startedAt := s.ids, counter := l.counter, row := l.rows, wait := .untilCycle (s.now + delay),
      opened := Chunk.empty (s.ids + 1) regs 0 }
  let s1 := ((s.setStrand r t).fresh).fresh.copyStart r
  if l.counted then s1.emit l.budget.toNat (.budgetOverrun r s.ids) else s1

/-! ## Tasks (R50, R57) -/

/-- Writes of a task that their homes or targets have not acknowledged (R71). -/
def taskUnacked (s : State) (n : Nat) : Bool :=
  (s.task n).unacked != 0 || s.cores.any fun c => c.2.journal.any fun e => e.2.task == n && !e.2.refused

/-- Writes that a strand has committed are not known to be at their homes and targets, its non-temporal stores apart (R174, R321): those of the strand
while it holds its slot, and those of its task when it has gone. -/
def writesOut (s : State) (r : Ref) (start task : Nat) : Bool :=
  let t := s.strand r
  (if s.occupied r && t.startedAt == start then t.unackedWrites != 0 else (s.task task).unacked != (s.task task).nontemporal) ||
    (s.core r.core).journal.any fun e => e.2.startedAt == start && !e.2.refused && !((t.closed ++ [t.opened]).map (·.id)).contains e.2.chunk

/-- A new task with one strand; its number is `s.ids` before the call. -/
def newTask (s : State) (t : Task) : State :=
  ({ s with tasks := put s.ids { t with live := 1 } s.tasks }).fresh

/-- A strand of a task has ended or left (R49, R50): with the last one the task ends. -/
def leaveTask (s : State) (n : Nat) : State :=
  let t := s.task n
  let s1 := s.updTask n fun t => { t with live := t.live - 1 }
  if t.live ≤ 1 then s1.emit 0 (.taskEnd n) else s1

/-- What a refused posted store leaves of a strand that has gone (R411). -/
def refusalEvent (s : State) (core part ctx : Nat) (va info : Word) : State :=
  s.report part (some ctx) EventCode.remoteRefused.byte 1 core info (Bytes.ofNat 8 va.toNat)

/-- A strand goes with refusals that it has not reported: their event records are written, and their journal entries are free (R411). -/
def leaveRefusals (s : State) (r : Ref) : State :=
  let t := s.strand r
  (t.asyncFaults.filter (·.async)).foldl (fun (s : State) f =>
    (s.updCore r.core fun c => { c with journal := drop f.jidx c.journal }).refusalEvent r.core t.part t.ctx f.va f.info) s

/-- The slot is free again and its reply serial rises (R304). DESIGN CHOICE (log 88): rows of a DRAIN are offered it before messages and
descriptors, of which R54 and R58 give no order. -/
def vacate (s : State) (r : Ref) : State :=
  ((((s.leaveRefusals r).freeSlot r).offerRows r.core).updCore r.core fun c => { c with serials := put r.slot ((look 0 r.slot c.serials + 1) % 32) c.serials }).offerQuire r.core

/-- A strand ends (R50, R207). -/
def endStrandNow (s : State) (r : Ref) : State :=
  let t := s.strand r
  let s1 :=
    match t.row with
    | some (q, n) =>
      (s.updEngine q 0 fun e => { e with drain := e.drain.map (Drain.setRow n (.ended (t.regs.getV 31))) }).emit 0
        (.drainRowOutput q)
    | none => s
  (s1.vacate r).leaveTask t.task

end State

end Sys2Proof.Machine
end

