-- ==== Sys2Proof/Machine/Control.lean ====
section
/-! DEFINITION. Branches, loops, and the instructions that end, yield, trap, fork, join and migrate (R204-R213). -/

namespace Sys2Proof.Machine

namespace State

/-- The target pc + 8·off (R201). -/
def target (s : State) (c : CWord) : Word := s.bpc + CWord.off c * 8

/-- A taken branch: the target issues no earlier than the second cycle after it (R205). -/
def jumpTo (s : State) (pc : Word) : State := (s.retire pc).after 2

def branchIf (s : State) (c : CWord) (taken : Bool) : State := if taken then s.jumpTo (s.target c) else s.advance

end State

def execJmp (c : CWord) (s : State) : Result := checked (.jmp c) s fun s => s.jumpTo (s.target c)

def execJal (c : CWord) (s : State) : Result :=
  checked (.jal c) s fun s => (s.writeS c.d (s.bpc + 8)).jumpTo (s.target c)

def execJr (c : CWord) (s : State) : Result :=
  checked (.jr c) s fun s =>
    let a := s.opA c
    if a.toNat % 8 ≠ 0 then s.raise { code := .misalignedFetch, va := a, isFetch := true }
    else (s.writeS c.d (s.bpc + 8)).jumpTo a

def execBz (c : CWord) (s : State) : Result := checked (.bz c) s fun s => s.branchIf c (s.opA c == 0)
def execBnz (c : CWord) (s : State) : Result := checked (.bnz c) s fun s => s.branchIf c (s.opA c != 0)

def execBkany (c : CWord) (s : State) : Result :=
  checked (.bkany c) s fun s => s.branchIf c (s.readK (c.d.setWidth 3) != 0)

def execBkall (c : CWord) (s : State) : Result :=
  checked (.bkall c) s fun s => s.branchIf c (s.readK (c.d.setWidth 3) == BitVec.allOnes 32)

def execLoop (c : CWord) (s : State) : Result :=
  checked (.loop c) s fun s =>
    let t := s.readS c.d - 1
    (s.writeS c.d t).branchIf c (t != 0)

/-! ## Ending, yielding and trapping (R207, R208) -/

/-- The chunk ends after the bundle and the strand issues nothing more before it commits. -/
def State.finish (s : State) (h : Held) : State :=
  (((s.hold h).advance).thenEnd).updMe fun t => { t with wait := .committed }

def execEndStrand (c : CWord) (s : State) : Result := checked (.endStrand c) s fun s => s.finish .endStrand

/-- `yield` (R61): the round-robin pointer already moves past a strand that issues. -/
def execYield (c : CWord) (s : State) : Result := checked (.yield c) s fun s => s.advance

def execTrap (c : CWord) (s : State) : Result :=
  checked (.trap c) s fun s => s.raise { code := .trap c.b, info := c.b.setWidth 64 }

/-! ## Fork and join (R209-R212) -/

namespace State

/-- A join counter (R209): 8 bytes of own scratch through window 0. -/
def counterPlace (s : State) (va : Nat) : Except FaultInfo Nat :=
  let f := fullForm .load false
  if va / 2 ^ 57 = 0 && va % 8 = 0 && !inAperture va then .error (f.fault .aperture va)
  else
    match s.place f va with
    | .error x => .error x
    | .ok (.scratch off _ _) =>
      if s.ownProtection .atomic off 8 then .ok off else .error (f.fault .protection va)
    | .ok _ => .error (f.fault .aperture va)

/-- A strand that R399 lets neither fork nor migrate. -/
def isBound (t : Strand) : Bool := t.kind == .epilogue || t.kind == .checkpoint

/-- What a descriptor of the deque holds (R53, R209). -/
def descriptor (s : State) (pc : Word) (off : Nat) : Desc :=
  let t := s.me
  { pc := pc, regs := s.pre.s.toList.take 14, flags := s.pre.flags, budget := t.budgetNow s.now, counted := t.counted && !t.spent,
    classBudget := t.budgetStart, task := t.task, clsType := t.clsType, msg := t.msg, state := t.state, keyLo := t.keyLo,
    keyHi := t.keyHi, part := t.part, ctx := t.ctx, code := t.code, codeLim := t.codeLim, cbank := t.cbank,
    counter := (s.cur.core, off) }

/-- The counter as the strand's chunk sees it (R160). -/
def counterValue (s : State) (off : Nat) : Word := BitVec.ofNat 64 (Bytes.toNat (s.scratchBytes off 8))

/-- The joiner takes its child's pc and registers (R212); its sticky bits and SCALEBASE start at 0 (R89). DEDUCED (log 88): the frame
that R212 saves has no SCALEBASE, so the joiner goes on with the child's. A squash puts the descriptor back. -/
def runInline (s : State) (d : Desc) : State :=
  let frame : Frame := { s := s.me.regs.s, flags := s.me.regs.flags, pc := s.bpc, counter := s.me.counter }
  let regs : Regs :=
    { s.me.regs with
      s := Vector.ofFn fun i =>
        if i.val < 14 then d.regs.getD i.val 0 else if i.val = 14 then BitVec.ofNat 64 s.cur.core else 0
      pc := d.pc, flags := d.flags &&& ~~~0x7F0#64 }
  ((s.updMyCore fun c => { c with deque := c.deque.dropLast }).updMe fun t =>
    { t.withFlags regs with frames := frame :: t.frames, counter := some d.counter, scaleBase := 0, wait := .untilCycle (s.now + 1), received := []
                            opened := { t.opened with held := t.opened.held ++ [.pop d] } }).updTask d.task
      fun k => { k with live := k.live - 1 }

end State

def execFork (c : CWord) (s : State) : Result :=
  checked (.fork c) s fun s =>
    if State.isBound s.me then s.raiseCode .reservedField
    else
      match s.counterPlace (s.opA c).toNat with
      | .error x => s.raise x
      | .ok off =>
        let k := s.myCore
        if k.deque.length + k.dequeReserved < 32 then
          let s1 := (s.updMyCore fun k => { k with dequeReserved := k.dequeReserved + 1 }).hold
            (.fork off (s.descriptor (s.target c) off))
          ((s1.noteWrites [scratchVa (off / 32 * 32)]).writeS c.d 0).advance
        else (s.writeS c.d 1).advance

/-- `join` (R55, R210): the counter is read again after every wake; a child at the bottom of the own deque is run in
the same slot, and the strand sleeps otherwise. -/
def execJoin (c : CWord) (s : State) : Result :=
  checked (.join c) s fun s =>
    match s.counterPlace (s.opA c).toNat with
    | .error x => s.raise x
    | .ok off =>
      if s.counterValue off = 0 then (s.noteReads [scratchVa (off / 32 * 32)]).advance
      else
        match s.myCore.deque.getLast? with
        | some d =>
          if d.counter = (s.cur.core, off) && s.me.frames.length < 4 then { s.runInline d with issue := .goes }
          else s.sleepOn (.counter off)
        | none => s.sleepOn (.counter off)

/-- `jend` (R211): the decrement is the last effect of the final chunk. -/
def execJend (c : CWord) (s : State) : Result :=
  checked (.jend c) s fun s =>
    match s.me.counter with
    | none => s.finish .endStrand
    | some (core, off) =>
      let s1 := s.hold (.decrement core off)
      (if core = s.cur.core then s1.noteWrites [scratchVa (off / 32 * 32)] else s1).finish .joinEnd

/-- `migr` (R56, R57, R213). -/
def execMigr (c : CWord) (s : State) : Result :=
  checked (.migr c) s fun s =>
    let a := s.opA c
    if State.isBound s.me || !s.me.frames.isEmpty then s.raiseCode .reservedField
    else if inAperture a.toNat then
      let core := if apSel a.toNat = 0xFFF then s.cur.core else apSel a.toNat
      if s.owner (quireOf core) = some s.me.part then s.finish (.migrate a)
      else s.raise { code := .aperture, va := a, info := accessInfo 0 a.toNat }
    else if s.homeMoved s.me.part a.toNat then s.raise { code := .homeMoved, va := a }
    else s.finish (.migrate a)

end Sys2Proof.Machine
end

