-- ==== Sys2Proof/Machine/Messaging.lean ====
section
/-! DEFINITION. Message lines (R26, R27), homes of actors (R28), and the instructions that send and spawn (R214,
R215). -/

namespace Sys2Proof

/-! ## The message line (R26) -/

/-- Fields of a line's bytes. -/
def lineNat (b : List Byte) (o n : Nat) : Nat := Bytes.toNat ((b.drop o).take n)

/-- A message read from a line: payload beyond PLEN reads as zero. DESIGN CHOICE (log 88): only `send` checks PLEN (R214); a line of a host
port or of a graph node with PLEN above 28 keeps PLEN as written and is delivered with the 28 words that it has. -/
def Msg.ofLine (b : List Byte) : Msg :=
  let plen := lineNat b 23 1
  { cls := BitVec.ofNat 16 (lineNat b 0 2), type := BitVec.ofNat 8 (lineNat b 2 1), flags := BitVec.ofNat 8 (lineNat b 3 1),
    key := BitVec.ofNat 128 (lineNat b 4 16), score := BitVec.ofNat 16 (lineNat b 20 2),
    sstrand := BitVec.ofNat 8 (lineNat b 22 1), plen := BitVec.ofNat 8 plen, chseq := BitVec.ofNat 32 (lineNat b 24 4),
    edition := BitVec.ofNat 16 (lineNat b 28 2), pcx := BitVec.ofNat 16 (lineNat b 30 2),
    payload := (List.range (min plen 28)).map fun j => BitVec.ofNat 64 (lineNat b (32 + 8 * j) 8), node := 0 }

/-- The 256 bytes of a message line. -/
def Msg.line (m : Msg) : List Byte :=
  Bytes.ofNat 2 m.cls.toNat ++ [m.type, m.flags] ++ Bytes.ofNat 16 m.key.toNat ++ Bytes.ofNat 2 m.score.toNat ++
    [m.sstrand, m.plen] ++ Bytes.ofNat 4 m.chseq.toNat ++ Bytes.ofNat 2 m.edition.toNat ++ Bytes.ofNat 2 m.pcx.toNat ++
    ((m.payload.flatMap fun (w : Word) => Bytes.ofNat 8 w.toNat) ++ List.replicate 224 0).take 224

/-- The header's 32 bytes. -/
def Msg.header (m : Msg) : List Byte := m.line.take 32

def Msg.high (m : Msg) : Bool := m.flags.getLsbD 0
def Msg.bounced (m : Msg) : Bool := m.flags.getLsbD 1
def Msg.overflow (m : Msg) : Bool := m.flags.getLsbD 2
def Msg.wantsReply (m : Msg) : Bool := m.flags.getLsbD 3

/-- PCX (R26). -/
def pcxOf (part ctx serial : Nat) : BitVec 16 := BitVec.ofNat 16 (part % 32 + 32 * (ctx % 64) + 2048 * (serial % 32))

end Sys2Proof

namespace Sys2Proof.Machine

/-! ## Homes of actors (R28) -/

def mix (x m : BitVec 64) (sh : Nat) : BitVec 64 := (x ^^^ (x >>> sh)) * m

/-- The hash of R28. -/
def actorHash (part : Nat) (cls : BitVec 16) (key : BitVec 128) : BitVec 64 :=
  let x := key.extractLsb' 0 64 ^^^ key.extractLsb' 64 64 ^^^ (cls.setWidth 64 <<< 40) ^^^ (BitVec.ofNat 64 part <<< 56)
  let y := mix (mix x 0xBF58476D1CE4E5B9 30) 0x94D049BB133111EB 27
  y ^^^ (y >>> 31)

namespace State

/-- HOMELIST: the quires of a partition, ascending. -/
def homeList (s : State) (part : Nat) : List Nat :=
  (s.quires.filter fun e => e.2.owner == some part).map (·.1)

/-- The quires of a partition in a package, ascending: HOMELIST here, and what the fabric manager has set up elsewhere (R28, R29). -/
def homesIn (s : State) (pkg part : Nat) : List Nat := if pkg = s.pkgid then s.homeList part else Config.peerHomes pkg part

/-- The home package and slice of an actor; `span` is the class's SPAN. -/
def actorHome (s : State) (part : Nat) (cls : BitVec 16) (key : BitVec 128) (span : Bool) : Nat × Nat :=
  let x := (actorHash part cls key).toNat
  let p := s.partition part
  let np := p.podN.toNat % 1024
  let pkg :=
    if span && np != 0 then Bits.get (look 0 (Bits.get x 63 48 * np / 65536) p.podHome).toNat 9 0 else s.pkgid
  let list := s.homesIn pkg part
  (pkg, list.getD (Bits.get x 31 0 * list.length / 2 ^ 32) 0)

def dirIndex (part : Nat) (cls : BitVec 16) (key : BitVec 128) (dirLog : Nat) : Nat :=
  Bits.get (actorHash part cls key).toNat 63 32 % 2 ^ dirLog

/-! ## A message on its way (R41) -/

/-- The number a channel key has for a home in a package. -/
def homeKey (pkg slice : Nat) : Nat := pkg * 1024 + slice

/-- What a class's entry says (R24); of a class without a readable entry, no. -/
def classBit (s : State) (part ctx : Nat) (cls : BitVec 16) (f : ClassEntry → Bool) : State × Bool :=
  if (s.context part ctx).clsNum.toNat ≤ cls.toNat then (s, false)
  else
    match s.classEntry part ctx cls.toNat with
    | (s1, .error _) => (s1, false)
    | (s1, .ok e) => (s1, f e)

/-- A message takes the next number of its channel (R41). -/
def number (s : State) (sender : Sender) (part ctx : Nat) (edition : W32) (out : Option Nat) (m : Msg) : State × Numbered :=
  let (s1, span) := s.classBit part ctx m.cls fun e => e.attr.getLsbD 2
  let (pkg, home) := s1.actorHome part m.cls m.key span
  let k := (sender, homeKey pkg home)
  let n := ((s1.chseq.find? fun c => c.1 == k).map (·.2)).getD 0
  let s2 := { s1 with chseq := (k, (n + 1) % 2 ^ 32) :: s1.chseq.filter fun c => c.1 != k }
  (s2, { pkg := pkg, home := home, packet := { msg := { m with chseq := BitVec.ofNat 32 n }, sender := sender, part := part, ctx := ctx,
                                               edition := edition, out := out } })

/-- A numbered message travels to the home of its actor in the cycles that `cost` gives for it, and its lookup there takes 12 more (R14, R329). -/
def depart (s : State) (x : Numbered) (cost : Nat → Nat) : State :=
  if x.pkg = s.pkgid then s.emitOrdered (.message x.packet.sender x.home) (cost x.home + 12) (.messageAccept x.home x.packet)
  else
    let s1 := s.toFabric (.message x.pkg x.packet)
    match x.packet.sender, x.packet.out with
    | .core c, some j => s1.updCore c fun k => { k with outbound := drop j k.outbound }
    | _, _ => s1

/-- A message leaves its sender at once, under its channel's next number. -/
def sendMessage (s : State) (sender : Sender) (part ctx : Nat) (edition : W32) (cost : Nat → Nat) (m : Msg) : State :=
  let (s1, x) := s.number sender part ctx edition none m
  s1.depart x cost

/-- When a launch that leaves the base die after `decode` cycles reaches its home at the latest (R16; log 89). -/
def launchArrival (decode slice : Nat) : Nat := min (decode + toBase slice) 43

/-- The actor of a message is, or will be, on a core of its home quire `h`. -/
def nearHome (s : State) (a : ActorId) (h : Nat) : Bool :=
  ((s.slice h).ephs.find? fun e => e.actor == a).all fun e => e.phase == .activating || quireOf e.core == h

/-- The way of a launch from the base die to its home (R16, R37): for an actor of a LOCAL class that has not been moved off its home quire,
the plain way. -/
def launchCost (s : State) (part ctx : Nat) (m : Msg) (decode : Nat) : State × (Nat → Nat) :=
  let (s1, near) := s.classBit part ctx m.cls fun e => Bits.get e.attr.toNat 1 0 == 0
  (s1, fun h => if near && s1.nearHome ⟨part, ctx, m.cls, m.key⟩ h then decode + toBase h else launchArrival decode h)

/-- A message of a base-die unit (R27); the command processor's are launches (R16). -/
def unitMessage (s : State) (unit part ctx : Nat) (m : Msg) : State :=
  let (s1, cost) := if unit = 0x200 then s.launchCost part ctx m 0 else (s, toBase)
  s1.sendMessage (.baseUnit unit) part ctx (s.partition part).edition cost
    { m with score := BitVec.ofNat 16 unit, sstrand := 0xFE, edition := (s.partition part).edition.setWidth 16,
             pcx := pcxOf part ctx 0 }

/-! ## Lines and descriptors that instructions read (R214) -/

/-- A line or descriptor of `n` bytes: own scratch, window 0, aligned to its size. -/
def ownLine (s : State) (va n : Nat) : Except FaultInfo Nat :=
  let f : Form := { fullForm .load false with size := n }
  if va / 2 ^ 57 = 0 && va % n = 0 && !inAperture va then .error (f.fault .aperture va)
  else
    match s.place f va with
    | .error x => .error x
    | .ok (.scratch off _ _) => .ok off
    | .ok _ => .error (f.fault .aperture va)

/-- The bytes of a line, with their sectors in the read signature (R155, R398). -/
def readLine (s : State) (off n : Nat) : State × List Byte :=
  (s.noteReads ((sectorsOf off n).map scratchVa), s.scratchBytes off n)

/-- Bytes 20-31 of a message that a strand sends (R26, R214); CHSEQ is assigned at the commit. -/
def stampMsg (s : State) (r : Ref) (m : Msg) : Msg :=
  let t := s.strand r
  { m with
    flags := m.flags &&& 0xF9, score := BitVec.ofNat 16 r.core, sstrand := BitVec.ofNat 8 r.slot, chseq := 0,
    edition := (s.core r.core).edition.setWidth 16, pcx := pcxOf t.part t.ctx (look 0 r.slot (s.core r.core).serials) }

/-- Whether the partition is in the checkpoint state (R390), or returns to a cut (R299). -/
def checkpointing (s : State) (part : Nat) : Bool := (s.partition part).checkpoint || (s.partition part).restoring.isSome

/-- An outbound entry is filled (R214): the queue injects in the order of the fills (R328). -/
def fillOutbound (s : State) (core n : Nat) : State :=
  (s.updCore core fun k => { k with outbound := put n { fill := s.ids, ready := none } k.outbound }).fresh

/-- A core whose outbound queue has a committed message and has injected none in this cycle (R328). -/
def injector (s : State) : Option Nat :=
  (s.cores.find? fun e => e.2.injected != some s.now && e.2.outbound.any fun x => x.2.ready.isSome).map (·.1)

/-- The message of the entry filled first is injected (R328). -/
def inject (s : State) (core : Nat) : State :=
  let first := (s.core core).outbound.foldl (fun (b : Option (Nat × Nat × Numbered)) x =>
    match x.2.ready, b with
    | some p, some (_, f, _) => if x.2.fill < f then some (x.1, x.2.fill, p) else b
    | some p, none => some (x.1, x.2.fill, p)
    | none, b => b) none
  match first with
  | none => s
  | some (n, fill, p) =>
    (s.updCore core fun k => { k with injected := some s.now, outbound := put n { fill := fill, ready := none } k.outbound }).depart
      p fun h => 6 + travel (quireOf core) h

end State

/-- The lowest free entry of a table of `n`. -/
def freeEntry {α : Type} (n : Nat) (t : Table α) : Option Nat := (List.range n).find? fun j => !has j t

/-- `send` (R214): the line is copied into an outbound entry at issue, or waits for one under LA (R191); the message leaves at the commit. -/
def execSend (c : CWord) (s : State) : Result :=
  checked (.send c) s fun s =>
    match s.ownLine (s.opA c).toNat 256 with
    | .error x => s.raise x
    | .ok off =>
      let hdr := s.scratchBytes off 32
      let plen := lineNat hdr 23 1
      if 28 < plen || lineNat hdr 3 1 / 16 ≠ 0 then s.raiseCode .reservedField
      else
        let r := s.readLine off (32 + 8 * plen)
        let m := s.stampMsg s.cur (Msg.ofLine r.2)
        match (freeEntry 8 s.myCore.outbound).filter fun _ => !s.me.wantsKind 1 with
        | none => (r.1.wantHeld c.la [] (.outbound m)).advance
        | some n => ((r.1.fillOutbound s.cur.core n).hold (.send n m)).advance

/-- What a spawned child starts with (R51, R52, R89): its class's default BUDGET among the rest. Its task is made when it starts. -/
def State.childOf (s : State) (pc : Word) : Launch :=
  let t := s.me
  { kind := .spawn, part := t.part, ctx := t.ctx, pc := pc,
    regs := s.pre.s.toList.take 14 ++ [BitVec.ofNat 64 s.cur.core, 0], rm := s.pre.flags.setWidth 2,
    cbsel := cbselOf s.pre.flags, sticky := 0, clsType := (t.clsType >>> 8 <<< 8) ||| 0xFF, msg := 0, state := 0,
    keyLo := 0, keyHi := 0, budget := t.budgetStart, counted := t.budgetStart != BitVec.allOnes 64,
    classBudget := t.budgetStart, code := t.code, codeLim := t.codeLim, cbank := t.cbank, task := 0, high := false,
    counter := none, vregs := [], rows := none }

/-- `spawn` (R52, R215): the target is asked at issue; the child starts after the commit. -/
def execSpawn (c : CWord) (s : State) : Result :=
  checked (.spawn c) s fun s =>
    let target := (s.opA c).toNat
    if 4096 ≤ target || s.owner (quireOf target) ≠ some s.me.part then s.raiseCode .spawnTarget
    else if s.checkpointing s.me.part then (s.writeS c.d 1).advance
    else
      let child := s.childOf (s.target c)
      let tag := s.ids
      (((s.hold (.spawn tag target none child)).openWindow c.la [.s c.d]).emitNet (4 + travelCores s.cur.core target)
        (.spawnRequest s.cur tag target child)).advance

end Sys2Proof.Machine
end

