-- ==== Sys2Proof/Machine/Engines.lean ====
section
/-! DEFINITION. Jobs (R261-R264), what every engine shares (R257-R260, R150, R275, R400, R401), and `cmd`, `jwait` and
`jpoll`. -/

namespace Sys2Proof.Machine

/-! ## Jobs -/

/-- A fault of a command (R401): event, address and level. -/
abbrev JobFault := EventCode × Word × Nat

/-- A job's status when it has ended (R263). -/
def jobStatus (e : JobEnd) : Word :=
  let code := if e.rejected then EventCode.commandFormat.byte.toNat else match e.fault with | some f => f.1.byte.toNat | none => 0
  BitVec.ofNat 64 (65536 * e.prog + 256 * code + (if code = 0 then 1 else 3))

/-- What a job id reads as (R262, R263): `none` while the job is outstanding. -/
def jobState (c : Core) (id : BitVec 16) : Option Word :=
  if c.jobs.any fun j => j.id == id && j.status.isNone then none
  else some (((c.jobs.reverse.find? fun j => j.id == id).bind (·.status)).getD 1)

/-- A job ends: its status is kept, with those of the 63 that ended before it (R262). -/
def endJob (id : BitVec 16) (status : Word) (c : Core) : Core :=
  let rest := c.jobs.filter fun j => !(j.id == id && j.status.isNone)
  let done := rest.filter fun j => j.status.isSome
  let old := done.length - 63
  { c with jobs := rest.filter (fun j => j.status.isNone) ++ done.drop old ++ [⟨id, some status⟩] }

namespace State

/-- A core's next job id, and the core that has given it (R261, R262). -/
def nextJob (s : State) (core : Nat) : BitVec 16 := BitVec.ofNat 16 (core % 4 * 16384 + (s.core core).jobSeq % 16384)

def takeJob (s : State) (core : Nat) : State :=
  s.updCore core fun c => { c with jobSeq := (c.jobSeq + 1) % 16384, jobs := c.jobs ++ [⟨s.nextJob core, none⟩] }

/-- The context a command carries (R150, R257, R262, R271). -/
def commandContext (s : State) (r : Ref) (job : BitVec 16) : CmdCtx :=
  let t := s.strand r
  { quire := quireOf r.core, core := some r.core, slot := r.slot, start := t.startedAt, task := t.task, job := job, part := t.part, ctx := t.ctx,
    priv := privOf t.regs.flags, clsType := t.clsType, code := t.code, codeLim := t.codeLim, cbank := t.cbank,
    cbsel := cbselOf t.regs.flags, rm := t.regs.flags.setWidth 2, edition := (s.core r.core).edition, budget := t.budgetStart, fence := false,
    wempty := false, node := 0 }

/-- A command joins its queue, where it is after `delay` cycles. -/
def enqueue (s : State) (q engine queue : Nat) (words : List W32) (x : CmdCtx) (delay : Nat) : State :=
  s.updEngine q engine fun e =>
    { e with queues := put queue (look [] queue e.queues ++ [{ words := words, x := x, due := s.now + delay }]) e.queues }

end State

/-- A queue entry of an engine is reserved for a core's command, whose job id is `nextJob` before the call (R261). -/
def State.takeEntry (s : State) (r : Ref) (engine : Nat) : State :=
  let id := s.nextJob r.core
  let j := r.core % 4
  ((s.takeJob r.core).updEngine (quireOf r.core) engine fun g => { g with reserved := put j (look 0 j g.reserved + 1) g.reserved }).updStrand r
    fun t => { t with jobLast := 0x10000 ||| id.setWidth 64 }

/-- `cmd` (R261, R310): the id one cycle after issue, or after the wait under LA for a queue entry (R191); the submission is held. -/
def execCmd (c : CWord) (s : State) : Result :=
  checked (.cmd c) s fun s =>
    let e := c.b.toNat
    let id := s.nextJob s.cur.core
    let words := (s.readV c.a).toList.take 16
    if s.queueFree (quireOf s.cur.core) e s.cur.core && !s.me.wantsKind (2 + e) then
      (((s.takeEntry s.cur e).hold (.command e words (s.commandContext s.cur id))).result c.la 1 [.s c.d] [.s c.d (id.setWidth 64)]).advance
    else (s.wantHeld c.la [.s c.d] (.queue e c.d words (s.commandContext s.cur 0))).advance

/-- The job an operand names (R264): an id of any core of the quire. -/
def State.namedJob (s : State) (c : CWord) : Nat × BitVec 16 :=
  let id : BitVec 16 := (s.opA c).setWidth 16
  (quireOf s.cur.core * 4 + id.toNat / 16384, id)

/-- `jwait` (R177, R264). -/
def execJwait (c : CWord) (s : State) : Result :=
  checked (.jwait c) s fun s =>
    let (core, id) := s.namedJob c
    let known : Option Word :=
      match s.me.jobWait with
      | some (j, w) => if j = id then some w else jobState (s.core core) id
      | none => jobState (s.core core) id
    match known with
    | none => s.sleepOn (.job id)
    | some w =>
      ((((s.acquire s.cur.core 3).updMe fun t => { t with jobWait := none }).writeS c.d w).advance).thenEnd

/-- `jpoll` (R177, R264): the state sampled at issue, 4 cycles later. -/
def execJpoll (c : CWord) (s : State) : Result :=
  checked (.jpoll c) s fun s =>
    let (core, id) := s.namedJob c
    match jobState (s.core core) id with
    | none => (((s.writeS c.d 0).advance).thenEnd).after 4
    | some w => ((((s.acquire s.cur.core 3).writeS c.d w).advance).thenEnd).after 4

/-! ## Running a command -/

namespace State

/-- The accumulator tiles' summary flags as a finished matrix command leaves them (R83, R269). -/
def summarise (s : State) (q : Nat) : State :=
  let u := s.quire q
  s.setQuire q { u with zp := (List.range 16).foldl (fun z n =>
    let t := look [] n u.tiles
    let old := look 0 n z
    let new : Word := (old &&& 0x7FFFFFF) ||| (if t.any fun e => e.2.ovf then 0x100000000 else 0) |||
      (if t.any fun e => e.2.nan then 0x200000000 else 0)
    if new = old then z else put n new z) u.zp }

/-- A command starts: it is the engine's command in progress, with its cost (R259, R67). -/
def startCommand (s : State) (x : CmdCtx) (engine cost : Nat) : State :=
  s.updEngine x.quire engine fun e => { e with running := some x, cost := cost, written := [] }

/-- A command's last effect has been made or waits for empty sectors; it completes no earlier than `cycles` from
now. -/
def willEnd (s : State) (e : JobEnd) (cycles : Nat) : State :=
  if (s.engine e.x.quire e.engine).waiting.isEmpty then s.emitNet cycles (.engineCommandComplete e)
  else s.updEngine e.x.quire e.engine fun g => { g with ends := some (e, s.now + cycles) }

/-- A command that acceptance rejects (R400): it completes at once and does nothing. -/
def reject (s : State) (x : CmdCtx) (engine cost : Nat) : State :=
  (s.startCommand x engine cost).emit 0
    (.engineCommandComplete { x := x, engine := engine, prog := 0, fault := none, rejected := true })

/-- ENGFLT0 and ENGFLT1 latch a faulted job (R410). -/
def latchFault (s : State) (core : Nat) (id : BitVec 16) (f : JobFault) : State :=
  s.updCore core fun c =>
    { c with engFlt0 := f.2.1 &&& 0x1FFFFFFFFFFFFFF,
             engFlt1 := BitVec.ofNat 64 (id.toNat + 65536 * f.1.byte.toNat + 2 ^ 24 * (f.2.2 % 8) + 2 ^ 32) }

/-- A job completes (R263, R410, R279, R72): its status, its fault, its graph node, its sleepers and its pulse. -/
def completeJob (s : State) (e : JobEnd) : State :=
  let s1 :=
    match e.x.core with
    | some c =>
      let s1 := s.updCore c (endJob e.x.job (jobStatus e))
      let s2 := match e.fault with | some f => s1.latchFault c e.x.job f | none => s1
      (s2.strandsWhere fun r t => quireOf r.core == e.x.quire && t.wait == Wait.asleep (.job e.x.job)).foldl (fun (s : State) r =>
        (s.updStrand r fun t => { t with jobWait := some (e.x.job, jobStatus e) }).emit 4 (.jwaitWake r)) s2
    | none => s
  let s2 :=
    if e.x.node ≠ 0 then
      if e.fault.isNone && !e.rejected then s1.emitNet (toBase e.x.quire) (.nodeCompletion e.x.part e.x.ctx e.x.node (some 0))
      else if e.x.core.isNone then
        s1.report e.x.part (some e.x.ctx) EventCode.nodeFault.byte 5 0x200
          (BitVec.ofNat 64 (e.x.node + 3 * 65536 + (if e.rejected then 0x41 else match e.fault with | some f => f.1.byte.toNat | none => 0) * 2 ^ 24)) []
      else s1
    else s1
  s2.pulse e.x.part e.x.ctx

end State

/-- ENGINE_COMMAND_COMPLETE (R263): the engine takes its next command; writes of units that wait for their page's copy come first (R296). -/
def execEngineCommandComplete (s : State) : Result :=
  .next <|
    match s.ev with
    | .engineCommandComplete e =>
      if (s.engine e.x.quire e.engine).running = some e.x then
        if s.unitWaiting e.x.part then s.emit 1 (.engineCommandComplete e) else
        let s1 := s.updEngine e.x.quire e.engine fun g =>
          { g with running := none, cost := 0, waiting := [], ends := none, drain := none }
        (if e.engine = 0 && !e.rejected then s1.summarise e.x.quire else s1).completeJob e
      else s
    | _ => s

/-- JWAIT_WAKE (R264): the sleeper's `jwait` issues again. -/
def execJwaitWake (s : State) : Result :=
  .next <|
    match s.ev with
    | .jwaitWake r =>
      match (s.strand r).jobWait with
      | some (id, _) => if (s.strand r).wait = .asleep (.job id) then s.wake r 0 else s
      | none => s
    | _ => s

/-! ## Addresses of a command (R275, R309, R400) -/

/-- The core an aperture address of a command names. -/
def engineCore (x : CmdCtx) (va : Nat) : Nat := if apSel va = 0xFFF then x.core.getD 0 else apSel va

/-- An address that acceptance rejects: a window other than 0, or the issuing core's own store when no core issued
the command. -/
def badAddress (x : CmdCtx) (va : Word) : Bool :=
  inAperture va.toNat && (apWindow va.toNat != 0 || (apSel va.toNat == 0xFFF && x.core.isNone))

/-- An address with the issuing core's own store under its number, so that aliases compare. -/
def plainAddress (x : CmdCtx) (va : Nat) : Nat :=
  if inAperture va && apSel va = 0xFFF then va - 0xFFF * 2 ^ 20 + x.core.getD 0 * 2 ^ 20 else va

/-- Whether two ranges share a byte. -/
def rangesMeet (a n b m : Nat) : Bool := n != 0 && m != 0 && decide (a < b + m) && decide (b < a + n)

/-- The bytes a rectangle of rows spans. -/
def spanOf (width height pitch : Nat) : Nat := if width = 0 || height = 0 then 0 else (height - 1) * pitch + width

/-- An address within 64 bits. -/
def at64 (a : Word) (n : Nat) : Nat := (a.toNat + n) % 2 ^ 64

namespace State

/-- Why an engine may not touch a byte of a store (R118, R126), if so. -/
def engineRefused (s : State) (x : CmdCtx) (va : Nat) (write : Bool) : Option EventCode :=
  let k := engineCore x va
  if apWindow va != 0 || va.testBit 19 || apNib va != 0 || 4096 ≤ k || s.owner (quireOf k) != some x.part ||
      !inScratch (s.core k) (apOff va) 1 then some .aperture
  else if !protectionOk (s.core k) (s.owner (quireOf k)) x.part (apOff va / 32) (x.core != some k) (!write) write then
    some .protection
  else none

/-- One byte as an engine reads it (R150, R176). -/
def engineByte (s : State) (x : CmdCtx) (va : Nat) : State × Except JobFault Byte :=
  if va / 2 ^ 57 ≠ 0 then (s, .error (.notPresent, BitVec.ofNat 64 va, 0))
  else if inAperture va then
    match s.engineRefused x va false with
    | some c => (s, .error (c, BitVec.ofNat 64 va, 0))
    | none => (s, .ok (memGet (s.core (engineCore x va)).store (apOff va)))
  else
    match s.unitReadLine x.part x.ctx x.priv va 1 with
    | (s1, .error f) => (s1, .error (f.code, BitVec.ofNat 64 va, f.level))
    | (s1, .ok b) => (s1, .ok (b.headD 0))

/-- Bytes as an engine reads them, from `a` up. -/
def engineBytes (x : CmdCtx) (a : Nat) : Nat → State → State × Except JobFault (List Byte)
  | 0, s => (s, .ok [])
  | n + 1, s =>
    match engineBytes x a n s with
    | (s1, .error f) => (s1, .error f)
    | (s1, .ok bs) =>
      match s1.engineByte x ((a + n) % 2 ^ 64) with
      | (s2, .error f) => (s2, .error f)
      | (s2, .ok b) => (s2, .ok (bs ++ [b]))

/-- Whether an engine may write a byte: the fault it would meet, with the translation it has made. -/
def engineMayPut (s : State) (x : CmdCtx) (va : Nat) : State × Option JobFault :=
  if va / 2 ^ 57 ≠ 0 then (s, some (.notPresent, BitVec.ofNat 64 va, 0))
  else if inAperture va then (s, (s.engineRefused x va true).map fun c => (c, BitVec.ofNat 64 va, 0))
  else if s.homeMoved x.part va then (s, some (.homeMoved, BitVec.ofNat 64 va, 0))
  else
    match s.unitLine { part := x.part, ctx := x.ctx, va := va, acc := .store, priv := x.priv } with
    | (s1, _, .error f) => (s1, some (f.code, BitVec.ofNat 64 va, f.level))
    | (s1, _, .ok (_, g)) => (s1, if strong g.rights then some (.strongMisuse, BitVec.ofNat 64 va, 0) else none)

/-- Bytes of one sector of a store that an engine's command writes at once; its full bit is set when the command has written all 32 (R124,
R175, R275). -/
def putSector (s : State) (q engine core off : Nat) (data : List (Nat × Byte)) : State :=
  let old := memStore [] 0 (memLoad (s.core core).store off 32)
  let s1 := s.writeStore core off (memLoad (data.foldl (fun m b => memSet m b.1 b.2) old) 0 32)
  let k := (core, off / 32)
  let before := (((s.engine q engine).written.find? fun w => w.1 == k).map (·.2)).getD []
  let now := data.foldl (fun n b => NatSet.add b.1 n) before
  let whole := (List.range 32).all fun j => now.contains j
  let s2 := s1.updEngine q engine fun e =>
    { e with written := (if whole then [] else [(k, now)]) ++ e.written.filter fun w => w.1 != k }
  if whole then s2.setFull core [off / 32] [] else s2

/-- Bytes of one sector as an engine writes them (R176): with WEMPTY a full scratch sector is waited for (R257). -/
def engineSector (s : State) (x : CmdCtx) (engine sector : Nat) (data : List (Nat × Byte)) : State :=
  let va := sector * 32
  if inAperture va then
    let k := engineCore x va
    if x.wempty && (s.core k).full.contains (apOff va / 32) then
      s.updEngine x.quire engine fun e =>
        { e with waiting := e.waiting ++ [{ core := k, off := apOff va, data := data, va := BitVec.ofNat 64 va }] }
    else s.putSector x.quire engine k (apOff va) data
  else data.foldl (fun s b => (s.unitWriteLine x.part x.ctx x.priv x.edition (va + b.1) [b.2]).1) s

/-- Where a written byte comes from: an address, or a value. -/
abbrev Origin := Nat ⊕ Byte

/-- The bytes that a command writes, read at their origins: each with its value or the fault of its read. -/
def readOrigins (s : State) (x : CmdCtx) (bytes : List (Nat × Origin)) : State × List (Nat × Except JobFault Byte) :=
  bytes.foldl (fun (acc : State × List (Nat × Except JobFault Byte)) b =>
    match b.2 with
    | .inr v => (acc.1, acc.2 ++ [(b.1, .ok v)])
    | .inl a =>
      let r := acc.1.engineByte x a
      (r.1, acc.2 ++ [(b.1, r.2)])) (s, [])

/-- The moves of a command (R275, R401): destination sectors are written whole. When a read or a write faults, which of
the other sectors are written is free. -/
def moveBytes (s : State) (x : CmdCtx) (engine : Nat) (bytes : List (Nat × Origin)) : State × Option JobFault :=
  let (s1, got) := s.readOrigins x bytes
  let (s2, bad) := got.foldl (fun (acc : State × List (Nat × JobFault)) b =>
    match b.2 with
    | .error f => (acc.1, acc.2 ++ [(b.1 / 32, f)])
    | .ok _ =>
      match acc.1.engineMayPut x b.1 with
      | (t, some f) => (t, acc.2 ++ [(b.1 / 32, f)])
      | (t, none) => (t, acc.2)) (s1, ([] : List (Nat × JobFault)))
  let sectors := (got.map fun b => b.1 / 32).eraseDups
  let s3 := sectors.foldl (fun s n =>
    if bad.any fun f => f.1 == n then s
    else
      let data := (got.filter fun b => b.1 / 32 == n).filterMap fun b =>
        match b.2 with | .ok v => some (b.1 % 32, v) | .error _ => none
      if bad.isEmpty then s.engineSector x engine n data
      else if s.draw.getLsbD 0 then s.drawn.engineSector x engine n data
      else s.drawn) s2
  (s3, bad.head?.map (·.2))

/-- The cost of an access to a line, by where it lies (R14, R147): a store, a slice, or the memory behind it. -/
def firstCost (s : State) (x : CmdCtx) (va : Nat) : Nat :=
  if inAperture va then (if quireOf (engineCore x va) = x.quire then 4 else 8 + 2 * travel x.quire (quireOf (engineCore x va)))
  else 24 + toSlice x.quire (s.homeOf x.part va) +
    (s.unitLine { part := x.part, ctx := x.ctx, va := va, acc := .load, priv := x.priv }).2.1

end State

/-! ## Windows and waiting writes -/

/-- ENGINE_WINDOW_STORE (R260): bytes are staged; byte 63 submits the 64 staged bytes. -/
def execEngineWindowStore (s : State) : Result :=
  .next <|
    match s.ev with
    | .engineWindowStore r pa n data =>
      let off := pa % 256
      let e := off / 64
      let q := quireOf r.core
      let submits := off % 64 + n = 64
      if submits && !s.queueFree q e r.core then s
      else
        let staged := memStore (look [] e (s.core r.core).staging) (off % 64) (Bytes.ofNat n data.toNat)
        let s1 := s.updCore r.core fun c => { c with staging := put e staged c.staging }
        if submits then
          let id := s1.nextJob r.core
          let words := (List.range 16).map fun j => BitVec.ofNat 32 (Bytes.toNat (memLoad staged (4 * j) 4))
          ((s1.takeJob r.core).updStrand r fun t => { t with jobLast := 0x10000 ||| id.setWidth 64 }).enqueue q e (r.core % 4) words
            (s1.commandContext r id) 0
        else s1
    | _ => s

/-- WEMPTY_WRITE (R257): the writes that wait for a sector go on once it is empty; a sector that has left scratch ends
its command (R414). -/
def execWemptyWrite (s : State) : Result :=
  .next <|
    match s.ev with
    | .wemptyWrite core sector =>
      (s.quires.flatMap fun q => q.2.engines.map fun e => (q.1, e.1)).foldl (fun s (q, e) =>
        let g := s.engine q e
        let here := g.waiting.filter fun w => w.core == core && w.off / 32 == sector
        if here.isEmpty then s
        else if !inScratch (s.core core) (32 * sector) 32 then
          match g.running, here with
          | some x, w :: _ =>
            let f : JobFault := (.aperture, w.va, 0)
            let s1 := s.updEngine q e fun g => { g with waiting := [], ends := none, drain := none }
            if e = 3 then
              { s1 with decoders := s1.decoders.map fun d => (d.1, d.2.map fun j =>
                  if j.x == x then { j with result := j.result.map fun _ => (some f, 6, 0, 0) } else j) }
            else
              s1.emit 0 (.engineCommandComplete { x := x, engine := e, prog := (g.drain.map Drain.landed).getD 0, fault := some f, rejected := false })
          | _, _ => s
        else if (s.core core).full.contains sector then s
        else
          let s1 := here.foldl (fun s w => s.putSector q e w.core w.off w.data)
            (s.updEngine q e fun g => { g with waiting := g.waiting.filter fun w => !(w.core == core && w.off / 32 == sector) })
          let g1 := s1.engine q e
          if g1.waiting.isEmpty then
            match g1.ends with
            | some (j, due) => (s1.updEngine q e fun g => { g with ends := none }).emit (due - s.now) (.engineCommandComplete j)
            | none => s1.emit 0 (.drainRowOutput q)
          else s1) s
    | _ => s

end Sys2Proof.Machine
end

