-- ==== Sys2Proof/Machine/Matrix.lean ====
section
/-! DEFINITION. The matrix engine: ZCFG, ZZERO, MMA, DRAIN with its rows and epilogues, MERR (R58, R105-R112,
R265-R274). -/

namespace Sys2Proof.Machine

/-- What a command captures of a precision register (R83). -/
structure Precision where
  wa : Nat
  wb : Nat
  fa : Nat
  fb : Nat
  et : Int
  sat : Bool
  deriving DecidableEq, Repr

def precision (zp : Word) : Precision :=
  let z := zp.toNat
  { wa := Bits.get z 3 0 + 1, wb := Bits.get z 7 4 + 1, fa := Bits.get z 11 8, fb := Bits.get z 15 12,
    et := Bits.sext (Bits.get z 25 16) 10, sat := zp.getLsbD 26 }

/-- The container of an element in bits (R268). -/
def containerBits (f : Nat) (esz : BitVec 2) : Nat :=
  match f with
  | 0 | 1 => if esz = 0 then 8 else if esz = 1 then 16 else 4
  | 5 => 4
  | 7 | 8 => 16
  | _ => 8

namespace State

def zpOf (s : State) (q n : Nat) : Word := look 0 n (s.quire q).zp

def tileElem (s : State) (q n r c : Nat) : Elem := look Elem.zero (32 * r + c) (look [] n (s.quire q).tiles)

def setElem (s : State) (q n r c : Nat) (e : Elem) : State :=
  let u := s.quire q
  let t := look [] n u.tiles
  s.setQuire q { u with tiles := put n (if e = Elem.zero then drop (32 * r + c) t else put (32 * r + c) e t) u.tiles }

end State

/-- ZCFG (R265). -/
def execZcfg (x : CmdCtx) (tile : BitVec 4) (val : BitVec 27) (s : State) : Result :=
  .next <|
    if 8 < Bits.get val.toNat 11 8 || 8 < Bits.get val.toNat 15 12 then s.reject x 0 32
    else
      let u := s.quire x.quire
      let old := look 0 tile.toNat u.zp
      ((s.setQuire x.quire { u with zp := put tile.toNat ((old &&& 0x300000000) ||| val.setWidth 64) u.zp }).startCommand x 0 32).willEnd
        { x := x, engine := 0, prog := 0, fault := none, rejected := false } 4

/-- ZZERO (R266). -/
def execZzero (x : CmdCtx) (tiles : BitVec 16) (s : State) : Result :=
  .next <|
    let u := s.quire x.quire
    let named := (List.range 16).filter fun n => tiles.getLsbD n
    let u1 := named.foldl (fun (u : Quire) n =>
      { u with tiles := drop n u.tiles, zp := put n (look 0 n u.zp &&& 0x7FFFFFF) u.zp }) u
    ((s.setQuire x.quire u1).startCommand x 0 32).willEnd
      { x := x, engine := 0, prog := 0, fault := none, rejected := false } 4

/-! ## MMA (R267-R270) -/

/-- An operand of an MMA: format, width, container bits, its rows, and its scale rows. -/
structure MmaSide where
  f : Nat
  w : Nat
  c : Nat
  base : Word
  stride : Nat
  scale : Word
  scaleStride : Nat
  deriving DecidableEq, Repr

namespace State

/-- The decode table of the issuing core at acceptance (R106). DESIGN CHOICE (log 17): a command of the command processor
has no issuing core, and its table's entries are free. -/
def commandTable (s : State) (x : CmdCtx) : List (BitVec 19) :=
  match x.core with
  | some c => (s.core c).tableAt s.now
  | none => (List.range 256).map fun j => Config.freeEntry s.free j

/-- The codes of one row (R268). -/
def loadCodes (s : State) (x : CmdCtx) (d : MmaSide) (row k : Nat) : State × Except JobFault (List Nat) :=
  match engineBytes x (at64 d.base (row * d.stride)) ((k * d.c + 7) / 8) s with
  | (s1, .error f) => (s1, .error f)
  | (s1, .ok b) =>
    (s1, .ok ((List.range k).map fun j =>
      match d.c with
      | 4 => let v := (b.getD (j / 2) 0).toNat; if j % 2 = 0 then v % 16 else v / 16
      | 16 => Bytes.toNat ((b.drop (2 * j)).take 2)
      | _ => (b.getD j 0).toNat))

/-- The K-blocks of one row (R106). -/
def loadRow (s : State) (x : CmdCtx) (t : List (BitVec 19)) (d : MmaSide) (k row : Nat) :
    State × Except JobFault (List (Int × List (Option Int))) :=
  match s.loadCodes x d row k with
  | (s1, .error f) => (s1, .error f)
  | (s1, .ok codes) =>
    let blocks := Bits.ceilDiv k 32
    let scales :=
      if fmtScaled d.f then engineBytes x (at64 d.scale (row * d.scaleStride)) blocks s1 else (s1, .ok [])
    match scales with
    | (s2, .error f) => (s2, .error f)
    | (s2, .ok sc) =>
      (s2, .ok ((List.range blocks).map fun b =>
        kBlock d.f d.w t (sc.getD b 0).toNat ((codes.drop (32 * b)).take 32)))

/-- Rows `0` to `n - 1` of an operand. -/
def loadRows (x : CmdCtx) (t : List (BitVec 19)) (d : MmaSide) (k : Nat) :
    Nat → State → State × Except JobFault (List (List (Int × List (Option Int))))
  | 0, s => (s, .ok [])
  | n + 1, s =>
    match loadRows x t d k n s with
    | (s1, .error f) => (s1, .error f)
    | (s1, .ok rows) =>
      match s1.loadRow x t d k n with
      | (s2, .error f) => (s2, .error f)
      | (s2, .ok r) => (s2, .ok (rows ++ [r]))

/-- The contributions to one element: their sum, and whether one is NaN (R107, R108). -/
def dotRow (et : Int) (a b : List (Int × List (Option Int))) : Int × Bool :=
  (a.zip b).foldl (fun (acc : Int × Bool) p =>
    let c := blockContribution et p.1 p.2
    (acc.1 + c.1, acc.2 || c.2)) (0, false)

/-- One row of A applied to every column (R269). -/
def mmaRow (s : State) (q : Nat) (c : MmaCmd) (row : Nat) (a : List (Int × List (Option Int)))
    (bs : List (List (Int × List (Option Int)))) : State :=
  bs.zipIdx.foldl (fun (s : State) (b, col) =>
    let n := c.n + row / 32 * Bits.ceilDiv c.nn 32 + col / 32
    let d := dotRow (precision (s.zpOf q n)).et a b
    s.setElem q n (row % 32) (col % 32) ((s.tileElem q n (row % 32) (col % 32)).update d.1 d.2)) s

/-- Rows from START up, `n` of them: a fault stops before its row (R270). -/
def mmaRows (x : CmdCtx) (t : List (BitVec 19)) (c : MmaCmd) (d : MmaSide) (bs : List (List (Int × List (Option Int)))) :
    Nat → Nat → State → State × Nat × Option JobFault
  | 0, row, s => (s, row, none)
  | n + 1, row, s =>
    match s.loadRow x t d c.k row with
    | (s1, .error f) => (s1, row, some f)
    | (s1, .ok a) => mmaRows x t c d bs n (row + 1) (s1.mmaRow x.quire c row a bs)

end State

/-- The conditions of R268 and R269 that acceptance checks. -/
def mmaOk (s : State) (x : CmdCtx) (c : MmaCmd) (p : Precision) : Bool :=
  let ca := containerBits p.fa c.esza
  let cb := containerBits p.fb c.eszb
  let tiles := Bits.ceilDiv c.m 32 * Bits.ceilDiv c.nn 32
  let even (a : Word) (st : W32) : Bool := a.toNat % 2 == 0 && st.toNat % 2 == 0
  c.esza != 3 && c.eszb != 3 && (p.fa < 2 || c.esza == 0) && (p.fb < 2 || c.eszb == 0) &&
  p.wa ≤ ca && p.wb ≤ cb && (ca != 16 || even c.a c.astr) && (cb != 16 || even c.b c.bstr) &&
  c.n + tiles ≤ 16 &&
  (List.range tiles).all (fun j =>
    let z := precision (s.zpOf x.quire (c.n + j))
    z.wa == p.wa && z.wb == p.wb && z.fa == p.fa && z.fb == p.fb) &&
  (fmtScaled p.fa || c.asc == 0) && (fmtScaled p.fb || c.bsc == 0) &&
  !badAddress x c.a && !badAddress x c.b && !badAddress x c.asc && !badAddress x c.bsc

/-- MMA (R267-R270). -/
def execMma (x : CmdCtx) (c : MmaCmd) (s : State) : Result :=
  .next <|
    let p := precision (s.zpOf x.quire c.n)
    let pass := Bits.ceilDiv c.m 32 * Bits.ceilDiv c.nn 32 * Bits.ceilDiv c.k 64 * p.wa * p.wb
    if !mmaOk s x c p then s.reject x 0 pass
    else
      let t := s.commandTable x
      let s0 := (if x.core.isNone && (p.fa = 6 || p.fb = 6) then { s with free := s.free + 256 } else s).startCommand x 0 pass
      let a : MmaSide := { f := p.fa, w := p.wa, c := containerBits p.fa c.esza, base := c.a, stride := c.astr.toNat,
                           scale := c.asc, scaleStride := c.ascstr.toNat }
      let b : MmaSide := { f := p.fb, w := p.wb, c := containerBits p.fb c.eszb, base := c.b, stride := c.bstr.toNat,
                           scale := c.bsc, scaleStride := c.bscstr.toNat }
      let done : State × Nat × Option JobFault :=
        if c.m ≤ c.start then (s0, c.m, none)
        else
          match State.loadRows x t b c.k c.nn s0 with
          | (s1, .error f) => (s1, c.start, some f)
          | (s1, .ok bs) => State.mmaRows x t c a bs (c.m - c.start) c.start s1
      done.1.willEnd { x := x, engine := 0, prog := done.2.1, fault := done.2.2, rejected := false }
        (pass + s.firstCost x c.a.toNat)

/-! ## DRAIN (R271-R273) -/

namespace State

/-- The row registers of R273. -/
def rowRegs (s : State) (d : Drain) (row : Nat) : List (Nat × VReg) :=
  let e (i : Fin 32) : Elem := s.tileElem d.x.quire d.c.n row i.val
  if d.c.raw then
    [(29, lanes fun i => (e i).raw.1), (30, lanes fun i => (e i).raw.2.1), (31, lanes fun i => (e i).raw.2.2)]
  else [(31, lanes fun i => (e i).drain d.et d.sat d.x.rm.toNat)]

/-- Rows of a tile zeroed (R272). -/
def clearRow (s : State) (q n row : Nat) : State :=
  (List.range 32).foldl (fun (s : State) c => s.setElem q n row c Elem.zero) s

/-- A row taken out of the tile, where R272 and R311 let it. -/
def takeRow (s : State) (q : Nat) : State :=
  match (s.engine q 0).drain with
  | none => s
  | some d =>
    let n := d.rows.length
    let oldest := (d.rows.findIdx? fun r => r.phase == .waiting || r.phase == .running).getD n
    if d.fault.isSome || d.c.rows ≤ n then s
    else if d.lastTake = some s.now then s.emit 1 (.drainRowTakeout q)
    else if oldest + min 4 (Bits.get (s.core (d.x.core.getD 0)).coresched.toNat 10 8) + 1 < n then s
    else
      let row := d.c.r0 + n
      let taken : DrainRow := { taken := s.now, regs := s.rowRegs d row, phase := .waiting, task := 0 }
      let s1 := if d.c.clr then s.clearRow q d.c.n row else s
      let s2 := s1.updEngine q 0 fun e => { e with drain := some { d with rows := d.rows ++ [taken], lastTake := some s.now } }
      let s3 := s2.emit 0 (.epilogueStart q)
      if n + 1 < d.c.rows then s3.emit 1 (.drainRowTakeout q) else s3

/-- The address of an output row (R272), or 0. -/
def rowAddress (d : Drain) (j : Nat) : Nat := if d.c.dst = 0 then 0 else at64 d.c.dst (j * d.c.dstr.toNat)

/-- What an epilogue strand starts with (R51, R89, R273). -/
def epilogue (d : Drain) (j : Nat) (r : DrainRow) : Launch :=
  { kind := .epilogue, part := d.x.part, ctx := d.x.ctx, pc := d.x.code + 8 * d.c.entry.setWidth 64,
    regs := [BitVec.ofNat 64 (d.c.r0 + j), BitVec.ofNat 64 d.c.n, d.x.job.setWidth 64, d.c.arg,
      BitVec.ofNat 64 (rowAddress d j)],
    rm := d.x.rm, cbsel := d.x.cbsel, sticky := 0, clsType := d.x.clsType, msg := 0, state := 0, keyLo := 0, keyHi := 0,
    budget := BitVec.allOnes 64, counted := false, classBudget := d.x.budget, code := d.x.code,
    codeLim := d.x.codeLim, cbank := d.x.cbank, task := 0, high := false, counter := none, vregs := r.regs,
    rows := some (d.x.quire, j) }

/-- The first row that waits starts its strand where a slot is free (R58); the strand is a task of its own (R50). -/
def startRow (s : State) (q : Nat) : State :=
  match (s.engine q 0).drain with
  | none => s
  | some d =>
    match d.rows.findIdx? fun r => r.phase == .waiting with
    | none => s
    | some j =>
      let core := d.x.core.getD 0
      match epilogueStart (s.core core), d.rows[j]? with
      | some slot, some r =>
        let s1 := (s.newTask { Task.none with part := d.x.part, ctx := d.x.ctx, core := core }).updEngine q 0 fun e =>
          { e with drain := e.drain.map (Drain.startRow j s.ids) }
        (s1.begin_ ⟨core, slot⟩ { epilogue d j r with task := s.ids } (r.taken + 8 - s.now)).emit 0 (.epilogueStart q)
      | _, _ => s

/-- Writes of a row's epilogue strand that no home has acknowledged (R71, R174). -/
def rowUnacked (s : State) (r : DrainRow) : Bool := s.taskUnacked r.task

/-- A DRAIN ends (R272, R401): every row has landed, or a fault has been met and no epilogue runs. One that names a node ends once its
epilogues' stores are acknowledged (R279). -/
def endDrain (s : State) (d : Drain) : State :=
  let landed := d.landed
  let finished : Bool :=
    if d.fault.isSome then !(d.rows.any fun r => r.phase == .running) else landed == d.c.rows
  if finished && d.x.node != 0 && d.fault.isNone && d.rows.any s.rowUnacked then s.emit 1 (.drainRowOutput d.x.quire)
  else if finished then
    s.emit 0 (.engineCommandComplete { x := d.x, engine := 0, prog := landed, fault := d.fault, rejected := false })
  else s

/-- The output of the oldest row that has not landed (R272), after the stores of its strand (R174, R273): it has landed once its writes are at their
homes (R296). -/
def outputRow (s : State) (q : Nat) : State :=
  match (s.engine q 0).drain with
  | none => s
  | some d =>
    if s.now < d.ackDue then s
    else
      match d.rows.findIdx? fun r => r.phase != .landed with
      | none => s.endDrain d
      | some j =>
        let set (s : State) (d : Drain) : State := s.updEngine q 0 fun e => { e with drain := some d }
        let land (s : State) (d : Drain) (wait : Nat) : State :=
          (set s { d.setRow j .landed with ackDue := s.now + wait }).emit wait (.drainRowOutput q)
        match d.rows[j]?.map fun (r : DrainRow) => r.phase with
        | some (.ended v31) =>
          if d.fault.isSome then s.endDrain d
          else if d.c.dst = 0 then land s d 0
          else if (d.rows[j]?.map s.rowUnacked).getD false then s.emit 1 (.drainRowOutput q)
          else
            let a := rowAddress d j
            let bytes := v31.toList.flatMap fun (w : W32) => Bytes.ofNat 4 w.toNat
            match s.moveBytes d.x 0 (bytes.zipIdx.map fun b => ((a + b.2) % 2 ^ 64, .inr b.1)) with
            | (s1, some f) =>
              let d1 := { d with fault := some f }
              (set s1 d1).endDrain d1
            | (s1, none) =>
              if (s1.engine q 0).waiting.isEmpty && !s1.unitWaiting d.x.part then land s1.drawn d (s1.draw.toNat + s1.firstCost d.x a)
              else (set s1 (d.setRow j .writing)).emit 1 (.drainRowOutput q)
        | some .writing =>
          if !(s.engine q 0).waiting.isEmpty then s else if s.unitWaiting d.x.part then s.emit 1 (.drainRowOutput q) else land s d 0
        | _ => s.endDrain d

end State

/-- DRAIN (R271, R311): the first row is taken out in the acceptance cycle. -/
def execDrainCommand (x : CmdCtx) (c : DrainCmd) (s : State) : Result :=
  .next <|
    let p := precision (s.zpOf x.quire c.n)
    if 32 < c.r0 + c.rows || (c.raw && c.dst != 0) || c.dst.toNat % 4 != 0 || x.core.isNone || badAddress x c.dst then
      s.reject x 0 32
    else
      let d : Drain := { x := x, c := c, et := p.et, sat := p.sat, rows := [], lastTake := none, ackDue := 0, fault := none }
      ((s.startCommand x 0 32).updEngine x.quire 0 fun e => { e with drain := some d }).emit 0 (.drainRowTakeout x.quire)

/-- DRAIN_ROW_TAKEOUT (R272, R311). -/
def execDrainRowTakeout (s : State) : Result :=
  .next <| match s.ev with | .drainRowTakeout q => s.takeRow q | _ => s

/-- EPILOGUE_START (R58). -/
def execEpilogueStart (s : State) : Result :=
  .next <| match s.ev with | .epilogueStart q => s.startRow q | _ => s

/-- DRAIN_ROW_OUTPUT (R272): an epilogue has ended, or a row's output is acknowledged. -/
def execDrainRowOutput (s : State) : Result :=
  .next <| match s.ev with | .drainRowOutput q => ((s.outputRow q).emit 0 (.drainRowTakeout q)) | _ => s

/-! ## MERR (R112, R274) -/

/-- MERR: the contributions of a list, summed for each element and applied once. -/
def execMerr (x : CmdCtx) (c : MerrCmd) (s : State) : Result :=
  .next <|
    if c.list.toNat % 8 ≠ 0 || badAddress x c.list then s.reject x 0 32
    else
      let et := (precision (s.zpOf x.quire c.n)).et
      let count := c.count.toNat
      let ended (s1 : State) (f : Option JobFault) : State :=
        s1.willEnd { x := x, engine := 0, prog := 0, fault := f, rejected := false }
          (Bits.ceilDiv count 8 + 8 + s.firstCost x c.list.toNat)
      match State.engineBytes x c.list.toNat (8 * count) (s.startCommand x 0 32) with
      | (s1, .error f) => ended s1 (some f)
      | (s1, .ok b) =>
        let entries := (List.range count).filterMap fun n =>
          let j := (Bytes.toNat ((b.drop (8 * n)).take 4) + 2 ^ 32 - c.base.toNat) % 2 ^ 32
          if j < 1024 then some (j, errataContribution et (BitVec.ofNat 32 (Bytes.toNat ((b.drop (8 * n + 4)).take 4)))) else none
        let s2 := (entries.map (·.1)).eraseDups.foldl (fun (s : State) j =>
          let mine := (entries.filter fun e => e.1 == j).map (·.2)
          let sum := mine.foldl (fun acc v => acc + v.getD 0) 0
          s.setElem x.quire c.n (j / 32) (j % 32)
            ((s.tileElem x.quire c.n (j / 32) (j % 32)).update sum (mine.any fun v => v.isNone))) s1
        ended s2 none

end Sys2Proof.Machine
end

