-- ==== Sys2Proof/Machine/Copies.lean ====
section
/-! DEFINITION. The copy engine and the gather engine (R275-R277), and the Folio decoders (R278, R353-R357). -/

namespace Sys2Proof.Machine

/-- A command of the copy engine that passes its checks moves its bytes (R275); `src` is where it reads first, if it reads. -/
def State.copyCommand (s : State) (x : CmdCtx) (src : Option Nat) (bytes : List (Nat × State.Origin)) : State :=
  let r := (s.startCommand x 1 (Bits.ceilDiv bytes.length 64)).moveBytes x 1 bytes
  r.1.willEnd { x := x, engine := 1, prog := 0, fault := r.2, rejected := false }
    (Bits.ceilDiv bytes.length 64 + (if bytes.isEmpty then 0 else (src.map (s.firstCost x)).getD 0))

/-- COPY1D (R275). -/
def execCopy1d (x : CmdCtx) (c : Copy1DCmd) (s : State) : Result :=
  .next <|
    let n := c.bytes.toNat
    if badAddress x c.src || badAddress x c.dst || rangesMeet (plainAddress x c.src.toNat) n (plainAddress x c.dst.toNat) n then
      s.reject x 1 (Bits.ceilDiv n 64)
    else s.copyCommand x (some c.src.toNat) ((List.range n).map fun j => (at64 c.dst j, .inl (at64 c.src j)))

/-- COPY2D (R275). -/
def execCopy2d (x : CmdCtx) (c : Copy2DCmd) (s : State) : Result :=
  .next <|
    let w := c.width.toNat
    let h := c.height.toNat
    let fp := c.fpitch.toNat
    let tp := c.tpitch.toNat
    if badAddress x c.src || badAddress x c.dst ||
        rangesMeet (plainAddress x c.src.toNat) (spanOf w h fp) (plainAddress x c.dst.toNat) (spanOf w h tp) then
      s.reject x 1 (Bits.ceilDiv (w * h) 64)
    else
      s.copyCommand x (some c.src.toNat) ((List.range h).flatMap fun y => (List.range w).map fun j =>
        (at64 c.dst (y * tp + j), .inl (at64 c.src (y * fp + j))))

/-- FILL (R275). -/
def execFillCmd (x : CmdCtx) (c : FillCmd) (s : State) : Result :=
  .next <|
    let n := c.bytes.toNat
    if badAddress x c.dst then s.reject x 1 (Bits.ceilDiv n 64)
    else
      s.copyCommand x none ((List.range n).map fun j =>
        (at64 c.dst j, .inr (c.pattern.extractLsb' (8 * (j % 8)) 8)))

/-- An address moved by a signed count of bytes. -/
def atSigned (a : Word) (d : Int) : Nat := ((a.toNat : Int) + d).emod (2 ^ 64) |>.toNat

/-- The patches of GATHER2D from its origin list (R276). -/
def patchBytes (c : Gather2DCmd) (origins : List Byte) : List (Nat × State.Origin) :=
  let eb := 2 ^ c.esz.toNat
  (List.range c.count.toNat).flatMap fun (p : Nat) =>
    let x := Bits.sext (Bytes.toNat ((origins.drop (4 * p)).take 2)) 16
    let y := Bits.sext (Bytes.toNat ((origins.drop (4 * p + 2)).take 2)) 16
    (List.range c.ph).flatMap fun (i : Nat) => (List.range c.pw).flatMap fun (j : Nat) => (List.range eb).map fun (b : Nat) =>
      let inside : Bool := 0 ≤ x + j && x + j < c.iw.toNat && 0 ≤ y + i && y + i < c.ih.toNat
      (at64 c.dst (p * c.tstr.toNat + (i * c.pw + j) * eb + b),
       if inside then .inl (atSigned c.image ((y + i) * c.ipitch.toNat + (x + j) * eb + b))
       else .inr (c.pad.extractLsb' (8 * b) 8))

/-- GATHER2D (R276). -/
def execGather2d (x : CmdCtx) (c : Gather2DCmd) (s : State) : Result :=
  .next <|
    let eb := 2 ^ c.esz.toNat
    let n := c.count.toNat
    let patch := c.pw * c.ph * eb
    let dst := plainAddress x c.dst.toNat
    let out := spanOf patch n c.tstr.toNat
    let cost := Bits.ceilDiv (n * patch) 64
    if c.esz = 3 || c.tstr.toNat < patch || c.list.toNat % 4 ≠ 0 || badAddress x c.image || badAddress x c.dst ||
        badAddress x c.list || rangesMeet (plainAddress x c.image.toNat) (c.ih.toNat * c.ipitch.toNat) dst out ||
        rangesMeet (plainAddress x c.list.toNat) (4 * n) dst out then
      s.reject x 1 cost
    else
      match State.engineBytes x c.list.toNat (4 * n) s with
      | (s1, .error f) =>
        (s1.startCommand x 1 cost).willEnd { x := x, engine := 1, prog := 0, fault := some f, rejected := false } cost
      | (s1, .ok origins) => s1.copyCommand x (some c.list.toNat) (patchBytes c origins)

/-! ## GATHER (R277, R140) -/

/-- The address of an element of a gather. -/
def gatherAddress (c : GatherCmd) (idx : List Byte) (i : Nat) : Nat :=
  atSigned c.base (Bits.sext (Bytes.toNat ((idx.drop (4 * i)).take 4)) 32 * 2 ^ c.shift.toNat)

/-- GATHER (R277): nothing is written unless every enabled element can be read; the reply lands 8 cycles after the slowest element's read. -/
def execGatherCmd (x : CmdCtx) (c : GatherCmd) (s : State) : Result :=
  .next <|
    let eb := 2 ^ c.esz.toNat
    let dst := c.dst.toNat
    if badAddress x c.idx || inAperture c.base.toNat || c.idx.toNat % 4 ≠ 0 || !inAperture dst || apWindow dst ≠ 0 || apSel dst ≠ 0xFFF ||
        dst.testBit 19 || apNib dst ≠ 0 || dst % (32 * eb) ≠ 0 || x.core.isNone then
      s.reject x 2 8
    else
      let s0 := s.startCommand x 2 8
      let ended (s1 : State) (f : Option JobFault) (cost : Nat) : State :=
        s1.willEnd { x := x, engine := 2, prog := 0, fault := f, rejected := false } cost
      match State.engineBytes x c.idx.toNat 128 s0 with
      | (s1, .error f) => ended s1 (some f) (s.firstCost x c.idx.toNat)
      | (s1, .ok idx) =>
        let lanes := (List.range 32).filter fun i => c.lmask.getLsbD i
        match lanes.find? fun i => gatherAddress c idx i % eb != 0 with
        | some i => ended s1 (some (.misalignedData, BitVec.ofNat 64 (gatherAddress c idx i), 0)) (s.firstCost x c.idx.toNat)
        | none =>
          let read := lanes.foldl (fun (acc : State × Except JobFault (List (Nat × List Byte))) i =>
            match acc with
            | (s, .error f) => (s, .error f)
            | (s, .ok got) =>
              let a := gatherAddress c idx i
              if inAperture a then (s, .error (.aperture, BitVec.ofNat 64 a, 0))
              else
                match State.engineBytes x a eb s with
                | (s1, .error f) => (s1, .error f)
                | (s1, .ok b) => (s1, .ok (got ++ [(i, b)]))) (s1, .ok [])
          let slowest := lanes.foldl (fun n i => max n (s1.firstCost x (gatherAddress c idx i))) 0
          match read with
          | (s2, .error f) => ended s2 (some f) slowest
          | (s2, .ok got) =>
            let bytes := (List.range 32).flatMap fun i =>
              ((got.find? fun g => g.1 == i).map (·.2)).getD (List.replicate eb 0)
            match ((List.range (32 * eb)).findSome? fun j => s2.engineRefused x (dst + j) true) with
            | some e => ended s2 (some (e, c.dst, 0)) slowest
            | none =>
              let s3 := (List.range eb).foldl (fun (s : State) j =>
                s.engineSector x 2 (dst / 32 + j) (((bytes.drop (32 * j)).take 32).zipIdx.map fun b => (b.2, b.1))) s2
              ended s3 none (slowest + 8)

/-! ## The Folio decoders -/

/-- R353's table: a picture that the decoders support. -/
def folioSupported (p : Config.Picture) : Bool :=
  match p.coding with
  | .jpeg huffman lossless => huffman && !lossless && p.depth == 8 && (p.planes.length == 1 || p.planes.length == 3)
  | .png => [1, 2, 4, 8, 16].contains p.depth
  | .tiff compression tiled _ => !tiled && [1, 4, 7].contains compression

/-- The input kind that the output's header names (R356). -/
def folioKind (p : Config.Picture) : Nat := match p.coding with | .jpeg _ _ => 0 | .png => 1 | .tiff _ _ _ => 2

/-- A sample as 8 bits (R353). -/
def folioByte (p : Config.Picture) (v : Nat) : Byte :=
  let plain : Byte := BitVec.ofNat 8 (if p.depth = 16 then v / 256 else if p.depth < 8 then v * 255 / (2 ^ p.depth - 1) else v)
  match p.coding with
  | .tiff _ _ whiteIsZero => if p.depth = 1 then (if (v == 0) == whiteIsZero then 255 else 0) else plain
  | _ => plain

/-- A pixel as 8-bit RGB (R353): chroma is repeated, grey copied, a palette expanded, and what follows the colours (alpha) dropped. -/
def folioPixel (p : Config.Picture) (x y : Nat) : List Byte :=
  let raw (j : Nat) : Nat := match p.planes[j]? with
    | some q => q.samples.getD (y / q.stepY * q.stride + x / q.stepX) 0
    | none => 0
  let c (j : Nat) : Byte := folioByte p (raw j)
  match p.colour with
  | .grey => [c 0, c 0, c 0]
  | .rgb => [c 0, c 1, c 2]
  | .ycc => let v := Config.folioColour (c 0).toNat (c 1).toNat (c 2).toNat; [v.1, v.2.1, v.2.2]
  | .palette entries => let v := entries.getD (raw 0) (0, 0, 0); [v.1, v.2.1, v.2.2]

/-- A picture's RGB samples in raster order (R353). -/
def folioRgb (p : Config.Picture) : List Byte :=
  (List.range p.height).flatMap fun y => (List.range p.width).flatMap fun x => folioPixel p x y

/-- The scale m of R354: the largest whose patches fit the budget. -/
def folioScale (w h budget : Nat) : Option Nat :=
  ((List.range 16).map fun j => 16 - j).find? fun m => decide (Bits.ceilDiv (w * m) 256 * Bits.ceilDiv (h * m) 256 ≤ budget)

/-- A sample of the reduced image (R354): the mean of its source pixels, rounded half up. -/
def folioSample (w h m : Nat) (rgb : List Byte) (x y ch : Nat) : Nat :=
  let x0 := 16 * x / m
  let x1 := min w (16 * (x + 1) / m)
  let y0 := 16 * y / m
  let y1 := min h (16 * (y + 1) / m)
  let n := (x1 - x0) * (y1 - y0)
  let sum := ((List.range (y1 - y0)).flatMap fun dy => (List.range (x1 - x0)).map fun dx =>
    (rgb.getD (((y0 + dy) * w + x0 + dx) * 3 + ch) 0).toNat).foldl (· + ·) 0
  if n = 0 then 0 else (2 * sum + n) / (2 * n)

/-- A patch's record (R355). -/
def folioRecord (ofmt : BitVec 2) (vs : List Nat) : List Byte :=
  if ofmt = 0 then vs.flatMap fun (v : Nat) => Bytes.ofNat 2 (deliver bf16 0 false (Num.ofInt (v : Int) (-8))).1
  else vs.map (fun (v : Nat) => BitVec.ofInt 8 ((v : Int) - 128)) ++ List.replicate 24 0x7E ++ List.replicate 8 0

/-- The output of a decode (R354-R356), `gap` being what lies between the position table and the records. -/
def folioOutput (ofmt : BitVec 2) (m w h kind : Nat) (rgb : List Byte) (gap : Nat → Byte) : List Byte :=
  let gw := Bits.ceilDiv (w * m) 256
  let gh := Bits.ceilDiv (h * m) 256
  let stride := if ofmt = 0 then 1536 else 800
  let tableEnd := 64 + 4 * (gw * gh)
  let recOff := Bits.ceilDiv tableEnd 256 * 256
  let header := Bytes.ofNat 4 w ++ Bytes.ofNat 4 h ++ Bytes.ofNat 2 gw ++ Bytes.ofNat 2 gh ++
    [BitVec.ofNat 8 m, ofmt.setWidth 8, BitVec.ofNat 8 kind, 0] ++ Bytes.ofNat 4 (gw * gh) ++ Bytes.ofNat 4 stride ++
    Bytes.ofNat 4 64 ++ Bytes.ofNat 4 recOff ++ List.replicate 32 0
  let positions := (List.range (gw * gh)).flatMap fun p => Bytes.ofNat 4 (p % gw + 65536 * (p / gw))
  let rw := Bits.ceilDiv (w * m) 16
  let rh := Bits.ceilDiv (h * m) 16
  let records := (List.range (gw * gh)).flatMap fun p =>
    folioRecord ofmt ((List.range 16).flatMap fun r => (List.range 16).flatMap fun c => (List.range 3).map fun ch =>
      let x := p % gw * 16 + c
      let y := p / gw * 16 + r
      if x < rw && y < rh then folioSample w h m rgb x y ch else 0)
  header ++ positions ++ (List.range (recOff - tableEnd)).map gap ++ records

namespace State

/-- A decode that ends without output (R357): for reasons 1 and 2 OUT holds any mix of old bytes and data. -/
def folioFails (s : State) (x : CmdCtx) (c : DecodeCmd) (reason : Nat) :
    State × Option JobFault × Nat × Nat × Nat × Nat :=
  let s1 :=
    if reason ≤ 2 then
      let n := c.outCap.toNat
      let any := (List.range n).filterMap fun j =>
        let v := Config.freeValue (s.free + j)
        if v.getLsbD 8 then some (at64 c.out j, (Sum.inr (v.setWidth 8) : Origin)) else none
      (({ s with free := s.free + n }).moveBytes x 3 any).1
    else s
  (s1, some (.engineFault, 0, 0), reason, 0, 0, 600 + c.inLen.toNat)

/-- A decode (R354-R357): its output is written, and its fault, reason, patches, bytes and cycles. -/
def folioRun (s : State) (x : CmdCtx) (c : DecodeCmd) : State × Option JobFault × Nat × Nat × Nat × Nat :=
  match engineBytes x c.input.toNat c.inLen.toNat s with
  | (s1, .error f) => (s1, some f, 6, 0, 0, 600)
  | (s1, .ok page) =>
    match Config.folioPicture page with
    | .error reason => s1.folioFails x c (if reason = 1 then 1 else 2)
    | .ok p =>
      let w := p.width
      let h := p.height
      if !folioSupported p then s1.folioFails x c 1
      else if 65535 < w || 65535 < h then s1.folioFails x c 5
      else
        match folioScale w h c.budget.toNat with
        | none => s1.folioFails x c 4
        | some m =>
          let out := folioOutput c.ofmt m w h (folioKind p) (folioRgb p) fun j => (Config.freeValue (s1.free + j)).setWidth 8
          if c.outCap.toNat < out.length then s1.folioFails x c 3
          else
            let s2 := { s1 with free := s1.free + 256 }
            let r := s2.moveBytes x 3 (out.zipIdx.map fun b => (at64 c.out b.2, .inr b.1))
            let cycles := 600 + max c.inLen.toNat (Bits.ceilDiv (w * h) 16) + Bits.ceilDiv out.length 64
            match r.2 with
            | some f => (r.1, some f, 6, 0, 0, cycles)
            | none => (r.1, none, 0, Bits.ceilDiv (w * m) 256 * Bits.ceilDiv (h * m) 256, out.length, cycles)

/-- The command at the head of a decoder's queue runs. -/
def folioStart (s : State) (d : Nat) : State :=
  match s.decoder d with
  | [] => s
  | j :: rest =>
    let (s1, fault, reason, patches, bytes, cycles) := s.folioRun j.x j.c
    (s1.setDecoder d ({ j with due := s.now + cycles, result := some (fault, reason, patches, bytes) } :: rest)).emitNet cycles
      (.folioDecodeComplete d)

/-- The decoder a command is forwarded to (R278): the lowest with the fewest commands. -/
def folioPick (s : State) : Nat :=
  ((List.range 8).foldl (fun (best : Nat) d => if (s.decoder d).length < (s.decoder best).length then d else best) 0)

end State

/-- DECODE (R278): checked at acceptance and forwarded. -/
def execDecodeCmd (x : CmdCtx) (c : DecodeCmd) (s : State) : Result :=
  .next <|
    if c.ofmt.toNat ≥ 2 || c.budget = 0 || badAddress x c.input || badAddress x c.out then s.reject x 3 8
    else
      let d := s.folioPick
      let idle := (s.decoder d).isEmpty
      let s1 := (s.startCommand x 3 0).setDecoder d (s.decoder d ++ [{ x := x, c := c, due := 0, result := none }])
      if idle then s1.folioStart d else s1

/-- FOLIO_DECODE_COMPLETE (R278): the job completes once its writes have landed, the decoder sends its message, and
its next command runs. -/
def execFolioDecodeComplete (s : State) : Result :=
  .next <|
    match s.ev with
    | .folioDecodeComplete d =>
      match s.decoder d with
      | [] => s
      | j :: rest =>
        match j.result with
        | none => s
        | some (fault, reason, patches, bytes) =>
          if s.now < j.due then s
          else if !(s.engine j.x.quire 3).waiting.isEmpty || s.unitWaiting j.x.part then s.emit 1 (.folioDecodeComplete d)
          else
            let e : JobEnd := { x := j.x, engine := 3, prog := 0, fault := fault, rejected := false }
            let msg : Msg :=
              { cls := j.c.rcls, type := j.c.rtype, flags := 0, key := j.c.rkey, score := 0, sstrand := 0xFE, plen := 4,
                chseq := 0, edition := 0, pcx := 0, node := 0,
                payload := [BitVec.ofNat 64 (j.x.job.toNat + 65536 * j.x.core.getD 0), jobStatus e, BitVec.ofNat 64 patches,
                  BitVec.ofNat 64 (bytes + reason * 2 ^ 56)] }
            let s1 := (s.setDecoder d rest).emit (toBase j.x.quire) (.engineCommandComplete e)
            ((s1.unitMessage d j.x.part j.x.ctx msg).pulse j.x.part j.x.ctx).folioStart d
    | _ => s

end Sys2Proof.Machine
end

