-- ==== Sys2Proof/Machine/Csr.lean ====
section
/-! DEFINITION. Control registers (R84-R88, R224), context switches, translation and interleave control, and the
restart of a stopped strand (R225-R229). -/

namespace Sys2Proof.Machine

/-- The selector of a `csrr` or `csrw`: word bits [11:0] (R224). -/
def selOf (c : CWord) : Nat := c.a.toNat * 128 + c.b.toNat * 4 + c.msk.toNat

/-- Who may write a register (R84). -/
inductive CsrWrite where
  | user | super | never
  deriving DecidableEq, Repr

def csrKind (sel : Nat) : Option CsrWrite :=
  match sel with
  | 0x001 | 0x002 | 0x003 | 0x010 | 0x017 | 0x024 => some .user
  | 0x011 | 0x012 | 0x013 | 0x015 | 0x020 | 0x021 | 0x022 | 0x023 | 0x025 | 0x040 => some .super
  | 0x014 | 0x016 | 0x030 | 0x031 => some .never
  | n => if 0x100 ≤ n && n < 0x110 then some .never else none

/-- The writable bits of a register (R4, and its map). -/
def csrMask (sel : Nat) : Word :=
  match sel with
  | 0x001 => 0x5F3
  | 0x002 => 0xFFFF
  | 0x003 => 0x3FFFF
  | 0x010 => 0xFFFF
  | 0x011 => 0x3F800
  | 0x012 => 0x3FFFFFFFFFFFF
  | 0x013 => 0x107FF
  | 0x015 => BitVec.allOnes 64
  | 0x020 => 0xFFFFFFFFFFFF
  | 0x021 => 0x1FFFFFFFFFFFFC0
  | 0x022 => 0x1FFFF
  | 0x023 => 0x1FFFFFFFFFFFFC0
  | 0x025 => 0xFFFFFFFF
  | 0x040 => 0x9FFFFFFFFFFFFFFF
  | _ => 0

/-- A register after a write: ENGFLT1.V is cleared by writing 1, and GKICK reads 0 (R71, R410). -/
def csrMerge (sel : Nat) (old val : Word) : Word :=
  match sel with
  | 0x017 => if val.getLsbD 32 then old &&& ~~~((1 : Word) <<< 32) else old
  | 0x024 => 0
  | n => (old &&& ~~~(csrMask n)) ||| (val &&& csrMask n)

/-- A write through a view of the flags word (R79). -/
def setFpctl (flags val : Word) : Word := (flags &&& ~~~0x5F3) ||| (val &&& 0x5F3)
def setCbsel (flags val : Word) : Word := (flags &&& ~~~((0xFFFF : Word) <<< 24)) ||| ((val &&& 0xFFFF) <<< 24)

namespace State

/-- CORESCHED with SWPEND (R65). -/
def coreschedOf (c : Core) : Word :=
  (c.coresched &&& ~~~((1 : Word) <<< 17)) ||| (if c.ctxReq = c.ctxRun then 0 else 1 <<< 17)

/-- The writes of a context's register that have committed and are on their way to the base die, in their order (R85). -/
def csrComing (s : State) (part ctx sel : Nat) : List Word :=
  (s.agenda.map (·.2.2) ++ s.sent.map (·.2)).filterMap fun e =>
    match sel, e with
    | 0x020, .registerWrite (.upcall p c) v | 0x021, .registerWrite (.clsTab p c) v | 0x022, .registerWrite (.clsNum p c) v
    | 0x023, .registerWrite (.graphBase p c) v | 0x025, .registerWrite (.wdogWin p c) v | 0x040, .expcapWrite p c v =>
      if p == part && c == ctx then some v else none
    | _, _ => none

/-- A register as committed (R84). -/
def csrCommitted (s : State) (sel : Nat) : Word :=
  let t := s.me
  let c := s.myCore
  let x := s.context t.part t.ctx
  let p := s.partition t.part
  match sel with
  | 0x001 => s.pre.flags &&& 0xFFFF
  | 0x002 => (cbselOf s.pre.flags).setWidth 64
  | 0x003 => t.scaleBase
  | 0x010 => c.wayMask
  | 0x011 => c.frecBase
  | 0x012 => c.aslot
  | 0x013 => coreschedOf c
  | 0x014 => c.ctxRun
  | 0x015 => c.ctxReq
  | 0x016 => c.engFlt0
  | 0x017 => c.engFlt1
  | 0x020 => x.upcall
  | 0x021 => x.clsTab
  | 0x022 => x.clsNum
  | 0x023 => x.graphBase
  | 0x025 => x.wdogWin
  | 0x030 => p.hmask
  | 0x031 => p.plimit
  | 0x040 => x.expcap
  | n => if 0x100 ≤ n && n < 0x110 then look 0 (n - 0x100) (s.quire (quireOf s.cur.core)).zp else 0

/-- A register as the strand reads it: its own uncommitted writes are seen, and the committed ones that a `csrr` follows to the base die (R85). -/
def csrRead (s : State) (sel : Nat) : Word :=
  ((s.me.closed ++ [s.me.opened]).flatMap (·.held)).foldl (fun v h =>
    match h with
    | .csr n val => if n = sel then csrMerge sel v val else v
    | _ => v) ((s.csrComing s.me.part s.me.ctx sel).foldl (csrMerge sel) (s.csrCommitted sel))

/-- Cycles of a `csrr` (R224). -/
def csrCost (s : State) (sel : Nat) : Nat :=
  if sel < 0x010 then 0 else if sel < 0x020 then 2 else if 0x100 ≤ sel then 24 else 20 + toBase (quireOf s.cur.core)

/-- The fault of an access to a register, if any (R224). -/
def csrFault (s : State) (sel : Nat) (write : Bool) : Option EventCode :=
  match csrKind sel with
  | none => some .reservedField
  | some .never => if write then some .permission else none
  | some .super => if privOf s.pre.flags then none else some .permission
  | some .user => none

/-! ## ASLOT and WAYMASK (R33, R86, R414) -/

def aslotCount (v : Word) : Nat := Bits.get v.toNat 31 26
def aslotSize (v : Word) : Nat := Bits.get v.toNat 25 18
def aslotBase (v : Word) : Nat := Bits.get v.toNat 17 0
def aslotMsg (v : Word) : Nat := Bits.get v.toNat 49 32

/-- Whether `n` bytes from an offset lie in scratch ways. -/
def inWays (mask : Word) (off n : Nat) : Bool :=
  n == 0 || (decide (off + n ≤ 262144) &&
    (List.range ((off + n - 1) / 16384 + 1 - off / 16384)).all fun j => mask.getLsbD (off / 16384 + j))

/-- ASLOT is valid (R33): aligned bases, all slots and the message lines in scratch ways. -/
def aslotOk (mask v : Word) : Bool :=
  aslotBase v % 256 == 0 && aslotMsg v % 256 == 0 &&
  inWays mask (aslotBase v) (256 * aslotSize v * aslotCount v) && inWays mask (aslotMsg v) 4096

def popcount (v : Word) : Nat := ((List.range 64).filter fun j => v.getLsbD j).length

/-- WAYMASK is accepted (R86, R414) beside an ASLOT and an FRECBASE that have been written. -/
def wayMaskOk (s : State) (part : Nat) (aslot frec : Option Word) (v : Word) : Bool :=
  decide (popcount (v &&& 0xFFFF) ≤ (s.partition part).plimit.toNat % 16) &&
  aslot.all (fun a => inWays v (aslotBase a) (256 * aslotSize a * aslotCount a) && inWays v (aslotMsg a) 4096) &&
  frec.all fun f => inWays v (Bits.get f.toNat 17 11 * 2048) 2048

/-- ASLOT and FRECBASE of a core, where they have been written since reset (R414). -/
def aslotSet (c : Core) : Option Word := if c.aslotWritten then some c.aslot else none
def frecSet (c : Core) : Option Word := if c.frecWritten then some c.frecBase else none

/-- A register that has been written since reset, as the strand reads it: its own uncommitted writes count (R85, R414). -/
def csrSet (s : State) (sel : Nat) (committed : Option Word) : Option Word :=
  if committed.isSome || ((s.me.closed ++ [s.me.opened]).any fun c => c.held.any fun h => match h with | .csr n _ => n == sel | _ => false) then
    some (s.csrRead sel)
  else none

end State

/-- `csrr` (R224). -/
def execCsrr (c : CWord) (s : State) : Result :=
  checked (.csrr c) s fun s =>
    let sel := selOf c
    match s.csrFault sel false with
    | some e => s.raiseCode e
    | none =>
      if sel < 0x010 then (s.writeS c.d (s.csrRead sel)).advance
      else (s.result c.la (s.csrCost sel) [.s c.d] [.s c.d (s.csrRead sel)]).advance

/-- The value of a `csrw` (R224). -/
def State.csrValue (s : State) (c : CWord) : Word :=
  match c.ta with
  | .s | .v => s.readS c.d
  | .cb => s.readCb c.d
  | .lit => literal 0 c.ext

/-- `csrw` (R85, R224): strand and slot registers at once, the others held. -/
def execCsrw (c : CWord) (s : State) : Result :=
  checkedAfter (fun s => (s.csrFault (selOf c) true).map fun e => { code := e }) (.csrw c) s fun s =>
    let sel := selOf c
    let v := s.csrValue c
    match s.csrFault sel true with
    | some e => s.raiseCode e
    | none =>
      match sel with
      | 0x001 => (s.updMe fun t => { t with regs := { t.regs with flags := setFpctl t.regs.flags v } }).advance
      | 0x002 =>
        ((s.updMe fun t => { t with regs := { t.regs with flags := setCbsel t.regs.flags v }, copy := .wanted }).emit 0
          (.cbselWrite s.cur (v &&& 0xFFFF))).advance
      | 0x003 => (s.updMe fun t => { t with scaleBase := v &&& 0x3FFFF }).advance
      | 0x010 =>
        if s.wayMaskOk s.me.part (s.csrSet 0x012 (State.aslotSet s.myCore)) (s.csrSet 0x011 (State.frecSet s.myCore)) v then (s.hold (.csr sel v)).advance
        else s.raiseCode .reservedField
      | 0x012 =>
        if State.aslotOk (s.csrRead 0x010) (v &&& csrMask sel) then (s.hold (.csr sel v)).advance
        else s.raiseCode .reservedField
      | _ => (s.hold (.csr sel v)).advance

/-! ## Context switch, resume (R225, R229, R399) -/

def execCtxsw (c : CWord) (s : State) : Result :=
  privileged (.ctxsw c) s fun s => (s.hold (.ctxsw (c.d.toNat % 8) (s.opA c))).advance

/-- The strand of a slot may be resumed by `by_` (R229, R399, R408): one that an upcall stopped, or, where no upcall could start for it, by an upcall
strand. -/
def resumable (s : State) (by_ r : Ref) : Bool :=
  let t := s.strand r
  let u := s.strand by_
  s.occupied r && r != by_ && t.wait == .stopped && t.fault.isSome && (t.byUpcall || u.kind == .upcall) && t.part == u.part && t.ctx == u.ctx

/-- `resume` (R229): checked at issue, held. -/
def execResume (c : CWord) (s : State) : Result :=
  checked (.resume c) s fun s =>
    let a := (s.opA c).toNat
    let r : Ref := ⟨s.cur.core, a % 16⟩
    if a / 16 ≠ 0 || !resumable s s.cur r then s.raiseCode .reservedField
    else (s.hold (.resume (a % 16))).advance

/-! ## Translation control (R226, R422) -/

namespace State

/-- Whether a range of addresses of a partition meets a line. -/
def meetsRange (lo n va : Nat) : Bool := decide (lo < va / 256 * 256 + 256) && decide (va / 256 * 256 < lo + n)

/-- What a `tinv` covers: the walk entries that go and the lines that go. -/
structure Tinv where
  part : Nat
  entry : WalkEntry → Bool
  line : Nat → BitVec 7 → Nat → Bool
  kind : Nat
  ctx : Nat
  va : Nat

/-- `tinv.page` (R226): the leaf that covers `va` is the one its held lines were filled under. -/
def tinvPage (part ctx va : Nat) : Tinv :=
  { part := part
    entry := fun e => e.part == part && (e.global || e.ctx == ctx) && decide (e.base ≤ va) && decide (va < e.base + e.size)
    line := fun ln _ size => ln * 256 / size == va / size, kind := 0, ctx := ctx, va := va }

def tinvCtx (part ctx : Nat) : Tinv :=
  { part := part
    entry := fun e => e.part == part && e.ctx == ctx && !e.global
    line := fun _ r _ => !globalLeaf r, kind := 1, ctx := ctx, va := 0 }

def tinvPart (part : Nat) : Tinv :=
  { part := part, entry := fun e => e.part == part, line := fun _ _ _ => true, kind := 2, ctx := 0, va := 0 }

/-- A line is covered, by what its leaf says; of a line that no leaf is known of, as a page of 4 KiB. -/
def Tinv.covers (k : Tinv) (line : Nat) (g : Grant) : Bool := k.line line g.rights (if g.size = 0 then 4096 else g.size)

/-- The lines a `tinv` drops. -/
def tinvLines (s : State) (k : Tinv) : List L2Line :=
  s.l2.filter fun l => l.part == k.part && k.covers l.line l.g

/-- Whether the address of a write is covered. -/
def tinvStore (s : State) (k : Tinv) (va : Nat) (g : Option Grant) : Bool :=
  match s.l2Find k.part (va / 256), g with
  | some l, _ => k.covers l.line l.g
  | none, some g => k.covers (va / 256) g
  | none, none => k.covers (va / 256) ⟨0, 0, 0⟩

/-- Chunks with a covered store, by whether they have been granted (R422). -/
def tinvChunks (s : State) (k : Tinv) (t : Strand) (granted : Bool) : Option Nat :=
  if t.part ≠ k.part then none
  else
    (t.closed ++ [t.opened]).findIdx? fun c => c.granted.isSome == granted && c.held.any fun h =>
      match h with
      | .store va _ g | .nontemporal va _ g => s.tinvStore k va.toNat g
      | _ => false

/-- Whether a granted chunk, or a committed write on its way to its home or waiting there, is covered (R422). -/
def tinvWaits (s : State) (k : Tinv) : Bool :=
  !(s.strandsWhere fun _ t => (s.tinvChunks k t true).isSome).isEmpty ||
    (s.writesUnderWay k.part).any fun w => s.tinvStore k w.1 (some w.2.2)

/-- An answer to a core, on its way, under a translation that a `tinv` removes: the core and the line. -/
def tinvAnswer (k : Tinv) (e : Event) : Option (Nat × Nat) :=
  match e with
  | .cacheFillReturn r part _ (.data va _ g) | .cacheFillReturn r part _ (.checked va g) =>
    if part == k.part && k.covers (va.toNat / 256) g then some (r.core, va.toNat / 256) else none
  | .cacheFillReturn r part _ (.fault _ f) =>
    if part == k.part && k.covers (f.va.toNat / 256) ⟨0, 0, 0⟩ then some (r.core, f.va.toNat / 256) else none
  | _ => none

/-- Those answers reach nobody: what waits for them asks again (R226, R422). -/
def forgetAnswers (s : State) (k : Tinv) : State :=
  let gone := (s.agenda.map (·.2.2)).filter fun e => (tinvAnswer k e).isSome
  let lost := gone ++ (s.sent.map (·.2)).filter fun e => (tinvAnswer k e).isSome
  lost.foldl (fun (s : State) e => match tinvAnswer k e with | some x => s.refill x.1 k.part x.2 | none => s)
    { s with sent := s.sent.filter (fun x => (tinvAnswer k x.2).isNone), flush := .drop gone }

/-- Every unit removes its stale translations at once (R226); the strand `by_` stands alone. -/
def tinvNow (s0 : State) (k : Tinv) (by_ : Option Ref) : State :=
  let s := s0.forgetAnswers k
  let s1 := (s.strandsWhere fun r t => some r != by_ && (s.tinvChunks k t false).isSome).foldl (fun s r =>
    match s.tinvChunks k (s.strand r) false with
    | some j => s.squashFrom r j
    | none => s) s
  let s2 := (s1.tinvLines k).foldl (fun s l => (s.writeBack l).l2Drop l.part l.line) s1
  let s3 := s2.cores.foldl (fun (s : State) e => s.leaveL1 e.1 fun l => l.part == k.part && k.covers l.line l.g) s2
  { s3 with
    dies := s3.dies.map fun d => (d.1, { d.2 with walk := d.2.walk.filter fun e => !k.entry e })
    cores := s3.cores.map fun c =>
      (c.1, { c.2 with
        slots := c.2.slots.map fun e =>
          let keep (x : Received) : Bool := match x with | .line va _ g => !k.covers (va.toNat / 256) g | _ => true
          (e.1, if e.2.part ≠ k.part then e.2 else { e.2 with
            known := [], received := e.2.received.filter keep, pending := e.2.pending.map fun p => { p with got := p.got.filter keep } }) }) }

/-- The other packages of a partition (R344). -/
def otherPackages (s : State) (part : Nat) : List Nat :=
  ((s.listed part).filter fun p => p != s.pkgid).eraseDups

/-- A `tinv` reaches every unit of the partition's packages (R226, R420): the strand goes on when all have acknowledged. -/
def tinvSend (s : State) (k : Tinv) : State :=
  let others := s.otherPackages k.part
  let ack := (s.cur, s.me.task, s.me.startedAt)
  let s1 := others.foldl (fun (s : State) p => s.toFabric (.tinv p k.part k.kind k.ctx k.va ack)) (s.advance.thenAlone)
  if others.isEmpty then s1.after (20 + toBase (quireOf s.cur.core))
  else s1.updMe fun t => { t with wait := .maintained, unackedMaint := t.unackedMaint + others.length }

/-- A `tinv` (R226): alone; it waits for the stores of granted chunks that it covers. -/
def tinv (s : State) (k : Tinv) : State :=
  if !s.aloneNow then s.waitAlone
  else if s.tinvWaits k then s.stall .ready
  else (s.tinvNow k (some s.cur)).tinvSend k

end State

def execTinvPage (c : CWord) (s : State) : Result :=
  privileged (.tinvPage c) s fun s =>
    let va := (s.opA c).toNat
    let k := State.tinvPage s.me.part s.me.ctx va
    if inAperture va then (if !s.aloneNow then s.waitAlone else s.tinvSend k) else s.tinv k

def execTinvCtx (c : CWord) (s : State) : Result :=
  privileged (.tinvCtx c) s fun s => s.tinv (State.tinvCtx s.me.part s.me.ctx)

def execTinvPart (c : CWord) (s : State) : Result :=
  privileged (.tinvPart c) s fun s => s.tinv (State.tinvPart s.me.part)

/-! ## Interleave domains (R137, R227) -/

/-- The first `hmset` of a partition's queue is sent to every slice it owns. -/
def State.hmsetSend (s : State) (part : Nat) : State :=
  match (s.partition part).hmsets with
  | [] => s
  | (_, val) :: _ =>
    let slices := s.homeList part
    (slices.foldl (fun s q => s.emitNet (toBase q) (.hmsetSliceAdopt part q val none)) s).updPartition part
      fun p => { p with adoptLeft := slices }

/-- The base die receives an `hmset` (R227): it follows those received before it. -/
def State.hmsetReceive (s : State) (part : Nat) (r : Ref) (val : Word) : State :=
  let s1 := s.updPartition part fun p => { p with hmsets := p.hmsets ++ [(r, val)] }
  if (s.partition part).hmsets.isEmpty then s1.hmsetSend part else s1

/-- `hmset` (R227): one at a time for a partition; complete when every slice has adopted the value. -/
def execHmset (c : CWord) (s : State) : Result :=
  privileged (.hmset c) s fun s =>
    if !s.aloneNow then s.waitAlone
    else
      (((s.emitNet (toBase (quireOf s.cur.core)) (.hmsetSliceAdopt s.me.part 0 (s.opA c) (some s.cur))).advance).thenAlone).updMe fun t => { t with wait := .maintained, unackedMaint := t.unackedMaint + 1 }

end Sys2Proof.Machine
end

