-- ==== Sys2Proof/Machine/Experts.lean ====
section
/-! DEFINITION. `topk` (R280, R281) and the capacity records of experts (R282, R312-R315). -/

namespace Sys2Proof.Machine

/-! ## topk -/

/-- The order-preserving key of a BF16 score (R281). -/
def scoreKey (x : Nat) : Nat := if x < 0x8000 then x + 0x8000 else 0xFFFF - x

/-- The fields of s[A+2] (R280). -/
structure TopkShape where
  e : Nat
  k : Nat
  rows : Nat
  ng : Nat
  gl : Nat
  deriving DecidableEq, Repr

def topkShape (w : Word) : TopkShape :=
  let n := w.toNat
  { e := Bits.get n 7 0 + 1, k := Bits.get n 12 8, rows := Bits.get n 17 13 + 1, ng := 2 ^ Bits.get n 21 18,
    gl := Bits.get n 30 22 }

def topkOk (w : Word) (t : TopkShape) : Bool :=
  w.toNat / 2 ^ 31 == 0 && decide (1 ≤ t.k) && decide (t.k ≤ 16) && decide (t.ng ≤ t.e) && t.e % t.ng == 0 &&
    decide (t.gl ≤ t.ng)

/-- The first of `n` picks in rank order: the greatest key, then the lowest index. -/
def rankFirst (key : Nat → Nat) : Nat → List Nat → List Nat
  | 0, _ => []
  | n + 1, live =>
    match live with
    | [] => []
    | a :: r =>
      let best := r.foldl (fun b e => if key b < key e then e else b) a
      best :: rankFirst key n (live.filter (· != best))

/-- The experts flagged for one row, in rank order, and whether there are fewer than `k` (R281). -/
def topkRow (t : TopkShape) (dead : Nat → Bool) (key : Nat → Nat) : List Nat × Bool :=
  let live := (List.range t.e).filter fun e => !dead e
  let size := t.e / t.ng
  let kept :=
    if t.gl = 0 then live
    else
      let groups := (List.range t.ng).filter fun g => live.any fun e => e / size == g
      let best (g : Nat) : Nat := (live.filter fun e => e / size == g).foldl (fun b e => max b (key e)) 0
      let keep := rankFirst best t.gl groups
      live.filter fun e => keep.contains (e / size)
  let flagged := rankFirst key t.k kept
  (flagged, decide (kept.length < t.k))

/-- The 64 bytes of a result row (R281). -/
def topkBytes (r : List Nat × Bool) : List Byte :=
  let bitmap := r.1.foldl (fun acc e => acc ||| 2 ^ e) 0
  Bytes.ofNat 32 bitmap ++ (r.1.map (BitVec.ofNat 8) ++ List.replicate 16 0xFF).take 16 ++
    [BitVec.ofNat 8 r.1.length, BitVec.ofNat 8 r.2.toNat] ++ List.replicate 14 0

/-- `n` bytes of the own scratch at an aligned address, through window 0 (R280). -/
def State.scratchRange (s : State) (acc : Access) (va n align : Nat) : Except FaultInfo Nat :=
  let f : Form := fullForm acc false
  let off := apOff va
  if va / 2 ^ 57 = 0 && inAperture va && va % align = 0 && apWindow va = 0 && apSel va = 0xFFF && !va.testBit 19 && apNib va = 0 &&
      inWays s.myCore.wayMask off n then
    if s.ownProtection acc off n then .ok off else .error (f.fault .protection va)
  else .error (f.fault .aperture va)

/-- `topk` (R280, R281): alone; 16 cycles for a row and 8. Its results are stores of its own chunk (R160). -/
def execTopk (c : CWord) (s : State) : Result :=
  checked (.topk c) s fun s =>
    let arg (j : Nat) : Word := s.readS (c.a + BitVec.ofNat 5 j)
    let t := topkShape (arg 2)
    if 12 < c.a.toNat || !topkOk (arg 2) t then s.raiseCode .reservedField
    else
      let rowBytes := 32 * Bits.ceilDiv t.e 16
      let dead := arg 3
      match s.scratchRange .load (arg 0).toNat (t.rows * rowBytes) 32, s.scratchRange .store (arg 1).toNat (64 * t.rows) 32,
          (if dead = 0 then .ok 0 else s.scratchRange .load dead.toNat 32 32) with
      | .error x, _, _ | .ok _, .error x, _ | .ok _, .ok _, .error x => s.raise x
      | .ok sc, .ok out, .ok dd =>
        if !s.aloneNow then s.waitAlone
        else
          let st := s.myCore.store
          let isDead (e : Nat) : Bool := dead != 0 && (memGet st (dd + e / 8)).getLsbD (e % 8)
          let results := (List.range t.rows).map fun r =>
            topkRow t isDead fun e => scoreKey (Bytes.toNat (memLoad st (sc + r * rowBytes + 2 * e) 2))
          let short := results.zipIdx.foldl (fun acc r => if r.1.2 then acc + 2 ^ r.2 else acc) 0
          let data := results.flatMap topkBytes
          let s1 := (s.hold (.scratch out data false)).noteWrites ((sectorsOf out data.length).map scratchVa)
          (((s1.writeS c.d (BitVec.ofNat 64 short)).advance).thenAlone).after (16 * t.rows + 8)

/-! ## Capacity records (R282, R312) -/

/-- The fields of EXPCAP (R313). -/
def expEn (v : Word) : Bool := v.getLsbD 63
def expA (v : Word) : Nat := Bits.get v.toNat 60 58 + 1
def expH (v : Word) : Nat := 16 + min 48 (Bits.get v.toNat 57 52)
def expMax (v : Word) : Nat := Bits.get v.toNat 51 36
def expBase (v : Word) : Nat := Bits.get v.toNat 35 0 * 2 ^ 21

/-- A record's VA (R312). -/
def expRecord (v : Word) (layer e : Nat) : Nat := expBase v + 8 * (256 * layer + e)

/-- The capacity header's VA. -/
def expHeader (v : Word) : Nat := expBase v + 0x1FF800

/-- A record at a batch close (R282). -/
def closeRecord (v : Word) (rec64 : Nat) : Nat :=
  let load := Bits.get rec64 63 48
  let ew := Bits.get rec64 31 0
  let d : Int := (load * 65536 : Nat) - (ew : Int)
  let ew1 := ((ew : Int) + d / 2 ^ expA v).toNat % 2 ^ 32
  let cap := min (expMax v) (Bits.ceilDiv (ew1 * expH v) (2 ^ 20))
  ew1 + 2 ^ 32 * cap

/-- A record when a row is routed (R314): the new record, and whether the row is beyond capacity. -/
def routeRecord (rec64 : Nat) : Nat × Bool :=
  let load := Bits.get rec64 63 48
  let cap := Bits.get rec64 47 32
  (rec64 % 2 ^ 48 + 2 ^ 48 * min (load + 1) 65535, decide (cap ≤ load))

namespace State

/-- The expert and layer of a key that names an expert's record (R312, R314). -/
def expertKey (m : Msg) : Option (Nat × Nat) :=
  let e := (m.key.extractLsb' 0 16).toNat
  let l := (m.key.extractLsb' 16 16).toNat
  if e < 256 && l < 1023 && m.key.extractLsb' 32 96 == 0 then some (l, e) else none

/-- The layer a close request names (R315). -/
def closeKey (m : Msg) : Option Nat :=
  let l := (m.key.extractLsb' 16 16).toNat
  if (m.key.extractLsb' 0 16).toNat = 0xFFFF && l < 1023 then some l else none

/-- EXPCAP's class and fallback field as the homes hold them (R313). -/
def handExperts (s : State) (part ctx : Nat) : State :=
  let v := (s.context part ctx).expcap
  if expEn v then
    match s.unitWord part ctx (expHeader v) 4 with
    | (s1, .error _) => s1
    | (s1, .ok h) => s1.updContext part ctx fun x => { x with expert := some (BitVec.ofNat 16 h, BitVec.ofNat 16 (h / 65536)) }
  else s

/-- A batch close under an EXPCAP (R282, R315): the layer's records in ascending order, then CLOSES. -/
def closeLayer (s : State) (v : Word) (part ctx layer : Nat) : State × Word :=
  let s1 := (List.range 256).foldl (fun (s : State) e =>
    match s.unitWord part ctx (expRecord v layer e) 8 with
    | (s1, .error _) => s1
    | (s1, .ok r) => (s1.unitWrite part ctx (expRecord v layer e) (Bytes.ofNat 8 (closeRecord v r))).1) s
  match s1.unitWord part ctx (expHeader v + 8) 8 with
  | (s2, .error _) => (s2, 0)
  | (s2, .ok n) =>
    let n1 := (n + 1) % 2 ^ 64
    ((s2.unitWrite part ctx (expHeader v + 8) (Bytes.ofNat 8 n1)).1, BitVec.ofNat 64 n1)

end State

/-- EXPCAP_WRITE (R313, R85). -/
def execExpcapWrite (s : State) : Result :=
  .next <|
    match s.ev with
    | .expcapWrite part ctx val =>
      (s.updContext part ctx fun x => { x with expcap := val &&& 0x9FFFFFFFFFFFFFFF }).handExperts part ctx
    | _ => s

end Sys2Proof.Machine
end

