-- ==== Sys2Proof/Machine/Sampler.lean ====
section
/-! DEFINITION. The Astrolabe samplers (R283, R317-R327, R360): the request, the queue, the program words and their
reply. -/

namespace Sys2Proof.Machine

/-! ## samp (R283) -/

/-- The request of 64 bytes; `none` breaks a rule of its layout. -/
def sampRequest (s : State) (b : List Byte) : Option SampReq :=
  let f (o n : Nat) : Nat := lineNat b o n
  if f 0 2 / 512 != 0 || f 2 1 / 8 != 0 || f 7 1 != 0 || 2 ≤ f 8 1 || f 9 3 != 0 || f 26 6 != 0 || f 48 8 != 0 || f 56 8 != 0 then none
  else
    some { who := s.cur, start := s.me.startedAt, task := s.me.task, part := s.me.part, ctx := s.me.ctx, ctxId := f 0 2, sampler := f 2 1, rtype := BitVec.ofNat 8 (f 3 1),
           v := f 4 3 + 1, fmt := f 8 1, arg := BitVec.ofNat 32 (f 12 4), logits := BitVec.ofNat 64 (f 16 8),
           rcls := BitVec.ofNat 16 (f 24 2), rkey := BitVec.ofNat 128 (f 32 16) }

/-- `samp` (R283): the place is asked for at issue; the request leaves at the commit. -/
def execSamp (c : CWord) (s : State) : Result :=
  checked (.samp c) s fun s =>
    match s.ownLine (s.opA c).toNat 64 with
    | .error x => s.raise x
    | .ok off =>
      let r := s.readLine off 64
      match sampRequest s r.2 with
      | none => s.raiseCode .reservedField
      | some q =>
        (((r.1.hold (.sample s.ids q)).openWindow c.la [.s c.d]).emitNet (4 + toBase (quireOf s.cur.core))
          (.sampleRequestReserve s.cur s.ids q)).advance

/-- A place of a sampler's queue is free (R317). DESIGN CHOICE (log 88): the request that runs keeps its place, since it takes one again when it parks. -/
def Sampler.hasPlace (x : Sampler) : Bool := decide (x.queue.length + x.reserved.length + (if x.running.isSome then 1 else 0) < 64)

/-- SAMPLE_REQUEST_RESERVE (R283): a place is accepted, with its number in the order of R318, or refused. -/
def execSampleRequestReserve (s : State) : Result :=
  .next <|
    match s.ev with
    | .sampleRequestReserve r tag q =>
      let x := s.sampler q.sampler
      let back := 4 + toBase (quireOf r.core)
      if x.hasPlace then
        (s.updSampler q.sampler fun x => { x with reserved := q.part :: x.reserved, order := x.order + 1 }).emitNet back
          (.sampleAnswer r tag q.sampler (some x.order))
      else s.emitNet back (.sampleAnswer r tag q.sampler none)
    | _ => s

/-- The held request of a window. -/
def State.heldSample (s : State) (r : Ref) (tag : Nat) : Option SampReq :=
  let t := s.strand r
  ((t.closed ++ [t.opened]).flatMap (·.held)).findSome? fun h =>
    match h with
    | .sample n q => if n = tag then some q else none
    | _ => none

/-- SAMPLE_ANSWER (R283): 0 accepted, 1 refused, into the destination of the window with that tag; a place taken for a `samp` that has been
squashed meanwhile is free again. -/
def State.answerSample (s : State) (r : Ref) (tag sampler : Nat) (place : Option Nat) : State :=
  let d := ((s.strand r).windows.find? fun w => w.tag == tag).map (·.dests)
  let ws : List RegWrite := ((d.getD []).filterMap fun x =>
    match x with
    | .s n => some (RegWrite.s n (if place.isSome then 0 else 1))
    | _ => none)
  let keep (h : Held) : Option Held :=
    match h, place with
    | .sample n q, some k => some (.sample n { q with order := k })
    | _, _ => none
  match s.settle r tag keep ws, place with
  | some s1, _ => s1
  | none, some _ => s.updSampler sampler fun x => { x with reserved := x.reserved.erase ((s.owner (quireOf r.core)).getD 0) }
  | none, none => s

def execSampleAnswer (s : State) : Result :=
  .next <| match s.ev with | .sampleAnswer r tag n place => s.answerSample r tag n place | _ => s

/-- A place in the order of acceptance (R318). -/
def insertPlace (w : Waiting) (q : List Waiting) : List Waiting :=
  (q.filter fun v => v.order < w.order) ++ [w] ++ q.filter fun v => w.order < v.order

/-- SAMPLE_REQUEST_ARRIVAL (R283): the request joins the queue in the place it has been given. -/
def execSampleRequestArrival (s : State) : Result :=
  .next <|
    match s.ev with
    | .sampleRequestArrival q =>
      (s.updSampler q.sampler fun x =>
        { x with reserved := x.reserved.erase q.part
                 queue := insertPlace { req := q, order := q.order, parked := none, ready := false } x.queue }).emit 0 (.samplerRun q.sampler)
    | _ => s

/-! ## Values (R320, R324, R327) -/

def q32Min : Int := -2 ^ 63
def q32Max : Int := 2 ^ 63 - 1
def q32Clamp (x : Int) : Int := max q32Min (min q32Max x)

/-- A logit as Q32.32; `none` is a NaN. -/
def logitValue (x : W32) : Option Int :=
  match unpack fp32 x.toNat with
  | .fin n m e => some (q32Clamp (shiftFloor (if n then -(m : Int) else m) (e + 32)))
  | .inf n => some (if n then q32Min else q32Max)
  | .nan _ => none

/-- The order of a candidate list. -/
def Cand.before (a b : Cand) : Bool := b.value < a.value || (a.value == b.value && a.token < b.token)

def insertCand (c : Cand) : List Cand → List Cand
  | [] => [c]
  | d :: r => if c.before d then c :: d :: r else d :: insertCand c r

def sortCands (cs : List Cand) : List Cand := cs.foldl (fun acc c => insertCand c acc) []

/-- D[0] to D[64] (R324). -/
def expTable : List Nat :=
  [0x80000000, 0x7E9F0606, 0x7D41D96E, 0x7BE86FBA, 0x7A92BE8B, 0x7940BB9E, 0x77F25CCE, 0x76A7980F] ++
  [0x75606374, 0x741CB528, 0x72DC8374, 0x719FC4B9, 0x70666F76, 0x6F307A41, 0x6DFDDBCC, 0x6CCE8AE1] ++
  [0x6BA27E65, 0x6A79AD56, 0x69540EC9, 0x683199ED, 0x6712460B, 0x65F60A7F, 0x64DCDEC3, 0x63C6BA64] ++
  [0x62B39509, 0x61A3666D, 0x60962665, 0x5F8BCCDB, 0x5E8451D0, 0x5D7FAD59, 0x5C7DD7A4, 0x5B7EC8F2] ++
  [0x5A82799A, 0x5988E209, 0x5891FAC1, 0x579DBC57, 0x56AC1F75, 0x55BD1CDB, 0x54D0AD5A, 0x53E6C9DA] ++
  [0x52FF6B55, 0x521A8AD7, 0x51382182, 0x50582888, 0x4F7A9930, 0x4E9F6CD4, 0x4DC69CDD, 0x4CF022CA] ++
  [0x4C1BF829, 0x4B4A169C, 0x4A7A77D4, 0x49AD1598, 0x48E1E9BA, 0x4818EE22, 0x47521CC6, 0x468D6FAE] ++
  [0x45CAE0F2, 0x450A6ABB, 0x444C0740, 0x438FB0CB, 0x42D561B4, 0x421D1462, 0x4166C34C, 0x40B268FA] ++
  [0x40000000]

/-- The weight of a candidate `t` below the first (R324). -/
def candWeight (t : Int) : Nat :=
  let y : Int := t * 0x171547652 / 2 ^ 32
  let m := (-y).toNat
  let n := m / 2 ^ 32
  let f := m % 2 ^ 32
  let j := f / 2 ^ 26
  let lo := expTable.getD j 0
  let hi := expTable.getD (j + 1) 0
  (lo - (lo - hi) * (f % 2 ^ 26) / 2 ^ 26) / 2 ^ n

def sumWeights (cs : List Cand) : Nat := cs.foldl (fun acc c => acc + c.weight) 0

/-- The shortest prefix whose weights reach `need`, and at least one entry (the operation of R322's 0x11). -/
def nucleus (need : Nat) : Nat → List Cand → List Cand
  | _, [] => []
  | acc, c :: r => if need ≤ acc + c.weight then [c] else c :: nucleus need (acc + c.weight) r

/-- The first entry whose cumulative weight exceeds a target. -/
def pickFrom (target : Nat) : Nat → List Cand → Option Nat
  | _, [] => none
  | acc, c :: r => if target < acc + c.weight then some c.token else pickFrom target (acc + c.weight) r

/-- The counter-based generator (R327). -/
def randWord (key ctr : Word) : Word :=
  let y := mix (mix (key ^^^ (ctr * 0x9E3779B97F4A7C15)) 0xBF58476D1CE4E5B9 30) 0x94D049BB133111EB 27
  y ^^^ (y >>> 31)

/-! ## Runs (R318, R325, R326) -/

namespace State

/-- A word of a context image (R319). -/
def image (s : State) (n ctx k : Nat) : Word := look 0 k (look [] ctx (s.sampler n).images)

def setImage (s : State) (n ctx k : Nat) (v : Word) : State :=
  s.updSampler n fun x => { x with images := put ctx (put k v (look [] ctx x.images)) x.images }

def cands (s : State) (n ctx : Nat) : List Cand := look [] ctx (s.sampler n).lists

def setCands (s : State) (n ctx : Nat) (cs : List Cand) : State :=
  s.updSampler n fun x => { x with lists := put ctx cs x.lists }

/-- Bytes that a sampler reads for its request (R321). -/
def samplerRead (s : State) (q : SampReq) (va n : Nat) : State × Option (List Byte) :=
  if 2 ^ 57 < va + n + 1 || inAperture va then (s, none)
  else
    match s.unitRead q.part q.ctx va n with
    | (s1, .error _) => (s1, none)
    | (s1, .ok b) => (s1, some b)

/-- The logit of a token in a row (R320); outer `none` is a fault, inner `none` a NaN. -/
def readLogit (s : State) (q : SampReq) (row token : Nat) : State × Option (Option Int) :=
  let size := if q.fmt = 0 then 4 else 2
  match s.samplerRead q (at64 q.logits ((row * q.v + token) * size)) size with
  | (s1, none) => (s1, none)
  | (s1, some b) =>
    (s1, some (logitValue (BitVec.ofNat 32 (if q.fmt = 0 then Bytes.toNat b else Bytes.toNat b * 65536))))

/-- The end of a run with its reply (R325, R326). -/
def endRun (s : State) (n status : Nat) : State :=
  match (s.sampler n).running with
  | none => s
  | some r =>
    let q := r.req
    let tok (j : Nat) : Nat := (r.emitted.getD j 0).toNat
    let msg : Msg :=
      { cls := q.rcls, type := q.rtype, flags := 0, key := q.rkey, score := 0, sstrand := 0xFE, plen := 10, chseq := 0,
        edition := 0, pcx := 0, node := 0,
        payload := [BitVec.ofNat 64 (q.ctxId + 65536 * r.emitted.length + 2 ^ 24 * status +
            2 ^ 32 * ((s.image n q.ctxId 1).toNat % 2 ^ 32)), r.g[1]] ++
          (List.range 8).map fun i => BitVec.ofNat 64 (tok (2 * i) + 2 ^ 32 * tok (2 * i + 1)) }
    (((s.updSampler n fun x => { x with running := none }).unitMessage (0x100 + n) q.part q.ctx msg).pulse q.part q.ctx).emit 0
      (.samplerRun n)

/-- The run goes on at `pc` after `cost` cycles, with the limit of R326. -/
def goOn (s : State) (n : Nat) (r : Run) (pc cost : Nat) : State :=
  let s1 := s.updSampler n fun x => { x with running := some { r with pc := pc, count := r.count + 1, due := s.now + cost } }
  if 65536 ≤ r.count + 1 then s1.emit 0 (.samplerInstructionLimit n) else s1

/-- A register as a program reads it. -/
def greg (r : Run) (n : BitVec 4) : Word := if n = 0 then 0 else r.g[n.toNat]

def setGreg (r : Run) (n : BitVec 4) (v : Word) : Run := if n = 0 then r else { r with g := r.g.set n.toNat v }

/-- The oldest request that may run (R318): a parked one once it can resume; none of a context behind a parked one. -/
def runnable (q : List Waiting) : Option Waiting :=
  (q.zipIdx.find? fun (w, j) =>
    if w.parked.isSome then w.ready
    else !((q.take j).any fun v => v.parked.isSome && v.req.ctxId == w.req.ctxId)).map (·.1)

/-- A sampler that waits to switch to an edition takes no request (R294). -/
def samplerHeld (s : State) (n : Nat) : Bool := s.editions.any fun e => e.marked.contains (.sampler n) && e.left.contains (.sampler n)

/-- The sampler starts or resumes a request (R317, R318, R360). DEDUCED (log 91): a run starts with an empty list, so that its result depends on
the logits, the image and the request alone (R316). -/
def samplerStart (s : State) (n : Nat) : State :=
  let x := s.sampler n
  if x.hold || x.running.isSome || s.samplerHeld n then s
  else
    match runnable x.queue with
    | none => s
    | some w =>
      if s.writesOut w.req.who w.req.start w.req.task then s.emit 1 (.samplerRun n)
      else
      let fresh : Run := { req := w.req, order := w.order, pc := (s.image n w.req.ctxId 0).toNat % 2048,
                           g := Vector.replicate 16 0, count := 0, emitted := [], due := s.now }
      let r := match w.parked with | some p => { p with due := s.now } | none => fresh
      let own := (look 0 w.req.ctxId x.own).toNat == 0x80 + w.req.part
      let s1 := s.updSampler n fun x =>
        { x with queue := x.queue.filter fun v => v.order != w.order, running := some r
                 lists := if w.parked.isSome || !own then x.lists else drop w.req.ctxId x.lists }
      if own then s1 else s1.endRun n 7

/-- Whether the mask slot of a context holds its position (R323); `none` is a fault. -/
def maskReady (s : State) (n : Nat) (q : SampReq) : State × Option Bool :=
  let pos := s.image n q.ctxId 1
  match s.samplerRead q (at64 (s.image n q.ctxId 4) ((s.image n q.ctxId 5).toNat % 2 ^ 32 * (pos.toNat % 16))) 8 with
  | (s1, none) => (s1, none)
  | (s1, some b) => (s1, some (Bytes.toNat b == pos.toNat))

/-- The examination of the parked requests (R318). -/
def examine (s : State) (n : Nat) : State :=
  let s1 := (s.sampler n).queue.foldl (fun (s : State) w =>
    if w.parked.isNone || w.ready then s
    else
      match s.maskReady n w.req with
      | (s1, some false) => s1
      | (s1, _) => s1.updSampler n fun x =>
          { x with queue := x.queue.map fun v => if v.order = w.order then { v with ready := true } else v }) s
  let s2 := if (s1.sampler n).queue.any fun w => w.parked.isSome && !w.ready then s1.emit 256 (.samplerParkExamine n) else s1
  s2.emit 0 (.samplerRun n)

/-- The run parks at its `gmask` (R323). -/
def park (s : State) (n : Nat) (r : Run) : State :=
  let x := s.sampler n
  let first := !(x.queue.any fun w => w.parked.isSome && !w.ready)
  let w : Waiting := { req := r.req, order := r.order, parked := some r, ready := false }
  let s1 := (s.updSampler n fun x =>
    { x with running := none,
             queue := insertPlace w x.queue }).emit 0
    (.samplerRun n)
  if first then s1.emit (256 - s.now % 256) (.samplerParkExamine n) else s1

end State

/-- SAMPLER_RUN (R318). -/
def execSamplerRun (s : State) : Result :=
  .next <| match s.ev with | .samplerRun n => s.samplerStart n | _ => s

/-- SAMPLER_PARK_EXAMINE (R318). -/
def execSamplerParkExamine (s : State) : Result :=
  .next <| match s.ev with | .samplerParkExamine n => s.examine n | _ => s

/-- SAMPLER_INSTRUCTION_LIMIT (R326). -/
def execSamplerInstructionLimit (s : State) : Result :=
  .next <|
    match s.ev with
    | .samplerInstructionLimit n =>
      match (s.sampler n).running with
      | some r => if 65536 ≤ r.count then s.endRun n 4 else s
      | none => s
    | _ => s

/-! ## Program words (R322) -/

/-- A program word of the sampler at hand: nothing without a run, STATUS 1 for a word that R326 refuses. -/
def samplerWord (i : Instr) (s : State) (k : Run → State → State) : Result :=
  .next <|
    match (s.sampler s.smp).running with
    | none => s
    | some r => if i.wf then k r s else s.endRun s.smp 1

/-- A word that writes a register in one cycle. -/
def samplerResult (i : Instr) (w : SWord) (s : State) (f : Run → State → Word) : Result :=
  samplerWord i s fun r s => s.goOn s.smp (State.setGreg r w.d (f r s)) (r.pc + 1) 1

/-- A branch: targets count in words from the branch. DEDUCED (log 18): a target below 0 is past the store. -/
def samplerBranch (i : Instr) (w : SWord) (s : State) (taken : Word → Bool) : Result :=
  samplerWord i s fun r s =>
    let pc : Int := if taken (State.greg r w.a) then (r.pc : Int) + w.imm.toInt else (r.pc : Int) + 1
    s.goOn s.smp r (if pc < 0 then 2048 else pc.toNat) 1

/-- A word that changes the candidate list: the list's entries and 4 cycles (R322). -/
def samplerList (i : Instr) (s : State) (f : Run → State → List Cand → Run × List Cand) : Result :=
  samplerWord i s fun r s =>
    let cs := s.cands s.smp r.req.ctxId
    let (r1, cs1) := f r s cs
    (s.setCands s.smp r.req.ctxId cs1).goOn s.smp r1 (r.pc + 1) (cs.length + 4)

def execSamplerHalt (w : SWord) (s : State) : Result := samplerWord (.samplerHalt w) s fun _ s => s.endRun s.smp 0

def execSamplerLdi (w : SWord) (s : State) : Result :=
  samplerResult (.samplerLdi w) w s fun _ _ => w.imm.signExtend 64

def execSamplerAdd (w : SWord) (s : State) : Result :=
  samplerResult (.samplerAdd w) w s fun r _ => State.greg r w.a + State.greg r w.b

def execSamplerSub (w : SWord) (s : State) : Result :=
  samplerResult (.samplerSub w) w s fun r _ => State.greg r w.a - State.greg r w.b

def execSamplerMulq (w : SWord) (s : State) : Result :=
  samplerResult (.samplerMulq w) w s fun r _ =>
    BitVec.ofInt 64 (q32Clamp ((State.greg r w.a).toInt * (State.greg r w.b).toInt / 2 ^ 32))

/-- `xfer`: the image leaves to memory or is replaced from it. -/
def execSamplerXfer (w : SWord) (s : State) : Result :=
  samplerWord (.samplerXfer w) s fun r s =>
    let va := (State.greg r w.a).toNat
    let n := s.smp
    let q := r.req
    if va % 64 ≠ 0 then s.endRun n 3
    else if w.imm = 0 then
      let bytes := (List.range 64).flatMap fun k => Bytes.ofNat 8 (s.image n q.ctxId k).toNat
      if 2 ^ 57 < va + 513 || inAperture va then s.endRun n 3
      else
        match s.unitWrite q.part q.ctx va bytes with
        | (s1, .error _) => s1.endRun n 3
        | (s1, .ok _) => s1.goOn n r (r.pc + 1) 601
    else
      match s.samplerRead q va 512 with
      | (s1, none) => s1.endRun n 3
      | (s1, some b) =>
        ((List.range 64).foldl (fun (s : State) k => s.setImage n q.ctxId k (BitVec.ofNat 64 (lineNat b (8 * k) 8))) s1).goOn n r
          (r.pc + 1) 601

def execSamplerBz (w : SWord) (s : State) : Result := samplerBranch (.samplerBz w) w s fun g => g == 0
def execSamplerBnz (w : SWord) (s : State) : Result := samplerBranch (.samplerBnz w) w s fun g => g != 0

def execSamplerLdc (w : SWord) (s : State) : Result :=
  samplerResult (.samplerLdc w) w s fun r s => s.image s.smp r.req.ctxId w.imm.toNat

def execSamplerStc (w : SWord) (s : State) : Result :=
  samplerWord (.samplerStc w) s fun r s =>
    (s.setImage s.smp r.req.ctxId w.imm.toNat (State.greg r w.a)).goOn s.smp r (r.pc + 1) 1

/-- The request's fields (R322, 0x0A). -/
def requestField (q : SampReq) (n : Nat) : Word :=
  match n with
  | 0 => BitVec.ofNat 64 q.ctxId
  | 1 => BitVec.ofNat 64 q.v
  | 2 => BitVec.ofNat 64 q.fmt
  | 3 => q.arg.setWidth 64
  | _ => q.logits

def execSamplerLdr (w : SWord) (s : State) : Result :=
  samplerResult (.samplerLdr w) w s fun r _ => requestField r.req w.imm.toNat

/-- `logit` (R320): an index past V gives the least value, a NaN too. -/
def execSamplerLogit (w : SWord) (s : State) : Result :=
  samplerWord (.samplerLogit w) s fun r s =>
    let i := (State.greg r w.a).toNat
    if r.req.v ≤ i then s.goOn s.smp (State.setGreg r w.d (BitVec.ofInt 64 q32Min)) (r.pc + 1) 1
    else
      match s.readLogit r.req (State.greg r w.b).toNat i with
      | (s1, none) => s1.endRun s.smp 3
      | (s1, some v) => s1.goOn s.smp (State.setGreg r w.d (BitVec.ofInt 64 (v.getD q32Min))) (r.pc + 1) 601

/-- `keep`: the k highest logits of a row. DESIGN CHOICE (log 1): the weights of new entries are free until `expw`. -/
def execSamplerKeep (w : SWord) (s : State) : Result :=
  samplerWord (.samplerKeep w) s fun r s =>
    let k := min 512 (State.greg r w.a).toNat
    let q := r.req
    if k = 0 then s.endRun s.smp 1
    else
      let read := (List.range q.v).foldl (fun (acc : State × Option (List Cand)) i =>
        match acc with
        | (s, none) => (s, none)
        | (s, some cs) =>
          match s.readLogit q (State.greg r w.b).toNat i with
          | (s1, none) => (s1, none)
          | (s1, some none) => (s1, some cs)
          | (s1, some (some v)) => (s1, some ((insertCand { token := i, value := v, weight := 0 } cs).take k))) (s, some [])
      match read with
      | (s1, none) => s1.endRun s.smp 3
      | (s1, some cs) =>
        let weighed := cs.zipIdx.map fun (c, j) => { c with weight := (Config.keepWeight (cs.map fun x => (x.token, x.value)) j).toNat }
        let size := if q.fmt = 0 then 4 else 2
        (s1.setCands s.smp q.ctxId weighed).goOn s.smp r (r.pc + 1)
          (Bits.ceilDiv (q.v * size) 64 + 2 * k + 16 + 600)

/-- `gmask` (R323). -/
def execSamplerGmask (w : SWord) (s : State) : Result :=
  samplerWord (.samplerGmask w) s fun r s =>
    let n := s.smp
    let q := r.req
    let base := s.image n q.ctxId 4
    if base = 0 then s.goOn n r (r.pc + 1) 1
    else
      match s.maskReady n q with
      | (s1, none) => s1.endRun n 3
      | (s1, some false) => s1.park n r
      | (s1, some true) =>
        let slot := at64 base ((s.image n q.ctxId 5).toNat % 2 ^ 32 * ((s.image n q.ctxId 1).toNat % 16))
        let read := (s1.cands n q.ctxId).foldl (fun (acc : State × Option (List Cand)) c =>
          match acc with
          | (s, none) => (s, none)
          | (s, some cs) =>
            match s.samplerRead q ((slot + 64 + c.token / 8) % 2 ^ 64) 1 with
            | (s1, none) => (s1, none)
            | (s1, some b) => (s1, some (if (b.headD 0).getLsbD (c.token % 8) then cs ++ [c] else cs))) (s1, some [])
        match read with
        | (s2, none) => s2.endRun n 3
        | (s2, some cs) => (s2.setCands n q.ctxId cs).goOn n r (r.pc + 1) 601

/-- The tokens of the penalty window (R319). -/
def penaltyTokens (s : State) (n ctx : Nat) : List Nat :=
  (List.range 16).map fun j => (s.image n ctx (6 + j / 2)).toNat / 2 ^ (32 * (j % 2)) % 2 ^ 32

def execSamplerPen (w : SWord) (s : State) : Result :=
  samplerList (.samplerPen w) s fun r s cs =>
    let toks := penaltyTokens s s.smp r.req.ctxId
    (r, sortCands (cs.map fun c =>
      if c.token != 0xFFFFFFFF && toks.contains c.token then { c with value := (BitVec.ofInt 64 (max (c.value - (State.greg r w.a).toInt) q32Min)).toInt } else c))

def execSamplerScale (w : SWord) (s : State) : Result :=
  samplerList (.samplerScale w) s fun r _ cs =>
    (r, sortCands (cs.map fun c => { c with value := q32Clamp (c.value * (State.greg r w.a).toInt / 2 ^ 32) }))

def execSamplerExpw (w : SWord) (s : State) : Result :=
  samplerList (.samplerExpw w) s fun r _ cs =>
    let v0 := (cs.head?.map (·.value)).getD 0
    let cs1 := cs.map fun c => { c with weight := candWeight (c.value - v0) }
    (State.setGreg r w.d (BitVec.ofNat 64 (sumWeights cs1)), cs1)

def execSamplerNucl (w : SWord) (s : State) : Result :=
  samplerList (.samplerNucl w) s fun r _ cs =>
    let p := (State.greg r w.a).toNat
    let kept := if p < 2 ^ 32 then nucleus (Bits.ceilDiv (p * (State.greg r w.b).toNat) (2 ^ 32)) 0 cs else cs
    (State.setGreg r w.d (BitVec.ofNat 64 (sumWeights kept)), kept)

def execSamplerRand (w : SWord) (s : State) : Result :=
  samplerWord (.samplerRand w) s fun r s =>
    let n := s.smp
    let ctr := s.image n r.req.ctxId 3
    (s.setImage n r.req.ctxId 3 (ctr + 1)).goOn n (State.setGreg r w.d (randWord (s.image n r.req.ctxId 2) ctr)) (r.pc + 1) 1

/-- `pick`. DESIGN CHOICE (log 1): where no cumulative weight exceeds the target, the token is free. -/
def execSamplerPick (w : SWord) (s : State) : Result :=
  samplerWord (.samplerPick w) s fun r s =>
    let cs := s.cands s.smp r.req.ctxId
    let total := (State.greg r w.b).toNat
    let cost := cs.length + 4
    if total = 0 || cs.isEmpty then s.goOn s.smp (State.setGreg r w.d (BitVec.allOnes 64)) (r.pc + 1) cost
    else
      match pickFrom ((State.greg r w.a).toNat * total / 2 ^ 64) 0 cs with
      | some t => s.goOn s.smp (State.setGreg r w.d (BitVec.ofNat 64 t)) (r.pc + 1) cost
      | none => s.goOn s.smp (State.setGreg r w.d (Config.pickUnmatched (cs.map fun x => (x.token, x.value, x.weight)) (State.greg r w.a)
          (State.greg r w.b))) (r.pc + 1) cost

def execSamplerFind (w : SWord) (s : State) : Result :=
  samplerList (.samplerFind w) s fun r _ cs =>
    let rank : Word :=
      match cs.findIdx? fun c => BitVec.ofNat 64 c.token == State.greg r w.a with
      | some j => BitVec.ofNat 64 j
      | none => BitVec.allOnes 64
    (State.setGreg r w.d rank, cs)

/-- `emit`: the token joins the reply and the penalty window, and the position advances. -/
def execSamplerEmit (w : SWord) (s : State) : Result :=
  samplerWord (.samplerEmit w) s fun r s =>
    let n := s.smp
    let ctx := r.req.ctxId
    let v := State.greg r w.a
    if 2 ^ 32 ≤ v.toNat then s.endRun n 5
    else if 16 ≤ r.emitted.length then s.endRun n 6
    else
      let pos := s.image n ctx 1
      let j := pos.toNat % 16
      let old := s.image n ctx (6 + j / 2)
      let new := if j % 2 = 0 then (old &&& 0xFFFFFFFF00000000) ||| v else (old &&& 0xFFFFFFFF) ||| (v <<< 32)
      ((s.setImage n ctx (6 + j / 2) new).setImage n ctx 1 ((pos + 1) &&& 0xFFFFFFFF)).goOn n
        { r with emitted := r.emitted ++ [v.setWidth 32] } (r.pc + 1) 1

/-! ## SAMPCTL, program store and SAMPOWN (R360) -/

/-- SAMPCTL_WRITE. -/
def execSampctlWrite (s : State) : Result :=
  .next <|
    match s.ev with
    | .sampctlWrite n val => (s.updSampler n fun x => { x with hold := val.getLsbD 0 }).emit 0 (.samplerRun n)
    | _ => s

/-- SAMPLER_STORE_WRITE: a program word or a SAMPOWN byte, while HOLD is 1. -/
def execSamplerStoreWrite (s : State) : Result :=
  .next <|
    match s.ev with
    | .samplerStoreWrite n index own val =>
      if !(s.sampler n).hold then s
      else if own then
        (if index < 512 then s.updSampler n fun x => { x with own := put index (val.setWidth 8 &&& 0x9F) x.own } else s)
      else if index < 2048 then s.updSampler n fun x => { x with store := put index val x.store }
      else s
    | _ => s

end Sys2Proof.Machine
end

