-- ==== Sys2Proof/Machine/Sync.lean ====
section
/-! DEFINITION. Barriers (R284-R287, R379), monitors (R288-R290), `snap` (R292), and solicit, census, catalogue and reply
(R300-R307, R380). -/

namespace Sys2Proof.Machine

/-! ## Barriers -/

/-- The fields of a `bar` descriptor (R284). -/
structure BarShape where
  nq : Nat
  x0 : Nat
  y0 : Nat
  x1 : Nat
  y1 : Nat
  deriving DecidableEq, Repr

def barShape (w : Word) : BarShape :=
  let n := w.toNat
  { nq := Bits.get n 7 0, x0 := Bits.get n 11 8, y0 := Bits.get n 15 12, x1 := Bits.get n 19 16, y1 := Bits.get n 23 20 }

/-- The counts of a quire in a phase. -/
def Barrier.count (x : Barrier) (phase quire : Nat) : Option BarCount :=
  x.counts.find? fun c => c.phase == phase && c.quire == quire

/-- The node of a barrier or of a census by its scope (R285, R305): the quire's, the die's, or the package's. DESIGN CHOICE (log 9): the UNIT
numbers of R294, 1024 on for dies and 2048 for the package. -/
def nodeAt (scope quire : Nat) : Nat := if scope < 2 then quire else if scope = 2 then 1024 + quire / 256 else 2048

def barNode (b : BarKey) : Nat := if b.scope = 2 then 1024 + b.place else nodeAt b.scope b.place

def censusNode (q : Option Solicit) : Nat := match q with | some q => nodeAt q.scope (quireOf q.asker) | none => 2048

/-- A quire's count has all the arrivals its descriptor asks for. -/
def BarCount.full (c : BarCount) : Bool := decide ((barShape c.desc).nq ≤ c.n)

/-- The phase an arrival of a quire counts toward (R286). -/
def Barrier.openPhase (x : Barrier) (quire : Nat) : Nat :=
  ((List.range (x.counts.length + 1)).map (x.phase + ·)).find? (fun p =>
    match x.count p quire with
    | none => true
    | some c => !c.full) |>.getD x.phase

/-- One arrival more. -/
def Barrier.arrive (x : Barrier) (phase quire : Nat) (desc : Word) : Barrier :=
  match x.count phase quire with
  | none => { x with counts := x.counts ++ [{ phase := phase, quire := quire, desc := desc, n := 1 }] }
  | some _ =>
    { x with counts := x.counts.map fun c => if c.phase == phase && c.quire == quire then { c with n := c.n + 1 } else c }

/-- The next phase: the counts of the old one are gone. -/
def Barrier.next (x : Barrier) : Barrier :=
  { x with phase := x.phase + 1, counts := x.counts.filter (fun c => c.phase != x.phase), releasing := false }

namespace State

def barrier (s : State) (b : BarKey) : Barrier :=
  (s.barriers.find? fun x => x.key == b).getD { key := b, phase := 0, counts := [], releasing := false }
def setBarrier (s : State) (x : Barrier) : State :=
  { s with barriers := x :: s.barriers.filter fun y => y.key != x.key }

/-- The participating quires (R285). -/
def barMembers (s : State) (b : BarKey) (desc : Word) : List Nat :=
  let d := barShape desc
  match b.scope with
  | 1 => [b.place]
  | 2 => ((List.range 256).map (256 * b.place + ·)).filter fun q =>
      decide (d.x0 ≤ quireX q) && decide (quireX q ≤ d.x1) && decide (d.y0 ≤ quireY q) && decide (quireY q ≤ d.y1)
  | _ => s.homeList b.part

/-- A partition has packages besides this one (R285). -/
def foreign (s : State) (part : Nat) : Bool :=
  (List.range (Bits.get (s.partition part).podN.toNat 9 0)).any fun j =>
    Bits.get (look 0 j (s.partition part).podHome).toNat 9 0 != s.pkgid

/-- The rules of R284 and R285 for a descriptor. -/
def barOk (s : State) (scope : Nat) (desc : Word) : Bool :=
  let d := barShape desc
  let q := quireOf s.cur.core
  desc.toNat / 2 ^ 24 == 0 && d.nq != 0 &&
  (if scope = 2 then
    decide (d.x0 ≤ d.x1) && decide (d.y0 ≤ d.y1) &&
    (let m := s.barMembers ⟨2, s.me.part, q / 256, 0⟩ desc
     m.contains q && m.all fun k => s.owner k == some s.me.part)
  else desc.toNat / 256 == 0)

/-- The barrier that a scope and an id name for the executing strand (R287). -/
def barKey (s : State) (scope id : Nat) : BarKey :=
  let q := quireOf s.cur.core
  { scope := scope, part := s.me.part, place := if scope = 1 then q else if scope = 2 then q / 256 else 0, id := id }

/-- Cycles from the last arrival to the release (R285). -/
def barCycles (scope : Nat) : Nat := if scope = 1 then 4 else if scope = 2 then 40 else 88

/-- Whether every participating quire of some descriptor has counted all its arrivals under it. -/
def barComplete (s : State) (x : Barrier) : Bool :=
  !(x.key.scope == 4 && s.foreign x.key.part) &&
  x.counts.any fun c => c.phase == x.phase &&
    (s.barMembers x.key c.desc).all fun q =>
      match x.count x.phase q with
      | some k => k.desc == c.desc && k.full
      | none => false

/-- The edition a barrier or census node is in (R294). -/
def unitEdition (s : State) (part : Nat) (u : UnitId) : W32 :=
  let n := (s.partition part).edition
  match s.editionOf part n with
  | some e => if e.left.contains u then n - 1 else n
  | none => n

/-- A packet of the open edition for a unit that has not switched (R294). -/
def aheadOf (s : State) (part : Nat) (u : UnitId) (edition : W32) : Bool :=
  match s.editionOf part (s.partition part).edition with
  | some e => e.left.contains u && (edition.setWidth 16 : BitVec 16) == e.n.setWidth 16
  | none => false

/-- A phase that is complete is released. -/
def barCheck (s : State) (b : BarKey) : State :=
  let x := s.barrier b
  if !x.releasing && s.barComplete x then
    (s.setBarrier { x with releasing := true }).emit (barCycles b.scope) (.barrierRelease b x.phase (s.unitEdition b.part (.node (barNode b))))
  else s

/-- The sleepers of a phase. -/
def barSleepers (s : State) (b : BarKey) (phase : Nat) : List Ref :=
  s.strandsWhere fun _ t => t.wait == .asleep (.barrier b phase)

/-- The INFO of a barrier timeout (R367). -/
def barInfo (s : State) (x : Barrier) : Word :=
  let here := x.counts.filter fun c => c.phase == x.phase
  let members := match here.head? with | some c => s.barMembers x.key c.desc | none => []
  let done := members.filter fun q => here.any fun c => c.quire == q && c.full
  let missing := (members.find? fun q => !done.contains q).getD 0xFFFF
  BitVec.ofNat 64 (x.key.scope + 8 * x.key.id + 256 * min 255 done.length + 65536 * missing + 2 ^ 32 * (x.phase % 2 ^ 32))

/-- A sleeper stops at its own bundle: its registers are those before it (R286, R379). -/
def raiseAsleep (s : State) (r : Ref) (f : FaultInfo) : State :=
  (s.updStrand r fun t =>
    let regs := t.back.getD t.regs
    { t with
      regs := regs, opened := { t.opened with check := regs }, back := none, fault := some f, wait := .faulting }).emit 0
    (.strandFaultReport r)

/-- A budget that ran out while its strand slept at a barrier is found now (R374). -/
def recheckBudget (s : State) (r : Ref) : State :=
  let t := s.strand r
  if t.counted && !t.spent && t.budgetNow s.now == 0 then s.emit 0 (.budgetOverrun r t.startedAt) else s

end State

/-- `bar` (R284-R286): a release, then the arrival, then sleep; the acquire follows the release of the phase. -/
def execBar (c : CWord) (s : State) : Result :=
  checked (.bar c) s fun s =>
    let scope := c.d.toNat % 8
    let desc := s.opA c
    if !s.barOk scope desc then s.raiseCode .reservedField
    else if s.checkpointing s.me.part then
      s.raise { code := .barrierTimeout, info := s.barInfo (s.barrier (s.barKey scope c.b.toNat)) }
    else
      let s1 := (s.advance.thenEnd).updMe fun t => { t with back := some s.pre }
      s1.releaseThen scope (.arrive (s.barKey scope c.b.toNat) desc)

/-- BARRIER_ARRIVAL (R286): the quire counts it, and the strand sleeps until the phase releases. -/
def execBarrierArrival (s : State) : Result :=
  .next <|
    match s.ev with
    | .barrierArrival b who desc _ =>
      let x := s.barrier b
      let q := quireOf who.core
      let p := x.openPhase q
      let differs := match x.count p q with | some c => c.desc != desc | none => false
      if differs then s.raiseAsleep who { code := .reservedField }
      else
        let first := !(x.counts.any fun c => c.phase == p)
        let win := Bits.get (s.partition b.part).coltmo.toNat 31 0
        let s1 := (s.setBarrier (x.arrive p q desc)).updStrand who fun t => { t with wait := .asleep (.barrier b p) }
        let s2 := if first && win != 0 then s1.emit (win * 1024) (.barrierTimeout b p) else s1
        s2.barCheck b
    | _ => s

/-- BARRIER_RELEASE (R286): every sleeper of the phase goes on with an acquire; those of a core that has to switch to the release's edition do
once it has (R294). -/
def execBarrierRelease (s : State) : Result :=
  .next <|
    match s.ev with
    | .barrierRelease b phase edition =>
      let x := s.barrier b
      let first := x.phase = phase && x.releasing
      let due := (s.barSleepers b phase).filter fun r => !s.aheadOf b.part (.core r.core) edition
      let s1 := due.foldl (fun (s : State) r =>
        (((s.acquire r.core b.scope).updStrand r fun t => { t with wait := .ready, back := none })).recheckBudget r)
        (if first then s.setBarrier x.next else s)
      if first then
        let members := (x.counts.filter fun c => c.phase == phase).map (·.quire)
        let s2 := if b.scope = 2 then
            { s1 with cores := s1.cores.map fun e => if members.contains (quireOf e.1) then (e.1, { e.2 with raised := 0 }) else e }
          else s1
        s2.barCheck b
      else s1
    | _ => s

/-- BARRIER_TIMEOUT (R379, R381): the phase advances, its sleepers stop at their `bar`, and one record is written. The timer of a phase that is not yet
open stands until it is. -/
def execBarrierTimeout (s : State) : Result :=
  .next <|
    match s.ev with
    | .barrierTimeout b phase =>
      let x := s.barrier b
      if x.phase = phase && !x.releasing then
        let info := s.barInfo x
        let unit := if b.scope = 1 then b.place else if b.scope = 2 then 256 * b.place else 0
        let s1 := (s.barSleepers b phase).foldl (fun (s : State) r => s.raiseAsleep r { code := .barrierTimeout, info := info })
          (s.setBarrier x.next)
        (s1.report b.part none EventCode.barrierTimeout.byte 3 unit info []).barCheck b
      else if x.phase < phase then s.emit 1 s.ev
      else s
    | _ => s

/-! ## Monitors (R288-R290) -/

namespace State

/-- The strand's monitor is armed on a sector; an old one is replaced. -/
def arm (s : State) (va : Nat) (onScratch gone : Bool) : State :=
  (s.updMe fun t =>
    { t with monitor := some { va := BitVec.ofNat 64 (va / 32 * 32), onScratch := onScratch, events := if gone then [1] else [],
                               first := none, id := s.ids } }).fresh

/-- What `mon` drops before it arms a cached sector: pending invalidations, and a line whose home is off the die. -/
def freshen (s : State) (va : Nat) : State :=
  let off := s.homeOf s.me.part va / 256 != dieOf s.cur.core || s.homePackage s.me.part va != s.pkgid
  s.leaveL1 s.cur.core fun l => l.pending || (off && l.part == s.me.part && l.line == va / 256)

/-- A core whose local store has no L1 way. -/
def noL1 (c : Core) : Bool := c.wayMask &&& 0xFFFF == 0xFFFF

def monLine (s : State) (va : Nat) : Option L1Line :=
  s.myCore.l1.find? fun l => l.part == s.me.part && l.line == va / 256 && l.valid.contains (va % 256 / 32) && !l.pending &&
    rightsOk .load (privOf s.pre.flags) l.g.rights

end State

/-- `mon` (R288): a cached sector is armed once it is valid in the L1. -/
def execMon (c : CWord) (s : State) : Result :=
  checked (.mon c) s fun s =>
    let va := (s.opA c).toNat
    let f : Form := { acc := .load, size := if inAperture va then 1 else 8, decodes := false, syncs := true, remote := false, vec := false }
    match s.place f va with
    | .error x => s.raise x
    | .ok (.scratch _ _ _) => (s.arm va true false).advance
    | .ok (.remote _) => s.raise (f.fault .aperture va)
    | .ok .cached =>
      let filled := s.me.received.any fun r => match r with | .line a b _ => a.toNat / 256 == va / 256 && !b.isEmpty | _ => false
      if filled && (State.noL1 s.myCore || (s.monLine va).isSome) then
        ((s.arm va false (State.noL1 s.myCore)).result c.la (s.loadCost va) [] []).advance
      else
        match (if filled then State.CacheLook.miss else s.lookCached va 8 .load) with
        | .strong _ => s.raise (f.fault .strongMisuse va)
        | .fault x => s.raise (f.dress va x)
        | _ =>
          let s1 := s.freshen va
          match s1.monLine va with
          | some _ => ((s1.arm va false false).result c.la (s.loadCost va) [] []).advance
          | none => (s1.updMe fun t => { t with received := [] }).requestLine va .load

/-- `waitm` (R290). -/
def execWaitm (c : CWord) (s : State) : Result :=
  checked (.waitm c) s fun s =>
    let ends (s : State) (code : Nat) : State :=
      ((s.updMe fun t => { t with monitor := none }).writeS c.d (BitVec.ofNat 64 code)).advance
    match s.me.monitor with
    | none => ends s 5
    | some m =>
      match m.first, m.events with
      | some e, _ => ends s e
      | none, e :: _ => ends s e
      | none, [] =>
        let limit := s.opA c
        let s1 := if limit = 0 || s.endBefore.me.owes then s else s.emit limit.toNat (.waitmLimit s.cur m.id)
        s1.sleepOn .monitor

/-- WAITM_WAKE (R290, R336): the sleeper's `waitm` takes the first event, and its next bundle may issue in this cycle. -/
def execWaitmWake (s : State) : Result :=
  .next <|
    match s.ev with
    | .waitmWake r =>
      match (s.strand r).wait with
      | .asleep .monitor => s.updStrand r fun t => { t with wait := .waking }
      | .asleep (.census c) => if (s.census c.part c.slot).seq = c.seq && (s.census c.part c.slot).complete then s.updStrand r fun t => { t with wait := .waking } else s
      | _ => s
    | _ => s

/-- WAITM_LIMIT (R289). -/
def execWaitmLimit (s : State) : Result :=
  .next <|
    match s.ev with
    | .waitmLimit r id =>
      match (s.strand r).monitor with
      | some m => if m.id = id && (s.strand r).wait == .asleep .monitor then s.latchMonitor r 3 else s
      | none => s
    | _ => s

/-! ## snap (R292) -/

/-- Cycles from a core to the base die's controllers and back, one way: 20 and a hop each (R292, R302). -/
def baseLeg (core : Nat) : Nat := 20 + spineHops (quireOf core)

/-- `snap` (R292): privileged and alone. -/
def execSnap (c : CWord) (s : State) : Result :=
  privileged (.snap c) s fun s =>
    let a := (s.opA c).toNat
    let f : Form := { acc := .load, size := 8, decodes := false, syncs := false, remote := false, vec := false }
    if a / 2 ^ 57 ≠ 0 then s.raise (f.fault .notPresent a)
    else if a % 4096 ≠ 0 then s.raise (f.fault .misalignedData a)
    else if inAperture a then s.raise (f.fault .aperture a)
    else if s.homeMoved s.me.part a then s.raise (f.fault .homeMoved a)
    else if !s.aloneNow then s.waitAlone
    else
      match s.lookCached a 8 .load with
      | .fault x => s.raise (f.dress a x)
      | .miss => s.requestLine a .load
      | .strong _ => s.raise (f.fault .strongMisuse a)
      | .held _ _ =>
        if s.checkpointing s.me.part then (s.writeS c.d 0).advance.thenAlone
        else
          (((s.openWindow c.la [.s c.d]).emitNet (baseLeg s.cur.core) (.snapRequestArrival s.cur s.ids (BitVec.ofNat 64 a))).advance).thenAlone

/-- SNAP_ANSWER (R292). -/
def execSnapAnswer (s : State) : Result :=
  .next <|
    match s.ev with
    | .snapAnswer r tag val =>
      let d := (((s.strand r).windows.find? fun w => w.tag == tag).map (·.dests)).getD []
      s.answer r tag (d.filterMap fun x => match x with | .s n => some (RegWrite.s n val) | _ => none)
    | _ => s

/-! ## Censuses (R302-R307) -/

/-- Cycles from the last DONE to the result (R305). -/
def censusCycles (scope : Nat) : Nat := if scope < 2 then 4 else if scope = 2 then 40 else 88

def censusWord (c : CensusId) : Nat := c.slot * 8192 + c.seq

/-- The combine codes of R304, over the answers that came. -/
def combineAnswers (op : Nat) (xs : List CenAnswer) : Word :=
  let vals := xs.filterMap fun a => a.val.map fun v => (a, v)
  match op with
  | 0 => vals.foldl (fun (acc : Word) v => acc + v.2) 0
  | 1 => vals.foldl (fun (acc : Word) v => if v.2.toInt < acc.toInt then v.2 else acc) 0x7FFFFFFFFFFFFFFF
  | 2 => vals.foldl (fun (acc : Word) v => if acc.toInt < v.2.toInt then v.2 else acc) 0x8000000000000000
  | 3 => vals.foldl (fun (acc : Word) v => acc ||| v.2) 0
  | 4 => BitVec.ofNat 64 vals.length
  | _ =>
    let first (a b : CenAnswer) : Bool := decide (a.core < b.core) || (a.core == b.core && decide (a.index < b.index))
    match vals with
    | [] => 0
    | v :: r => (r.foldl (fun (b : CenAnswer × Word) (v : CenAnswer × Word) => if first v.1 b.1 then v else b) v).2

/-- Fields of a `solicit` descriptor (R302); `none` breaks a rule of its layout. -/
def solicitOf (s : State) (b : List Byte) : Option Solicit :=
  let f (o n : Nat) : Nat := lineNat b o n
  if 6 ≤ f 19 1 || 5 ≤ f 20 1 || f 21 3 != 0 || f 32 32 != 0 then none
  else
    some { key := BitVec.ofNat 64 (f 0 8), mask := BitVec.ofNat 64 (f 8 8), cls := BitVec.ofNat 16 (f 16 2),
           type := BitVec.ofNat 8 (f 18 1), op := f 19 1, scope := f 20 1, arg := BitVec.ofNat 64 (f 24 8), ctx := s.me.ctx,
           asker := s.cur.core }

/-- `solicit` (R302): the slot is asked for at issue; the broadcast is held. -/
def execSolicit (c : CWord) (s : State) : Result :=
  checked (.solicit c) s fun s =>
    match s.ownLine (s.opA c).toNat 64 with
    | .error x => s.raise x
    | .ok off =>
      let r := s.readLine off 64
      match solicitOf s r.2 with
      | none => s.raiseCode .reservedField
      | some q =>
        (((r.1.hold (.solicit s.ids s.me.part 8 q)).openWindow c.la [.s c.d]).emitNet (baseLeg s.cur.core)
          (.censusSlotRequest s.cur s.ids q)).advance

namespace State

/-- Strand `r` has collected a census; the slot is freed after the last of those that slept at completion (R307,
R398). -/
def collected (s : State) (r : Ref) (c : CensusId) : State :=
  let due := (s.census c.part c.slot).due.filter fun x => x != r && s.occupied x
  if (s.census c.part c.slot).seq ≠ c.seq then s
  else if due.isEmpty then s.freeCensus c.part c.slot
  else s.updCensus c.part c.slot fun x => { x with due := due }

end State

/-- CENSUS_SLOT_REQUEST (R302): a free slot, or the request waits. DESIGN CHOICE (log 88): the lowest free one. -/
def execCensusSlotRequest (s : State) : Result :=
  .next <|
    match s.ev with
    | .censusSlotRequest r tag q =>
      let part := (s.strand r).part
      match (List.range 8).find? fun j => !(s.census part j).open_ with
      | none => s.updPartition part fun p => { p with censusQueue := p.censusQueue ++ [(r, tag, q)] }
      | some j =>
        let seq := ((s.census part j).seq + 1) % 8192
        (s.updCensus part j fun _ => { Census.reset with seq := seq, open_ := true, q := some q }).emitNet (baseLeg r.core)
          (.censusIdAnswer r tag (part * 65536 + j * 8192 + seq) (s.unitEdition part (.node 2048)))
    | _ => s

/-- CENSUS_ID_ANSWER (R302): the id; a `solicit` squashed meanwhile leaves the slot free. -/
def execCensusIdAnswer (s : State) : Result :=
  .next <|
    match s.ev with
    | .censusIdAnswer r tag id _ =>
      let slot := id % 65536 / 8192
      let d := (((s.strand r).windows.find? fun w => w.tag == tag).map (·.dests)).getD []
      let ws : List RegWrite := d.filterMap fun x => match x with
        | .s n => some (RegWrite.s n (BitVec.ofNat 64 (id % 65536)))
        | _ => none
      let keep (h : Held) : Option Held := match h with | .solicit t p _ q => some (Held.solicit t p slot q) | h => some h
      match s.settle r tag keep ws with
      | some s1 => s1
      | none => s.freeCensus (id / 65536) slot
    | _ => s

namespace State

/-- The cores of a census's scope (R302). -/
def censusCores (s : State) (part : Nat) (q : Solicit) : List Nat :=
  let own := (s.homeList part).flatMap fun k => (List.range 4).map (4 * k + ·)
  match q.scope with
  | 0 => [q.asker]
  | 1 => own.filter fun c => quireOf c == quireOf q.asker
  | 2 => own.filter fun c => dieOf c == dieOf q.asker
  | _ => own

/-- A committed `solicit` is broadcast (R305), and its timer starts (R380). -/
def broadcastCensus (s : State) (part slot : Nat) (q : Solicit) (edition : W32) : State :=
  let cores := s.censusCores part q
  let c : CensusId := ⟨part, slot, (s.census part slot).seq⟩
  let s1 := s.updCensus part slot fun x => { x with sent := true, left := cores }
  let s2 := cores.foldl (fun (s : State) k => s.emit (if q.scope < 2 then 4 else 32) (.censusProcess k c edition)) s1
  let win := Bits.get (s.partition part).coltmo.toNat 31 0
  if win = 0 then s2 else s2.emit (win * 1024) (.censusTimeout c)

/-- What a task of a class starts with (R51, R89). -/
def classLaunch (kind : StartKind) (part ctx : Nat) (e : ClassEntry) (clsType pc : Word) (regs : List Word) : Launch :=
  let budget : Word := if e.budget = 0 then BitVec.allOnes 64 else e.budget.setWidth 64
  { kind := kind, part := part, ctx := ctx, pc := pc, regs := regs, rm := 0, cbsel := 0, sticky := 0, clsType := clsType,
    msg := 0, state := 0, keyLo := 0, keyHi := 0, budget := budget, counted := e.budget != 0, classBudget := budget,
    code := e.code, codeLim := e.codeLim.setWidth 64, cbank := e.cbank, task := 0, high := false, counter := none,
    vregs := [], rows := none }

/-- The handler of a type (R25): `none` is a type or a pc out of bounds. -/
def handlerPc (s : State) (part ctx : Nat) (e : ClassEntry) (type : Nat) : State × Except FaultInfo (Option Word) :=
  if e.nTypes.toNat ≤ type then (s, .ok none)
  else
    match s.unitWord part ctx (e.hTab.toNat + 4 * type) 4 with
    | (s1, .error f) => (s1, .error f)
    | (s1, .ok i) =>
      let pc := e.code.toNat + 8 * i
      (s1, .ok (if pc < e.code.toNat + e.codeLim.toNat then some (BitVec.ofNat 64 pc) else none))

/-- A task of no actor waits for a slot of a core (R44, R68). -/
def queueTask (s : State) (core : Nat) (t : Task) (l : Launch) : State :=
  ((s.newTask { t with part := l.part, ctx := l.ctx, core := core }).updCore core fun c =>
    { c with starts := c.starts ++ [{ l with task := s.ids }] }).offer core

/-- A responder starts (R303); `give` names the GIVE whose acknowledgement waits for it (R306). A handler that cannot be
read starts no task, and the answer says whether one has been queued. -/
def startResponder (s : State) (core : Nat) (c : CensusId) (q : Solicit) (index : Nat) (e : CatEntry) (give : Option (Nat × Nat)) :
    State × Bool :=
  match s.classEntry c.part q.ctx q.cls.toNat with
  | (s1, .error _) => (s1, false)
  | (s1, .ok k) =>
    match s1.handlerPc c.part q.ctx k q.type.toNat with
    | (s2, .ok (some pc)) =>
      let regs := [e.key, e.addr, e.tag, q.arg, BitVec.ofNat 64 (censusWord c), BitVec.ofNat 64 index, BitVec.ofNat 64 q.asker]
      let l := classLaunch .responder c.part q.ctx k (BitVec.ofNat 64 (q.cls.toNat * 256 + q.type.toNat)) pc regs
      (s2.queueTask core { Task.none with census := some (c, index), give := give } l, true)
    | (s2, _) => (s2, false)

/-- Whether an entry matches a census (R303). -/
def censusMatches (c : CensusId) (q : Solicit) (e : CatEntry) : Bool :=
  e.ctx == q.ctx && ((q.key ^^^ e.key) &&& q.mask) == 0 && !(e.ans.contains (c.slot, c.seq))

def answered (c : CensusId) (e : CatEntry) : CatEntry :=
  { e with ans := (c.slot, c.seq) :: e.ans.filter fun a => a.1 != c.slot }

def updCens (s : State) (core : Nat) (c : CensusId) (f : CoreCensus → CoreCensus) : State :=
  s.updCore core fun k => { k with cens := k.cens.map fun x => if x.id == c then f x else x }

/-- A core sends DONE once its responders have ended and the GIVEs it waits for are acknowledged (R305). -/
def censusCheck (s : State) (core : Nat) : State :=
  ((s.core core).cens.filter fun x => !x.sent && x.live == 0 && x.gives.isEmpty).foldl (fun (s : State) x =>
    (s.updCens core x.id fun x => { x with sent := true }).emit 0 (.censusDone core x.id (s.core core).edition)) s

/-- An installed GIVE is acknowledged once its responders have ended (R306). -/
def giveCheck (s : State) (core : Nat) : State :=
  ((s.core core).givesIn.filter fun g => g.live == 0).foldl (fun (s : State) g =>
    (s.updCore core fun k => { k with givesIn := k.givesIn.filter fun x => !(x.tag == g.tag && x.src == g.src) }).emitNet
      (travelCores core g.src) (.giveAck g.src g.tag g.answers (s.core core).edition)) s

/-- A responder task has ended (R304-R306). -/
def responderEnded (s : State) (core : Nat) (t : Task) : State :=
  match t.census with
  | none => s
  | some (c, index) =>
    let a : CenAnswer := { slot := c.slot, seq := c.seq, core := core, index := index, val := t.answer }
    match t.give with
    | some (src, tag) =>
      (s.updCore core fun k => { k with givesIn := k.givesIn.map fun g =>
        if g.tag == tag && g.src == src then { g with live := g.live - 1, answers := g.answers ++ [a] } else g }).giveCheck core
    | none => (s.updCens core c fun x => { x with live := x.live - 1, answers := x.answers ++ [a] }).censusCheck core

end State

/-- CENSUS_PROCESS (R303): the core's committed catalogue is matched. -/
def execCensusProcess (s : State) : Result :=
  .next <|
    match s.ev with
    | .censusProcess core c _ =>
      let x := s.census c.part c.slot
      match x.q with
      | none => s
      | some q =>
        if x.open_ && x.seq = c.seq then
          let k := s.core core
          let mine (a : CenAnswer) : Bool := a.slot == c.slot && a.seq == c.seq
          let hits := k.catalogue.filter fun e => State.censusMatches c q e.2
          let s1 := s.updCore core fun k =>
            { k with seen := (c.slot, c.seq) :: k.seen.filter (fun v => v.1 != c.slot)
                     catalogue := k.catalogue.map fun e => if State.censusMatches c q e.2 then (e.1, State.answered c e.2) else e
                     early := k.early.filter fun a => !mine a
                     cens := { id := c, live := 0, gives := k.givesOut, answers := k.early.filter mine, sent := false } ::
                       k.cens.filter fun x => x.id.slot != c.slot || x.id.part != c.part }
          let s2 := hits.foldl (fun (s : State) e =>
            match s.startResponder core c q e.1 e.2 none with
            | (s1, true) => s1.updCens core c fun x => { x with live := x.live + 1 }
            | (s1, false) => s1.updCens core c fun x =>
                { x with answers := x.answers ++ [{ slot := c.slot, seq := c.seq, core := core, index := e.1, val := none }] }) s1
          s2.censusCheck core
        else s
    | _ => s

/-- The answers that a core's DONE carries. -/
def State.doneAnswers (s : State) (core : Nat) (c : CensusId) : List CenAnswer :=
  (((s.core core).cens.find? fun x => x.id == c).map (·.answers)).getD []

/-- CENSUS_DONE (R305). -/
def execCensusDone (s : State) : Result :=
  .next <|
    match s.ev with
    | .censusDone core c _ =>
      let x := s.census c.part c.slot
      let answers := s.doneAnswers core c
      let s0 := s.updCore core fun k => { k with cens := k.cens.filter fun x => x.id != c }
      if x.open_ && x.seq = c.seq && !x.complete && x.left.contains core then
        let x1 := { x with left := x.left.erase core, counted := x.counted + 1, answers := x.answers ++ answers }
        let s1 := s0.updCensus c.part c.slot fun _ => x1
        let scope := match x.q with | some q => q.scope | none => 0
        if x1.left.isEmpty && !(scope == 4 && s.foreign c.part) then
          s1.emit (censusCycles scope) (.censusComplete c)
        else s1
      else s0
    | _ => s

/-- A census ends: the next bundles of its sleepers may issue 4 cycles later (R307, R341). -/
def State.endCensus (s : State) (c : CensusId) (timedOut : Bool) : State :=
  let due := s.strandsWhere fun _ t => t.wait == .asleep (.census c)
  due.foldl (fun (s : State) r => s.emit 4 (.waitmWake r))
    (s.updCensus c.part c.slot fun x => { x with complete := true, timedOut := timedOut, due := due })

/-- CENSUS_COMPLETE (R305). -/
def execCensusComplete (s : State) : Result :=
  .next <|
    match s.ev with
    | .censusComplete c =>
      let x := s.census c.part c.slot
      if x.open_ && x.seq = c.seq && !x.complete then s.endCensus c false else s
    | _ => s

/-- CENSUS_TIMEOUT (R380, R381). -/
def execCensusTimeout (s : State) : Result :=
  .next <|
    match s.ev with
    | .censusTimeout c =>
      let x := s.census c.part c.slot
      let foreign := match x.q with | some q => q.scope == 4 && s.foreign c.part | none => false
      if x.open_ && x.seq = c.seq && !x.complete && (!x.left.isEmpty || foreign) then
        let op := match x.q with | some q => q.op | none => 0
        (s.endCensus c true).report c.part (x.q.map (·.ctx)) EventCode.censusTimeout.byte 3 0
          (BitVec.ofNat 64 (censusWord c + 65536 * x.counted))
          (Bytes.ofNat 8 (combineAnswers op x.answers).toNat ++ Bytes.ofNat 4 x.answers.length)
      else s
    | _ => s

/-- `cwait` (R307, R380, R398): of a census that timed out the fault waits for the strand's older chunks. Else the slot is freed once the last strand asleep at completion has collected: at once where
no chunk of the strand is uncommitted, else at the commit, since a squashed bundle frees nothing (R157). -/
def execCwait (c : CWord) (s : State) : Result :=
  checked (.cwait c) s fun s =>
    let w := (s.opA c).toNat % 65536
    let id : CensusId := ⟨s.me.part, w / 8192, w % 8192⟩
    let x := s.census id.part id.slot
    if s.checkpointing s.me.part then s.raise { code := .censusTimeout, info := BitVec.ofNat 64 (w + 65536 * x.counted) }
    else if !x.open_ || x.seq ≠ id.seq then s.raiseCode .reservedField
    else if !x.complete then s.sleepOn (.census id)
    else
      let due := x.due.filter fun r => r != s.cur && s.occupied r
      if x.timedOut then
        if !s.aloneNow then s.waitAlone else
        let s1 := s.updCensus id.part id.slot fun x => { x with due := due }
        (if due.isEmpty then s1.freeCensus id.part id.slot else s1).raise
          { code := .censusTimeout, info := BitVec.ofNat 64 (w + 65536 * x.counted) }
      else
        let (op, scope) := match x.q with | some q => (q.op, q.scope) | none => (0, 0)
        let d1 : BitVec 5 := c.d + 1
        let s1 := if s.aloneNow then s.collected s.cur id else s.hold (.collect id)
        ((((s1.writeS c.d (combineAnswers op x.answers)).writeS d1
          (BitVec.ofNat 64 (x.answers.length % 2 ^ 32 + 2 ^ 32 * x.counted))).acquire s.cur.core scope).advance).thenEnd

/-! ## The catalogue (R300, R301) -/

namespace State

/-- The catalogue as the executing strand's chunk sees it (R160). -/
def catView (s : State) : Table CatEntry :=
  ((s.me.closed ++ [s.me.opened]).flatMap (·.held)).foldl (fun t h =>
    match h with
    | .catIns i e => put i e t
    | .catDel i => drop i t
    | .give _ g => drop g.srcIndex t
    | _ => t) s.myCore.catalogue

/-- The descriptor of `cat`, or its fault. -/
def catLine (s : State) (c : CWord) : Except FaultInfo (State × List Byte) :=
  match s.ownLine (s.opA c).toNat 32 with
  | .error x => .error x
  | .ok off =>
    let r := s.readLine off 32
    if lineNat r.2 25 1 != 0 || lineNat r.2 28 4 != 0 then .error { code := .reservedField } else .ok r

/-- The catalogue entry that an insert or a GIVE takes (R301). DESIGN CHOICE (log 88): the lowest free one. -/
def catFree (c : Core) : Option Nat := (List.range 64).find? fun j => !has j c.catalogue && !c.catReserved.contains j

end State

/-- `cat.ins` (R301). -/
def execCatIns (c : CWord) (s : State) : Result :=
  checked (.catIns c) s fun s =>
    match s.catLine c with
    | .error x => s.raise x
    | .ok (s1, b) =>
      match State.catFree s1.myCore with
      | none => (s1.writeS c.d (BitVec.allOnes 64)).advance
      | some j =>
        let e : CatEntry := { ctx := s.me.ctx, key := BitVec.ofNat 64 (lineNat b 0 8), addr := BitVec.ofNat 64 (lineNat b 8 8),
                              tag := BitVec.ofNat 64 (lineNat b 16 8), ans := [] }
        (((s1.updMyCore fun k => { k with catReserved := j :: k.catReserved }).hold (.catIns j e)).writeS c.d (BitVec.ofNat 64 j)).advance

/-- `cat.del` (R301). -/
def execCatDel (c : CWord) (s : State) : Result :=
  checked (.catDel c) s fun s =>
    match s.catLine c with
    | .error x => s.raise x
    | .ok (s1, b) =>
      let j := lineNat b 24 1
      if 64 ≤ j then s.raiseCode .reservedField
      else
        match s1.catView.find? fun e => e.1 == j with
        | some e => if e.2.ctx = s.me.ctx then ((s1.hold (.catDel j)).writeS c.d 0).advance else (s1.writeS c.d 1).advance
        | none => (s1.writeS c.d 1).advance

/-- `cat.give` (R301): the target is asked at issue. -/
def execCatGive (c : CWord) (s : State) : Result :=
  checked (.catGive c) s fun s =>
    match s.catLine c with
    | .error x => s.raise x
    | .ok (s1, b) =>
      let j := lineNat b 24 1
      let target := lineNat b 26 2
      if 64 ≤ j then s.raiseCode .reservedField
      else if 4096 ≤ target || s.owner (quireOf target) ≠ some s.me.part then s.raiseCode .spawnTarget
      else
        match s1.catView.find? fun e => e.1 == j with
        | none => (s1.writeS c.d 1).advance
        | some e =>
          if e.2.ctx ≠ s.me.ctx then (s1.writeS c.d 1).advance
          else
            let g : Give := { tag := s.ids, src := s.cur.core, dst := target, part := s.me.part, srcIndex := j, index := 0,
                              entry := e.2, view := [], edition := 0 }
            (((s1.hold (.give s.ids g)).openWindow c.la [.s c.d]).emitNet (4 + travelCores s.cur.core target)
              (.giveRequest s.cur s.ids target s.me.part)).advance

/-- GIVE_REQUEST (R301). -/
def execGiveRequest (s : State) : Result :=
  .next <|
    match s.ev with
    | .giveRequest r tag target _ =>
      let j := State.catFree (s.core target)
      let s1 := match j with
        | some n => s.updCore target fun k => { k with catReserved := n :: k.catReserved }
        | none => s
      s1.emitNet (4 + travelCores target r.core) (.giveAnswer r tag target j)
    | _ => s

/-- GIVE_ANSWER (R301). -/
def execGiveAnswer (s : State) : Result :=
  .next <|
    match s.ev with
    | .giveAnswer r tag target j =>
      let d := (((s.strand r).windows.find? fun w => w.tag == tag).map (·.dests)).getD []
      let ws : List RegWrite := d.filterMap fun x => match x with
        | .s n => some (RegWrite.s n (if j.isSome then 0 else 1))
        | _ => none
      let keep (h : Held) : Option Held :=
        match h, j with
        | .give t g, some n => some (Held.give t { g with index := n })
        | .give _ _, none => none
        | h, _ => some h
      match s.settle r tag keep ws, j with
      | some s1, _ => s1
      | none, some n => s.updCore target fun k => { k with catReserved := k.catReserved.erase n }
      | none, none => s
    | _ => s

/-- The censuses that an entry arriving by GIVE answers at its destination (R306): processed there, not at a source that
lies in their scope. -/
def State.lateCensuses (s : State) (g : Give) : List (CensusId × Solicit) :=
  ((s.core g.dst).seen.filter fun v => !g.view.contains v).filterMap fun v =>
    let x := s.census g.part v.1
    match x.q with
    | some q =>
      let c : CensusId := ⟨g.part, v.1, v.2⟩
      if x.open_ && x.seq == v.2 && !x.complete && State.censusMatches c q g.entry && (s.censusCores g.part q).contains g.src then
        some (c, q)
      else none
    | none => none

/-- GIVE_INSTALL (R306). -/
def execGiveInstall (s : State) : Result :=
  .next <|
    match s.ev with
    | .giveInstall g =>
      let late := s.lateCensuses g
      let entry := late.foldl (fun e c => State.answered c.1 e) g.entry
      let s1 := s.updCore g.dst fun k =>
        { k with catReserved := k.catReserved.erase g.index, catalogue := put g.index entry k.catalogue
                 givesIn := { tag := g.tag, src := g.src, live := 0, answers := [] } :: k.givesIn }
      let upd (s : State) (f : GiveIn → GiveIn) : State := s.updCore g.dst fun k =>
        { k with givesIn := k.givesIn.map fun x => if x.tag == g.tag && x.src == g.src then f x else x }
      let s2 := late.foldl (fun (s : State) c =>
        match s.startResponder g.dst c.1 c.2 g.index entry (some (g.src, g.tag)) with
        | (s1, true) => upd s1 fun x => { x with live := x.live + 1 }
        | (s1, false) => upd s1 fun x => { x with answers := x.answers ++
            [{ slot := c.1.slot, seq := c.1.seq, core := g.dst, index := g.index, val := none }] }) s1
      s2.giveCheck g.dst
    | _ => s

/-- GIVE_ACK (R306): its answers join the source's DONE. -/
def execGiveAck (s : State) : Result :=
  .next <|
    match s.ev with
    | .giveAck core tag answers _ =>
      let k := s.core core
      let has (a : CenAnswer) : Bool := k.cens.any fun x => x.id.slot == a.slot && x.id.seq == a.seq
      let s1 := s.updCore core fun k =>
        { k with givesOut := k.givesOut.erase tag, early := k.early ++ answers.filter fun a => !has a
                 cens := k.cens.map fun x =>
                   { x with gives := x.gives.erase tag
                            answers := x.answers ++ answers.filter fun a => x.id.slot == a.slot && x.id.seq == a.seq } }
      s1.censusCheck core
    | _ => s

/-! ## reply (R304) -/

/-- `reply.cen` (R304): a release at the census's scope, then the task's answer. -/
def execReplyCen (c : CWord) (s : State) : Result :=
  checked (.replyCen c) s fun s =>
    let k := s.task s.me.task
    let under (t : Strand) : Bool := t.task == s.me.task && (match t.wait with | .release _ (.answer _ _) => true | _ => false)
    match k.census with
    | none => s.raiseCode .reservedField
    | some (id, _) =>
      if k.answer.isSome || !(s.strandsWhere fun _ t => under t).isEmpty then s.raiseCode .reservedField
      else
        let scope := match (s.census id.part id.slot).q with | some q => q.scope | none => 0
        ((s.advance.thenEnd).updMe fun t => { t with back := some s.pre }).releaseThen scope (.answer id (s.opA c))

def isReply : Held → Bool
  | .posted p | .wants _ (.journal p _ _) => p.reply.isSome
  | .dropReply => true
  | _ => false

/-- `reply.msg` (R304): the line is written into the sender's line as a posted store; a reply to a port or a unit is
dropped. -/
def execReplyMsg (c : CWord) (s : State) : Result :=
  checked (.replyMsg c) s fun s =>
    match s.ownLine (s.opA c).toNat 256 with
    | .error x => s.raise x
    | .ok off =>
      let hdr := s.scratchBytes off 32
      let plen := lineNat hdr 23 1
      let k := s.task s.me.task
      let replied := k.replied || !(s.strandsWhere fun _ t =>
        t.task == s.me.task && ((t.closed ++ [t.opened]).flatMap (·.held)).any isReply).isEmpty
      if 28 < plen || lineNat hdr 3 1 / 16 ≠ 0 then s.raiseCode .reservedField
      else
        match k.start with
        | none => s.raiseCode .reservedField
        | some m =>
          if !m.wantsReply || replied then s.raiseCode .reservedField
          else if 16 ≤ m.sstrand.toNat then (s.hold .dropReply).advance
          else
            let r := s.readLine off (32 + 8 * plen)
            let line := (s.stampMsg s.cur (Msg.ofLine r.2)).line
            let target := m.score.toNat
            let slot := m.sstrand.toNat
            let at_ := State.aslotMsg (s.core target).aslot + 256 * slot
            let p : PostedStore :=
              { src := s.cur.core, idx := none, part := s.me.part, target := target,
                data := line.zipIdx.map fun (b : Byte × Nat) => (b.2, b.1), setFull := true,
                reply := some (slot, Bits.get m.pcx.toNat 15 11), edition := s.myCore.edition }
            (r.1.holdPosted c.la (Config.aperture + target * 2 ^ 20 + at_) 256 p).advance

end Sys2Proof.Machine
end

