-- ==== Sys2Proof/Machine/Editions.lean ====
section
/-! DEFINITION. Editions (R291-R299, R382, R383): the controller, what each unit records at its switch, the channel
record, and the return to a cut. -/

namespace Sys2Proof.Machine

/-- Zero bytes. -/
def zeros (n : Nat) : List Byte := List.replicate n 0

namespace State

/-! ## Aborted editions (R382, R383) -/

/-- The edition that is open in a partition. -/
def openEdition (s : State) (part : Nat) : Option Edition := s.editions.find? fun e => e.part == part && e.state == 0

def updEdition (s : State) (part : Nat) (n : W32) (f : Edition → Edition) : State :=
  { s with editions := s.editions.map fun e => if e.part == part && e.n == n then f e else e }

/-- Bytes of an edition's header. -/
def headerWord (s : State) (e : Edition) (off n : Nat) : Nat :=
  match s.unitWord e.part e.ctx (e.header.toNat + off) n with
  | (_, .ok v) => v
  | (_, .error _) => 0

def headerPut (s : State) (e : Edition) (off : Nat) (data : List Byte) : State :=
  (s.unitWrite e.part e.ctx (e.header.toNat + off) data).1

/-- The edition aborts: STATE 2, a record and vector 1. -/
def abortEdition (s : State) (part cause : Nat) (page : Word) : State :=
  match s.openEdition part with
  | none => s
  | some e =>
    (((s.headerPut e 4 [2]).updEdition part e.n fun e => { e with state := 2 }).report part none EventCode.editionAbort.byte 4 0
      (BitVec.ofNat 64 (cause + 2 ^ 32 * e.n.toNat)) (if cause = 4 || cause = 5 then Bytes.ofNat 8 page.toNat else [])).raiseVector part 1

/-! ## Dumps (R90, R294) -/

/-- The 17 lines of a strand (R90). -/
def strandLines (t : Strand) (now : Nat) : List Byte :=
  let r := t.regs
  (r.s.toList.flatMap fun (w : Word) => Bytes.ofNat 8 w.toNat) ++ Bytes.ofNat 8 r.pc.toNat ++ Bytes.ofNat 8 r.flags.toNat ++
    Bytes.ofNat 8 (t.budgetNow now).toNat ++ Bytes.ofNat 8 t.scaleBase.toNat ++ (r.k.toList.flatMap fun (w : W32) => Bytes.ofNat 4 w.toNat) ++
    zeros 68 ++ (r.v.toList.flatMap fun (v : VReg) => v.toList.flatMap fun (w : W32) => Bytes.ofNat 4 w.toNat)

/-- A chunk of one atomic that has been performed and waits for its grant (R162). -/
def isPerformed (c : Chunk) : Bool :=
  c.alone && c.held.isEmpty && (match c.bundle with | some (.single i) => isAtomic i | _ => false)

/-- A strand as an edition records it: at its oldest uncommitted chunk's checkpoint, or as it is (R154, R294); in the release of a `bar` or of a
`reply.cen` it stands at that bundle. DEDUCED (log 91): after an atomic that has been performed, since memory shows it (R298). -/
def dumpStrand (t : Strand) : Strand :=
  let c := ((t.closed.filter fun c => !isPerformed c) ++ [t.opened]).headD t.opened
  let uncommitted := (t.closed.any fun c => !isPerformed c) || t.opened.count != 0
  let now := match t.wait with
    | .release _ (.arrive _ _) | .release _ (.answer _ _) => t.back.getD t.regs
    | _ => t.regs
  let regs := if uncommitted then c.check else now
  let kept := match t.wait with
    | .asleep (.barrier _ _) | .stopped => true
    | _ => false
  { t with
    regs := regs, jobLast := if uncommitted then c.jobLast else t.jobLast, scaleBase := if uncommitted then c.scale else t.scaleBase, back := none
    frames := if uncommitted then c.frames else t.frames, counter := if uncommitted then c.counter else t.counter
    opened := { Chunk.empty 0 regs t.jobLast with done := c.done, vec := c.vec }, closed := [], windows := [], pending := []
    wait := if kept then t.wait else .ready, received := [], doneLanes := c.done, vecBefore := c.vec
    monitor := if t.wait == .asleep .monitor then some { va := 0, onScratch := false, events := [4], first := none, id := 0 } else none
    jobWait := none, known := [], ntOut := [], ntDone := [], podWrites := [], unackedWrites := 0, unackedStores := 0, unackedPod := 0,
    unackedMaint := 0, solo := 0, asyncFaults := [], fault := if t.wait == .stopped then t.fault else none }

/-- The descriptors that uncommitted chunks have popped (R212). -/
def popped (c : Core) : List Desc :=
  (c.slots.flatMap fun e => (e.2.closed ++ [e.2.opened]).flatMap fun k => k.held.filterMap fun h =>
    match h with | .pop d => some d | _ => none).reverse

/-- A core as an edition records it (R154, R294). -/
def recordedCore (c : Core) : Core := { c with slots := c.slots.map fun e => (e.1, dumpStrand e.2), deque := c.deque ++ popped c }

/-- A wait word (R294). -/
def waitWord (t : Strand) : Word :=
  match t.wait with
  | .asleep (.barrier b phase) => BitVec.ofNat 64 (1 + 2 * b.scope + 16 * b.id + 512 * (phase % 2))
  | _ => 0

/-- A core's record (R294). -/
def coreDump (s : State) (n : Nat) (core : Core) : List Byte :=
  let c := recordedCore core
  let ways := (List.range 16).filter fun w => c.wayMask.getLsbD w
  let bitmap := c.slots.foldl (fun b e => b + 2 ^ e.1) 0
  let reg (w : Word) : List Byte := Bytes.ofNat 8 w.toNat
  let body :=
    (c.slots.flatMap fun e => strandLines e.2 s.now) ++
    (c.deque.flatMap fun d => (Bytes.ofNat 8 d.pc.toNat ++ d.regs.flatMap (fun (w : Word) => Bytes.ofNat 8 w.toNat) ++
      zeros 128).take 128) ++
    ((c.lowQ ++ c.highQ).flatMap fun q => q.msg.line) ++
    ((c.tableAt s.now).flatMap fun (x : BitVec 19) => Bytes.ofNat 4 x.toNat) ++
    (ways.flatMap fun w => memLoad c.store (16384 * w) 16384 ++
      (List.range 64).map fun j => BitVec.ofNat 8 ((List.range 8).foldl (fun b k => if c.full.contains (512 * w + 8 * j + k) then b + 2 ^ k else b) 0))
  let lines := 1 + Bits.ceilDiv body.length 256
  let head := ([0, 0] : List Byte) ++ Bytes.ofNat 2 n ++ Bytes.ofNat 4 lines ++ Bytes.ofNat 2 bitmap ++
    [BitVec.ofNat 8 c.deque.length, BitVec.ofNat 8 c.lowQ.length, BitVec.ofNat 8 c.highQ.length, BitVec.ofNat 8 ways.length, 0, 0] ++
    reg c.aslot ++ reg c.wayMask ++ reg (coreschedOf c) ++ reg c.ctxRun ++ reg c.ctxReq ++ zeros 8 ++
    ((List.range 16).flatMap fun j => reg (match core.slots.find? fun e => e.1 == j with | some e => waitWord e.2 | none => 0)) ++
    zeros 64
  head ++ body

/-- The base die's record (R294). -/
def baseDump (s : State) (part : Nat) : List Byte :=
  let reg (w : Word) : List Byte := Bytes.ofNat 8 w.toNat
  ([5, 0, 0, 0] : List Byte) ++ Bytes.ofNat 4 65 ++ zeros 248 ++
    (List.range 64).flatMap fun c =>
      let x := s.context part c
      reg x.upcall ++ reg x.clsTab ++ reg x.clsNum ++ reg x.graphBase ++ reg x.wdogWin ++ reg x.expcap ++ reg x.ttroot ++ zeros 200

/-- A unit's kind and number (R294). -/
def unitCode : UnitId → Nat × Nat
  | .core n => (0, n)
  | .slice n => (1, n)
  | .engines n => (2, n)
  | .node n => (3, n)
  | .sampler n => (4, n)
  | .baseDie => (5, 0)

/-- The 64 bytes of a sampling request (R283). -/
def requestBytes (q : SampReq) : List Byte :=
  Bytes.ofNat 2 q.ctxId ++ [BitVec.ofNat 8 q.sampler, q.rtype] ++ Bytes.ofNat 3 (q.v - 1) ++ [0, BitVec.ofNat 8 q.fmt, 0, 0, 0] ++
    Bytes.ofNat 4 q.arg.toNat ++ Bytes.ofNat 8 q.logits.toNat ++ Bytes.ofNat 2 q.rcls.toNat ++ zeros 6 ++ Bytes.ofNat 16 q.rkey.toNat ++ zeros 16

/-- `n` bytes of a list, filled up with zeros. -/
def fit (n : Nat) (b : List Byte) : List Byte := (b ++ zeros n).take n

/-- A sampler's record (R327): images, candidate memory, and 192 bytes for each queued request. DEDUCED (log 91): g0, which reads 0, has no
place beside the saved pc. -/
def samplerBody (s : State) (n : Nat) : List Byte :=
  ((List.range 512).flatMap fun c => (List.range 64).flatMap fun k => Bytes.ofNat 8 (s.image n c k).toNat) ++
  ((List.range 512).flatMap fun c => fit 8192 ((s.cands n c).flatMap fun x => fit 16 (Config.candBytes x.token x.value x.weight))) ++
  (s.sampler n).queue.flatMap fun w => requestBytes w.req ++ (match w.parked with
    | some r => Bytes.ofNat 8 r.pc ++ (r.g.toList.drop 1).flatMap fun (g : Word) => Bytes.ofNat 8 g.toNat
    | none => zeros 128)

/-- The jobs of a core and how they stand. -/
def jobFields (c : Core) : List Word := c.jobs.flatMap fun j => [j.id.setWidth 64, if j.status.isSome then 1 else 0, j.status.getD 0]

/-- What an Ephemeris entry holds. -/
def ephFields (e : Eph) : List Word :=
  [BitVec.ofNat 64 (64 * e.actor.part + e.actor.ctx), e.actor.cls.setWidth 64, e.actor.key.setWidth 64, (e.actor.key >>> 64).setWidth 64,
   (match e.phase with | .activating => 1 | .live => 2 | .retiring => 3 | .moving => 4), BitVec.ofNat 64 e.core, BitVec.ofNat 64 e.index]

/-- What a node holds: phase and arrival counts of its barriers, partial combine and count of its open censuses. -/
def nodeFields (s : State) (part n : Nat) : List Word :=
  ((s.barriers.filter fun b => b.key.part == part && barNode b.key == n).flatMap fun b =>
    BitVec.ofNat 64 (b.key.scope + 8 * b.key.id) :: BitVec.ofNat 64 b.phase :: b.counts.flatMap fun c =>
      [BitVec.ofNat 64 c.phase, BitVec.ofNat 64 c.quire, BitVec.ofNat 64 c.n]) ++
  (((s.partition part).census.filter fun c => c.2.open_ && censusNode c.2.q == n).flatMap fun c =>
    [BitVec.ofNat 64 (8192 * c.1 + c.2.seq), BitVec.ofNat 64 c.2.counted,
     combineAnswers (match c.2.q with | some q => q.op | none => 0) c.2.answers])

/-- The engines' record (R294): tiles in raw form row by row, precision registers, queued commands, and the cores' job statuses. -/
def enginesBody (s : State) (q : Nat) : List Byte :=
  ((List.range 16).flatMap fun n => (List.range 32).flatMap fun row => (List.range 32).flatMap fun c =>
    let w := (tileElem s q n row c).raw
    Bytes.ofNat 4 w.1.toNat ++ Bytes.ofNat 4 w.2.1.toNat ++ Bytes.ofNat 4 w.2.2.toNat) ++
  ((List.range 16).flatMap fun n => Bytes.ofNat 8 (zpOf s q n).toNat) ++
  ((List.range 4).flatMap fun g => (s.engine q g).queues.flatMap fun k => k.2.flatMap fun c => c.words.flatMap fun (w : W32) => Bytes.ofNat 4 w.toNat) ++
  Config.dumpBytes 2 q ((List.range 4).flatMap fun k => jobFields (s.core (4 * q + k)))

/-- A slice's record (R294): 32 bytes for each entry, whose layout no rule gives, and the pending-store lines. -/
def sliceBody (s : State) (q : Nat) : List Byte :=
  fit (32 * (s.slice q).ephs.length) (Config.dumpBytes 1 q ((s.slice q).ephs.flatMap ephFields)) ++ (s.slice q).ephs.flatMap fun e => e.pend.flatMap (·.line)

/-- A unit's record in bytes; where R294 does not give the layout, they are unspecified (log entry 9). -/
def unitDump (s : State) (part : Nat) (u : UnitId) : List Byte :=
  let lines (body : List Byte) : List Byte :=
    [BitVec.ofNat 8 (unitCode u).1, 0] ++ Bytes.ofNat 2 (unitCode u).2 ++ Bytes.ofNat 4 (1 + Bits.ceilDiv body.length 256) ++ zeros 248 ++ body
  match u with
  | .core n => s.coreDump n (s.core n)
  | .baseDie => s.baseDump part
  | .slice n => lines (s.sliceBody n)
  | .engines n => lines (s.enginesBody n)
  | .sampler n => lines (s.samplerBody n)
  | .node n => lines (Config.dumpBytes 3 n (s.nodeFields part n))

/-- The atomics of a sleeping bundle that have been performed, with their results, on their way too: memory shows them, and after a return the bundle does
not perform them again (R298; log 91). -/
def performedAtoms (s : State) (r : Ref) : List Received :=
  let t := s.strand r
  let coming (lane : Nat) (va : Word) : Option Received :=
    (s.agenda.map (·.2.2) ++ s.sent.map (·.2)).findSome? fun e => match e with
      | .remoteResult w l a (.value x) => if w == r && l == lane && a == va then some (.element l a x) else none
      | _ => none
  if t.inFlight then
    t.received.filterMap fun x => match x with
      | .element l a v => some (.element l a v)
      | .sent l a => coming l a
      | _ => none
  else []

/-- What the model keeps of a unit for a return to the cut. -/
def unitRecord (s : State) (part : Nat) (u : UnitId) : UnitRecord :=
  match u with
  | .core n =>
    let c := s.core n
    let k := recordedCore c
    .core { k with slots := k.slots.map fun e => (e.1, { e.2 with received := s.performedAtoms ⟨n, e.1⟩ }) } ((s.tasks.filter fun t => t.2.core == n).map fun t =>
      (t.1, { t.2 with live := t.2.live + ((popped c).filter fun d => d.task == t.1).length }))
  | .slice n => .slice (s.slice n)
  | .engines n => .engines (s.quire n)
  | .node n => .node (s.barriers.filter fun b => b.key.part == part && barNode b.key == n)
      ((s.partition part).census.filter fun c => censusNode c.2.q == n)
  | .sampler n => .sampler (s.sampler n)
  | .baseDie => .base s.contexts (s.ports.map fun p => (p.1, p.2.accepted))

/-- The units of a partition (R294). -/
def unitsOf (s : State) (part : Nat) : List UnitId :=
  let qs := s.homeList part
  (qs.flatMap fun q => (List.range 4).map fun k => UnitId.core (4 * q + k)) ++ qs.map UnitId.slice ++ qs.map UnitId.engines ++
    qs.map UnitId.node ++ ((List.range 4).filter fun d => qs.any fun q => q / 256 == d).map (fun d => UnitId.node (1024 + d)) ++ [.node 2048] ++ (List.range 8).map UnitId.sampler ++ [.baseDie]

/-- What a unit holds unprocessed until it has switched, in the order it came (R294): the first is looked at again. -/
def deliverAhead (s : State) (part : Nat) (u : UnitId) : State :=
  match (s.partition part).ahead.find? fun x => x.1 == u with
  | some x => s.emit 0 x.2
  | none => s

/-- The later of two editions. -/
def laterEdition (a b : W32) : W32 := if a.toNat < b.toNat then b else a

/-- A unit switches to an edition: its record, in the dump area and in the model, unless the edition has aborted (R294, R382, R383). A unit that is in a
later edition stays there. -/
def switchUnit (s : State) (part : Nat) (u : UnitId) (n : W32) : State :=
  let enter (s : State) : State :=
    match u with
    | .core c => s.updCore c fun k => { k with edition := laterEdition k.edition n, trigger := if k.trigger = some n then none else k.trigger }
    | .slice q => s.updSlice q fun x => { x with edition := laterEdition x.edition n }
    | _ => s
  match s.editionOf part n with
  | none => enter s
  | some e =>
    if !e.left.contains u then s
    else
      let data := s.unitDump part u
      let kept := s.unitRecord part u
      let s1 := (enter (s.updEdition part n fun e => { e with left := e.left.erase u })).deliverAhead part u
      if e.state != 0 then s1
      else
        let used := s.headerWord e 32 8
        let size := Bits.ceilDiv data.length 256 * 256
        let s2 := s1.updEdition part n fun e => { e with records := e.records ++ [(u, kept)] }
        if s.headerWord e 24 8 < used + size then s2.abortEdition part 1 0
        else
          let s3 := s2.headerPut e 32 (Bytes.ofNat 8 (used + size))
          (s3.unitWrite part e.ctx (s3.headerWord e 16 8 + used) data).1

/-- A slice begins to wait for its switch (R294). -/
def holdTransitions (s : State) (slice : Nat) : State := s.updSlice slice fun x => { x with switching := true }

/-- Whether a unit may switch now (R294). -/
def mayStep (s : State) (u : UnitId) : Bool :=
  match u with
  | .slice n => (s.slice n).ephs.all fun e => e.phase == .live
  | .engines n => (List.range 4).all fun k => (s.engine n k).running.isNone
  | .sampler n => (s.sampler n).running.isNone
  | _ => true

/-! ## The channel record (R295) -/

/-- The 512 bytes of an entry. -/
def channelBytes (kind unit link : Nat) (va : Word) (content : List Byte) : List Byte :=
  [BitVec.ofNat 8 kind, 0] ++ Bytes.ofNat 2 unit ++ Bytes.ofNat 4 link ++ Bytes.ofNat 8 va.toNat ++ Bytes.ofNat 2 content.length ++
    zeros 238 ++ (content ++ zeros 256).take 256

/-- A unit is to switch to an edition (R294): a core before its next commit or after 64 cycles, a slice once no entry is in transition, another
unit at once. A later edition takes the place of one that has aborted (R383). -/
def summon (s : State) (part : Nat) (u : UnitId) (n : W32) : State :=
  match u with
  | .core c =>
    if (s.core c).trigger = some n then s
    else (s.updCore c fun k => { k with trigger := some n }).emit 64 (.coreSwitchTimeout part c n)
  | .slice q =>
    let asked (e : Event) : Bool := match e with | .homeSliceSwitch p k m => p == part && k == q && m == n | _ => false
    if (s.slice q).switching && ((s.agenda.any fun x => asked x.2.2) || s.sent.any fun x => asked x.2) then s
    else (s.holdTransitions q).emit 0 (.homeSliceSwitch part q n)
  | u => s.switchUnit part u n

/-- A packet waits, unprocessed, behind those its unit holds already. -/
def holdAhead (s : State) (part : Nat) (u : UnitId) (e : Event) : State :=
  s.updPartition part fun p => if p.ahead.contains (u, e) then p else { p with ahead := p.ahead ++ [(u, e)] }

/-- A packet that was held is processed, and the next one is looked at. -/
def popAhead (s : State) (part : Nat) (u : UnitId) (e : Event) : State :=
  if (s.partition part).ahead.contains (u, e) then
    (s.updPartition part fun p => { p with ahead := p.ahead.erase (u, e) }).deliverAhead part u
  else s

/-- A packet reaches a unit (R294): one of the open edition makes a unit that has not switched do so, and is held until it has; whatever comes behind it
waits too. The answer says whether the packet is held. -/
def meet (s : State) (part : Nat) (u : UnitId) (edition : BitVec 16) (e : Event) : State × Bool :=
  let n := (s.partition part).edition
  let s1 := if s.aheadOf part u (edition.setWidth 32) then s.summon part u n else s
  if s1.aheadOf part u (edition.setWidth 32) then (s1.holdAhead part u e, true)
  else
    match (s1.partition part).ahead.find? fun x => x.1 == u with
    | none => (s1, false)
    | some x => if x.2 == e then (s1.popAhead part u e, false) else (s1.holdAhead part u e, true)

/-- A counted packet of the edition before the open one that reaches a unit after its switch is recorded (R295). -/
def recordPacket (s : State) (part : Nat) (u : UnitId) (edition : BitVec 16) (kind : Nat) (va : Word) (content : List Byte) (e : Event) : State :=
  match s.openEdition part with
  | none => s
  | some x =>
    if x.left.contains u || edition == x.n.setWidth 16 then s
    else
      let cnt := s.headerWord x 68 4
      if s.headerWord x 64 4 ≤ cnt then s.abortEdition part 3 0
      else
        let s1 := s.updEdition part x.n fun x => { x with channel := x.channel ++ [(u, e)] }
        let link := (Config.linkNumber (unitCode u).1 (unitCode u).2).toNat
        let s2 := (s1.unitWrite part x.ctx (s1.headerWord x 56 8 + 512 * cnt) (channelBytes kind (unitCode u).2 link va content)).1
        s2.headerPut x 68 (Bytes.ofNat 4 (cnt + 1))

/-- Whether an event carries a counted packet of an edition before `n` (R295). -/
def countedBefore (s : State) (part : Nat) (n : W32) : Event → Bool
  | .messageAccept _ p | .bouncedMessage _ p => p.part == part && p.edition != n
  | .messageAtCore _ _ a m => a.part == part && m.edition != n.setWidth 16
  | .postedStoreApply p => p.part == part && p.edition != n
  | .barrierArrival b _ _ m => b.part == part && m != n
  | .barrierRelease b _ m => b.part == part && m != n
  | .censusProcess _ c m => c.part == part && m != n
  | .censusDone _ c m => c.part == part && m != n
  | .giveInstall g => g.part == part && g.edition != n
  | .giveAck c _ _ m => s.owner (quireOf c) == some part && m != n
  | _ => false

/-- A committed message of the edition before waits for its injection (R328). -/
def queuedBefore (s : State) (part : Nat) (n : W32) : Bool :=
  s.cores.any fun c => c.2.outbound.any fun x => match x.2.ready with | some p => p.packet.part == part && p.packet.edition != n | none => false

/-- An edition is complete (R291): every unit has its record and no counted packet of the one before is on its way or held unprocessed, which is what the
counts that the markers carry say (R295). -/
def editionDone (s : State) (e : Edition) : Bool :=
  e.left.isEmpty && !(s.agenda.any fun x => s.countedBefore e.part e.n x.2.2) && !(s.sent.any fun x => s.countedBefore e.part e.n x.2) &&
    !s.queuedBefore e.part e.n && !((s.partition e.part).ahead.any fun x => s.countedBefore e.part e.n x.2)

end State

/-! ## Events of editions -/

/-- SNAP_REQUEST_ARRIVAL (R291-R293, R295): edition N starts, or one is open. -/
def execSnapRequestArrival (s : State) : Result :=
  .next <|
    match s.ev with
    | .snapRequestArrival r tag header =>
      let t := s.strand r
      let part := t.part
      if (s.openEdition part).isSome then s.emitNet (baseLeg r.core) (.snapAnswer r tag 0)
      else
        let p := s.partition part
        let n := p.edition + 1
        let prev := match s.editionOf part p.edition with | some e => e.header | none => 0
        let e : Edition := { part := part, n := n, header := header, ctx := t.ctx, state := 0, records := [], left := s.unitsOf part,
                             marked := [], channel := [], pages := [], hmask := p.hmask, plimit := p.plimit }
        let s1 := { s.updPartition part fun p => { p with edition := n } with editions := e :: s.editions.filter fun x => !(x.part == part && x.n == n) }
        let reg (w : Word) : List Byte := Bytes.ofNat 8 w.toNat
        let s2 := ((((((s1.headerPut e 0 (Bytes.ofNat 4 n.toNat)).headerPut e 8 (reg prev)).headerPut e 32 (Bytes.ofNat 8 0)).headerPut e 52
          (Bytes.ofNat 4 0)).headerPut e 68 (Bytes.ofNat 4 0)).headerPut e 512 (reg p.hmask ++ reg p.plimit ++ zeros 3568)).headerPut e 4 [0]
        let s3 := (s2.unitsOf part).foldl (fun (s : State) u =>
          let d := match u with
            | .core k => toBase (quireOf k)
            | .slice q | .engines q => toBase q
            | .node q => if q < 1024 then toBase q else 0
            | _ => 0
          s.emit d (.editionMarker part u n)) s2
        let s4 := ((s3.listed part).filter (· != s3.pkgid)).foldl (fun (s : State) k => s.toFabric (.marker k part n (s.linkCount part k))) s3
        (s4.emit 64 (.editionComplete part)).emitNet (baseLeg r.core) (.snapAnswer r tag (n.setWidth 64))
    | _ => s

/-- EDITION_MARKER (R294): the unit is to switch; engines and samplers do once what is in progress has completed. -/
def execEditionMarker (s : State) : Result :=
  .next <|
    match s.ev with
    | .editionMarker part u n =>
      match s.editionOf part n with
      | none => s
      | some e =>
        if !e.left.contains u then s
        else
          match u with
          | .core _ | .slice _ => s.summon part u n
          | u =>
            if s.mayStep u then
              match u with
              | .sampler k => (s.switchUnit part u n).emit 0 (.samplerRun k)
              | u => s.switchUnit part u n
            else (s.updEdition part n fun e => { e with marked := u :: e.marked.erase u }).emit 1 (.editionMarker part u n)
    | _ => s

/-- EDITION_PACKET (R294, R295). -/
def execEditionPacket (s : State) : Result :=
  .next <|
    match s.ev with
    | .editionPacket part u p =>
      match s.openEdition part with
      | none => s
      | some x =>
        if p.edition = x.n then (if x.left.contains u then s.emit 0 (.editionMarker part u x.n) else s)
        else s.recordPacket part u (p.edition.setWidth 16) p.kind p.va (p.content.take p.len) (.editionPacket part u p)
    | _ => s

/-- CORE_SWITCH_TIMEOUT (R294): no chunk of the core has committed for 64 cycles. -/
def execCoreSwitchTimeout (s : State) : Result :=
  .next <|
    match s.ev with
    | .coreSwitchTimeout part core n =>
      if (s.core core).trigger = some n then s.switchUnit part (.core core) n else s
    | _ => s

/-- The edition controller looks whether the open edition is complete (R297): STATE 1, written last, and vector 1. DESIGN CHOICE (log 88): it looks each
64 cycles. -/
def State.completeEdition (s : State) (part : Nat) : State :=
  match s.openEdition part with
  | none => s
  | some e =>
    if s.editionDone e then ((s.headerPut e 4 [1]).updEdition part e.n fun e => { e with state := 1 }).raiseVector part 1
    else s.emit 64 (.editionComplete part)

/-! ## The work of a partition discarded (R299, R358, R388, R413) -/

namespace State

/-- A core without its strands, queues and effects on their way. -/
def discardCore (now : Nat) (c : Core) : Core :=
  { c with
    table := c.tableAt now, tables := []
    slots := [], reserved := [], deque := [], dequeReserved := 0, lowQ := [], highQ := [], starts := [], upcalls := [], orders := []
    fills := [], outbound := [], journal := [], catReserved := [], cens := [], early := [], givesOut := [], givesIn := [], staging := []
    jobs := c.jobs.filter fun j => j.status.isSome
    aslotTo := none, aslotBy := [], maskBy := [], trigger := none, lowSent := 0, highSent := 0 }

def discardEngine (e : Engine) : Engine :=
  { e with queues := [], reserved := [], running := none, cost := 0, waiting := [], ends := none, drain := none, written := [] }

/-- Decoders and samplers, whose work in progress may have gone, go on with that of other partitions. -/
def unitsGoOn (s : State) : State :=
  (List.range 8).foldl (fun (s : State) k =>
    let s1 := match s.decoder k with
      | j :: _ => if j.result.isNone then s.folioStart k else s
      | [] => s
    if (s1.sampler k).queue.isEmpty then s1 else s1.emit 0 (.samplerRun k)) s

/-- Every strand, queue, command, open census, barrier and packet of a partition goes. -/
def discardWork (s : State) (part : Nat) : State :=
  let mine (core : Nat) : Bool := s.owner (quireOf core) == some part
  let sender (k : Sender) : Bool := match k with
    | .core n => mine n
    | .slice q => s.owner q == some part
    | .port n => (look Port.reset n s.ports).owner == some part
    | .baseUnit _ | .far _ _ _ => false
  let s1 : State := { s with
    cores := s.cores.map fun e => if mine e.1 then (e.1, discardCore s.now e.2) else e
    quires := s.quires.map fun e => if e.2.owner == some part then
      (e.1, { e.2 with engines := e.2.engines.map fun g => (g.1, discardEngine g.2) }) else e
    dies := s.dies.map fun d => (d.1, { d.2 with requests := d.2.requests.filter (fun q => !mine q.who.core), spine := d.2.spine.filter (fun w => w.part != part) })
    samplers := s.samplers.map fun x => (x.1, { x.2 with
      queue := x.2.queue.filter (fun w => w.req.part != part), reserved := x.2.reserved.filter (· != part)
      running := match x.2.running with | some r => if r.req.part = part then none else some r | none => none })
    decoders := s.decoders.map fun d => (d.1, d.2.filter fun j => j.x.part != part)
    slices := s.slices.map fun x => if s.owner x.1 == some part then
      (x.1, { Slice.reset with edition := x.2.edition, lastCore := x.2.lastCore, fallback := x.2.fallback }) else x
    chseq := s.chseq.filter fun c => !(sender c.1.1 ||
      (if c.1.2 / 1024 = s.pkgid then s.owner (c.1.2 % 1024) == some part else (Config.peerHomes (c.1.2 / 1024) part).contains (c.1.2 % 1024)))
    tasks := s.tasks.filter fun t => t.2.part != part
    barriers := s.barriers.filter fun b => b.key.part != part
    migrants := s.migrants.filter fun m => m.2.part != part
    peerWait := s.peerWait.filter fun r => r.part != part
    cowQueue := s.cowQueue.filter fun w => w.part != part
    partitions := s.partitions.map fun p => if p.1 = part then
      (p.1, { p.2 with census := p.2.census.map (fun c => (c.1, { Census.reset with seq := c.2.seq })), censusQueue := [], hmsets := [], adoptLeft := []
                       ahead := [] }) else p
    flush := .part part }
  s1.unitsGoOn

/-- Every line of a partition is dropped. -/
def dropLines (s : State) (part : Nat) : State :=
  { s with
    l2 := s.l2.filter fun l => l.part != part
    podDir := s.podDir.filter fun e => e.part != part
    cores := s.cores.map fun e => (e.1, { e.2 with l1 := e.2.l1.filter fun l => l.part != part })
    dies := s.dies.map fun d => (d.1, { d.2 with walk := d.2.walk.filter fun e => e.part != part }) }

/-- The watchdogs of a partition's contexts start a new window. -/
def startWatchdogs (s : State) (part : Nat) : State :=
  (List.range 64).foldl (fun (s : State) c =>
    let w := (s.context part c).wdogWin.toNat
    if w = 0 then s
    else (s.updContext part c fun x => { x with lastPulse := s.now, silent := false }).emit (w * 1024) (.silentContext part c s.now)) s

end State

end Sys2Proof.Machine
end

