-- ==== Sys2Proof/Machine/Actors.lean ====
section
/-! DEFINITION. Homes of actors: acceptance, the Ephemeris and its rounds (R28-R30, R35-R37, R42, R45, R314, R315,
R368, R369), and what they order of the cores. -/

namespace Sys2Proof.Machine

def actorOf (p : Packet) : ActorId := ⟨p.part, p.ctx, p.msg.cls, p.msg.key⟩

/-- What is wrong with a class entry (R368, causes 12). -/
def entryOk (e : ClassEntry) : Bool :=
  Bits.get e.attr.toNat 1 0 != 3 && e.resZero && decide (1 ≤ e.nTypes.toNat) && decide (e.nTypes.toNat ≤ 256) && e.stLines != 0 &&
    decide (4 ≤ e.dirLog.toNat) && decide (e.dirLog.toNat ≤ 32) && e.code.toNat % 8 == 0 && e.recDir.toNat % 32 == 0 &&
    e.recPool.toNat % 16 == 0 && e.cbank.toNat % 256 == 0

/-- A cause of ACTOR_STATE_FAULT and the code of the event under it (R367). -/
abbrev Cause := Nat × Nat

/-- A message among returned ones: after the `heads` returned messages that wait, before every other (R35). -/
def headRule (heads : Nat) (m : Msg) (pend : List Msg) : List Msg := pend.take heads ++ [m] ++ pend.drop heads

/-- A returned message joins an entry's queue by the head rule (R35). -/
def Eph.putBack (x : Eph) (m : Msg) : Eph := { x with pend := headRule x.heads m x.pend, heads := x.heads + 1 }

/-- An entry that is about to activate an actor for some messages (R35). -/
def Eph.fresh (a : ActorId) (pend : List Msg) (heads : Nat) : Eph :=
  { actor := a, phase := .activating, core := 0, index := 0, pend := pend, heads := heads, ranking := [], fallback := false, refused := [], unfit := [], liveAt := 0 }

namespace State

/-! ## Entries -/

def eph (s : State) (slice : Nat) (a : ActorId) : Option Eph := (s.slice slice).ephs.find? fun e => e.actor == a
def setEph (s : State) (slice : Nat) (e : Eph) : State :=
  s.updSlice slice fun x => { x with ephs := e :: x.ephs.filter fun y => y.actor != e.actor }
def freeEph (s : State) (slice : Nat) (a : ActorId) : State :=
  s.updSlice slice fun x => { x with ephs := x.ephs.filter fun y => y.actor != a }

/-- Lines of the pending store in use (R29). -/
def storeLines (x : Slice) : Nat := x.forwards.length + x.ephs.foldl (fun n e => n + e.pend.length) 0

/-! ## What acceptance checks (R368) -/

def judgeClass (s : State) (part ctx : Nat) (cls : BitVec 16) (first : Bool) : State × Except Cause ClassEntry :=
  if first && (s.context part ctx).clsNum.toNat ≤ cls.toNat then (s, .error (1, 0))
  else
    match s.classEntry part ctx cls.toNat with
    | (s1, .error f) => (s1, .error (4, f.code.byte.toNat))
    | (s1, .ok e) => (s1, if entryOk e then .ok e else .error (12, 0))

def judge (s : State) (part ctx : Nat) (m : Msg) : State × Except Cause (ClassEntry × Word) :=
  match s.judgeClass part ctx m.cls true with
  | (s1, .error c) => (s1, .error c)
  | (s1, .ok e) =>
    if e.nTypes.toNat ≤ m.type.toNat then (s1, .error (2, 0))
    else
      match s1.handlerPc part ctx e m.type.toNat with
      | (s2, .error f) => (s2, .error (4, f.code.byte.toNat))
      | (s2, .ok none) => (s2, .error (3, 0))
      | (s2, .ok (some pc)) => (s2, .ok (e, pc))

/-- The ACTOR_STATE_FAULT record of a home (R366-R368). A graph node whose message fails R368 has failed too (R373); one whose message goes
with its actor's queue has not (R369, R370). -/
def actorFault (s : State) (slice part ctx : Nat) (c : Cause) (gone : List Msg) : State :=
  let s1 := s.report part (some ctx) EventCode.actorStateFault.byte 0 slice
    (BitVec.ofNat 64 (c.1 + 256 * c.2 + 65536 * gone.length)) (match gone with | m :: _ => m.header | [] => [])
  gone.foldl (fun (s : State) m =>
    if m.node = 0 || (5 ≤ c.1 && c.1 ≤ 8) then s
    else s.report part (some ctx) EventCode.nodeFault.byte 5 0x200
      (BitVec.ofNat 64 (m.node + 65536 + 2 ^ 24 * EventCode.actorStateFault.byte.toNat)) []) s1

/-! ## Choosing a core (R37) -/

def classSpan (e : ClassEntry) : Nat := e.stLines.toNat

/-- A core's actor slots that hold no actor. -/
def freeActorSlots (c : Core) : Nat :=
  if c.aslotWritten then ((List.range (aslotCount c.aslot)).filter fun j => !has j c.actors).length else 0

/-- Greater by a measure first, the given order among equals. -/
def rankBy {α : Type} (f : α → Nat) (xs : List α) : List α :=
  xs.foldl (fun acc x => acc.takeWhile (fun y => f x ≤ f y) ++ [x] ++ acc.dropWhile (fun y => f x ≤ f y)) []

def quireRecord (s : State) (q : Nat) : QuireRecord := look QuireRecord.none q s.records

/-- Whether some quire that a partition owns counts for an activation (R37): its largest slot of a free actor slot is wide enough. -/
def counting (s : State) (part lines : Nat) : List Nat := (s.homeList part).filter fun q => decide (lines ≤ (s.quireRecord q).maxSize)

/-- The sum of a measure over the quires of a die, as the distributor has it (R66). -/
def dieSum (s : State) (f : QuireRecord → Nat) (d : Nat) : Nat :=
  let own := s.records.filter fun r => decide (r.1 < 1024) && r.1 / 256 == d
  own.foldl (fun n r => n + f r.2) ((256 - own.length) * f (look QuireRecord.none (1024 + d) s.records))

/-- The core a quire offers a SPREAD activation (R37): the lowest with a free slot, or failing that the lowest that fits; in the fallback
the lowest that fits. -/
def spreadCore (s : State) (fallback : Bool) (q lines : Nat) : Option Nat :=
  let cores := (List.range 4).map (4 * q + ·)
  let fits (c : Nat) : Bool := decide (lines ≤ aslotSize (s.core c).aslot) && (s.core c).aslotWritten
  if fallback then cores.find? fits
  else (cores.find? fun c => fits c && freeActorSlots (s.core c) != 0).orElse fun _ => cores.find? fits

/-- The candidates of an order in the order they are asked, and whether they are those of the fallback (R37): quires under SPREAD, cores
otherwise. -/
def rankingOf (s : State) (slice : Nat) (a : ActorId) (e : ClassEntry) : Except Cause (List Nat × Bool) :=
  match Bits.get e.attr.toNat 1 0 with
  | 0 => .ok ((List.range 4).map fun k => 4 * slice + ((s.slice slice).lastCore + 1 + k) % 4, false)
  | 1 =>
    let lines := classSpan e
    let counts := s.counting a.part lines
    if !counts.isEmpty then
      let dieFree := s.dieSum fun r => if lines ≤ r.maxSize then r.freeAct else 0
      let dies := rankBy dieFree ((List.range 4).filter fun d => counts.any fun q => q / 256 == d)
      .ok (dies.flatMap fun d => rankBy (fun q => (s.quireRecord q).freeAct) (counts.filter fun q => q / 256 == d), false)
    else
      let fit := (s.homeList a.part).filter fun q => decide (lines ≤ (s.quireRecord q).fitSize)
      if fit.isEmpty then .error (5, 0)
      else
        .ok (match ((s.slice slice).fallback.find? fun f => f.1 == (a.ctx, a.cls)).map (·.2) with
          | some l => fit.filter (fun q => l < q) ++ fit.filter (fun q => q ≤ l)
          | none => fit, true)
  | _ =>
    let p := e.pinCore.toNat
    if 4096 ≤ p || s.owner (quireOf p) ≠ some a.part then .error (6, 0) else .ok ([p], false)

/-- Whether a class's candidates are quires (R37). -/
def spreads (e : ClassEntry) : Bool := Bits.get e.attr.toNat 1 0 == 1

/-- The core a candidate stands for now, if any. -/
def candidateCore (s : State) (fallback : Bool) (e : ClassEntry) (k : Nat) : Option Nat :=
  if spreads e then s.spreadCore fallback k (classSpan e) else some k

/-- The core chosen last is remembered (R37). -/
def noteChosen (s : State) (slice : Nat) (a : ActorId) (e : ClassEntry) (fallback : Bool) (core : Nat) : State :=
  match Bits.get e.attr.toNat 1 0 with
  | 0 => s.updSlice slice fun x => { x with lastCore := core % 4 }
  | 1 =>
    if !fallback then s
    else s.updSlice slice fun x =>
      { x with fallback := ((a.ctx, a.cls), quireOf core) :: x.fallback.filter fun f => f.1 != (a.ctx, a.cls) }
  | _ => s

/-- A whole pending queue is discarded and the entry freed (R368-R370). -/
def discardQueue (s : State) (slice : Nat) (x : Eph) (c : Cause) : State :=
  ((s.freeEph slice x.actor).actorFault slice x.actor.part x.actor.ctx c x.pend).emit 0 (.entryFreeRound slice)

/-- A message that host ports or the command processor launch (R16, R27). -/
def isLaunch (m : Msg) : Bool := m.sstrand == 0xFF || (m.sstrand == 0xFE && m.score == 0x200)

/-- The way of an order or a message from its home to a core, in cycles. DEDUCED (log 89): of a launch, R16 bounds the whole way from the
base die to the core's first bundle, so where the home lies off that way the message still reaches its core in time. -/
def wayTo (slice core : Nat) (m : Msg) : Nat :=
  let way := travel slice (quireOf core)
  if isLaunch m then min way (43 + 2 * spineHops (quireOf core) - launchArrival (if m.sstrand = 0xFF then 20 else 0) slice) else way

/-- The order for an ACTIVATING entry goes to its next candidate (R35, R37): those of its ranking that are
not unfit, in turn, and from the first again once each has refused. -/
def order (s : State) (slice : Nat) (x : Eph) (e : ClassEntry) : State :=
  match (if x.ranking.isEmpty then s.rankingOf slice x.actor e else .ok (x.ranking, x.fallback)), x.pend with
  | .error c, _ => s.discardQueue slice x c
  | .ok _, [] => s.freeEph slice x.actor
  | .ok (ks, fallback), m :: _ =>
    let live := ks.filterMap fun k => if x.unfit.contains k then none else (s.candidateCore fallback e k).map fun c => (k, c)
    let again := live.filter fun c => !x.refused.contains c.1
    match (if again.isEmpty then live else again) with
    | [] => s.discardQueue slice x (5, 0)
    | (_, core) :: _ =>
      let o : ActOrder := { slice := slice, actor := x.actor, entry := e,
                            dirIndex := dirIndex x.actor.part x.actor.cls x.actor.key e.dirLog.toNat, msg := m }
      ((s.setEph slice { x with phase := .activating, core := core, ranking := ks, fallback := fallback, refused := if again.isEmpty then [] else x.refused }).noteChosen
        slice x.actor e fallback core).emitOrdered (.activation slice x.actor) (wayTo slice core m) (.activationOrder core o)

/-- An entry starts an activation from its pending queue; the class is judged again (R35, R368). -/
def reactivate (s : State) (slice : Nat) (x : Eph) : State :=
  let x1 := { x with phase := EphPhase.activating, ranking := [], fallback := false, refused := [], unfit := [] }
  match s.judgeClass x.actor.part x.actor.ctx x.actor.cls false with
  | (s1, .error c) => s1.discardQueue slice x1 c
  | (s1, .ok e) => s1.order slice x1 e

/-! ## Forwarding (R44, R45) -/

/-- Whether a core's arrival queue has room for one message more on its way. -/
def coreRoom (c : Core) (high : Bool) : Bool :=
  if high then decide (c.highQ.length + c.highSent < 8) else decide (c.lowQ.length + c.starts.length + c.lowSent < 32)

/-- A message of a LIVE actor leaves for its core, or is held: its core's queue is full, or an earlier message is held of its actor (R42) or for
that queue (R45). -/
def forward (s : State) (slice core : Nat) (a : ActorId) (m : Msg) : State :=
  if coreRoom (s.core core) m.high && !((s.slice slice).forwards.any fun f => f.actor == a || (f.core == core && f.msg.high == m.high)) then
    (s.updCore core fun c =>
      if m.high then { c with highSent := c.highSent + 1 } else { c with lowSent := c.lowSent + 1 }).emitOrdered
      (.activation slice a) (wayTo slice core m)
      (.messageAtCore core slice a { m with edition := (s.slice slice).edition.setWidth 16 })
  else s.updSlice slice fun x => { x with forwards := x.forwards ++ [{ core := core, actor := a, msg := m }] }

def forwardAll (s : State) (slice core : Nat) (a : ActorId) (ms : List Msg) : State :=
  ms.foldl (fun s m => s.forward slice core a m) s

/-- Held messages of a core leave while there is room, in acceptance order; one actor's messages keep their order whatever their
priorities (R42, R45). -/
def releaseHeldMessages (s : State) (slice core : Nat) : State :=
  let waiting := (s.slice slice).forwards
  let s0 := s.updSlice slice fun x => { x with forwards := [] }
  waiting.foldl (fun (s : State) f =>
    if f.core = core then s.forward slice f.core f.actor f.msg
    else s.updSlice slice fun x => { x with forwards := x.forwards ++ [f] }) s0

/-- An entry leaves LIVE (R35): what its home holds for its core waits in its own queue from then on (R42, R45). -/
def leaveLive (s : State) (slice : Nat) (x : Eph) (p : EphPhase) : State :=
  let mine := (s.slice slice).forwards.filter fun f => f.actor == x.actor
  (s.updSlice slice fun y => { y with forwards := y.forwards.filter fun f => f.actor != x.actor }).setEph slice
    { x with phase := p, pend := mine.map (·.msg) ++ x.pend, heads := 0 }

/-! ## Experts (R314, R315) -/

/-- A row that its home routes: the record is counted, and a row beyond capacity is sent on to the fallback. -/
def routeRow (s : State) (part ctx : Nat) (m : Msg) : State × Option Msg :=
  let v := (s.context part ctx).expcap
  match (s.context part ctx).expert with
  | none => (s, none)
  | some (cls, fb) =>
    if !expEn v || m.cls != cls || m.overflow || m.bounced then (s, none)
    else
      match expertKey m with
      | none => (s, none)
      | some (l, e) =>
        match s.unitWord part ctx (expRecord v l e) 8 with
        | (s1, .error _) => (s1, none)
        | (s1, .ok r) =>
          let (r1, beyond) := routeRecord r
          let (s2, _) := s1.unitWrite part ctx (expRecord v l e) (Bytes.ofNat 8 r1)
          (s2, if beyond then some { m with flags := m.flags ||| 4, key := (m.key >>> 16 <<< 16) ||| fb.setWidth 128 } else none)

/-! ## Acceptance (R35, R42) -/

def nextOf (x : Slice) (k : Sender) : Nat := ((x.nextSeq.find? fun c => c.1 == k).map (·.2)).getD 0

/-- A message that needs an entry finds none free (R30). -/
def needsEntry (s : State) (slice : Nat) (p : Packet) : Bool :=
  (s.eph slice (actorOf p)).isNone && decide (2048 ≤ (s.slice slice).ephs.length)

/-- A message that would start an activation while the slice waits to switch is held (R294). -/
def heldForSwitch (s : State) (slice : Nat) (p : Packet) : Bool := (s.slice slice).switching && (s.eph slice (actorOf p)).isNone

/-- The first packet that may be accepted now: the next of its channel, with an entry and a pending line for it. -/
def acceptable (s : State) (slice : Nat) : Option Packet :=
  let x := s.slice slice
  if 256 ≤ storeLines x then none
  else x.arrived.find? fun p => p.msg.chseq.toNat == nextOf x p.sender && !s.needsEntry slice p && !s.heldForSwitch slice p

/-- The sender learns of the acceptance (R45, R47, R72). -/
def acknowledge (s : State) (p : Packet) : State :=
  let s1 :=
    match p.sender, p.out with
    | .core c, some j => s.updCore c fun k => { k with outbound := drop j k.outbound }
    | .port n, _ => { s with ports := put n { look Port.reset n s.ports with accepted := (look Port.reset n s.ports).accepted + 1 } s.ports }
    | _, _ => s
  s1.pulse p.part p.ctx

/-- The row of R35 for an accepted message. -/
def deliver (s : State) (slice : Nat) (a : ActorId) (m : Msg) (e : ClassEntry) : State :=
  match s.eph slice a with
  | none =>
    s.order slice (Eph.fresh a [m] 0) e
  | some x =>
    match x.phase with
    | .live => s.forward slice x.core a m
    | _ => s.setEph slice { x with pend := x.pend ++ [m] }

/-- The checks of R368 and R314, then R35. -/
def judgedDeliver (s : State) (slice : Nat) (p : Packet) (a : ActorId) : State :=
    match s.judge p.part p.ctx p.msg with
    | (s1, .error c) => s1.actorFault slice p.part p.ctx c [p.msg]
    | (s1, .ok (e, pc)) =>
      match s1.routeRow p.part p.ctx p.msg with
      | (s2, some m) => s2.sendMessage (.slice slice) p.part p.ctx (s2.slice slice).edition (travel slice) m
      | (s2, none) => s2.deliver slice a { p.msg with pc := pc } e

/-- A packet is accepted: close requests, the checks of R368, the capacity check, then R35. -/
def accept (s : State) (slice : Nat) (p : Packet) : State :=
  let m := p.msg
  let a := actorOf p
  match (s.context p.part p.ctx).expert, closeKey m with
  | some (cls, _), some layer =>
    if m.cls = cls then
      s.emitNet (toBase slice) (.closeRequest p.part p.ctx layer
        (if m.wantsReply && m.sstrand.toNat < 16 then some (m.score.toNat, m.sstrand.toNat, Bits.get m.pcx.toNat 15 11) else none) none)
    else s.judgedDeliver slice p a
  | _, _ => s.judgedDeliver slice p a

/-- One packet's lookup is over and it is accepted; a slice performs one lookup in a cycle (R329). -/
def acceptNext (s : State) (slice : Nat) : State :=
  if (s.slice slice).lookedAt = some s.now then s
  else
    match s.acceptable slice with
    | none => s
    | some p =>
      let s1 := s.updSlice slice fun x =>
        { x with arrived := x.arrived.erase p, lookedAt := some s.now
                 nextSeq := (p.sender, (p.msg.chseq.toNat + 1) % 2 ^ 32) :: x.nextSeq.filter fun c => c.1 != p.sender }
      (s1.acknowledge p).accept slice p

/-- A slice with a packet that it may accept in this cycle (R329). -/
def lookup (s : State) : Option Nat :=
  (s.slices.find? fun e => e.2.lookedAt != some s.now && (s.acceptable e.1).isSome).map (·.1)

/-- A message waits at a slice for an entry (R30). -/
def entryWanted (s : State) (slice : Nat) : Bool :=
  let x := s.slice slice
  x.arrived.any fun p => p.msg.chseq.toNat == nextOf x p.sender && s.needsEntry slice p

/-- A round starts where a message waits for an entry, none runs and none is due later (R30). -/
def startRound (s : State) (slice : Nat) : State :=
  let x := s.slice slice
  if !x.asking && !x.switching && x.roundAt.isNone && s.entryWanted slice then
    (s.updSlice slice fun x => { x with roundAt := some s.now }).emit 0 (.entryFreeRound slice)
  else s

/-- Acceptance goes on; a message that waits for an entry starts a round (R30). -/
def acceptAll (s : State) (slice : Nat) : State := (s.acceptNext slice).startRound slice

/-- A home's message store holds nothing for an actor: neither its entry's queue nor messages held for its core (R30, R45). -/
def nothingPending (x : Slice) (e : Eph) : Bool := e.pend.isEmpty && !x.forwards.any fun f => f.actor == e.actor

/-- A round's next request (R30): the LIVE entry with an empty queue whose report came earliest. When each has refused the round ends, and the
next starts 1,024 cycles later. -/
def askNext (s : State) (slice : Nat) : State :=
  let x := s.slice slice
  match x.ephs.filter fun e => e.phase == .live && nothingPending x e && !x.asked.contains e.actor with
  | [] => (s.updSlice slice fun x => { x with asking := false, roundAt := some (s.now + 1024) }).emit 1024 (.entryFreeRound slice)
  | e :: r =>
    let f := r.foldl (fun b e => if e.liveAt < b.liveAt then e else b) e
    (s.updSlice slice fun x => { x with asking := true, asked := f.actor :: x.asked }).emitOrdered (.activation slice f.actor)
      (travel slice (quireOf f.core)) (.retireRequest f.core slice f.actor)

/-- Whether an event about an actor is held until the slice has switched (R294): one that starts a transition, or that follows one held. -/
def holdsReport (s : State) (slice : Nat) (a : ActorId) (starts : Bool) : Bool :=
  let x := s.slice slice
  let about (e : Event) : Bool :=
    match e with
    | .retireNotice _ b _ | .retired _ b _ | .cancel _ b _ _ => b == a
    | .bouncedMessage _ p => actorOf p == a
    | _ => false
  x.switching && (starts || x.heldReports.any about)

def holdReport (s : State) (slice : Nat) (e : Event) : State :=
  s.updSlice slice fun x => { x with heldReports := x.heldReports ++ [e] }

/-- A slice has yet to switch to the open edition of its partition. -/
def awaitsSwitch (s : State) (part slice : Nat) : Bool :=
  match s.openEdition part with
  | some x => x.left.contains (.slice slice)
  | none => false

/-- The switch is over: what was held takes place (R294). -/
def releaseTransitions (s : State) (slice : Nat) : State :=
  (((s.slice slice).heldReports.foldl (fun s e => s.emit 0 e) s).updSlice slice fun x =>
    { x with switching := false, heldReports := [], asking := x.asking && !x.switching, roundAt := none }).acceptAll slice

/-- An entry is free, or one qualifies newly: a new round starts at once if a message waits (R30). -/
def newRound (s : State) (slice : Nat) : State :=
  (s.updSlice slice fun x => { x with asking := false, roundAt := none }).acceptAll slice

end State

/-! ## Events at homes -/

/-- MESSAGE_ACCEPT (R35, R42); one from another package is taken where its partition lists this one (R350). -/
def execMessageAccept (s : State) : Result :=
  .next <|
    match s.ev with
    | .messageAccept slice p =>
      let foreign := match p.sender with | .far _ _ _ => true | _ => false
      if foreign && !s.takesPackets p.part then s
      else (s.updSlice slice fun x => { x with arrived := x.arrived ++ [p] }).acceptAll slice
    | _ => s

/-- BOUNCED_MESSAGE (R35): the head rule, or a new activation; R314 does not count it again. DESIGN CHOICE (log 88): R35 has no row for
a bounced message at an ACTIVATING or a LIVE entry; it goes behind the message that the order carries, before the others, and with LIVE to the core. -/
def execBouncedMessage (s : State) : Result :=
  .next <|
    match s.ev with
    | .bouncedMessage slice p =>
      let a := actorOf p
      match s.eph slice a with
      | none =>
        if s.holdsReport slice a true then s.holdReport slice s.ev
        else s.reactivate slice (Eph.fresh a [p.msg] 1)
      | some x =>
        match x.phase with
        | .live => s.forward slice x.core a p.msg
        | .activating => s.setEph slice ({ x with heads := max 1 x.heads }.putBack p.msg)
        | _ => s.setEph slice (x.putBack p.msg)
    | _ => s

/-- ENTRY_FREE_ROUND (R30): a round starts if it is the one due now, and a message still waits. -/
def execEntryFreeRound (s : State) : Result :=
  .next <|
    match s.ev with
    | .entryFreeRound slice =>
      let s1 := s.acceptNext slice
      if (s1.slice slice).roundAt ≠ some s.now then s1
      else
        let s2 := s1.updSlice slice fun x => { x with roundAt := none }
        if !(s2.slice slice).asking && !(s2.slice slice).switching && s2.entryWanted slice then
          (s2.updSlice slice fun x => { x with asked := [] }).askNext slice
        else s2
    | _ => s

/-- READY (R35): LIVE, and the messages after the head are forwarded. -/
def execReady (s : State) : Result :=
  .next <|
    match s.ev with
    | .ready slice a core index =>
      match s.eph slice a with
      | some x =>
        let s1 := s.setEph slice { x with phase := .live, core := core, index := index, pend := [], heads := 0, liveAt := s.now, ranking := [], fallback := false, refused := [], unfit := [] }
        (s1.forwardAll slice core a (x.pend.drop 1)).newRound slice
      | none => s
    | _ => s

/-- The candidate that has answered for a core (R37). -/
def State.candidateOf (e : ClassEntry) (core : Nat) : Nat := if State.spreads e then quireOf core else core

/-- An order is sent again after a candidate's answer, which `f` notes in the entry (R37, R369). -/
def State.resend (s : State) (slice : Nat) (x : Eph) (core : Nat) (note : Nat → Eph → Eph) : State :=
  match s.classEntry x.actor.part x.actor.ctx x.actor.cls.toNat with
  | (s1, .error f) => s1.discardQueue slice x (4, f.code.byte.toNat)
  | (s1, .ok e) => s1.order slice (note (State.candidateOf e core) x) e

/-- REFUSED: of an activation order, the next candidate (R37); of a retire request, the next entry (R30). -/
def execRefused (s : State) : Result :=
  .next <|
    match s.ev with
    | .refused slice a core true =>
      match s.eph slice a with
      | some x => if x.phase = .activating then s.resend slice x core fun k x => { x with refused := k :: x.refused } else s
      | none => s
    | .refused slice _ _ false => if (s.slice slice).asking && !(s.slice slice).switching then s.askNext slice else s
    | _ => s

/-- UNFIT (R369). -/
def execUnfit (s : State) : Result :=
  .next <|
    match s.ev with
    | .unfit slice a core =>
      match s.eph slice a with
      | some x => if x.phase = .activating then s.resend slice x core fun k x => { x with unfit := k :: x.unfit } else s
      | none => s
    | _ => s

/-- RETIRE_NOTICE (R35). -/
def execRetireNotice (s : State) : Result :=
  .next <|
    match s.ev with
    | .retireNotice slice a _ =>
      match s.eph slice a with
      | some x =>
        if x.phase = .live then
          if s.holdsReport slice a true then s.holdReport slice s.ev else s.leaveLive slice x .retiring
        else s
      | none => s
    | _ => s

/-- RETIRED (R35). -/
def execRetired (s : State) : Result :=
  .next <|
    match s.ev with
    | .retired slice a _ =>
      match s.eph slice a with
      | some x =>
        if s.holdsReport slice a false then s.holdReport slice s.ev
        else if x.pend.isEmpty then (s.freeEph slice a).newRound slice else s.reactivate slice x
      | none => s
    | _ => s

/-- CANCEL (R371). -/
def execCancel (s : State) : Result :=
  .next <|
    match s.ev with
    | .cancel slice a core index =>
      match s.eph slice a with
      | some x =>
        if s.holdsReport slice a false then s.holdReport slice s.ev
        else ((s.setEph slice { x with phase := .live, core := core, index := index, pend := [], heads := 0 }).forwardAll slice core a x.pend).newRound slice
      | none => s
    | _ => s

/-- ACTIVATION_FAULT (R370). -/
def execActivationFault (s : State) : Result :=
  .next <|
    match s.ev with
    | .activationFault slice a _ cause code =>
      match s.eph slice a with
      | some x => s.discardQueue slice x (cause, code.toNat)
      | none => s
    | _ => s

/-- HELD_MESSAGE_FORWARD (R45); a queue that empties makes its entry qualify for a request (R30). -/
def execHeldMessageForward (s : State) : Result :=
  .next <|
    match s.ev with
    | .heldMessageForward slice core _ =>
      let s1 := s.releaseHeldMessages slice core
      if (s.slice slice).ephs.any fun e => e.phase == .live && !State.nothingPending (s.slice slice) e && State.nothingPending (s1.slice slice) e then
        s1.newRound slice
      else s1.acceptAll slice
    | _ => s

/-- MOVED (R35). -/
def execMoved (s : State) : Result :=
  .next <|
    match s.ev with
    | .moved slice a core index =>
      match s.eph slice a with
      | some x =>
        ((s.setEph slice { x with phase := .live, core := core, index := index, pend := [], heads := 0, liveAt := s.now }).forwardAll slice core a x.pend).newRound
          slice
      | none => s
    | _ => s

/-- CLOSE_REQUEST (R315): one at a time, in the order they arrive, each under EXPCAP as it arrived, which a waiting one carries; the answer is
written as a reply. -/
def execCloseRequest (s : State) : Result :=
  .next <|
    match s.ev with
    | .closeRequest part ctx layer replyTo held =>
      let v := held.getD (s.context part ctx).expcap
      let begun := max s.now s.capBusy
      if held.isNone && s.now < begun then
        { s with capBusy := begun + 1624 }.emit (begun - s.now) (.closeRequest part ctx layer replyTo (some v))
      else
        let (s1, closes) := s.closeLayer v part ctx layer
        let s2 := { s1 with capBusy := max s.capBusy (s.now + 1624) }
        match replyTo with
        | none => s2
        | some (core, slot, serial) =>
          let m : Msg := { cls := 0, type := 0, flags := 0, key := 0, score := 0x300, sstrand := 0xFE, plen := 2, chseq := 0,
                           edition := (s.partition part).edition.setWidth 16, pcx := pcxOf part ctx 0,
                           payload := [BitVec.ofNat 64 layer, closes], node := 0 }
          s2.emitNet (1624 + toBase (quireOf core))
            (.postedStoreApply { src := core, idx := none, part := part, target := core,
                                 data := m.line.zipIdx.map fun (b : Byte × Nat) => (b.2, b.1), setFull := true,
                                 reply := some (slot, serial), edition := (s.partition part).edition })
    | _ => s

/-- HOME_SLICE_SWITCH (R294): once no entry is in transition; what was held meanwhile then takes place. -/
def execHomeSliceSwitch (s : State) : Result :=
  .next <|
    match s.ev with
    | .homeSliceSwitch part q n =>
      match s.editionOf part n with
      | none => s
      | some e =>
        if !e.left.contains (.slice q) then (if (s.slice q).switching && !s.awaitsSwitch part q then s.releaseTransitions q else s)
        else if s.mayStep (.slice q) then (s.switchUnit part (.slice q) n).releaseTransitions q
        else s.emit 1 (.homeSliceSwitch part q n)
    | _ => s

end Sys2Proof.Machine
end

