-- ==== Sys2Proof/Machine/Slots.lean ====
section
/-! DEFINITION. What a core does with actors, messages, tasks and strands that arrive (R33, R34, R38, R39, R44, R52-R57,
R63, R370, R371, R374, R407, R408). -/

namespace Sys2Proof.Machine

namespace State

/-! ## Actor slots -/

/-- Where an actor slot lies in the core's store (R33). -/
def slotOffset (c : Core) (j : Nat) : Nat := aslotBase c.aslot + 256 * aslotSize c.aslot * j
def slotBytes (c : Core) : Nat := 256 * aslotSize c.aslot

def updActor (s : State) (core j : Nat) (f : ActorSlot → ActorSlot) : State :=
  s.updCore core fun c => { c with actors := c.actors.map fun e => if e.1 = j then (j, f e.2) else e }

/-- The task of an actor slot runs. -/
def actorRuns (s : State) (core j : Nat) : Bool := s.tasks.any fun t => t.2.actor == some (core, j)

/-- Messages for an actor that wait at its core. -/
def actorQueued (c : Core) (a : ActorId) : Bool := (c.lowQ ++ c.highQ).any fun q => q.actor == a

/-- An actor is idle (R38). -/
def actorIdle (s : State) (core j : Nat) (x : ActorSlot) : Bool :=
  x.phase == .live && x.head.isNone && !s.actorRuns core j && !actorQueued (s.core core) x.actor

/-- The least recently used idle actor (R38). DESIGN CHOICE (log 88): of two equally recent ones R38 does not say which; the lower slot's. -/
def idleVictim (s : State) (core : Nat) : Option Nat :=
  match (s.core core).actors.filter fun e => s.actorIdle core e.1 e.2 with
  | [] => none
  | e :: r => some (r.foldl (fun b e => if e.2.lastUse < b.2.lastUse then e else b) e).1

/-- A report of a core to a home about an actor; an actor's reports keep their order. -/
def toHome (s : State) (core slice : Nat) (a : ActorId) (e : Event) : State :=
  s.emitOrdered (.report core slice a) (travel (quireOf core) slice) e

/-- An idle actor's retirement starts (R38, R40), with its notice unless an ASLOT write has sent it (R33); `next` is the order that takes
the slot. -/
def retire_ (s : State) (core j : Nat) (next : Option ActOrder) : State :=
  match (s.core core).actors.find? fun e => e.1 == j with
  | none => s
  | some (_, x) =>
    let s1 := s.updActor core j fun x => { x with phase := .retiring, next := next }
    (if x.noticed then s1 else s1.toHome core x.slice x.actor (.retireNotice x.slice x.actor core)).emit
      (32 + 8 * x.entry.stLines.toNat) (.retirementWritebackDone core j)

/-! ## The record directory (R31, R32) -/

/-- What a search of the directory finds: a record, an unused entry, or none among all. -/
inductive DirFound where
  | hit (va : Nat)
  | free (entry : Nat)
  | full
  deriving DecidableEq, Repr

def dirSearch (part ctx dir size : Nat) (key : BitVec 128) : Nat → Nat → State → State × Except FaultInfo DirFound
  | 0, _, s => (s, .ok .full)
  | n + 1, i, s =>
    match s.unitRead part ctx (dir + 32 * (i % size)) 32 with
    | (s1, .error f) => (s1, .error f)
    | (s1, .ok b) =>
      if !(b.getD 24 0).getLsbD 0 then (s1, .ok (.free (i % size)))
      else if lineNat b 0 16 = key.toNat then (s1, .ok (.hit (lineNat b 16 8)))
      else dirSearch part ctx dir size key n (i + 1) s1

/-- The search for a class's actor. -/
def findRecord (s : State) (a : ActorId) (e : ClassEntry) (idx : Nat) : State × Except FaultInfo DirFound :=
  dirSearch a.part a.ctx e.recDir.toNat (2 ^ e.dirLog.toNat) a.key (2 ^ e.dirLog.toNat) idx s

/-- A victim's lines reach its record, found or allocated, in edition `n`; the answer is the cause of a failure (R32, R371). -/
def writeRecord (s : State) (n : W32) (a : ActorId) (e : ClassEntry) (idx : Nat) (data : List Byte) : State × Option Cause :=
  let bad (f : FaultInfo) : Cause := (11, f.code.byte.toNat)
  match s.findRecord a e idx with
  | (s1, .error f) => (s1, some (bad f))
  | (s1, .ok .full) => (s1, some (10, 0))
  | (s1, .ok (.hit va)) =>
    match s1.unitWriteIn n a.part a.ctx va data with
    | (s2, .error f) => (s2, some (bad f))
    | (s2, .ok ()) => (s2, none)
  | (s1, .ok (.free i)) =>
    match s1.unitWord a.part a.ctx e.recPool.toNat 8, s1.unitWord a.part a.ctx (e.recPool.toNat + 8) 8 with
    | (_, .error f), _ | (_, .ok _), (_, .error f) => (s1, some (bad f))
    | (s2, .ok top), (_, .ok array) =>
      if top = 0 then (s2, some (9, 0))
      else
        match s2.unitWriteIn n a.part a.ctx e.recPool.toNat (Bytes.ofNat 8 (top - 1)) with
        | (s3, .error f) => (s3, some (bad f))
        | (s3, .ok ()) =>
          match s3.unitWord a.part a.ctx (array + 8 * (top - 1)) 8 with
          | (s4, .error f) => (s4, some (bad f))
          | (s4, .ok va) =>
            match s4.unitWriteIn n a.part a.ctx va data with
            | (s5, .error f) => (s5, some (bad f))
            | (s5, .ok ()) =>
              let at_ := e.recDir.toNat + 32 * i
              match s5.unitWriteIn n a.part a.ctx at_ (Bytes.ofNat 16 a.key.toNat ++ Bytes.ofNat 8 va) with
              | (s6, .error f) => (s6, some (bad f))
              | (s6, .ok ()) =>
                match s6.unitWriteIn n a.part a.ctx (at_ + 24) [1] with
                | (s7, .error f) => (s7, some (bad f))
                | (s7, .ok ()) => (s7, none)

/-! ## Orders (R37-R39) -/

/-- An order's slot starts to fill (R39, R40). -/
def fillSlot (s : State) (core j : Nat) (o : ActOrder) : State :=
  let x : ActorSlot := { actor := o.actor, phase := .filling, entry := o.entry, slice := o.slice, dirIndex := o.dirIndex,
                         lastUse := s.now, head := some o.msg, next := none, noticed := false }
  let (s1, found) := s.findRecord o.actor o.entry o.dirIndex
  let n := o.entry.stLines.toNat
  let cost := match found with | .ok (.hit _) => 600 + 8 * (n - 1) | _ => 2 * n
  (s1.updCore core fun c => { c with actors := put j x c.actors }).emitNet cost (.slotFillDone core j)

/-- A free actor slot. DESIGN CHOICE (log 88): R38 does not say which of several; the lowest. -/
def freeActorSlot (c : Core) : Option Nat :=
  if c.aslotWritten then (List.range (aslotCount c.aslot)).find? fun j => !has j c.actors else none

/-- An order takes a free slot or an idle actor's; `none` when there is neither. -/
def placeOrder (s : State) (core : Nat) (o : ActOrder) : Option State :=
  match freeActorSlot (s.core core) with
  | some j => some (s.fillSlot core j o)
  | none => (s.idleVictim core).map fun j => s.retire_ core j (some o)

/-- A core has no slot for an order's class (R33, R369). -/
def unfitFor (c : Core) (o : ActOrder) : Bool :=
  !c.aslotWritten || aslotCount c.aslot == 0 || decide (aslotSize c.aslot < o.entry.stLines.toNat)

def refuse (s : State) (core : Nat) (o : ActOrder) : State := s.toHome core o.slice o.actor (.refused o.slice o.actor core true)

def answerUnfit (s : State) (core : Nat) (o : ActOrder) : State := s.toHome core o.slice o.actor (.unfit o.slice o.actor core)

/-- The core handles an order in this cycle, and no other (R330). -/
def ordered (s : State) (core : Nat) : State := s.updCore core fun c => { c with orderedAt := some s.now }

/-- PINNED orders that wait are looked at again, in order (R37); one that no slot fits any more is answered UNFIT (R369). One order is handled
in a cycle, and another that could be goes on in the next (R330). -/
def serveOrders (s : State) (core : Nat) : State :=
  if (s.core core).aslotTo.isSome then s
  else
    (s.core core).orders.foldl (fun (s : State) o =>
      let s1 := s.updCore core fun c => { c with orders := c.orders.erase o }
      let served := if unfitFor (s.core core) o then some (s1.answerUnfit core o) else s1.placeOrder core o
      match served with
      | none => s
      | some s2 => if (s.core core).orderedAt = some s.now then s1.emit 1 (.activationOrder core o) else s2.ordered core) s

/-! ## ASLOT writes (R33) -/

/-- The retirements that an ASLOT write asks for begin as the noticed actors become idle. -/
def aslotRetire (s : State) (core : Nat) : State :=
  ((s.core core).actors.filter fun e => e.2.noticed && s.actorIdle core e.1 e.2).foldl (fun (s : State) e => s.retire_ core e.1 none) s

/-- The write completes once the last of its retirements has closed and no slot is being filled, moved or retired. -/
def aslotCheck (s : State) (core : Nat) : State :=
  match (s.core core).aslotTo with
  | some v =>
    if (s.core core).actors.all fun e => e.2.phase == .live && !e.2.noticed then
      (s.updCore core fun c => { c with aslot := v, aslotWritten := true, aslotTo := none, aslotBy := [] }).offer core
    else s
  | none => s

/-- A core's arrival queue has room again (R45). -/
def queueFreed (s : State) (core : Nat) (high : Bool) : State :=
  (s.slices.filter fun e => e.2.forwards.any fun f => f.core == core && f.msg.high == high).foldl (fun (s : State) e =>
    s.emitNet (travel (quireOf core) e.1) (.heldMessageForward e.1 core high)) s

/-- A message goes back to its home (R33, R34). -/
def bounce (s : State) (core slice : Nat) (a : ActorId) (m : Msg) : State :=
  s.toHome core slice a (.bouncedMessage slice
    { msg := { m with flags := m.flags ||| 2 }, sender := .core core, part := a.part, ctx := a.ctx, edition := (s.core core).edition, out := none })

/-! ## Starting tasks (R34, R44, R54) -/

/-- Whether tasks of a context may start on a core (R63, R64). -/
def admitted (c : Core) (ctx : Nat) : Bool := c.ctxRun.getLsbD ctx && c.ctxReq.getLsbD ctx

/-- An own scratch address (R118). -/
def ownVa (off : Nat) : Word := BitVec.ofNat 64 (Config.aperture + 0xFFF * 2 ^ 20 + off)

/-- The message line of a strand slot belongs to a task that has not ended (R34). -/
def lineHeld (s : State) (core slot : Nat) : Bool := s.tasks.any fun t => t.2.core == core && t.2.line == some slot && !t.2.ended

/-- The strand slot that a message's task takes: the lowest free unreserved one of its range (R44, R330) whose message line no task holds (R34). -/
def messageSlot (s : State) (core : Nat) (high : Bool) : Option Nat :=
  (if high then [12, 13, 14, 15].filter fun n => !has n (s.core core).slots else lowFree (s.core core)).find? fun n => !s.lineHeld core n

/-- A message's task starts in a slot (R34, R51); `ctor` runs the constructor in front of it (R39). That of a graph node starts with an acquire
(R71). -/
def startMessage (s : State) (core slot j : Nat) (x : ActorSlot) (m : Msg) (ctor : Bool) : State :=
  let c := s.core core
  let off := aslotMsg c.aslot + 256 * slot
  let clsType := BitVec.ofNat 64 (m.cls.toNat * 256 + m.type.toNat)
  let pc := if ctor then BitVec.ofNat 64 (x.entry.code.toNat + 8 * x.entry.ctor.toNat) else m.pc
  let l : Launch :=
    { classLaunch (if ctor then .constructor else .message) x.actor.part x.actor.ctx x.entry clsType pc [] with
      msg := ownVa off, state := ownVa (slotOffset c j), keyLo := x.actor.key.extractLsb' 0 64,
      keyHi := x.actor.key.extractLsb' 64 64, high := m.high, task := s.ids }
  let t : Task :=
    { Task.none with part := x.actor.part, ctx := x.actor.ctx, core := core, actor := some (core, j), line := some slot,
                     node := if ctor then 0 else m.node, start := some m, head := if ctor then some m else none }
  ((if m.node ≠ 0 && !ctor then s.acquire core 3 else s).newTask t).writeStore core off m.line |>.begin_ ⟨core, slot⟩ l 9

/-- A head message's task, or a queued one's: what may start. -/
inductive Startable where
  | head (j : Nat)
  | queued (a : Arrival)
  deriving DecidableEq, Repr

/-- The startable messages of a priority, in order (R44). -/
def startables (s : State) (core : Nat) (high : Bool) : List (Startable × ActorSlot × Nat × Msg) :=
  let c := s.core core
  let heads := (c.actors.filter fun e => e.2.phase == .live && e.2.head.isSome).filterMap fun e =>
    match e.2.head with
    | some m => if m.high == high && admitted c e.2.actor.ctx && !s.actorRuns core e.1 then some (Startable.head e.1, e.2, e.1, m) else none
    | none => none
  let queued := (if high then c.highQ else c.lowQ).filterMap fun q =>
    match c.actors.find? fun e => e.2.actor == q.actor && e.2.phase == .live && e.2.head.isNone with
    | some (j, x) =>
      if admitted c q.actor.ctx && !s.actorRuns core j && !((c.lowQ ++ c.highQ).any fun o => o.actor == q.actor && o.number < q.number) then
        some (Startable.queued q, x, j, q.msg)
      else none
    | none => none
  if c.aslotWritten then heads ++ queued else []

/-- One message's task starts in a slot, and its place in the queue is free. -/
def startOne (s : State) (core slot : Nat) (k : Startable × ActorSlot × Nat × Msg) : State :=
  match k with
  | (.head j, x, _, m) => (s.updActor core j fun x => { x with head := none }).startMessage core slot j x m false
  | (.queued q, x, j, m) =>
    ((s.updCore core fun c => { c with lowQ := c.lowQ.filter (fun o => o.number != q.number),
                                       highQ := c.highQ.filter fun o => o.number != q.number }).startMessage core slot j x m false).queueFreed
      core m.high

/-- A task of no actor leaves the low queue for a slot: a SPAWN node's starts with an acquire (R71), and a responder's first bundle issues one
cycle later than a spawned task's (R339). -/
def startTask (s : State) (core slot : Nat) (l : Launch) : State :=
  let s1 := s.updCore core fun c => { c with starts := c.starts.erase l }
  ((if l.kind = .spawnNode then s1.acquire core 3 else s1).begin_ ⟨core, slot⟩ l (if l.kind = .responder then 9 else 8)).queueFreed core false

/-- What the upcall of a stopped strand starts with, under the record that has been written (R407). -/
def upcallLaunch (s : State) (r : Ref) (f : FaultInfo) (e : ClassEntry) (u : Word) : Launch :=
  let t := s.strand r
  let rec_ := recordBase (s.core r.core) + 128 * r.slot
  let seq := BitVec.ofNat 64 (Bytes.toNat (memLoad (s.core r.core).store (rec_ + 40) 8))
  classLaunch .upcall t.part t.ctx e (BitVec.ofNat 64 (Bits.get u.toNat 47 32 * 256 + 255)) (BitVec.ofNat 64 (e.code.toNat + 8 * Bits.get u.toNat 31 0))
    [BitVec.ofNat 64 r.slot, ownVa rec_, f.code.byte.setWidth 64, f.va, seq]

/-- The upcall of a stopped strand starts in a slot (R407). -/
def startUpcall (s : State) (core slot : Nat) (u : Upcall) : State :=
  (s.newTask { Task.none with part := u.launch.part, ctx := u.launch.ctx, core := core }).begin_ ⟨core, slot⟩ { u.launch with task := s.ids }
    (u.due - s.now)

/-- The slot an upcall takes: of the stopped strand's range. -/
def upcallSlot (c : Core) (stopped : Nat) : Option Nat := if 12 ≤ stopped then highStart c else lowStart c

/-- A strand that left by `migr` takes a slot of a quire, as a task of its own (R50, R56): on the core with the most free slots of its range
among those that may start tasks of its context (R63). -/
def placeMigrant (s : State) (quire : Nat) (l : Launch) : Option State :=
  let cores := (List.range 4).map (4 * quire + ·)
  let frees (c : Nat) : Nat :=
    if !admitted (s.core c) l.ctx then 0
    else if l.high then ([12, 13, 14, 15].filter fun n => !has n (s.core c).slots).length
    else (lowFree (s.core c)).length
  let best := cores.foldl (fun b c => if frees b < frees c then c else b) (4 * quire)
  if frees best = 0 then none
  else
    (if l.high then highStart (s.core best) else lowStart (s.core best)).map fun slot =>
      (s.newTask { Task.none with part := l.part, ctx := l.ctx, core := best }).begin_ ⟨best, slot⟩ { l with task := s.ids } 8

/-- What waits for a slot of the core and may take one now; `none` when nothing may. DESIGN CHOICE (log 88): R44, R54, R56 and R407 put upcalls
before messages and high messages before low ones, and give no order beyond that; the model serves upcalls in record order, then strands that left by
`migr`, then high messages, then, unless an upcall waits for a low slot, tasks of no actor in the low queue, then head messages, then queued low messages. -/
def startNext (s : State) (core : Nat) : Option State :=
  let c := s.core core
  match c.upcalls.head?.bind fun u => (upcallSlot c u.slot).map fun slot => (u, slot) with
  | some (u, slot) => some ((s.updCore core fun c => { c with upcalls := c.upcalls.tail }).startUpcall core slot u)
  | none =>
    match s.migrants.findSome? fun m => if m.1 = quireOf core then (s.placeMigrant m.1 m.2).map fun s1 => (m, s1) else none with
    | some (m, s1) => some { s1 with migrants := s1.migrants.erase m }
    | none =>
      match s.startables core true, s.messageSlot core true with
      | k :: _, some slot => some (s.startOne core slot k)
      | _, _ =>
        if c.upcalls.any fun u => u.slot < 12 then none else
        match lowStart c, c.starts.find? fun l => admitted c l.ctx with
        | some slot, some l => some (s.startTask core slot l)
        | _, _ =>
          match s.startables core false, s.messageSlot core false with
          | k :: _, some slot => some (s.startOne core slot k)
          | _, _ => none

def startAll (core : Nat) : Nat → State → State
  | 0, s => s
  | n + 1, s => match s.startNext core with | some s1 => startAll core n s1 | none => s

/-- The neighbours of a core, in the order they are asked (R54). -/
def neighbours (core : Nat) : List Nat := (List.range 3).map fun k => core / 4 * 4 + (core + k + 1) % 4

/-- The neighbour a free slot steals from: one with an entry that it cannot pop itself, since a pop wins (R54). -/
def stealFrom (s : State) (core : Nat) : Option Nat :=
  (neighbours core).find? fun n => !(s.core n).deque.isEmpty && (lowStart (s.core n)).isNone

/-- A task of a leaving context is on a core: one that has started there and has not ended, a strand of one, or a descriptor. -/
def taskLeft (s : State) (core : Nat) (leaving : Word) : Bool :=
  let c := s.core core
  c.slots.any (fun e => leaving.getLsbD e.2.ctx) || c.deque.any (fun d => leaving.getLsbD d.ctx) ||
    s.tasks.any fun t => t.2.core == core && leaving.getLsbD t.2.ctx && !t.2.ended && !(c.starts.any fun l => l.task == t.1)

/-- A context switch completes once no task of a leaving context is left on the core (R63). -/
def switchCheck (s : State) (core : Nat) : State :=
  let c := s.core core
  let leaving := c.ctxRun &&& ~~~c.ctxReq
  if c.ctxRun = c.ctxReq || s.taskLeft core leaving then s
  else (s.updCore core fun c => { c with ctxRun := c.ctxReq }).offer core

/-- An own-store address as a core reads it (R51): the owner's number on any other core, 0xFFF on the owner. `here` is the core on which
the address was held. -/
def rehome (here core : Nat) (va : Word) : Word :=
  if inAperture va.toNat then
    let owner := if apSel va.toNat = 0xFFF then here else apSel va.toNat
    va - BitVec.ofNat 64 (apSel va.toNat * 2 ^ 20) + BitVec.ofNat 64 ((if owner = core then 0xFFF else owner) * 2 ^ 20)
  else va

/-- A descriptor of a deque as its child starts on a core, popped or stolen (R51, R53, R89, R209). -/
def childLaunch (d : Desc) (core : Nat) (stolen : Bool) : Launch :=
  { kind := .child, part := d.part, ctx := d.ctx, pc := d.pc, regs := (d.regs.take 14) ++ [BitVec.ofNat 64 d.counter.1, if stolen then 1 else 0],
    rm := d.flags.setWidth 2, cbsel := cbselOf d.flags, sticky := 0, clsType := d.clsType, msg := rehome d.counter.1 core d.msg,
    state := rehome d.counter.1 core d.state, keyLo := d.keyLo, keyHi := d.keyHi, budget := d.budget, counted := d.counted,
    classBudget := d.classBudget, code := d.code, codeLim := d.codeLim, cbank := d.cbank, task := d.task, high := false,
    counter := some d.counter, vregs := [], rows := none }

end State

/-! ## Events of actors at cores -/

/-- ACTIVATION_ORDER (R38, R369); REFUSED while an ASLOT write is under way (R33). A core handles one in a cycle (R330). -/
def execActivationOrder (s : State) : Result :=
  .next <|
    match s.ev with
    | .activationOrder core o =>
      let c := s.core core
      if c.orderedAt = some s.now then s.emit 1 s.ev
      else if c.aslotTo.isSome then (s.refuse core o).ordered core
      else if State.unfitFor c o then (s.answerUnfit core o).ordered core
      else
        match s.placeOrder core o with
        | some s1 => s1.ordered core
        | none =>
          if Bits.get o.entry.attr.toNat 1 0 = 2 then (s.updCore core fun c => { c with orders := c.orders ++ [o] }).ordered core
          else (s.refuse core o).ordered core
    | _ => s

/-- RETIRE_REQUEST (R30). -/
def execRetireRequest (s : State) : Result :=
  .next <|
    match s.ev with
    | .retireRequest core slice a =>
      match (s.core core).actors.find? fun e => e.2.actor == a with
      | some (j, x) => if s.actorIdle core j x then s.retire_ core j none else s.toHome core slice a (.refused slice a core false)
      | none => s.toHome core slice a (.refused slice a core false)
    | _ => s

/-- A failed retirement (R371): the victim stays live, CANCEL and REFUSED leave, and a record is written. An ASLOT write under way
leaves ASLOT unchanged when its other retirements have closed (R33). -/
def State.retireFails (s : State) (core j : Nat) (x : ActorSlot) (c : Cause) : State :=
  let a := x.actor
  let key := (a.part, a.ctx, a.cls)
  let quiet := c.1 != 11 && (s.core core).retFaults.contains key
  let s1 := if quiet then s
    else s.report a.part (some a.ctx) EventCode.actorStateFault.byte 1 core (BitVec.ofNat 64 (c.1 + 256 * c.2))
      (Bytes.ofNat 2 a.cls.toNat ++ [0, 0] ++ Bytes.ofNat 16 a.key.toNat)
  let s2 := (s1.updCore core fun k =>
    { k with aslotTo := k.aslotTo.map fun _ => k.aslot, retFaults := if c.1 == 11 then k.retFaults else key :: k.retFaults.filter (· != key) }).updActor core j fun x =>
      { x with phase := .live, next := none, noticed := false }
  let s3 := s2.toHome core x.slice a (.cancel x.slice a core j)
  let s4 := match x.next with | some o => s3.refuse core o | none => s3
  (s4.aslotCheck core).serveOrders core

/-- RETIREMENT_WRITEBACK_DONE (R38, R32). -/
def execRetirementWritebackDone (s : State) : Result :=
  .next <|
    match s.ev with
    | .retirementWritebackDone core j =>
      match (s.core core).actors.find? fun e => e.1 == j && e.2.phase == .retiring with
      | none => s
      | some (_, x) =>
        let data := memLoad (s.core core).store (State.slotOffset (s.core core) j) (256 * x.entry.stLines.toNat)
        match s.writeRecord (s.core core).edition x.actor x.entry x.dirIndex data with
        | (s1, some c) => s1.retireFails core j x c
        | (s1, none) =>
          let key := (x.actor.part, x.actor.ctx, x.actor.cls)
          let s2 := (s1.updCore core fun c => { c with actors := drop j c.actors, retFaults := c.retFaults.filter (· != key) }).toHome
            core x.slice x.actor (.retired x.slice x.actor core)
          let s3 := match x.next with
            | some o => if (s2.core core).aslotTo.isSome then s2.refuse core o else (s2.fillSlot core j o).ordered core
            | none => s2
          (s3.aslotCheck core).serveOrders core
    | _ => s

/-- A slot whose fill fails (R370). -/
def State.fillFails (s : State) (core j : Nat) (x : ActorSlot) (cause : Nat) (f : FaultInfo) : State :=
  (((s.updCore core fun c => { c with actors := drop j c.actors }).toHome core x.slice x.actor
    (.activationFault x.slice x.actor core cause f.code.byte)).aslotCheck core).serveOrders core

/-- The constructor starts once a slot is free (R39) and tasks of its context may start (R63). -/
def State.queueCtor (s : State) (core j : Nat) (x : ActorSlot) : State :=
  match x.head with
  | none => s.emit 1 (.slotFillDone core j)
  | some m =>
    match s.messageSlot core m.high, State.admitted (s.core core) x.actor.ctx with
    | some slot, true => (s.updActor core j fun x => { x with head := none }).startMessage core slot j x m true
    | _, _ => s.emit 1 (.slotFillDone core j)

/-- An actor of a slot is live: its home is told, and its head message may start (R39). Where an ASLOT write is under way the actor retires as the
others do (R33). -/
def State.nowLive (s : State) (core j : Nat) (x : ActorSlot) (e : Event) : State :=
  let s1 := (s.toHome core x.slice x.actor e).offer core
  if (s.core core).aslotTo.isSome then
    ((s1.updActor core j fun x => { x with noticed := true }).toHome core x.slice x.actor (.retireNotice x.slice x.actor core)).aslotRetire core
  else s1

/-- SLOT_FILL_DONE (R39): the record is in the slot, or the slot is zero; READY follows, or the constructor first. -/
def execSlotFillDone (s : State) : Result :=
  .next <|
    match s.ev with
    | .slotFillDone core j =>
      match (s.core core).actors.find? fun e => e.1 == j && e.2.phase == .filling with
      | none => s
      | some (_, x) =>
        let off := State.slotOffset (s.core core) j
        let ready (s : State) : State :=
          (s.updActor core j fun x => { x with phase := .live, lastUse := s.now }).nowLive core j x (.ready x.slice x.actor core j)
        match s.findRecord x.actor x.entry x.dirIndex with
        | (s1, .error f) => s1.fillFails core j x 8 f
        | (s1, .ok (.hit va)) =>
          match s1.unitRead x.actor.part x.actor.ctx va (256 * x.entry.stLines.toNat) with
          | (s2, .error f) => s2.fillFails core j x 7 f
          | (s2, .ok b) => ready (s2.writeStore core off b)
        | (s1, .ok _) =>
          let s2 := s1.writeStore core off (List.replicate (State.slotBytes (s.core core)) 0)
          if x.entry.attr.getLsbD 3 then
            s2.queueCtor core j x
          else ready s2
    | _ => s

/-- MOVE_ORDER (R39): an idle LIVE actor's slot is copied to a free slot of the new core. -/
def execMoveOrder (s : State) : Result :=
  .next <|
    match s.ev with
    | .moveOrder slice a dest =>
      match s.eph slice a with
      | none => s
      | some x =>
        match (s.core x.core).actors.find? fun e => e.2.actor == a, State.freeActorSlot (s.core dest) with
        | some (j, y), some k =>
          if s.holdsReport slice a true then s.holdReport slice s.ev
          else if x.phase = .live && x.core ≠ dest && s.actorIdle x.core j y && decide (y.entry.stLines.toNat ≤ State.aslotSize (s.core dest).aslot) &&
              (s.core dest).aslotTo.isNone && s.owner (quireOf dest) == some a.part then
            (((s.leaveLive slice x .moving).updActor x.core j fun y => { y with phase := .moving }).updCore
              dest fun c => { c with actors := put k { y with phase := .moving } c.actors }).emitNet
              (10 + travelCores x.core dest + 8 * y.entry.stLines.toNat) (.moveCopyComplete x.core j dest k)
          else s
        | _, _ => s
    | _ => s

/-- MOVE_COPY_COMPLETE (R39). -/
def execMoveCopyComplete (s : State) : Result :=
  .next <|
    match s.ev with
    | .moveCopyComplete core j dest k =>
      match (s.core core).actors.find? fun e => e.1 == j && e.2.phase == .moving with
      | none => s
      | some (_, x) =>
        let b := memLoad (s.core core).store (State.slotOffset (s.core core) j) (256 * x.entry.stLines.toNat)
        let s1 := (s.writeStore dest (State.slotOffset (s.core dest) k) b).updActor dest k fun y => { y with phase := .live }
        let s2 := (s1.updCore core fun c => { c with actors := drop j c.actors }).nowLive dest k x (.moved x.slice x.actor dest k)
        (s2.aslotCheck core).serveOrders core
    | _ => s

/-- MESSAGE_AT_CORE (R34, R44): the message joins its queue, or goes back. -/
def execMessageAtCore (s : State) : Result :=
  .next <|
    match s.ev with
    | .messageAtCore core slice a m =>
      let s0 := s.updCore core fun c => if m.high then { c with highSent := c.highSent - 1 } else { c with lowSent := c.lowSent - 1 }
      match (s0.core core).actors.find? fun e => e.2.actor == a && (e.2.phase == .live || e.2.phase == .filling) with
      | some (j, x) =>
        if x.noticed then (s0.bounce core slice a m).queueFreed core m.high
        else
          let q : Arrival := { number := s0.ids, actor := a, slot := j, msg := m, entry := x.entry }
          ((s0.updCore core fun c => if m.high then { c with highQ := c.highQ ++ [q] } else { c with lowQ := c.lowQ ++ [q] }).fresh).offer core
      | none => (s0.bounce core slice a m).queueFreed core m.high
    | _ => s

/-! ## Tasks -/

/-- TASK_START (R34, R44, R54, R68): a task that reaches the core joins its low queue; a switch is examined (R63), what may start does, then
the own deque's, then a neighbour's. -/
def execTaskStart (s : State) : Result :=
  .next <|
    match s.ev with
    | .taskStart core (some (node, l)) => s.queueTask core { Task.none with node := node } l
    | .taskStart core none =>
      let s1 := State.startAll core 16 (s.switchCheck core)
      let c := s1.core core
      if (lowStart c).isNone then (if !c.deque.isEmpty && (lowStart (s.core core)).isSome then s1.offerQuire core else s1)
      else if !c.deque.isEmpty then s1.emit 0 (.dequePop core)
      else if c.coresched.getLsbD 16 && (s1.stealFrom core).isSome then s1.emit 0 (.steal core)
      else s1
    | _ => s

/-- DEQUE_POP (R54). -/
def execDequePop (s : State) : Result :=
  .next <|
    match s.ev with
    | .dequePop core =>
      match lowStart (s.core core), (s.core core).deque.getLast? with
      | some slot, some d =>
        ((s.updCore core fun c => { c with deque := c.deque.dropLast }).begin_ ⟨core, slot⟩ (State.childLaunch d core false) 1).offerQuire core
      | _, _ => s
    | _ => s

/-- STEAL (R54): the top of the first neighbour's deque that has one; 8 cycles to the first bundle. -/
def execSteal (s : State) : Result :=
  .next <|
    match s.ev with
    | .steal core =>
      match lowStart (s.core core), s.stealFrom core with
      | some slot, some n =>
        match (s.core n).deque with
        | d :: r => ((s.updCore n fun c => { c with deque := r }).begin_ ⟨core, slot⟩ (State.childLaunch d core true) 8).offer core
        | [] => s
      | _, _ => s
    | _ => s

/-- The actor of a task is free again, or its constructor has ended and its head message follows (R38, R39). -/
def State.releaseActor (s : State) (n : Nat) (t : Task) : State :=
  match t.actor with
  | none => s
  | some (core, j) =>
    let s1 := s.updTask n fun t => { t with actor := none }
    let s2 := s1.updActor core j fun x =>
      { x with lastUse := s.now, phase := if x.phase == .filling then .live else x.phase, head := if t.head.isSome then t.head else x.head }
    let s3 :=
      match t.head, (s2.core core).actors.find? fun e => e.1 == j with
      | some _, some (_, x) => s2.nowLive core j x (.ready x.slice x.actor core j)
      | _, _ => s2
    (((s3.aslotRetire core).serveOrders core).offer core)

/-- A task that names a graph node has ended with its writes acknowledged (R70, R71). -/
def State.nodeEnds (s : State) (n : Nat) : State :=
  let t := s.task n
  if has n s.tasks && t.ended && !s.taskUnacked n then
    let s1 := { s with tasks := drop n s.tasks }
    if t.node = 0 then s1 else s1.emitNet (toBase (quireOf t.core)) (.nodeCompletion t.part t.ctx t.node (some 0))
  else s

/-- TASK_END (R50, R57, R63, R72): when the last checkpoint strand has ended without a `rollback`, the partition stops
(R390). -/
def execTaskEnd (s : State) : Result :=
  .next <|
    match s.ev with
    | .taskEnd n =>
      if !has n s.tasks then s
      else
        let t := s.task n
        let s1 := s.releaseActor n t
        if t.live = 0 && !t.ended then
          let s2 := ((((s1.updTask n fun t => { t with ended := true }).pulse t.part t.ctx).responderEnded t.core t).switchCheck t.core).nodeEnds n
          if s2.checkpointing t.part && (s2.strandsWhere fun _ x => x.part == t.part).isEmpty then s2.emit 0 (.partitionStop t.part) else s2
        else s1.switchCheck t.core
    | _ => s

/-! ## Spawn, migration and joins -/

/-- SPAWN_REQUEST (R52): a core that may start no task of the context has no slot for the child (R63). -/
def execSpawnRequest (s : State) : Result :=
  .next <|
    match s.ev with
    | .spawnRequest r tag target child =>
      match (lowStart (s.core target)).filter fun _ => State.admitted (s.core target) child.ctx with
      | some slot =>
        (s.updCore target fun c => { c with reserved := slot :: c.reserved }).emitNet (4 + travelCores target r.core) (.spawnAnswer r tag target (some slot))
      | none => s.emitNet (4 + travelCores target r.core) (.spawnAnswer r tag target none)
    | _ => s

/-- SPAWN_ANSWER (R52): 0 accepted, 1 refused; a `spawn` squashed meanwhile releases its reservation. -/
def execSpawnAnswer (s : State) : Result :=
  .next <|
    match s.ev with
    | .spawnAnswer r tag target slot =>
      let d := (((s.strand r).windows.find? fun w => w.tag == tag).map (·.dests)).getD []
      let ws : List RegWrite := d.filterMap fun x => match x with
        | .s n => some (RegWrite.s n (if slot.isSome then 0 else 1))
        | _ => none
      let taken (h : Held) : Held := match h with | .spawn n core _ l => .spawn n core slot l | h => h
      match s.settle r tag (fun h => slot.map fun _ => taken h) ws, slot with
      | some s1, _ => s1
      | none, some n => s.unreserve target n
      | none, none => s
    | _ => s

/-- SPAWN_CHILD_START (R52): the child takes its reserved slot; where its context is leaving (R63) it gives the slot up and waits. -/
def execSpawnChildStart (s : State) : Result :=
  .next <|
    match s.ev with
    | .spawnChildStart target slot l =>
      let t : Task := { Task.none with part := l.part, ctx := l.ctx, core := target }
      if State.admitted (s.core target) l.ctx then
        let s1 := s.updCore target fun c => { c with reserved := c.reserved.erase slot }
        (s1.newTask t).begin_ ⟨target, slot⟩ { l with task := s1.ids } 0
      else (s.queueTask target t l).unreserve target slot
    | _ => s

/-- MIGR_ARRIVAL (R56). -/
def execMigrArrival (s : State) : Result :=
  .next <|
    match s.ev with
    | .migrArrival quire l =>
      match s.placeMigrant quire l with
      | some s1 => s1
      | none => { s with migrants := s.migrants ++ [(quire, l)] }
    | _ => s

/-- JOIN_DECREMENT_APPLIED (R55, R161). -/
def execJoinDecrementApplied (s : State) : Result :=
  .next <|
    match s.ev with
    | .joinDecrementApplied core off =>
      if inScratch (s.core core) off 8 then
        let v := BitVec.ofNat 64 (Bytes.toNat (memLoad (s.core core).store off 8)) - 1
        let s1 := s.writeStore core off (Bytes.ofNat 8 v.toNat)
        match s.owner (quireOf core) with
        | some p => s1.remoteWritten core p [off]
        | none => s1
      else s
    | _ => s

/-- JOIN_WAKE (R210): the sleeper's `join` issues again. -/
def execJoinWake (s : State) : Result :=
  .next <|
    match s.ev with
    | .joinWake r => match (s.strand r).wait with | .asleep (.counter _) => s.wake r 0 | _ => s
    | _ => s

/-! ## Budgets and upcalls -/

/-- The strand's last bundle has issued (R374). -/
def lastIssued (t : Strand) : Bool :=
  ((t.closed ++ [t.opened]).flatMap (·.held)).any fun h => match h with | .endStrand | .joinEnd | .migrate _ => true | _ => false

/-- BUDGET_OVERRUN (R374): a strand that issues, or whose bundle is under way, stops before its next bundle. -/
def execBudgetOverrun (s : State) : Result :=
  .next <|
    match s.ev with
    | .budgetOverrun r start =>
      let t := s.strand r
      if !s.occupied r || t.startedAt ≠ start || !t.counted || t.spent then s
      else if t.budgetNow s.now ≠ 0 then
        (if t.wait = .stopped then s else s.emit (t.budgetNow s.now).toNat (.budgetOverrun r start))
      else
        let s1 := if t.monitor.isSome then s.latchMonitor r 2 else s
        let f : FaultInfo := { code := .budgetOverrun, info := t.budgetStart }
        if lastIssued t || t.asyncFaults.any (·.code == .budgetOverrun) then s1
        else
          match t.wait with
          | .asleep .monitor => s1.updStrand r fun t => { t with spent := true, budget := 0 }
          | .asleep (.barrier _ _) | .faulting | .stopped => s1
          | .asleep _ => if t.inFlight then s1.updStrand r fun t => { t with asyncFaults := t.asyncFaults ++ [f] }
            else { s1 with cur := r, latch := none }.stopWith f
          | _ => s1.updStrand r fun t => { t with asyncFaults := t.asyncFaults ++ [f] }
    | _ => s

/-- UPCALL_START (R407, R408): the upcall takes a slot once one is free, and its first bundle issues 12 cycles after the record at the earliest. -/
def execUpcallStart (s : State) : Result :=
  .next <|
    match s.ev with
    | .upcallStart r =>
      let t := s.strand r
      let u := (s.context t.part t.ctx).upcall
      let cls := Bits.get u.toNat 47 32
      match t.fault with
      | none => s
      | some f =>
        let able : State × Option Launch :=
          if t.kind == .upcall || t.kind == .checkpoint || (s.context t.part t.ctx).clsNum.toNat ≤ cls then (s, none)
          else
            match s.classEntry t.part t.ctx cls with
            | (s1, .ok e) => (s1, if 8 * Bits.get u.toNat 31 0 < e.codeLim.toNat then some (s1.upcallLaunch r f e u) else none)
            | (s1, .error _) => (s1, none)
        match able with
        | (s1, some l) =>
          ((s1.updCore r.core fun c => { c with upcalls := c.upcalls ++ [{ slot := r.slot, due := s.now + 12, launch := l }] }).updStrand r fun t =>
            { t with byUpcall := true }).offer r.core
        | (s1, none) =>
          let rec_ := memLoad (s.core r.core).store (State.recordBase (s.core r.core) + 128 * r.slot) 40
          s1.report t.part (some t.ctx) f.code.byte 1 r.core t.regs.pc (rec_.drop 8)
    | _ => s

end Sys2Proof.Machine
end

