-- ==== Sys2Proof/Machine/Commit.lean ====
section
/-! DEFINITION. Commits (R156-R161), copy on write (R296, R382-R384), the requests of homes (R130-R139, R152, R172),
remote accesses (R127-R129, R411, R412), and the report of strand faults (R394). -/

namespace Sys2Proof.Machine

namespace State

/-! ## Copy on write (R296) -/

/-- A range of memory copied to another frame. -/
def copyFrame (s : State) (from_ to_ n : Nat) : State :=
  let cells := s.hbm.filter fun c => from_ ≤ c.1 && c.1 < from_ + n
  { s with hbm := cells.foldl (fun m c => memSet m (to_ + (c.1 - from_)) c.2) (memZero s.hbm to_ n) }

/-- The pool of a leaf's size: its descriptor's place in the header, and its code. -/
def poolCode (size : Nat) : Nat := if size = 4096 then 0 else if size = 65536 then 1 else if size = 2 ^ 21 then 2 else 3

/-- Every unit forgets a leaf (R226, R296); a monitor of a line that leaves an L1 latches event 1 (R289). -/
def forgetPage (s0 : State) (part base size frame : Nat) : State :=
  let mine (ln : Nat) : Bool := decide (base ≤ ln * 256) && decide (ln * 256 < base + size)
  let old (g : Grant) : Bool := decide (frame ≤ g.frame) && decide (g.frame < frame + size)
  let s := s0.cores.foldl (fun (s : State) c => s.leaveL1 c.1 fun l => l.part == part && mine l.line) s0
  { s with
    l2 := s.l2.filter fun l => !old l.g
    dies := s.dies.map fun d => (d.1, { d.2 with walk := d.2.walk.filter fun e =>
      !(e.part == part && decide (e.base < base + size) && decide (base < e.base + e.size) && !e.pte.getLsbD 1) })
    cores := s.cores.map fun c => (c.1, { c.2 with slots := c.2.slots.map fun e => (e.1, { e.2 with
      received := e.2.received.filter fun x => match x with | .line _ _ g => !old g | _ => true
      known := e.2.known.filter fun x => match x with | .line _ _ g => !old g | _ => true }) }) }

/-- The page of a write is copied (R296), and whether; it waits where the pool is empty or the page list is full (R384). DESIGN CHOICE (log 88): the
PAGES entry of a contiguous group's page, which R296 does not give, has the group's base and the PTE of the page written. -/
def copyPage (s : State) (part ctx : Nat) (va : Nat) (l : Leaf) (pte : Word) : State × Bool :=
  match s.editionOf part (s.partition part).edition with
  | none => (s, true)
  | some e =>
    let code := poolCode l.size
    let at_ := 72 + 16 * code
    let top := s.headerWord e at_ 8
    let array := s.headerWord e (at_ + 8) 8
    let cnt := s.headerWord e 52 4
    let page := BitVec.ofNat 64 (va / l.size * l.size)
    if s.headerWord e 48 4 ≤ cnt then (if e.state = 0 then s.abortEdition part 2 page else s, false)
    else if top = 0 then (if e.state = 0 then s.abortEdition part 4 page else s, false)
    else
      match s.unitWord part e.ctx (array + 8 * (top - 1)) 8 with
      | (s1, .error _) => (s1, false)
      | (s1, .ok frame) =>
        let old := ptePfn pte * 4096 / l.size * l.size
        let s2 := (s1.l2.filter fun x => old ≤ x.g.frame && x.g.frame < old + l.size).foldl (fun s x => s.writeBack x) s1
        let s3 := ((s2.headerPut e at_ (Bytes.ofNat 8 (top - 1))).copyFrame old frame l.size)
        let entry := Bytes.ofNat 8 (page.toNat + 64 * (ctx % 64) + code) ++ Bytes.ofNat 8 pte.toNat
        let s4 := (s3.unitWrite part e.ctx (s3.headerWord e 40 8 + 16 * cnt) entry).1.headerPut e 52 (Bytes.ofNat 4 (cnt + 1))
        let ped := (s.partition part).edition.toNat % 256
        let group := if l.size = 65536 || l.size = 2 ^ 25 then 16 else 1
        let first := if group = 16 then l.entryPa / 128 * 128 else l.entryPa
        let pagesPer := l.size / group / 4096
        let s5 := (List.range group).foldl (fun (s : State) k =>
          let p := s.physWord (first + 8 * k)
          let kept := p.toNat % 2 ^ 12 + p.toNat / 2 ^ 60 * 2 ^ 60
          s.physWrite (first + 8 * k) (Bytes.ofNat 8 (kept + (frame / 4096 + k * pagesPer) * 4096 + ped * 2 ^ 52))) s4
        let s6 := (s5.forgetPage part (va / l.size * l.size) l.size old).updEdition part e.n fun e =>
          { e with pages := e.pages ++ [{ entries := (List.range group).map fun k => (first + 8 * k, s4.physWord (first + 8 * k)), size := l.size, page := page }] }
        (s6, true)

/-! ## Homes (R130, R133, R138, R139, R152) -/

/-- Bytes of a line as a die reads them: its committed stores that wait at their homes, and those of its spine queue, lie over the home's
(R159). -/
def dieBytes (s : State) (die part line : Nat) (b : List Byte) : List Byte :=
  let atCow := (s.cowQueue.filter fun w => w.part == part && w.kind == .write && dieOf w.who.core == die).map fun w => (w.va.toNat, w.data)
  let atHome := (s.peerWait.filter fun r => r.part == part && r.die == die && r.pkg.isNone).filterMap fun r =>
    match r.op with | .store data _ => some (r.va.toNat, data) | _ => none
  overlay (atCow ++ atHome ++ ((s.die die).spine.filter fun w => w.part == part).map fun w => (w.va.toNat, w.data)) (line * 256) b

/-- Requests for a line wait at their home. -/
def lineWaits (s : State) (part line : Nat) : Bool := s.peerWait.any fun x => x.part == part && x.va.toNat / 256 == line

/-- A request waits at its home. -/
def waitAtHome (s : State) (r : HomeReq) : State := { s with peerWait := s.peerWait ++ [r] }

def podEntry (s : State) (part line : Nat) : Option PodEntry := s.podDir.find? fun e => e.part == part && e.line == line

/-- Another package holds a line SHARED (R139): up to eight are named, beyond that all of the partition. -/
def podShare (s : State) (part line pkg : Nat) : State :=
  let old := ((s.podEntry part line).map (·.holders)).getD []
  let new := if old.contains pkg then old else pkg :: old
  let acks := ((s.podEntry part line).map (·.acks)).getD 0
  { s with podDir := { part := part, line := line, holders := if new.length ≤ 8 then new else s.otherPackages part, owned := false, acks := acks } ::
             s.podDir.filter fun e => !(e.part == part && e.line == line) }

/-- A home's answer, `cost` cycles beyond the slice's 24 (R14, R418): to the strand, or to the package that asked (R138). -/
def homeAnswer (s : State) (r : HomeReq) (cost : Nat) (x : FillResult) : State :=
  let line := r.va.toNat / 256
  match r.pkg, x with
  | none, x => s.emitNet (24 + cost) (.cacheFillReturn r.who r.part r.start x)
  | some p, .data _ b g => (s.podShare r.part line p).toFabric (.grant p r.part line false b g)
  | some p, .checked _ g => s.toFabric (.grant p r.part line false [] g)
  | some p, .fault _ f => s.toFabric (.refused p r.part line f)

/-- The write that a request asks for. -/
def requestWrite (s : State) (r : HomeReq) (kind : AckKind) (data : List Byte) (g : Grant) : CowWrite :=
  { kind := kind, who := r.who, task := r.task, start := r.start, part := r.part, ctx := r.ctx, va := r.va, data := data, edition := r.edition,
    g := if s.homePackage r.part r.va.toNat = s.pkgid then g else { g with rights := g.rights &&& 0x2F } }

/-- A store of a die has arrived at its home and leaves the die's queue (R159). -/
def leaveSpine (s : State) (r : HomeReq) (data : List Byte) : State :=
  s.updDie r.die fun d => { d with spine := d.spine.eraseP fun x => x.part == r.part && x.va == r.va && x.data == data }

/-- A strand has written a line of another package, which a release or, of a non-temporal store, a `drain` at pod scope writes back (R166, R173). -/
def notePodWrite (s : State) (r : HomeReq) (nt : Bool) : State :=
  if s.occupied r.who && (s.strand r.who).startedAt == r.start then
    s.updStrand r.who fun t => { t with podWrites := (r.va.toNat / 256, nt) :: t.podWrites.filter (· != (r.va.toNat / 256, nt)) }
  else s

/-- The writes and atomics at a line that this package may write. -/
def serveWrite (s : State) (r : HomeReq) (kind : AckKind) (data : List Byte) (g : Grant) : State :=
  let back := travel (s.homeOf r.part r.va.toNat) (quireOf r.who.core)
  s.writeAtHome (s.requestWrite r kind data g) back fun c => kind == .write && dieOf c == r.die

/-- The answer for the element of an atomic or of an access to a page with O = 1, `cost` cycles beyond the slice's 24 (R14): to the strand, or to the
package that asked (R148). -/
def elementAnswer (s : State) (r : HomeReq) (lane cost : Nat) (x : RemoteAnswer) : State :=
  match r.pkg with
  | none => s.emitNet (24 + cost) (.remoteResult r.who lane r.va x)
  | some p => s.toFabric (.value p r.part r.who lane r.va x)

/-- A request whose write waits for the copy of its page is looked at again once that is over (R296). -/
def cowStall (s : State) (r : HomeReq) (g : Grant) : Option State :=
  match s.cowDefer (s.requestWrite r .unit [] g) with
  | none => none
  | some s1 => some ((if (s.pageWrites r.part r.va.toNat 4096).any fun w => w.who == r.who && w.kind == .unit then s else s1).emit 16 (.homeRequest r))

/-- Its core has switched meanwhile: what a strand asked before its cut is performed after it (R294, R298). -/
def restamp (s : State) (r : HomeReq) : HomeReq := if r.pkg.isNone then { r with edition := (s.core r.who.core).edition } else r

/-- An access of another package to a page with O = 1 here, or an atomic whose page has become one, at its home in memory (R148, R163): `new` are the
bytes it writes, if any. Of the engine frames and the notify pages it reaches the doorbell alone (R260, R347). -/
def serveStrong (s : State) (r : HomeReq) (lane n cost : Nat) (g : Grant) (new : Word → Option (List Byte)) : State :=
  let va := r.va.toNat
  let pa := g.frame + va % 256
  if pa ≥ Config.engineFrame then
    match notifyPartition pa, new 0 with
    | some p, some data =>
      if pa % 4096 = 0 && n = 8 && (r.op == .strongStore data) then
        (s.emit 0 (.notifyPageStore p (BitVec.ofNat 64 (Bytes.toNat data)))).elementAnswer r lane cost (.value 0)
      else s.elementAnswer r lane cost (.fault { code := .permission, va := r.va })
    | _, _ => s.elementAnswer r lane cost (.fault { code := .permission, va := r.va })
  else
    let old := s.strongRead pa n
    match new old.2 with
    | none => old.1.elementAnswer r lane cost (.value old.2)
    | some data =>
      match old.1.cowStall r g with
      | some s1 => s1
      | none => (old.1.performWrite (old.1.requestWrite r .unit data g)).elementAnswer r lane cost (.value (atomOld n (Bytes.ofNat n old.2.toNat)))

/-- An atomic at its home (R162, R252): it waits while its page's copy does (R296), and its write is acknowledged as a store's (R166). -/
def serveAtomic (s : State) (r0 : HomeReq) (fn : AtomFn) (n lane : Nat) (val cmp : Word) : State :=
  let r := s.restamp r0
  let va := r.va.toNat
  match s.homeLine { part := r.part, ctx := r.ctx, va := va, acc := .atomic, priv := r.priv } with
  | (s1, cost, .error f) => s1.elementAnswer r lane cost (.fault f)
  | (s1, cost, .ok (b, g)) =>
    if b.isEmpty then s1.serveStrong r lane n cost g fun old => some (Bytes.ofNat n (atomNew fn n old val cmp).toNat)
    else
      match s1.cowStall r0 g with
      | some s2 => s2
      | none =>
        let own := r.pkg.isNone
        let old := (b.drop (va % 256)).take n
        let new := Bytes.ofNat n (atomNew fn n (BitVec.ofNat 64 (Bytes.toNat old)) val cmp).toNat
        let counted := if own then (s1.updStrand r.who fun t => { t with unackedWrites := t.unackedWrites + 1 }).updTask r.task fun k => { k with unacked := k.unacked + 1 }
          else s1
        let s2 := counted.writeNow (counted.requestWrite r (if own then .write else .unit) new g) (travel (s.homeOf r.part va) (quireOf r.who.core))
          fun c => own && dieOf c == r.die
        (if own then (s2.patchDie r.die r.part va new).broadcast r.die r.who (sigOf r.part (sectorsOf va n)) else s2).elementAnswer r lane cost
          (.value (atomOld n old))

/-- A load or a store of another package to what is a page with O = 1 there (R148): in memory, or at the line where the page here is cached. -/
def serveAway (s : State) (r : HomeReq) (n : Nat) (new : Option (List Byte)) : State :=
  let va := r.va.toNat
  match s.homeLine { part := r.part, ctx := r.ctx, va := va, acc := if new.isSome then .store else .load, priv := r.priv } with
  | (s1, cost, .error f) => s1.elementAnswer r 0 cost (.fault f)
  | (s1, cost, .ok (b, g)) =>
    if b.isEmpty then s1.serveStrong r 0 n cost g fun _ => new
    else
      match new with
      | none => s1.elementAnswer r 0 cost (.value (BitVec.ofNat 64 (Bytes.toNat ((b.drop (va % 256)).take n))))
      | some data =>
        match s1.cowStall r g with
        | some s2 => s2
        | none => (s1.writeNow (s1.requestWrite r .unit data g) 0 fun _ => false).elementAnswer r 0 cost (.value 0)

/-- A request performed at the slice that is its line's home in this package. -/
def serveHere (s : State) (r : HomeReq) : State :=
  let va := r.va.toNat
  let line := va / 256
  match r.op with
  | .need acc =>
    match s.homeLine { part := r.part, ctx := r.ctx, va := va, acc := acc, priv := r.priv } with
    | (s1, cost, .error f) => s1.homeAnswer r cost (.fault acc f)
    | (s1, cost, .ok (b, g)) => s1.homeAnswer r cost (.data r.va (if b.isEmpty then [] else s1.dieBytes r.die r.part line b) g)
  | .check =>
    match s.homeLine { part := r.part, ctx := r.ctx, va := va, acc := .store, priv := r.priv } with
    | (s1, cost, .error f) => s1.homeAnswer r cost (.fault .store f)
    | (s1, cost, .ok (b, g)) => s1.homeAnswer r cost (if r.pkg.isSome then .data r.va b g else .checked r.va g)
  | .store data g => s.serveWrite r .write data g
  | .nontemporal n data g => s.serveWrite r (.nontemporal n) data g
  | .atomic fn n lane val cmp _ => s.serveAtomic r fn n lane val cmp
  | .strongLoad n => s.serveAway r n none
  | .strongStore data => s.serveAway r data.length (some data)
  | _ => s

/-- A request at the slice that stands for another package's home (R138): a line held with what the request needs answers it; else it waits for
the owning package, which is asked once for a line. -/
def servePeer (s : State) (r : HomeReq) : State :=
  let va := r.va.toNat
  let line := va / 256
  let pkg := s.homePackage r.part va
  let ask (p : FabricPacket) : State := (s.waitAtHome r).toFabric p
  let held := s.l2Find r.part line
  let owned := held.any fun l => l.peer == some true
  match r.op, held with
  | .need acc, some l =>
    if rightsOk acc r.priv l.g.rights then s.homeAnswer r 0 (.data r.va (s.dieBytes r.die r.part line (memLoad l.data 0 256)) l.g)
    else ask (.request pkg r)
  | .check, some l => if rightsOk .store r.priv l.g.rights then s.homeAnswer r 0 (.checked r.va l.g) else ask (.request pkg r)
  | .need _, none | .check, none => ask (.request pkg r)
  | .store data g, _ => if owned then (s.notePodWrite r false).serveWrite r .write data g else ask (.own pkg r.part line s.pkgid)
  | .nontemporal n data g, _ => if owned then (s.notePodWrite r true).serveWrite r (.nontemporal n) data g else ask (.own pkg r.part line s.pkgid)
  | .atomic fn n lane val cmp _, _ => if owned then (s.notePodWrite r false).serveAtomic r fn n lane val cmp else ask (.own pkg r.part line s.pkgid)
  | _, _ => s

/-- A request at its home (R133, R138, R139, R152): behind those that wait for its line, which waits while it is locked or another package
holds it OWNED. -/
def serve (s : State) (r : HomeReq) : State :=
  let va := r.va.toNat
  let line := va / 256
  if s.lineWaits r.part line || s.lockedLine r.part va then s.waitAtHome r
  else if s.homePackage r.part va ≠ s.pkgid then (if r.pkg.isSome then s.toFabric (.request (s.homePackage r.part va) r) else s.servePeer r)
  else
    match s.podEntry r.part line with
    | some e => if e.owned && !(r.pkg.any fun p => e.holders.contains p) then (s.podRecall r.part line none).waitAtHome r else s.serveHere r
    | none => s.serveHere r

/-- The requests that wait for a line are served again, in order. -/
def wakeLine (s : State) (part line : Nat) : State :=
  let mine (r : HomeReq) : Bool := r.part == part && r.va.toNat / 256 == line
  (s.peerWait.filter mine).foldl (fun s r => s.serve r) { s with peerWait := s.peerWait.filter fun r => !mine r }

/-- The owning package's answer (R138): the line is held SHARED or OWNED; of a page with O = 1 only what its leaf says comes. -/
def peerGranted (s : State) (r : HomeReq) (owned : Bool) (data : List Byte) (g : Grant) : State :=
  let line := r.va.toNat / 256
  if data.isEmpty then
    let mine (x : HomeReq) : Bool := x.part == r.part && x.va.toNat / 256 == line
    (s.peerWait.filter mine).foldl (fun (s : State) x => s.homeAnswer x 0 (match x.op with | .check => .checked x.va g | _ => .data x.va [] g))
      { s with peerWait := s.peerWait.filter fun x => !mine x }
  else
    (s.l2Put { part := r.part, line := line, data := memStore [] 0 data, valid := List.range 8, dirty := [], g := g, entryPa := none,
               peer := some owned }).wakeLine r.part line

/-- The owning package's refusal of a request (R138): the strand that asked has its fault, and the others ask for themselves. -/
def peerRefused (s : State) (r : HomeReq) (f : FaultInfo) : State :=
  let line := r.va.toNat / 256
  match s.peerWait.find? fun x => x.part == r.part && x.va == r.va && x.who == r.who with
  | none => s.wakeLine r.part line
  | some x =>
    let s1 : State := { s with peerWait := s.peerWait.erase x }
    (match x.op with
     | .need a => s1.homeAnswer x 0 (.fault a f)
     | .atomic _ _ lane _ _ _ => s1.elementAnswer x lane 0 (.fault f)
     | _ => s1.homeAnswer x 0 (.fault .store f)).wakeLine r.part line

/-- The owning package recalls a line (R139): dirty bytes go back to it, and the line leaves this package. -/
def recalled (s : State) (r : HomeReq) : State :=
  let line := r.va.toNat / 256
  let s1 := match s.l2Find r.part line with
    | some l => if l.peer.isSome then (s.writeBack l).l2Drop r.part line else s
    | none => s
  (s1.invalidateHolders r.part line fun _ => false).1.toFabric (.recalled (s.homePackage r.part r.va.toNat) r.part line)

/-- The leaf of a line, for a unit that asks for no context of its own. DESIGN CHOICE (log 54): the lowest context that maps it. -/
def lineLeaf (s : State) (part va : Nat) : Option Leaf :=
  (List.range 64).findSome? fun c => (s.pageLeaf part c va).map (·.1)

/-- A line's dirty bytes come back to their owner from another package (R139); a recalled line is free again. -/
def returned (s : State) (r : HomeReq) (data : List (Nat × Byte)) : State :=
  let line := r.va.toNat / 256
  let s1 := match s.lineLeaf r.part r.va.toNat with
    | some leaf => data.foldl (fun (s : State) (b : Nat × Byte) =>
        s.storeInLine r.part r.ctx (line * 256 + b.1) [b.2] { rights := leaf.rights, frame := leaf.pa / 256 * 256, size := leaf.size }) s
    | none => s
  { s1 with podDir := s1.podDir.filterMap fun (e : PodEntry) =>
      if e.part == r.part && e.line == line then (if e.holders.isEmpty && e.acks ≤ 1 then none else some { e with acks := e.acks - 1 })
      else some e }.wakeLine r.part line

/-- A line of a granule that moves to this package has arrived (R151): it is held here, and the old home is told. -/
def lineArrived (s : State) (r : HomeReq) (data : List Byte) : State :=
  let line := r.va.toNat / 256
  let s1 := match s.lineLeaf r.part r.va.toNat with
    | some leaf =>
      s.l2Put { part := r.part, line := line, data := memStore [] 0 data, valid := List.range 8, dirty := List.range 256,
                g := { rights := leaf.rights, frame := leaf.pa / 256 * 256, size := leaf.size }, entryPa := some leaf.entryPa, peer := none }
    | none => s
  match r.pkg with
  | some p => s1.toFabric (.moved p r.part line)
  | none => s1

/-- A `tinv` of another package (R226): this package's units act on it, and acknowledge. -/
def tinvHere (s : State) (r : HomeReq) (kind : Nat) (ack : Ref × Nat × Nat) : State :=
  let k := match kind with
    | 0 => tinvPage r.part r.ctx r.va.toNat
    | 1 => tinvCtx r.part r.ctx
    | _ => tinvPart r.part
  if s.tinvWaits k then s.emit 1 (.homeRequest r)
  else
    match r.pkg with
    | some p => (s.tinvNow k none).toFabric (.tinvDone p r.part ack)
    | none => s

/-- A committed cached store (R131, R159): the copies of its die show it at once; on its die the home does, unless it has to wait there (R139, R152),
and elsewhere it leaves through the die's queue at the spine port, in commit order. -/
def commitStore (s : State) (r : Ref) (va : Word) (data : List Byte) (g : Grant) : State :=
  let t := s.strand r
  let d := dieOf r.core
  let home := s.homeOf t.part va.toNat
  let req : HomeReq := { who := r, part := t.part, ctx := t.ctx, priv := privOf t.regs.flags, die := d, va := va, op := .store data g,
                         edition := (s.core r.core).edition, task := t.task, start := t.startedAt }
  let s1 := ((s.patchDie d t.part va.toNat data).updStrand r fun t => { t with unackedWrites := t.unackedWrites + 1 }).updTask t.task fun k =>
    { k with unacked := k.unacked + 1 }
  if home / 256 = d && s.homePackage t.part va.toNat = s.pkgid then s1.serve req
  else
    (s1.updDie d fun x =>
      { x with spine := x.spine ++ [{ part := t.part, va := va, data := data, seq := x.spineSeq }], spineSeq := x.spineSeq + 1 }).emitOrdered
      (.spine d home) (toSlice (quireOf r.core) home) (.homeRequest req)

/-! ## Held effects (R160) -/

/-- What a strand takes along when it leaves by `migr` (R49, R56). -/
def migrant (s : State) (r : Ref) : Launch :=
  let t := s.strand r
  { kind := .migr, part := t.part, ctx := t.ctx, pc := t.regs.pc, regs := t.regs.s.toList, rm := t.regs.flags.setWidth 2,
    cbsel := cbselOf t.regs.flags, sticky := t.regs.flags, clsType := t.clsType, msg := 0, state := 0, keyLo := 0, keyHi := 0,
    budget := t.budgetNow s.now, counted := t.counted && !t.spent, classBudget := t.budgetStart, code := t.code,
    codeLim := t.codeLim, cbank := t.cbank, task := t.task, high := decide (12 ≤ r.slot), counter := none, vregs := [], rows := none }

/-- The line of a strand that leaves for another package: the image of R90 in payload words 0-18. -/
def migrantLine (s : State) (r : Ref) : Msg :=
  let t := s.strand r
  { cls := BitVec.ofNat 16 (t.clsType.toNat / 256), type := t.clsType.setWidth 8, flags := 0, key := 0, score := BitVec.ofNat 16 r.core,
    sstrand := BitVec.ofNat 8 r.slot, plen := 19, chseq := 0, edition := (s.core r.core).edition.setWidth 16,
    pcx := pcxOf t.part t.ctx (look 0 r.slot (s.core r.core).serials), node := 0,
    payload := t.regs.s.toList ++ [t.regs.pc, t.regs.flags, t.budgetNow s.now] }

/-- The event of a committed `csrw` (R85). -/
def csrEvent (s : State) (r : Ref) (sel : Nat) (val : Word) : Option Event :=
  let t := s.strand r
  match sel with
  | 0x010 => some (.waymaskWrite r.core t.startedAt val)
  | 0x011 => some (.registerWrite (.frecBase r.core) val)
  | 0x012 => some (.aslotWrite r.core t.startedAt val)
  | 0x013 => some (.coreschedWrite r.core val)
  | 0x015 => some (.ctxreqWrite r.core val)
  | 0x017 => some (.engflt1Write r.core val)
  | 0x020 => some (.registerWrite (.upcall t.part t.ctx) val)
  | 0x021 => some (.registerWrite (.clsTab t.part t.ctx) val)
  | 0x022 => some (.registerWrite (.clsNum t.part t.ctx) val)
  | 0x023 => some (.registerWrite (.graphBase t.part t.ctx) val)
  | 0x024 => some (.gkickWrite t.part t.ctx (val.toNat % 65536))
  | 0x025 => some (.registerWrite (.wdogWin t.part t.ctx) val)
  | 0x040 => some (.expcapWrite t.part t.ctx val)
  | _ => none

/-- The cores of a partition within a scope around a core (R165, R225). -/
def scopeCores (s : State) (part core scope : Nat) : List Nat :=
  let own := (s.homeList part).flatMap fun k => (List.range 4).map (4 * k + ·)
  match scope with
  | 0 => [core]
  | 1 => own.filter fun c => quireOf c == quireOf core
  | 2 => own.filter fun c => dieOf c == dieOf core
  | _ => own

/-- An effect that a checkpoint state discards (R390). -/
def discarded : Held → Bool
  | .send _ _ | .command _ _ _ | .solicit _ _ _ _ | .sample _ _ | .give _ _ | .dropReply => true
  | .posted p => p.reply.isSome
  | _ => false

/-- A resumed strand's budget is watched again (R374, R375). -/
def recheckResumed (s : State) (r : Ref) : State :=
  let t := s.strand r
  if t.counted && !t.spent && t.wait != .stopped then s.emit (t.budgetNow s.now).toNat (.budgetOverrun r t.startedAt) else s

/-- One held effect of a committing chunk. -/
def applyHeld (s : State) (r : Ref) (h : Held) : State :=
  let t := s.strand r
  let q := quireOf r.core
  if discarded h && (s.partition t.part).checkpoint then s.releaseHeld r.core h
  else
  match h with
  | .wants _ _ | .pop _ => s
  | .store va data g => s.commitStore r va data (g.getD ⟨0, 0, 0⟩)
  | .scratch off data setFull =>
    let s1 := s.writeStore r.core off data
    if setFull then s1.setFull r.core ((sectorsOf off data.length).map (· / 32)) [] else s1
  | .fullBits set clr => s.setFull r.core set clr
  | .posted p =>
    let s1 := if p.reply.isSome then s.updTask t.task fun k => { k with replied := true } else s
    let n := (s.core r.core).edition
    let stamp (b : Nat × Byte) : Nat × Byte := if b.1 = 28 then (28, n.setWidth 8) else if b.1 = 29 then (29, (n >>> 8).setWidth 8) else b
    s1.emitOrdered (.posted r.core p.target) (10 + travelCores r.core p.target)
      (.postedStoreApply { p with edition := n, data := if p.reply.isSome then p.data.map stamp else p.data })
  | .nontemporal va data g =>
    let home := s.homeOf t.part va.toNat
    ((((s.leaveL1 r.core fun l => l.part == t.part && l.line == va.toNat / 256).updStrand r fun t =>
      { t with ntOut := t.ntOut ++ [(s.ids, va, data)], unackedStores := t.unackedStores + 1 }).updTask t.task fun k =>
      { k with unacked := k.unacked + 1, nontemporal := k.nontemporal + 1 }).emitNet (toSlice q home)
      (.homeRequest { who := r, part := t.part, ctx := t.ctx, priv := privOf t.regs.flags, die := dieOf r.core, va := va,
                      op := .nontemporal s.ids data (g.getD ⟨0, 0, 0⟩), edition := (s.core r.core).edition, task := t.task,
                      start := t.startedAt })).fresh
  | .send entry m =>
    let edition := (s.core r.core).edition
    let (s1, x) := s.number (.core r.core) t.part t.ctx edition (some entry) { m with edition := edition.setWidth 16 }
    s1.updCore r.core fun c =>
      { c with outbound := put entry { fill := (look { fill := 0, ready := none } entry c.outbound).fill, ready := some x } c.outbound }
  | .spawn _ target (some slot) l => s.emitNet (8 + travelCores r.core target) (.spawnChildStart target slot l)
  | .spawn _ _ none _ => s
  | .command engine words x =>
    (s.updEngine q engine fun e => { e with reserved := put (r.core % 4) (look 0 (r.core % 4) e.reserved - 1) e.reserved }).enqueue
      q engine (r.core % 4) words x 0
  | .fork off d =>
    let v := BitVec.ofNat 64 (Bytes.toNat (memLoad (s.core r.core).store off 8)) + 1
    ((((s.writeStore r.core off (Bytes.ofNat 8 v.toNat)).updCore r.core fun c =>
      { c with dequeReserved := c.dequeReserved - 1, deque := c.deque ++ [d] }).updTask d.task fun k =>
        { k with live := k.live + 1 })).offerQuire r.core
  | .decrement core off =>
    if core = r.core then
      let v := BitVec.ofNat 64 (Bytes.toNat (memLoad (s.core r.core).store off 8)) - 1
      s.writeStore r.core off (Bytes.ofNat 8 v.toNat)
    else s.emitOrdered (.posted r.core core) (10 + travelCores r.core core) (.joinDecrementApplied core off)
  | .csr sel val =>
    let s1 := if sel = 0x010 then s.updCore r.core fun c => { c with maskBy := t.startedAt :: c.maskBy } else s
    match s.csrEvent r sel val with
    | some e => if 0x020 ≤ sel then s1.emitOrdered (.registers (dieOf r.core)) (toBase q) e else s1.emit 0 e
    | none => s1
  | .ctxsw scope val =>
    (s.scopeCores t.part r.core scope).foldl (fun (s : State) c => s.emit (travelCores r.core c) (.ctxreqWrite c val)) s
  | .resume slot =>
    let x : Ref := ⟨r.core, slot⟩
    (s.resumeStrand x).recheckResumed x
  | .sample _ k => s.emitOrdered (.sample r.core k.sampler) (toBase q) (.sampleRequestArrival k)
  | .catIns j e =>
    s.updCore r.core fun c => { c with catReserved := c.catReserved.erase j, catalogue := put j e c.catalogue }
  | .catDel j => s.updCore r.core fun c => { c with catalogue := drop j c.catalogue }
  | .give _ g =>
    let c := s.core r.core
    let entry := ((c.catalogue.find? fun e => e.1 == g.srcIndex).map (·.2)).getD g.entry
    (s.updCore r.core fun c => { c with catalogue := drop g.srcIndex c.catalogue, givesOut := c.givesOut ++ [g.tag] }).emitNet
      (10 + travelCores r.core g.dst) (.giveInstall { g with entry := entry, view := c.seen, edition := c.edition })
  | .solicit _ part slot k => s.broadcastCensus part slot k (s.core r.core).edition
  | .collect c => s.collected r c
  | .maintain kind base len =>
    (s.updStrand r fun t => { t with unackedMaint := t.unackedMaint + 1 }).emitNet (if kind = 1 then 0 else toBase q)
      (.homeRequest { who := r, part := t.part, ctx := t.ctx, priv := privOf t.regs.flags, die := dieOf r.core, va := base,
                      op := .maintain kind base.toNat len.toNat, edition := (s.core r.core).edition, task := t.task,
                      start := t.startedAt })
  | .endStrand => s.endStrandNow r
  | .joinEnd =>
    match t.frames with
    | f :: rest =>
      s.updStrand r fun t =>
        { t.withFlags { t.regs with s := f.s, flags := f.flags, pc := f.pc } with
          frames := rest, counter := f.counter, wait := .untilCycle (s.now + 1) }
    | [] => s.endStrandNow r
  | .migrate a =>
    let dest := if inAperture a.toNat then quireOf (if apSel a.toNat = 0xFFF then r.core else apSel a.toNat) else s.homeOf t.part a.toNat
    let pkg := if inAperture a.toNat then s.pkgid else s.homePackage t.part a.toNat
    let s1 := (s.vacate r).leaveTask t.task
    if pkg = s.pkgid then s1.emitNet (10 + travel q dest) (.migrArrival dest (s.migrant r)) else s1.toFabric (.migrant pkg t.part (s.migrantLine r))
  | .dropReply => s.updTask t.task fun k => { k with replied := true }

end State

/-! ## Grants and commits (R156) -/

/-- A store of a chunk waits for its home's check (R422). -/
def Chunk.unchecked (c : Chunk) : Bool :=
  c.held.any fun h => match h with | .store _ _ none | .nontemporal _ _ none => true | _ => false

/-- A request the arbiter may grant: the strand's first chunk not granted, with every window's result known, its effect accepted (R191), and
its stores checked (R422). -/
def State.grantable (s : State) (q : GrantReq) : Bool :=
  let t := s.strand q.who
  (match t.closed.find? fun c => c.granted.isNone with | some c => c.id == q.chunk && !c.unchecked | none => false) &&
    !(t.windows.any fun w => w.chunk == q.chunk && !w.landable s.now)

/-- The arbiter takes an older request first, and of one cycle that of the lower core (R331, R333). -/
def GrantReq.before (a b : GrantReq) : Bool :=
  decide (a.since < b.since) || (a.since == b.since && (decide (a.who.core < b.who.core) || (a.who.core == b.who.core && decide (a.who.slot < b.who.slot))))

/-- The first of some requests in the arbiter's order. -/
def firstRequest : List GrantReq → Option GrantReq
  | [] => none
  | q :: r =>
    match firstRequest r with
    | none => some q
    | some p => if p.before q then some p else some q

/-- COMMIT_GRANT (R156, R333): one grant in a cycle; its signature squashes what has read those sectors. -/
def execCommitGrant (s : State) : Result :=
  .next <|
    match s.ev with
    | .commitGrant d =>
      let x := s.die d
      if x.lastGrant = some s.now then (if x.requests.isEmpty then s else s.emit 1 (.commitGrant d))
      else
        let live := x.requests.filter fun q => s.occupied q.who && (s.strand q.who).closed.any fun c => c.id == q.chunk
        match firstRequest (live.filter fun q => s.grantable q) with
        | none =>
          let s1 := s.updDie d fun x => { x with requests := live }
          if live.isEmpty then s1 else s1.emit 1 (.commitGrant d)
        | some q =>
          let r := q.who
          let id := q.chunk
          let sig := ((s.strand r).closed.find? fun c => c.id == id).map (·.writes)
          let s1 := s.updDie d fun x => { x with requests := live.erase q, lastGrant := some s.now }
          let s2 := s1.updStrand r fun t =>
            { t with closed := t.closed.map fun c => if c.id == id then { c with granted := some (s.now + Config.commitCycles) } else c }
          let s3 := (s2.squashWhere (sig.getD []) true fun x => dieOf x.core == d && x != r).emit Config.commitCycles (.commitTakesEffect r id)
          if (s3.die d).requests.isEmpty then s3 else s3.emit 1 (.commitGrant d)
    | _ => s

/-- A chunk's commit (R156, R160): the held effects in program order, then the write signature; a fault that waited
for the strand's chunks is reported (R394). A core with a marker switches edition first (R294). -/
def State.commitChunk (s : State) (r : Ref) (c : Chunk) : State :=
  let s0 := match (s.core r.core).trigger with
    | some n => s.switchUnit (s.strand r).part (.core r.core) n
    | none => s
  let s1 := (s0.updStrand r fun t =>
    { t.landWhere fun w => w.chunk == c.id with closed := t.closed.filter (fun x => x.id != c.id) }).updCore r.core fun k =>
      k.settleTable s.now
  let s2 := (c.held.foldl (fun (s : State) h => s.applyHeld r h) s1).broadcast (dieOf r.core) r c.writes
  let t := s2.strand r
  if t.fault.isSome && t.wait == .faulting && t.closed.isEmpty && s2.occupied r then s2.emit 0 (.strandFaultReport r) else s2

/-- COMMIT_TAKES_EFFECT (R156). -/
def execCommitTakesEffect (s : State) : Result :=
  .next <|
    match s.ev with
    | .commitTakesEffect r id =>
      match (s.strand r).closed.find? fun c => c.id == id && c.granted == some s.now with
      | none => s
      | some c => s.commitChunk r c
    | _ => s

/-- The writes of a page that wait at their homes are performed, in the order they came (R164, R296). -/
def State.performWaiting (s : State) (part va size : Nat) : State :=
  let ws := s.pageWrites part va size
  ws.foldl (fun (s : State) w =>
      if w.kind == .unit then s.unitPerform w
      else s.writeNow w (travel (s.homeOf part w.va.toNat) (quireOf w.who.core)) fun c => w.kind == .write && dieOf c == dieOf w.who.core)
    { s with cowQueue := s.cowQueue.filter fun w => !ws.contains w }

/-- COW_COPY (R296, R382, R384): the page is copied, or a write through a leaf at level 3 aborts the edition, and the writes that wait are
performed; while the pool is empty they wait on. A page that has lost its leaf takes them under the translation they were checked under. -/
def execCowCopy (s : State) : Result :=
  .next <|
    match s.ev with
    | .cowCopy w =>
      match s.pageLeaf w.part w.ctx w.va.toNat with
      | none => s.performWaiting w.part w.va.toNat (max 4096 w.g.size)
      | some (l, _) =>
        match s.cowCase w.part w.ctx w.va.toNat w.edition w.g.rights with
        | .copy l pte =>
          match s.copyPage w.part w.ctx w.va.toNat l pte with
          | (s1, true) => s1.performWaiting w.part w.va.toNat l.size
          | (s1, false) => s1.emit 1024 (.cowPoolRetry w)
        | .level3 => (s.abortEdition w.part 5 (BitVec.ofNat 64 (w.va.toNat / l.size * l.size))).performWaiting w.part w.va.toNat l.size
        | _ => s.performWaiting w.part w.va.toNat l.size
    | _ => s

/-- COW_POOL_RETRY (R384). -/
def execCowPoolRetry (s : State) : Result :=
  .next <| match s.ev with | .cowPoolRetry w => s.emit 0 (.cowCopy w) | _ => s

/-- The dirty lines of other packages in a range go back to their owners, whose acknowledgements the strand waits for (R255). -/
def State.maintainPeers (s : State) (r : HomeReq) (a n : Nat) : State :=
  ((s.linesOver r.part a n).filter fun l => l.peer.isSome && !l.dirty.isEmpty).foldl (fun (s : State) l =>
    let mine := s.occupied r.who && (s.strand r.who).startedAt == r.start
    (if mine then (s.l2Keep { l with dirty := [] }).updStrand r.who fun t => { t with unackedMaint := t.unackedMaint + 1 }
     else s.l2Keep { l with dirty := [] }).toFabric
      (.writeBack (s.homePackage l.part (l.line * 256)) l.part l.line (dirtyBytes l) (some (r.who, .maintenance, r.task, r.start)))) s

/-- Maintenance of a range (R255, R256): `inv.home` follows the stores that were committed before it. -/
def State.serveMaintain (s : State) (r : HomeReq) (kind a n : Nat) : State :=
  if kind = 2 && s.storesOver r.part a n then s.emit 1 (.homeRequest r)
  else ((if kind = 1 then s else s.maintainPeers r a n).maintainNow r.who.core r.part kind a n).emitNet (if kind = 1 then 0 else toBase (quireOf r.who.core))
    (.homeAcknowledgement r.who .maintenance r.task r.start)

/-- A request that another package has sent. -/
def foreignRequest (r : HomeReq) : Bool :=
  r.pkg.isSome || (match r.op with | .peer _ _ _ | .peerFault _ | .recall | .returned _ | .moved _ | .tinv _ _ => true | _ => false)

/-- HOME_REQUEST (R133): an access at its home, maintenance, or what packages say to each other (R138, R139, R151, R226), which a partition takes only
where it lists this package and runs (R350). -/
def execHomeRequest (s : State) : Result :=
  .next <|
    match s.ev with
    | .homeRequest r =>
      if foreignRequest r && !s.takesPackets r.part then s else
      match r.op with
      | .moved data => s.lineArrived r data
      | .tinv kind ack => s.tinvHere r kind ack
      | .peer owned data g => s.peerGranted r owned data g
      | .peerFault f => s.peerRefused r f
      | .recall => s.recalled r
      | .returned data => s.returned r data
      | .maintain kind a n => s.serveMaintain r kind a n
      | .store data _ => (if r.pkg.isNone then s.leaveSpine r data else s).serve r
      | _ => s.serve r
    | _ => s

namespace State

/-- A line's answer reaches the loads that wait for it behind their windows (R191); those of strands that `f` does not name ask for themselves. -/
def givePending (s : State) (core part line : Nat) (x : Received) (f : Nat → Bool) : State :=
  s.updCore core fun c => { c with slots := c.slots.map fun e => (e.1, if e.2.part ≠ part then e.2 else { e.2 with
    pending := e.2.pending.map fun p =>
      if p.line = line && !p.ready then { p with ready := true, got := if f e.1 then x :: p.got else p.got } else p }) }

/-- A line's answer reaches what waits for it in a core (R130, R311): strands asleep until its fill, and loads behind their windows. -/
def giveLine (s : State) (core part line : Nat) (x : Received) : State :=
  let old (y : Received) : Bool := match y with | .line a _ _ => a.toNat / 256 == line | _ => false
  ((s.strandsWhere fun r t => r.core == core && t.part == part && t.wait == .asleep (.fill line)).foldl (fun (s : State) r =>
    (s.updStrand r fun t => { t with received := x :: t.received.filter fun y => !old y }).wake r 0) s).givePending core part line x fun _ => true

/-- The fill of a line has come back. -/
def fillDone (s : State) (core part line : Nat) : State :=
  s.updCore core fun c => { c with fills := c.fills.filter fun k => k != (part, line) }

/-- Copies of constants that wait for a line (R81). -/
def copiersOf (s : State) (core part line : Nat) : List Ref :=
  s.strandsWhere fun r t => r.core == core && t.part == part && t.copy == .asked && windowVa t / 256 == line

/-- The chunk of a strand with an unchecked store to a line. -/
def uncheckedChunk (t : Strand) (line : Nat) : Option Nat :=
  (t.closed ++ [t.opened]).findIdx? fun c => c.held.any fun h =>
    match h with | .store va _ none | .nontemporal va _ none => va.toNat / 256 == line | _ => false

/-- A chunk is issued again, knowing what a home has answered (R394). This is no squash that R158 counts. -/
def reissue (s : State) (r : Ref) (j : Nat) (xs : List Received) : State :=
  let t := s.strand r
  let n := ((t.closed ++ [t.opened])[j]?.map (·.squashes)).getD 0
  (s.squashFrom r j).updStrand r fun u => { u with known := xs ++ u.known, solo := t.solo, opened := { u.opened with squashes := n } }

/-- A store cannot be performed as its chunk holds it: the chunk is issued again, and finds what the home has answered (R394, R422). -/
def uncheck (s : State) (r : Ref) (line : Nat) (x : Received) : State :=
  let t := s.strand r
  match uncheckedChunk t line with
  | none => s
  | some j => s.reissue r j [x]

/-- The home's check allows the stores of a strand to a line (R422): they keep what it was checked under. -/
def grantStores (line : Nat) (g : Grant) (t : Strand) : Strand :=
  let f (c : Chunk) : Chunk := { c with held := c.held.map fun h =>
    match h with
    | .store va data none => if va.toNat / 256 = line then .store va data (some g) else h
    | .nontemporal va data none => if va.toNat / 256 = line then .nontemporal va data (some g) else h
    | h => h }
  { t with opened := f t.opened, closed := t.closed.map f }

/-- The answer to a store's check (R422): a page with O = 1 has the bundle issued again (R148). -/
def checkAnswered (s : State) (r : Ref) (part line : Nat) (va : Word) (g : Grant) : State :=
  if strong g.rights then s.uncheck r line (.line va [] g)
  else
    (s.updStrand r (grantStores line g)).updCore r.core fun c =>
      { c with l1 := c.l1.map fun l => if l.part == part && l.line == line && l.g.size == 0 then { l with g := g } else l }

/-- A line's bytes reach a core (R130): they fill the sectors that are missing, or all where the old copy awaits its invalidation. -/
def mergeLine (s : State) (core part line : Nat) (b : List Byte) (g : Grant) : State :=
  if b.isEmpty || noL1 (s.core core) || setIsDirty (s.core core) part line then s
  else
    let data := match (s.core core).l1.find? fun l => l.part == part && l.line == line && !l.pending with
      | some l => l.valid.foldl (fun m k => memStore (memZero m (32 * k) 32) (32 * k) (memLoad l.data (32 * k) 32)) (memStore [] 0 b)
      | none => memStore [] 0 b
    s.fillL1 core { part := part, line := line, way := 0, data := data, valid := List.range 8, g := g, pending := false }

end State

/-- CACHE_FILL_RETURN (R130, R311, R418, R422): the line's sectors are valid in the L1, and what waited for them goes on; or a store's check is
answered. The bytes are those the home holds when the answer arrives; where the line has left it meanwhile, it is asked for again. Where dirty lines fill the set meanwhile, the bundle waits as R132
says. -/
def execCacheFillReturn (s : State) : Result :=
  .next <|
    match s.ev with
    | .cacheFillReturn r part start res =>
      let mine := s.occupied r && (s.strand r).startedAt == start
      let asked := s.occupied r && ((s.strand r).closed ++ [(s.strand r).opened]).any fun c => c.id == start
      match res with
      | .checked va g => if asked then s.checkAnswered r part (va.toNat / 256) va g else s
      | .fault .store f => if asked then s.uncheck r (f.va.toNat / 256) (.fault f) else s
      | .fault _ f =>
        let line := f.va.toNat / 256
        let s1 := s.fillDone r.core part line
        let s2 := (s1.copiersOf r.core part line).foldl (fun (s : State) x =>
          s.updStrand x fun t => { t with copy := if x == r then .faulted { f with info := 0 } else .wanted }) s1
        ((s2.strandsWhere fun x t => x.core == r.core && t.part == part && t.wait == .asleep (.fill line)).foldl (fun (s : State) x =>
          (if x == r && mine then s.updStrand x fun t => { t with received := .fault f :: t.received } else s).wake x 0) s2).givePending r.core part
          line (.fault f) fun slot => mine && slot == r.slot
      | .data va bytes g =>
        let line := va.toNat / 256
        let here := (s.l2Find part line).filter fun l => l.g.frame == g.frame
        if !bytes.isEmpty && here.isNone then s.refill r.core part line
        else
        let b :=
          match here with
          | some l => if bytes.isEmpty then bytes else s.dieBytes (dieOf r.core) part line (memLoad l.data 0 256)
          | none => bytes
        let s1 := (s.fillDone r.core part line).mergeLine r.core part line b g
        let s2 := (s1.copiersOf r.core part line).foldl (fun (s : State) x =>
          let t := s.strand x
          if !rightsOk .load (privOf t.regs.flags) g.rights then s.updStrand x fun t => { t with copy := .wanted }
          else if b.isEmpty then s.copyFault x .strongMisuse (State.windowVa t)
          else s.copied x (State.overlay (State.ownCached t) (line * 256) b)) s1
        if !b.isEmpty && State.setIsDirty (s.core r.core) part line then
          ((s2.strandsWhere fun x t => x.core == r.core && t.part == part && t.wait == .asleep (.fill line)).foldl (fun s x => s.wake x 0) s2).givePending
            r.core part line (.line va b g) fun _ => true
        else s2.giveLine r.core part line (.line va b g)
    | _ => s

/-- INVALIDATION_ARRIVAL (R423, R288). -/
def execInvalidationArrival (s : State) : Result :=
  .next <| match s.ev with | .invalidationArrival core part line => s.invalidated core part line | _ => s

/-- PEER_OWNED_REQUEST (R139, R152): every other holder is invalidated, and once they have acknowledged the package is the line's one holder. It waits
behind the requests for the line and its lock, and goes on to a home that has moved. -/
def execPeerOwnedRequest (s : State) : Result :=
  .next <|
    match s.ev with
    | .peerOwnedRequest part line pkg =>
      let va := line * 256
      let drop_ (e : PodEntry) : PodEntry :=
        if e.part == part && e.line == line && !e.owned then { e with holders := e.holders.filter (· != pkg) } else e
      let s0 : State := { s with podDir := s.podDir.map drop_ }
      let busy := match s0.podEntry part line with
        | some e => (e.holders != [] && e.holders != [pkg]) || decide (0 < e.acks)
        | none => false
      if !s.takesPackets part then s
      else if s.homePackage part va ≠ s.pkgid then s.toFabric (.own (s.homePackage part va) part line pkg)
      else if s.lockedLine part va || s.lineWaits part line then s.emit 4 s.ev
      else if busy then (s0.podRecall part line none).emit 4 s.ev
      else
        let s1 := match s0.l2Find part line with | some l => s0.writeBack l | none => s0
        match s1.lineLeaf part (line * 256) with
        | none => s1.toFabric (.refused pkg part line { code := .notPresent, va := BitVec.ofNat 64 (line * 256) })
        | some leaf =>
          let g : Grant := { rights := leaf.rights, frame := leaf.pa / 256 * 256, size := leaf.size }
          let data := match s1.l2Find part line with | some l => memLoad l.data 0 256 | none => memLoad s1.hbm g.frame 256
          let s2 := (s1.invalidateHolders part line fun _ => false).1
          { s2 with podDir := { part := part, line := line, holders := [pkg], owned := true, acks := 0 } ::
                      s2.podDir.filter fun e => !(e.part == part && e.line == line) }.toFabric (.grant pkg part line true data g)
    | _ => s

/-- HMSET_SLICE_ADOPT (R137, R227): the slice writes back and drops the lines that the new value homes elsewhere; or the base die receives a
strand's `hmset`. -/
def execHmsetSliceAdopt (s : State) : Result :=
  .next <|
    match s.ev with
    | .hmsetSliceAdopt part _ val (some r) => s.hmsetReceive part r val
    | .hmsetSliceAdopt part slice val none =>
      let old := (s.partition part).hmask
      let gone := s.l2.filter fun l => l.part == part && s.homeUnder part (l.line * 256) old == slice &&
        s.homeUnder part (l.line * 256) val != slice
      let s1 := gone.foldl (fun (s : State) l => (s.writeBack l).l2Drop l.part l.line) s
      let left := (s1.partition part).adoptLeft.erase slice
      let s2 := s1.updPartition part fun p => { p with adoptLeft := left }
      if left.isEmpty then
        match (s2.partition part).hmsets with
        | [] => s2
        | (r, v) :: rest =>
          let t := s2.strand r
          ((s2.updPartition part fun p => { p with hmask := v, hmsets := rest }).emitNet (toBase slice + toBase (quireOf r.core))
            (.homeAcknowledgement r .maintenance t.task t.startedAt)).hmsetSend part
      else s2
    | _ => s

/-- The frame of a line at a die that is its home: the one its walk cache holds, else the one that the table names (R151; log 54). -/
def State.frameAt (s : State) (die part va : Nat) : Option Nat :=
  ((List.range 64).findSome? fun c =>
    (State.probe (s.die die) { part := part, ctx := c, va := va, acc := .load, priv := true }).bind fun e =>
      if e.pte.getLsbD 1 then none else some (leafPa e.level e.pte va)).orElse fun _ => (s.lineLeaf part va).map (·.pa)

/-- The next line of a move is copied (R151): from the L2 or from memory, to another package or to the frame that the translation prepared for
the new home names (log 54). -/
def State.copyMoving (s : State) (part n base index : Nat) : State :=
  let line := base / 256 + index
  let s1 := match s.l2Find part line with | some l => s.writeBack l | none => s
  let pkg := Bits.get (look 0 n (s.partition part).hmapL).toNat 47 38
  let leaf := s1.lineLeaf part (line * 256)
  let from_ := s1.frameAt (s1.homeOf part (line * 256) / 256) part (line * 256)
  let data := match s1.l2Find part line, from_ with
    | some l, _ => memLoad l.data 0 256
    | none, some pa => memLoad s1.hbm (pa / 256 * 256) 256
    | none, none => []
  if pkg = s.pkgid then
    let s2 := match leaf with
      | some x =>
        (s1.l2Drop part line).l2Put
          { part := part, line := line, data := memStore [] 0 data, valid := List.range 8, dirty := List.range 256,
            g := { rights := x.rights, frame := x.pa / 256 * 256, size := x.size }, entryPa := some x.entryPa, peer := none }
      | none => s1
    s2.emitNet 80 (.moveLineAck part n index)
  else (s1.l2Drop part line).toFabric (.line pkg part line data)

/-- HOME_MOVE_START (R151). -/
def execHomeMoveStart (s : State) : Result :=
  .next <|
    match s.ev with
    | .homeMoveStart part n base limit =>
      let s1 := s.updPartition part fun p =>
        { p with hmapB := put n (base &&& 0xFFFFFFFFF) p.hmapB, hmapL := put n (limit ||| 0x4000000000000000) p.hmapL }
      let b := Bits.get base.toNat 35 0 * 2 ^ 21
      { s1 with moves := { part := part, n := n, base := b, index := 0 } :: s1.moves.filter fun m => !(m.part == part && m.n == n) }.copyMoving
        part n b 0
    | _ => s

/-- MOVE_LINE_ACK (R151): the next line, or the entry names the new home and context 0 is told. -/
def execMoveLineAck (s : State) : Result :=
  .next <|
    match s.ev with
    | .moveLineAck part n index =>
      match s.moves.find? fun m => m.part == part && m.n == n && m.index == index with
      | none => s
      | some m =>
        let l := (look 0 n (s.partition part).hmapL).toNat
        let lines := (Bits.get l 35 0 + 1 - m.base / 2 ^ 21) * 8192
        let rest := s.moves.filter fun x => x != m
        let line := m.base / 256 + index
        if index + 1 < lines then
          ({ s with moves := { m with index := index + 1 } :: rest }.copyMoving part n m.base (index + 1)).wakeLine part line
        else
          let l1 := Bits.get l 47 0 + Bits.get l 37 36 * 2 ^ 48 + Bits.get l 47 38 * 2 ^ 50 + Bits.get l 61 60 * 2 ^ 60 + 2 ^ 63 * Bits.get l 63 63
          (({ s with moves := rest }.updPartition part fun p => { p with hmapL := put n (BitVec.ofNat 64 l1) p.hmapL }).wakeLine part line).unitMessage
            0x200 part 0
            { cls := 0, type := 0, flags := 0, key := 0, score := 0, sstrand := 0xFE, plen := 1, chseq := 0, edition := 0, pcx := 0,
              payload := [BitVec.ofNat 64 n], node := 0 }
    | _ => s

/-! ## Remote accesses (R127-R129, R411, R412) -/

/-- Why a target refuses an access of a partition to its bytes (R126, R129): the cause of R404. -/
def State.targetRefuses (s : State) (target part : Nat) (offs : List Nat) (rd wr : Bool) : Option Nat :=
  if s.owner (quireOf target) ≠ some part then some 2
  else if !(offs.all fun o => inScratch (s.core target) o 1) then some 1
  else if !(offs.all fun o => protectionOk (s.core target) (s.owner (quireOf target)) part (o / 32) true rd wr) then some 0
  else none

/-- What a target answers for one element of a remote load (R121, R126, R127): PROTECTION where it refuses, and APERTURE of a load that has waited
on a way which has left scratch (R414). -/
def State.remoteElement (s : State) (r : RemoteLoad) (va : Nat) : RemoteAnswer :=
  let off := apOff va
  match s.targetRefuses r.target r.part ((List.range (windowBytes (apWindow va) r.size)).map (off + ·)) true false with
  | some cause => .fault { code := if r.waited && cause = 1 then .aperture else .protection }
  | none =>
    let c := s.core r.target
    .value (readWindow (fun o n => memLoad c.store o n) (c.tableAt s.now) r.scaleOff (apWindow va) off (apNib va) r.size)

/-- REMOTE_LOAD_AT_TARGET (R122, R127): the elements are read at one moment; through window 7 that is when every sector that those not refused
touch is full. -/
def execRemoteLoadAtTarget (s : State) : Result :=
  .next <|
    match s.ev with
    | .remoteLoadAtTarget r =>
      let vals := r.elems.map fun e => (e.1, e.2, s.remoteElement r e.2.toNat)
      let full := vals.all fun v => v.2.2.isFault || (sectorsOf (apOff v.2.1.toNat) r.size).all fun a => (s.core r.target).full.contains (a / 32)
      if r.wait && !full then s.emit 1 (.remoteLoadAtTarget { r with waited := true })
      else
        let d := 4 + travelCores r.target r.who.core + s.draw.toNat
        vals.foldl (fun (s : State) v => s.emit d (.remoteResult r.who v.1 v.2.1 v.2.2)) s.drawn
    | _ => s

/-- REMOTE_ATOMIC_AT_TARGET (R127). -/
def execRemoteAtomicAtTarget (s : State) : Result :=
  .next <|
    match s.ev with
    | .remoteAtomicAtTarget r =>
      let off := apOff r.va.toNat
      let back := 4 + travelCores r.target r.who.core
      match s.targetRefuses r.target r.part ((List.range r.size).map (off + ·)) true true with
      | some _ => s.emitNet back (.remoteResult r.who r.lane r.va (.fault { code := .protection }))
      | none =>
        let old := memLoad (s.core r.target).store off r.size
        let new := atomNew r.fn r.size (BitVec.ofNat 64 (Bytes.toNat old)) r.val r.cmp
        ((s.writeStore r.target off (Bytes.ofNat r.size new.toNat)).remoteWritten r.target r.part [off]).emitNet back
          (.remoteResult r.who r.lane r.va (.value (atomOld r.size old)))
    | _ => s

/-- REMOTE_RESULT (R127): the element reaches its strand, which goes on when the last has; a refusal is a fault of its bundle. A
word of a constant window joins its copy (R81). -/
def execRemoteResult (s : State) : Result :=
  .next <|
    match s.ev with
    | .remoteResult r lane va res =>
      let asked (y : Received) : Bool := match y with | .asked l a | .sent l a => l == lane && a == va | _ => false
      if 64 ≤ lane then s.copyWord r lane va res
      else if (s.strand r).received.any asked then
        let x : Received := match res with
          | .value v => .element lane va v
          | .fault f => .fault { f with va := va }
        let s1 := s.updStrand r fun t => { t with received := x :: t.received.filter fun y => !asked y }
        let more := (s1.strand r).received.any fun y => match y with | .asked _ _ | .sent _ _ => true | _ => false
        if (s.strand r).wait = .asleep .remote && !more then s1.wake r 0 else s1
      else s
    | _ => s

/-- Bytes by address as runs of consecutive addresses. -/
def runsOf : List (Nat × Byte) → List (Nat × List Byte)
  | [] => []
  | (a, b) :: r =>
    match runsOf r with
    | (c, bs) :: rest => if c = a + 1 then (a, b :: bs) :: rest else (a, [b]) :: (c, bs) :: rest
    | [] => [(a, [b])]

/-- Where in its target's store the bytes of a posted store begin to count: a reply's at the line of its strand (R304). -/
def State.replyBase (s : State) (p : PostedStore) : Nat :=
  match p.reply with | some (slot, _) => State.aslotMsg (s.core p.target).aslot + 256 * slot | none => 0

/-- POSTED_STORE_APPLY (R128, R161, R304): applied whole at the target and acknowledged, or refused. -/
def execPostedStoreApply (s : State) : Result :=
  .next <|
    match s.ev with
    | .postedStoreApply p =>
      let back := travelCores p.target p.src
      let ack (s : State) : State := match p.idx with | some n => s.emit back (.postedStoreAck p.src n) | none => s
      let c := s.core p.target
      let base := s.replyBase p
      let stale := match p.reply with
        | some (slot, serial) => !has slot c.slots || look 0 slot c.serials != serial
        | none => false
      if stale then ack s
      else
        let data := p.data.map fun b => (base + b.1, b.2)
        match (if p.reply.isSome then (if s.owner (quireOf p.target) = some p.part then none else some 2)
               else s.targetRefuses p.target p.part (data.map (·.1)) false true) with
        | some cause =>
          match p.idx with
          | some n => s.emitNet back (.remoteRefused p.src n cause)
          | none => s
        | none =>
          let sectors := (data.map fun b => b.1 / 32).eraseDups
          let s1 := ((runsOf data).foldl (fun (s : State) x => s.writeStore p.target x.1 x.2) s).remoteWritten p.target p.part (sectors.map (32 * ·))
          ack (if p.setFull then s1.setFull p.target sectors [] else s1)
    | _ => s

/-- POSTED_STORE_ACK (R71, R129, R335). -/
def execPostedStoreAck (s : State) : Result :=
  .next <|
    match s.ev with
    | .postedStoreAck core n =>
      let s1 := s.updCore core fun c => { c with journal := drop n c.journal }
      match (s.core core).journal.find? fun e => e.1 == n with
      | some (_, e) => s1.nodeEnds e.task
      | none => s1
    | _ => s

/-- REMOTE_REFUSED (R411, R412): the journal entry is held until the report, an ASYNC fault of the strand that stored, or an event record when it has left. -/
def execRemoteRefused (s : State) : Result :=
  .next <|
    match s.ev with
    | .remoteRefused core n cause =>
      match (s.core core).journal.find? fun e => e.1 == n with
      | none => s
      | some (_, e) =>
        let r : Ref := ⟨core, e.slot⟩
        let t := s.strand r
        let info := BitVec.ofNat 64 (e.width % 256 + 256 * cause)
        if s.occupied r && t.startedAt = e.startedAt then
          let s1 := (s.updCore core fun c => { c with journal := put n { e with refused := true } c.journal }).nodeEnds e.task
          let s2 := s1.updStrand r fun t =>
            { t with asyncFaults := t.asyncFaults ++ [{ code := .remoteRefused, va := e.va, info := info, isWrite := true, async := true, jidx := n }] }
          match t.wait with
          | .asleep (.barrier _ _) => s2
          | .asleep _ => if t.inFlight then s2 else s2.wake r 0
          | _ => s2
        else
          let part := match s.owner (quireOf core) with | some p => p | none => 0
          ((s.updCore core fun c => { c with journal := drop n c.journal }).nodeEnds e.task).refusalEvent core part (s.task e.task).ctx e.va info
    | _ => s

/-- LDF_WAKE (R246): the sleeper's access issues again. -/
def execLdfWake (s : State) : Result :=
  .next <|
    match s.ev with
    | .ldfWake r => match (s.strand r).wait with | .asleep (.sector _) => s.wake r 0 | _ => s
    | _ => s

/-- HOME_ACKNOWLEDGEMENT (R166, R173, R255, R71). -/
def execHomeAcknowledgement (s : State) : Result :=
  .next <|
    match s.ev with
    | .homeAcknowledgement r kind task start =>
      let mine := s.occupied r && (s.strand r).startedAt == start
      match kind with
      | .write =>
        let s1 := if mine then s.updStrand r fun t => { t with unackedWrites := t.unackedWrites - 1 } else s
        (s1.updTask task fun k => { k with unacked := k.unacked - 1 }).nodeEnds task
      | .nontemporal n =>
        let done (w : Nat × Word × List Byte) : Bool := w.1 == n
        let s1 := if mine then s.updStrand r fun t =>
            { t with ntOut := t.ntOut.filter fun w => !done w
                     ntDone := ((t.ntOut.filter done).map fun w => (w.2.1.toNat, w.2.2.length)) ++ t.ntDone
                     unackedStores := t.unackedStores - (if (t.ntOut.filter done).any fun w => !w.2.2.isEmpty then 1 else 0) }
          else s
        let lines := ((s.strand r).ntOut.filter done).map fun w => w.2.1.toNat / 256
        let part := (s.strand r).part
        let s2 := if mine then (s1.leaveL1 r.core fun l => l.pending && l.part == part && lines.contains l.line).updCore r.core (State.forgetLines part lines) else s1
        (s2.updTask task fun k => { k with unacked := k.unacked - 1, nontemporal := k.nontemporal - 1 }).nodeEnds task
      | .pod => if mine then s.updStrand r fun t => { t with unackedPod := t.unackedPod - 1 } else s
      | .unit => s
      | .maintenance => if mine then s.updStrand r fun t => { t with unackedMaint := t.unackedMaint - 1 } else s
    | _ => s

/-- STRAND_FAULT_REPORT (R394, R403): once every older chunk has committed, the exception is taken. -/
def execStrandFaultReport (s : State) : Result :=
  .next <|
    match s.ev with
    | .strandFaultReport r =>
      let t := s.strand r
      match t.fault with
      | some f => if s.occupied r && t.wait = .faulting && t.closed.isEmpty then s.takeException r f else s
      | none => s
    | _ => s

end Sys2Proof.Machine
end

