-- ==== Sys2Proof/Machine/Graphs.lean ====
section
/-! DEFINITION. Host ports (R46-R48, R345, R372), the master distributor and the command processor (R66-R71, R373), the
watchdogs (R72, R377), and power (R73, R362). -/

namespace Sys2Proof.Machine

namespace State

/-! ## Ports -/

def port (s : State) (n : Nat) : Port := look Port.reset n s.ports
def updPort (s : State) (n : Nat) (f : Port → Port) : State := { s with ports := put n (f (s.port n)) s.ports }

def running (s : State) (part : Nat) : Bool := (s.partition part).pctl == 1

/-- Fields of PORTBIND (R47). -/
def portEn (p : Port) : Bool := p.bind.getLsbD 19
def portMode (v : Word) : Nat := Bits.get v.toNat 17 16
def portCtx (p : Port) : Nat := Bits.get p.bind.toNat 25 20

/-- How many lines a port has sent since its partition started: KMODE 2's sequence number. DEDUCED (log 57): the home whose channel numbers the
line depends on the key, so of the numbers of the port's channels the key takes their sum, which is the channel's own number where the
partition has one home, and which no two lines share. -/
def portSent (s : State) (n : Nat) : Nat :=
  (s.chseq.filter fun c => c.1.1 == Sender.port n).foldl (fun k c => k + c.2) 0

/-- The message a committed line becomes (R26, R27, R47). DESIGN CHOICE (log 88): only `send` and `reply.msg` check FLAGS [7:4] (R214); of a line
with reserved flags set the port clears them and sends it. -/
def portMessage (n : Nat) (p : Port) (seq part : Nat) (edition : W32) (bytes : List Byte) : Msg :=
  let m := Msg.ofLine bytes
  let key : BitVec 128 :=
    match portMode p.bind with
    | 0 => m.key
    | 1 => p.key1 ++ p.key0
    | _ => BitVec.ofNat 128 (n + 65536 * (seq % 2 ^ 32))
  { m with
    cls := p.bind.setWidth 16, key := key, flags := (m.flags &&& 0x08) ||| (if p.bind.getLsbD 18 then 1 else 0)
    score := BitVec.ofNat 16 n, sstrand := 0xFF, edition := edition.setWidth 16, pcx := pcxOf part (portCtx p) 0 }

/-- Bytes of a slot. -/
def slotPut (s : State) (n slot off : Nat) (data : List Byte) : State :=
  s.updPort n fun p => { p with slots := put slot (memStore (look [] slot p.slots) off data) p.slots }

/-- A write of a slot's last sector commits the line (R46): to a slot that is not free, to a port that is disabled, or to one whose
partition does not run it is discarded (R372); in the checkpoint state it is held, and the next slot's may follow (R388). The line leaves for its home as a launch
(R16, R48). -/
def commitLine (s : State) (n vf slot off : Nat) (data : List Byte) : State :=
  let p := s.port n
  match p.owner with
  | none => s
  | some part =>
    let posted := p.posted + p.held.length
    if part ≠ vf || !portEn p || 15 ≤ slot || posted % 15 ≠ slot || 15 ≤ posted - p.accepted || !s.running part then s
    else if s.checkpointing part then s.updPort n fun p => { p with held := p.held ++ [(256 * slot + off, data)] }
    else
      let s1 := s.slotPut n slot off data
      let edition := (s.partition part).edition
      let m := portMessage n p (s.portSent n) part edition (memLoad (look [] slot (s1.port n).slots) 0 256)
      let (s2, cost) := (s1.updPort n fun p => { p with posted := p.posted + 1 }).launchCost part (portCtx p) m 20
      s2.sendMessage (.port n) part (portCtx p) edition cost m

/-- Bytes of a port's window as a host function reads them (R46): zeros in one that does not own the port (R345); POSTED and ACCEPTED in line 15, whose other bytes are reserved; what a message
slot reads as the spec does not say, and each byte is a free value (log 1). -/
def portRead (s : State) (vf n off len : Nat) : State × List Byte :=
  let p := s.port n
  if p.owner ≠ some vf then (s, List.replicate len 0)
  else
    let line15 := Bytes.ofNat 8 p.posted ++ Bytes.ofNat 8 p.accepted
    ({ s with free := s.free + len },
     (List.range len).map fun j =>
       if off + j < 0xF00 then (Config.freeValue (s.free + j)).setWidth 8 else line15.getD (off + j - 0xF00) 0)

end State

/-- PORT_SLOT_WRITE (R46): bytes of one slot; bytes 224 to 255 commit the line. -/
def execPortSlotWrite (s : State) : Result :=
  .next <|
    match s.ev with
    | .portSlotWrite n vf off data =>
      let p := s.port n
      let slot := off / 256
      let o := off % 256
      let d := data.take (256 - o)
      if 15 ≤ slot || !State.portEn p || p.owner ≠ some vf || !s.running vf then s
      else if o + d.length ≤ 224 then s.slotPut n slot o d
      else s.commitLine n vf slot o d
    | _ => s

/-- PORT_LINE_COMMIT (R47): a write that reaches a slot's last sector. -/
def execPortLineCommit (s : State) : Result :=
  .next <|
    match s.ev with
    | .portLineCommit n vf off data => s.commitLine n vf (off / 256) (off % 256) (data.take (256 - off % 256))
    | _ => s

/-- PORTBIND_WRITE (R47, R48, R343). -/
def execPortbindWrite (s : State) : Result :=
  .next <|
    match s.ev with
    | .portbindWrite n vf val =>
      let p := s.port n
      if p.owner ≠ some vf || State.portMode val = 3 then s
      else if State.portEn p then
        s.updPort n fun p => { p with bind := (p.bind &&& ~~~(0x80000 : Word)) ||| (val &&& 0x80000) }
      else if val.getLsbD 19 then s.updPort n fun p => { p with bind := val &&& 0x3FFFFFF, posted := 0, accepted := 0 }
      else s.updPort n fun p => { p with bind := val &&& 0x3FFFFFF }
    | _ => s

/-! ## The master distributor (R66-R68) -/

namespace State

def coresOf (q : Nat) : List Nat := (List.range 4).map (4 * q + ·)

def units64 (n : Nat) : Nat := min 65535 (Bits.ceilDiv n 64)

/-- A quire's record as it stands (R66). -/
def quireReport (s : State) (q : Nat) : QuireRecord :=
  let cs := (coresOf q).map s.core
  let sum (f : Core → Nat) : Nat := cs.foldl (fun n c => n + f c) 0
  let most (f : Core → Nat) : Nat := cs.foldl (fun n c => max n (f c)) 0
  { freeLo := sum fun c => (lowFree c).length
    freeHi := sum fun c => ([12, 13, 14, 15].filter fun n => !has n c.slots).length
    freeAct := sum freeActorSlots
    maxSize := most fun c => if freeActorSlots c = 0 then 0 else aslotSize c.aslot
    fitSize := most fun c => if c.aslotWritten then aslotSize c.aslot else 0
    mxCost := units64 (s.engine q 0).cost
    cpCost := units64 ((s.engine q 1).cost + (s.engine q 2).cost + (s.engine q 3).cost) }

/-- The record of a quire after reset (R66). -/
def idleRecord : QuireRecord := State.quireReport State.reset 0

/-- The highest by a measure, the earliest among equals. -/
def highest (f : Nat → Nat) : List Nat → Option Nat
  | [] => none
  | x :: xs => some (xs.foldl (fun b y => if f b < f y then y else b) x)

/-- Where a launch with no fixed core goes (R68): the core, with the distributor's copy lowered. DESIGN CHOICE (log 88): where no core of the
quire has a free unreserved low slot R68 names none; the task waits at core 4·q. -/
def pickCore (s : State) (part : Nat) : State × Option Nat :=
  let own := s.homeList part
  let lo (q : Nat) : Nat := (s.quireRecord q).freeLo
  match (highest (s.dieSum (·.freeLo)) ((List.range 4).filter fun d => own.any fun q => q / 256 == d)).bind fun d =>
      highest lo (own.filter fun q => q / 256 == d) with
  | none => (s, none)
  | some q =>
    let r := s.quireRecord q
    ({ s with records := put q { r with freeLo := r.freeLo - 1 } s.records },
     some (((coresOf q).find? fun c => (lowStart (s.core c)).isSome).getD (4 * q)))

/-- The cost of a command that would be accepted at a quire (R67). -/
def commandCost (s : State) (q : Nat) (i : Option Instr) : Nat :=
  match i with
  | some (.mma _ c) =>
    let p := precision (s.zpOf q c.n)
    Bits.ceilDiv c.m 32 * Bits.ceilDiv c.nn 32 * Bits.ceilDiv c.k 64 * p.wa * p.wb
  | some (.copy1d _ c) => Bits.ceilDiv c.bytes.toNat 64
  | some (.copy2d _ c) => Bits.ceilDiv (c.width.toNat * c.height.toNat) 64
  | some (.fillCmd _ c) => Bits.ceilDiv c.bytes.toNat 64
  | some (.gather2d _ c) => Bits.ceilDiv (c.count.toNat * c.pw * c.ph * 2 ^ c.esz.toNat) 64
  | some (.gatherCmd _ _) | some (.decodeCmd _ _) => 8
  | _ => 32

/-- The quire an engine command with no fixed quire goes to. -/
def pickQuire (s : State) (part engine : Nat) (i : Option Instr) : State × Option Nat :=
  let cost (q : Nat) : Nat := if engine = 0 then (s.quireRecord q).mxCost else (s.quireRecord q).cpCost
  match s.homeList part with
  | [] => (s, none)
  | q :: qs =>
    let best := qs.foldl (fun b y => if cost y < cost b then y else b) q
    let r := s.quireRecord best
    let n := units64 (s.commandCost best i)
    let r1 := if engine = 0 then { r with mxCost := min 65535 (r.mxCost + n) } else { r with cpCost := min 65535 (r.cpCost + n) }
    ({ s with records := put best r1 s.records }, some best)

end State

/-- FREE_COUNT_REPORT (R66): the records of a die's quires, and the next report. A quire of which the state lists nothing is one after
reset, and one record stands for all of these. -/
def execFreeCountReport (s : State) : Result :=
  .next <|
    match s.ev with
    | .freeCountReport d =>
      let qs := ((s.quires.map (·.1) ++ s.cores.map fun e => quireOf e.1).filter fun q => q / 256 == d).eraseDups
      let rest := s.records.filter fun r => r.1 / 256 != d && r.1 != 1024 + d
      ({ s with records := qs.foldl (fun t q => put q (s.quireReport q) t) (put (1024 + d) State.idleRecord rest) }).emit 64
        (.freeCountReport d)
    | _ => s

/-! ## Graph nodes (R69-R71, R373) -/

/-- A graph node (R69). -/
structure GraphNode where
  kind : Nat
  reload : Bool
  nsucc : Nat
  init : Nat
  target : Nat
  arg : Nat
  cls : Nat
  succ : Nat
  deriving DecidableEq, Repr

def graphNode (b : List Byte) : GraphNode :=
  { kind := lineNat b 0 1 % 8, reload := (lineNat b 0 1).testBit 3, nsucc := lineNat b 1 1, init := lineNat b 2 2,
    target := lineNat b 6 2, arg := lineNat b 8 8, cls := lineNat b 16 2, succ := lineNat b 24 8 }

namespace State

def nodeVa (s : State) (part ctx n : Nat) : Nat := (s.context part ctx).graphBase.toNat + 64 * n

def readNode (s : State) (part ctx n : Nat) : State × Except FaultInfo GraphNode :=
  match s.unitRead part ctx (s.nodeVa part ctx n) 64 with
  | (s1, .error f) => (s1, .error f)
  | (s1, .ok b) => (s1, .ok (graphNode b))

/-- The record of a node that cannot launch or complete (R367, R373). -/
def nodeFails (s : State) (part ctx n kind : Nat) (code : EventCode) : State :=
  s.report part (some ctx) EventCode.nodeFault.byte 5 0x200 (BitVec.ofNat 64 (n + 65536 * kind + 2 ^ 24 * code.byte.toNat)) []

/-- A NOP, or a BRANCH that has read its word, completes at once. -/
def nodeNop (s : State) (part ctx n list : Nat) : State := s.emit 0 (.nodeCompletion part ctx n (some list))

/-- A MSG node's line leaves for its home (R70). DESIGN CHOICE (log 88): reserved FLAGS bits [7:4] of the line are cleared, as R214's check names
only `send` and `reply.msg`. -/
def nodeMsg (s : State) (part ctx n : Nat) (g : GraphNode) : State :=
  match s.unitRead part ctx g.arg 256 with
  | (s1, .error f) => s1.nodeFails part ctx n 1 f.code
  | (s1, .ok b) =>
    let m := Msg.ofLine b
    s1.unitMessage 0x200 part ctx { m with flags := m.flags &&& 0x09, node := n }

/-- The cycles of a distributor pick, where the target names none (R16, R68). -/
def pickCycles (target : Nat) : Nat := if target = 0xFFFF then 16 else 0

/-- A SPAWN node's image leaves for its core, where it starts as a task or waits for a slot (R16, R70, R71). -/
def nodeSpawn (s : State) (part ctx n : Nat) (g : GraphNode) : State :=
  let (s1, core) : State × Option Nat :=
    if g.target = 0xFFFF then s.pickCore part
    else (s, if g.target < 4096 && s.owner (quireOf g.target) == some part then some g.target else none)
  match core with
  | none => s1.nodeFails part ctx n 2 .spawnTarget
  | some core =>
    match s1.unitRead part ctx g.arg 128, s1.classEntry part ctx g.cls with
    | (s2, .error f), _ => s2.nodeFails part ctx n 2 f.code
    | (s2, .ok _), (_, .error f) => s2.nodeFails part ctx n 2 f.code
    | (s2, .ok b), (_, .ok e) =>
      let regs := (List.range 14).map fun j => BitVec.ofNat 64 (lineNat b (8 + 8 * j) 8)
      s2.emitNet (pickCycles g.target + toBase (quireOf core))
        (.taskStart core (some (n, classLaunch .spawnNode part ctx e (BitVec.ofNat 64 (g.cls * 256 + 0xFF)) (BitVec.ofNat 64 (lineNat b 0 8)) regs)))

/-- The context of a command that the command processor submits: no core, no strand (R279, R309). -/
def nodeContext (s : State) (part ctx quire : Nat) : CmdCtx :=
  { quire := quire, core := none, slot := 0, start := 0, task := 0, job := 0, part := part, ctx := ctx, priv := ctx == 0, clsType := 0, code := 0, codeLim := 0,
    cbank := 0, cbsel := 0, rm := 0, edition := (s.partition part).edition, budget := BitVec.allOnes 64, fence := false, wempty := false, node := 0 }

/-- A CMD node's command joins the queue of the command processor (R70, R279). -/
def nodeCmd (s : State) (part ctx n : Nat) (g : GraphNode) : State :=
  match s.unitRead part ctx g.arg 64 with
  | (s1, .error f) => s1.nodeFails part ctx n 3 f.code
  | (s1, .ok b) =>
    let ws := (List.range 16).map fun j =>
      let w := BitVec.ofNat 32 (lineNat b (4 * j) 4)
      if j = 0 then (w &&& 0xFFFF0000) ||| BitVec.ofNat 32 n else w
    let engine := commandEngine ws
    if 4 ≤ engine then s1.nodeFails part ctx n 3 .commandFormat
    else
      let (s2, quire) : State × Option Nat :=
        if g.target = 0xFFFF then s1.pickQuire part engine (decodeCommand (s1.nodeContext part ctx 0) ws)
        else (s1, if g.target < 1024 && s1.owner g.target == some part then some g.target else none)
      match quire with
      | none => s2.nodeFails part ctx n 3 .permission
      | some q =>
        s2.enqueue q engine 4 ws ((s2.nodeContext part ctx q).withWord0 (ws.headD 0).toNat) (pickCycles g.target + toBase q)

/-- A BRANCH reads its result word (R70). -/
def nodeBranch (s : State) (part ctx n : Nat) (g : GraphNode) : State :=
  match s.unitWord part ctx g.arg 8 with
  | (s1, .error f) => s1.nodeFails part ctx n 4 f.code
  | (s1, .ok v) => s1.nodeNop part ctx n (min v (g.nsucc - 1))

/-- A node launches (R70): its count is reloaded, its context pulses, and its kind's effect follows. DESIGN CHOICE (log 62): R393 names no
event for a non-zero reserved bit of a node (KIND [7:4], bytes 18-23 and 32-63) or of a SPAWN image (bytes 120-127), and the model ignores them;
a reserved kind is a failed launch. -/
def launchNode (s : State) (part ctx n : Nat) : State :=
  match s.readNode part ctx n with
  | (s1, .error f) => s1.nodeFails part ctx n 0 f.code
  | (s1, .ok g) =>
    let (s2, ok) :=
      if g.reload then s1.unitWrite part ctx (s1.nodeVa part ctx n + 4) (Bytes.ofNat 2 g.init) else (s1, .ok ())
    match ok with
    | .error f => s2.nodeFails part ctx n g.kind f.code
    | .ok () =>
      let s3 := s2.pulse part ctx
      match g.kind with
      | 0 => s3.nodeNop part ctx n 0
      | 1 => s3.nodeMsg part ctx n g
      | 2 => s3.nodeSpawn part ctx n g
      | 3 => s3.nodeCmd part ctx n g
      | 4 => s3.nodeBranch part ctx n g
      | k => s3.nodeFails part ctx n k .reservedField

/-- One decrement of a node's COUNT (R71): the node launches when it reaches 0. DESIGN CHOICE (log 88): a COUNT that reads 0 already wraps to 65,535
and launches nothing; no rule gives the result. -/
def decrementNode (s : State) (part ctx n : Nat) : State :=
  match s.unitWord part ctx (s.nodeVa part ctx n + 4) 2 with
  | (s1, .error f) => s1.nodeFails part ctx n 0 f.code
  | (s1, .ok c) =>
    match s1.unitWrite part ctx (s1.nodeVa part ctx n + 4) (Bytes.ofNat 2 ((c + 65535) % 65536)) with
    | (s2, .error f) => s2.nodeFails part ctx n 0 f.code
    | (s2, .ok ()) => if c = 1 then s2.emit 0 (.gkickWrite part ctx n) else s2

/-- The node ids of a successor list (R69). DESIGN CHOICE (log 88): no rule gives a fate to a node whose NSUCC is outside its kind's range (above 1
without BRANCH; 0 or above 8 with it); it launches, and its lists are taken as NSUCC counts them. -/
def successors (s : State) (part ctx : Nat) (g : GraphNode) (list : Nat) : State × Except FaultInfo (List Nat) :=
  if g.nsucc ≤ list then (s, .ok [])
  else
    match s.unitWord part ctx (g.succ + 8 * list) 8 with
    | (s1, .error f) => (s1, .error f)
    | (s1, .ok w) =>
      let len := Bits.get w 63 54
      match s1.unitRead part ctx (8 * Bits.get w 53 0) (2 * len) with
      | (s2, .error f) => (s2, .error f)
      | (s2, .ok b) => (s2, .ok ((List.range len).map fun j => lineNat b (2 * j) 2))

end State

/-- GKICK_WRITE (R70, R71): node 0 has no effect. -/
def execGkickWrite (s : State) : Result :=
  .next <|
    match s.ev with
    | .gkickWrite part ctx n => if n = 0 || !s.running part then s else s.launchNode part ctx n
    | _ => s

/-- NODE_COMPLETION (R71): a completion's list waits for those before it; then one decrement is made in each cycle, in list order. -/
def execNodeCompletion (s : State) : Result :=
  .next <|
    match s.ev with
    | .nodeCompletion part ctx n none => s.decrementNode part ctx n
    | .nodeCompletion part ctx n (some list) =>
      match s.readNode part ctx n with
      | (s1, .error f) => s1.nodeFails part ctx n 0 f.code
      | (s1, .ok g) =>
        match s1.successors part ctx g list with
        | (s2, .error f) => s2.nodeFails part ctx n g.kind f.code
        | (s2, .ok ids) =>
          let start := max s.now s.cpBusy
          ids.zipIdx.foldl (fun (s : State) x => if x.1 = 0 then s else s.emit (start + x.2 - s.now) (.nodeCompletion part ctx x.1 none))
            { s2 with cpBusy := start + ids.length }
    | _ => s

/-! ## Watchdogs (R72, R377) -/

/-- SILENT_CONTEXT (R72, R377): the window that began at `since` ends. -/
def execSilentContext (s : State) : Result :=
  .next <|
    match s.ev with
    | .silentContext part ctx since =>
      let x := s.context part ctx
      let w := x.wdogWin.toNat * 1024
      if w = 0 || !s.running part then s
      else if s.checkpointing part then
        (s.updContext part ctx fun x => { x with lastPulse := s.now, silent := false }).emit w (.silentContext part ctx s.now)
      else if x.lastPulse ≠ since then s.emit (x.lastPulse + w - s.now) (.silentContext part ctx x.lastPulse)
      else if x.silent then s.emit w (.silentContext part ctx since)
      else
        (((s.updContext part ctx fun x => { x with silent := true }).report part (some ctx) EventCode.silentContext.byte 5 0x200
          x.wdogWin []).raiseVector part 2).emit w (.silentContext part ctx since)
    | _ => s

/-! ## Power (R73, R362) -/

/-- A core holds a strand of a barrier's partition that does not sleep at the barrier: DEDUCED (log 63), a participant that has not
arrived (R73), where its quire's arrivals are not complete. -/
def State.holdsLate (s : State) (b : BarKey) (core : Nat) : Bool :=
  (s.core core).slots.any fun e => e.2.part == b.part && (match e.2.wait with | .asleep (.barrier k _) => k != b | _ => true)

/-- The cores that hold a participant of a die barrier's current phase that has not arrived, once three quarters of the participants
have (R73). -/
def State.laggards (s : State) (x : Barrier) : List Nat :=
  let here := x.counts.filter fun c => c.phase == x.phase
  match here.head? with
  | none => []
  | some c =>
    let members := s.barMembers x.key c.desc
    let need := (barShape c.desc).nq
    let arrived := here.foldl (fun n c => n + min c.n need) 0
    if 4 * arrived < 3 * (need * members.length) then []
    else ((members.filter fun q => !(here.any fun c => c.quire == q && c.full)).flatMap State.coresOf).filter (s.holdsLate x.key)

/-- POWER_MANAGER_EXAMINE (R73): laggards of die barriers are raised by 100 MHz, up to 3.0 GHz, while package power allows. The model counts
cycles, which a raised clock does not change (R3). -/
def execPowerManagerExamine (s : State) : Result :=
  .next <|
    match s.ev with
    | .powerManagerExamine withinPower =>
      let late := ((s.barriers.filter fun b => b.key.scope == 2).flatMap s.laggards).eraseDups
      let s1 := if withinPower then
          late.foldl (fun (s : State) k => s.updCore k fun c => { c with raised := min 500 (c.raised + 100) }) s
        else s
      (s1.emit 256 (.powerManagerExamine (s1.draw.getLsbD 0))).drawn
    | _ => s

/-- THERMAL_THROTTLE (R362): one step of 100 MHz, between 1.2 and 2.5 GHz. -/
def execThermalThrottle (s : State) : Result :=
  .next <|
    match s.ev with
    | .thermalThrottle d lower =>
      s.updDie d fun x => { x with clockMHz := if lower then max 1200 (x.clockMHz - 100) else min 2500 (x.clockMHz + 100) }
    | _ => s

/-- THERMAL_STOP (R362): the package stops. -/
def execThermalStop (s : State) : Result := .next { s with halted := true }

end Sys2Proof.Machine
end

