-- ==== Sys2Proof/Machine/Bar.lean ====
section
/-! DEFINITION. BAR 0 of the host functions by byte offset (R342, R343): what a read finds, and the register writes that a write makes. -/

namespace Sys2Proof.Machine

/-- DEVCAP0-DEVCAP3 (R19): no feature. -/
def devcap : Word := 0

namespace State

/-- The eight bytes of a list from `k` on. -/
def eight (b : Nat → Byte) (k : Nat) : Nat := Bytes.toNat ((List.range 8).map fun j => b (k + j))

/-- The 64 bits at an aligned offset of the PF's BAR 0 (R343); an offset without a register, and QUIESCE, which is write-only (R385), read as zero. -/
def pfWord (s : State) (o : Nat) : Nat :=
  let k := o / 8
  if o < 0x20 then devcap.toNat
  else if o < 0x40 then (look 0 (k - 4) s.deven).toNat
  else if o = 0x40 then s.pkgid
  else if o = 0x48 then s.minthr.toNat
  else if o = 0x58 then s.corrected + s.uncorrected * 2 ^ 32
  else if o < 0x100 then 0
  else if o < 0x500 then
    let p := o % 0x100 / 8
    if Config.partitions ≤ p then 0
    else
      match o / 0x100 with
      | 1 => (s.partition p).pctl.toNat
      | 2 => (s.partition p).plimit.toNat
      | 3 => (s.partition p).phbm.toNat
      | _ => (s.partition p).podN.toNat
  else if o < 0x1000 then 0
  else if o < 0x1400 then eight (fun j => (s.quire j).own) (o - 0x1000)
  else if o < 0x2000 then 0
  else if o < 0x2040 then (if (s.sampler (o % 0x100 / 8)).hold then 1 else 0)
  else if o < 0x2100 then 0
  else if o < 0x3100 then eight (fun j => look 0 j (s.sampler ((o - 0x2100) / 512)).own) ((o - 0x2100) % 512)
  else if o < 0x4000 then 0
  else if o < 0x5000 then eight (fun j => s.mailbox.getD j 0) (o - 0x4000)
  else if o < 0x10000 then 0
  else if o < 0x20000 then eight (fun j => (s.port j).own) (o - 0x10000)
  else if o < 0x2C000 then
    let at_ (j : Nat) : Nat := Bits.get (look 0 ((o % 2048) / 2 + j) (s.partition ((o - 0x20000) / 2048)).podHome).toNat 15 0
    at_ 0 + at_ 1 * 2 ^ 16 + at_ 2 * 2 ^ 32 + at_ 3 * 2 ^ 48
  else if o < 0x30000 then 0
  else if o < 0x36000 then
    let p := s.partition ((o - 0x30000) / 1024)
    (look 0 (o % 1024 / 16) (if o % 16 = 0 then p.hmapB else p.hmapL)).toNat
  else if o < 0x40000 then 0
  else if o < 0x80000 then (look 0 (o % 64 / 8) (s.core ((o - 0x40000) / 64)).lsprot).toNat
  else if o < 0x100000 then 0
  else if o < 0x110000 then
    let st := (s.sampler ((o - 0x100000) / 8192)).store
    (look 0 (o % 8192 / 4) st).toNat + (look 0 (o % 8192 / 4 + 1) st).toNat * 2 ^ 32
  else 0

/-- The 64 bits at an aligned offset of a VF's BAR 0 (R343). GKICK is write-only (R71), and the registers of a port that the function does not own
read as zero. DESIGN CHOICE (log 97): a vector is raised at once, so no bit of the pending-bit array is ever set. -/
def vfWord (s : State) (vf o : Nat) : Nat :=
  let p := s.partition vf
  if o = 0 then p.hwinBase.toNat
  else if o = 8 then p.notifyVal.toNat
  else if o = 0x10 then p.evBase.toNat
  else if o = 0x18 then p.evCnt.toNat
  else if o = 0x20 then p.coltmo.toNat
  else if o < 0x1000 then 0
  else if o < 0x2000 then (if o % 64 = 0 then (s.context vf ((o - 0x1000) / 64)).ttroot.toNat else 0)
  else if 0x4000 ≤ o && o < 0x4040 then (look 0 ((o - 0x4000) / 8) p.msixTable).toNat
  else if 0x100000 ≤ o && o < 0x300000 then
    let q := s.port ((o - 0x100000) / 32)
    if q.owner ≠ some vf then 0
    else
      match o % 32 / 8 with
      | 0 => q.bind.toNat
      | 1 => q.key0.toNat
      | 2 => q.key1.toNat
      | _ => 0
  else 0

/-- Bytes of BAR 0 of a function. -/
def barRead (s : State) (pf : Bool) (vf off len : Nat) : List Byte :=
  (List.range len).map fun j =>
    let o := off + j
    BitVec.ofNat 8 ((if pf then s.pfWord (o / 8 * 8) else s.vfWord vf (o / 8 * 8)) / 2 ^ (8 * (o % 8)))

/-- The entries that a write of an array covers: its pieces of `n` bytes, numbered from the first. -/
def pieces (n : Nat) (data : List Byte) : List (Nat × Nat) :=
  (List.range (data.length / n)).map fun j => (j, Bytes.toNat ((data.drop (n * j)).take n))

/-- The register writes of a write to the PF's BAR 0 (R343). DESIGN CHOICE (log 97): a register of 64 bits is written by an aligned write of eight
bytes, another size is ignored; a write of 32 bytes at the mailbox's start asks for a report with that nonce (R361). -/
def pfWrite (o : Nat) (data : List Byte) : List Event :=
  let v := BitVec.ofNat 64 (Bytes.toNat data)
  let p := o % 0x100 / 8
  let whole := o % 8 == 0 && data.length == 8
  if 0x2100 ≤ o && o < 0x3100 then
    (pieces 1 data).map fun x => .samplerStoreWrite ((o + x.1 - 0x2100) / 512) ((o + x.1 - 0x2100) % 512) true (BitVec.ofNat 32 x.2)
  else if 0x20000 ≤ o && o < 0x2C000 then
    if o % 2 = 0 then
      (pieces 2 data).map fun x => .registerWrite (.podHome ((o - 0x20000) / 2048) (o % 2048 / 2 + x.1)) (BitVec.ofNat 64 x.2)
    else []
  else if 0x100000 ≤ o && o < 0x110000 then
    if o % 4 = 0 then
      (pieces 4 data).map fun x => .samplerStoreWrite ((o - 0x100000) / 8192) (o % 8192 / 4 + x.1) false (BitVec.ofNat 32 x.2)
    else []
  else if o = 0x4000 && data.length = 32 then [.attestationRequest data]
  else if !whole then []
  else if 0x20 ≤ o && o < 0x40 then [.devenWrite (o / 8 - 4) v]
  else if o = 0x40 then [.pkgidWrite v]
  else if o = 0x48 then [.registerWrite .minthr v]
  else if o = 0x50 then [.quiesceWrite v]
  else if 0x100 ≤ o && o < 0x500 then
    if Config.partitions ≤ p then []
    else
      match o / 0x100 with
      | 1 => [if v.getLsbD 0 then .partitionStart p else .partitionStop p]
      | 2 => [.registerWrite (.plimit p) v]
      | 3 => [.registerWrite (.phbm p) v]
      | _ => [.registerWrite (.podN p) v]
  else if 0x1000 ≤ o && o < 0x1400 then (pieces 1 data).map fun x => .ownershipWrite true (o - 0x1000 + x.1) (BitVec.ofNat 8 x.2)
  else if 0x2000 ≤ o && o < 0x2040 then [.sampctlWrite p v]
  else if 0x10000 ≤ o && o < 0x20000 then (pieces 1 data).map fun x => .ownershipWrite false (o - 0x10000 + x.1) (BitVec.ofNat 8 x.2)
  else if 0x30000 ≤ o && o < 0x36000 then
    [.registerWrite (if o % 16 = 0 then .hmapB ((o - 0x30000) / 1024) (o % 1024 / 16) else .hmapL ((o - 0x30000) / 1024) (o % 1024 / 16)) v]
  else if 0x40000 ≤ o && o < 0x80000 then [.registerWrite (.lsprot ((o - 0x40000) / 64) (o % 64 / 8)) v]
  else []

/-- The register writes of a write to a VF's BAR 0 (R343). -/
def vfWrite (vf o : Nat) (data : List Byte) : List Event :=
  let v := BitVec.ofNat 64 (Bytes.toNat data)
  if o % 8 ≠ 0 || data.length ≠ 8 then []
  else if o = 0 then [.registerWrite (.hwinBase vf) v]
  else if o = 0x10 then [.registerWrite (.evBase vf) v]
  else if o = 0x20 then [.registerWrite (.coltmo vf) v]
  else if 0x1000 ≤ o && o < 0x2000 then
    match o % 64 with
    | 0 => [.registerWrite (.ttroot vf ((o - 0x1000) / 64)) v]
    | 8 => [.gkickWrite vf ((o - 0x1000) / 64) (v.toNat % 65536)]
    | _ => []
  else if 0x4000 ≤ o && o < 0x4040 then [.registerWrite (.msixTable vf ((o - 0x4000) / 8)) v]
  else if 0x100000 ≤ o && o < 0x300000 then
    match o % 32 with
    | 0 => [.portbindWrite ((o - 0x100000) / 32) vf v]
    | 8 => [.registerWrite (.portKey0 vf ((o - 0x100000) / 32)) v]
    | 16 => [.registerWrite (.portKey1 vf ((o - 0x100000) / 32)) v]
    | _ => []
  else []

end State

end Sys2Proof.Machine
end

