-- ==== Sys2Proof/Machine/Registers.lean ====
section
/-! DEFINITION. Writes of registers from the host and from cores (R85, R86, R123, R343-R347, R358-R361), and the life of a
partition (R358). -/

namespace Sys2Proof.Machine

/-- A core's local-store way as sectors. -/
def waySectors (w : Nat) : NatSet := (List.range 512).map (512 * w + ·)

/-- The ways whose role a mask change turns from `a` to `b`. -/
def waysLeaving (a b : Word) : List Nat := (List.range 16).filter fun w => a.getLsbD w && !b.getLsbD w

namespace State

/-- A way's bytes and full bits go (R123). -/
def clearWay (c : Core) (w : Nat) : Core :=
  { c with store := memZero c.store (16384 * w) 16384, full := c.full.filter fun n => n / 512 != w }

/-- The mask switches (R123 step 3): leaving ways lose their contents, entering ways are zero and empty. -/
def switchWays (c : Core) (mask : Word) : Core :=
  let changed := waysLeaving c.wayMask mask ++ waysLeaving mask c.wayMask
  { changed.foldl clearWay c with wayMask := mask }

/-- Strands asleep at a sector of a way that has left scratch issue again, and engine writes that wait for one are given up
(R414). -/
def leaveWays (s : State) (core : Nat) (ways : List Nat) : State :=
  let s1 := (s.strandsWhere fun r t => r.core == core && (match t.wait with
      | .asleep (.sector n) => ways.contains (n / 512)
      | _ => false)).foldl (fun (s : State) r => s.wake r 0) s
  let waiting := s1.quires.flatMap fun q => q.2.engines.flatMap fun e => e.2.waiting.filter fun w =>
    w.core == core && ways.contains (w.off / 16384)
  waiting.foldl (fun (s : State) w => s.emit 0 (.wemptyWrite core (w.off / 32))) s1

/-- A DRAIN that has been accepted has rows to write into some ways of a core's store, and does not wait for empty sectors (R123, R414). -/
def drainsInto (s : State) (core : Nat) (ways : List Nat) : Bool :=
  s.quires.any fun q =>
    let e := s.engine q.1 0
    match e.drain with
    | none => false
    | some d =>
      e.waiting.isEmpty && d.fault.isNone && d.c.dst != 0 && (List.range d.c.rows).any fun j =>
        let a := rowAddress d j
        decide (d.landed ≤ j) && inAperture a && engineCore d.x a == core && ways.contains (apOff a / 16384)

/-- With no L1 way left, every line goes, and monitors of cached sectors latch event 1 (R123, R288). -/
def dropL1 (s : State) (core : Nat) : State :=
  (s.strandsWhere fun r t => r.core == core && (match t.monitor with | some m => !m.onScratch | none => false)).foldl
    (fun (s : State) r => s.latchMonitor r 1) (s.updCore core fun c => { c with l1 := [] })

end State

/-- WAYMASK_WRITE (R86, R123, R414). -/
def execWaymaskWrite (s : State) : Result :=
  .next <|
    match s.ev with
    | .waymaskWrite core writer val =>
      let c := s.core core
      let mask := val &&& 0xFFFF
      let s := s.updCore core fun c => { c with maskBy := c.maskBy.erase writer }
      if !s.wayMaskOk ((s.owner (quireOf core)).getD 0) (State.aslotSet c) (State.frecSet c) mask then s
      else if s.drainsInto core (waysLeaving c.wayMask mask) then
        (s.updCore core fun c => { c with maskBy := writer :: c.maskBy }).emit 1 (.waymaskWrite core writer val)
      else
        let entering := waysLeaving mask c.wayMask
        let s0 := s.leaveL1 core fun l => entering.contains l.way
        let s1 := if mask = 0xFFFF && c.wayMask ≠ 0xFFFF then s0.dropL1 core else s0
        (s1.updCore core fun c => State.switchWays c mask).leaveWays core (waysLeaving c.wayMask mask)
    | _ => s

/-- Arrivals in the order the home forwarded them. -/
def byNumber (qs : List Arrival) : List Arrival :=
  qs.foldr (fun q acc => acc.takeWhile (fun r => decide (r.number < q.number)) ++ [q] ++ acc.dropWhile fun r => decide (r.number < q.number)) []

/-- Messages of the noticed actors of a core that have not started go back to their homes, each actor's in their forwarding order (R33). -/
def State.returnMessages (s : State) (core : Nat) : State :=
  let c := s.core core
  let mine (a : ActorId) : Option ActorSlot := (c.actors.find? fun e => e.2.actor == a && e.2.noticed).map (·.2)
  let s1 := (c.actors.filter fun e => e.2.noticed).foldl (fun (s : State) e =>
    match e.2.head with
    | some m => (s.updActor core e.1 fun x => { x with head := none }).bounce core e.2.slice e.2.actor m
    | none => s) s
  let back := byNumber ((c.lowQ ++ c.highQ).filter fun q => (mine q.actor).isSome)
  let s2 := s1.updCore core fun c =>
    { c with lowQ := c.lowQ.filter (fun q => (mine q.actor).isNone), highQ := c.highQ.filter fun q => (mine q.actor).isNone }
  back.foldl (fun (s : State) q =>
    match mine q.actor with
    | some x => (s.bounce core x.slice q.actor q.msg).queueFreed core q.msg.high
    | none => s) s2

/-- ASLOT_WRITE (R33): every live actor retires before the new value takes effect: its home is told, its waiting messages go back, and it
is written back at once or when its task ends. A second write takes the place of one under way. -/
def execAslotWrite (s : State) : Result :=
  .next <|
    match s.ev with
    | .aslotWrite core writer val =>
      let v := val &&& csrMask 0x012
      if !State.aslotOk (s.core core).wayMask v then s
      else
        let fresh := (s.core core).actors.filter fun e => e.2.phase == .live && !e.2.noticed
        let s1 := s.updCore core fun c => { c with aslotTo := some v, aslotBy := writer :: c.aslotBy }
        let s2 := fresh.foldl (fun (s : State) e =>
          (s.updActor core e.1 fun x => { x with noticed := true }).toHome core e.2.slice e.2.actor (.retireNotice e.2.slice e.2.actor core)) s1
        (((s2.returnMessages core).aslotRetire core).aslotCheck core)
    | _ => s

/-- CBSEL_WRITE (R81): the slot copies its new window. -/
def execCbselWrite (s : State) : Result :=
  .next <|
    match s.ev with
    | .cbselWrite r val =>
      if s.occupied r && (s.strand r).copy == .wanted && cbselOf (s.strand r).regs.flags == val.setWidth 16 then s.copyStart r else s
    | _ => s

/-- CTXREQ_WRITE (R63). -/
def execCtxreqWrite (s : State) : Result :=
  .next <|
    match s.ev with
    | .ctxreqWrite core val => ((s.updCore core fun c => { c with ctxReq := val }).switchCheck core).offer core
    | _ => s

/-- CORESCHED_WRITE (R65): newly reserved slots stay with what runs in them. A DRAIN of the core may take more rows out (R58, R272). -/
def execCoreschedWrite (s : State) : Result :=
  .next <|
    match s.ev with
    | .coreschedWrite core val =>
      let s1 := s.updCore core fun c => { c with coresched := csrMerge 0x013 c.coresched val }
      ((match (s.engine (quireOf core) 0).drain with
        | some d => if d.x.core = some core then s1.emit 0 (.drainRowTakeout (quireOf core)) else s1
        | none => s1).offerRows core).offerQuire core
    | _ => s

/-- ENGFLT1_WRITE (R410). -/
def execEngflt1Write (s : State) : Result :=
  .next <|
    match s.ev with
    | .engflt1Write core val => s.updCore core fun c => { c with engFlt1 := csrMerge 0x017 c.engFlt1 val }
    | _ => s

/-! ## Registers without a behaviour of their own (R85, R343) -/

/-- The RW fields of a register. -/
def plainMask : PlainReg → Word
  | .minthr => 0xFFFF
  | .podN _ => 0x3FF
  | .podHome _ _ => 0x3FF
  | .plimit _ => 0xF000F
  | .phbm _ => 0x800003FF000003FF
  | .hmapB _ _ => 0xFFFFFFFFF
  | .hmapL _ _ => BitVec.allOnes 64
  | .lsprot _ _ => 0xFFFFFFFFF
  | .hwinBase _ => 0x3FF
  | .evBase _ => 0x000FFFFFFFFF0001
  | .coltmo _ => 0xFFFFFFFF
  | .msixTable _ _ => BitVec.allOnes 64
  | .ttroot _ _ => 0x000FFFFFFFFFF000
  | .upcall _ _ => csrMask 0x020
  | .clsTab _ _ => csrMask 0x021
  | .clsNum _ _ => csrMask 0x022
  | .graphBase _ _ => csrMask 0x023
  | .wdogWin _ _ => csrMask 0x025
  | .frecBase _ => csrMask 0x011
  | .portKey0 _ _ => BitVec.allOnes 64
  | .portKey1 _ _ => BitVec.allOnes 64

/-- A register that the tables of R343 list. -/
def plainExists : PlainReg → Bool
  | .minthr => true
  | .podN p | .plimit p | .phbm p | .hwinBase p | .evBase p | .coltmo p => decide (p < Config.partitions)
  | .podHome p j => decide (p < Config.partitions) && decide (j < 1024)
  | .msixTable p j => decide (p < Config.partitions) && decide (j < 8)
  | .hmapB p n | .hmapL p n => decide (p < Config.partitions) && decide (n < 64)
  | .lsprot core j => decide (core < Config.cores) && decide (j < 8)
  | .ttroot p c | .upcall p c | .clsTab p c | .clsNum p c | .graphBase p c | .wdogWin p c =>
    decide (p < Config.partitions) && decide (c < Config.contexts)
  | .frecBase core => decide (core < Config.cores)
  | .portKey0 _ n | .portKey1 _ n => decide (n < Config.ports)

/-- A partition is stopped (R358). -/
def State.stopped (s : State) (part : Nat) : Bool := (s.partition part).pctl == 0

/-- REGISTER_WRITE (R85, R343): the RW fields take the value; some registers change only while their partition is
stopped, and a home-map entry with MOV = 1 starts a move. -/
def execRegisterWrite (s : State) : Result :=
  .next <|
    match s.ev with
    | .registerWrite r val =>
      let v := val &&& plainMask r
      if !plainExists r then s
      else
      match r with
      | .minthr => { s with minthr := v }
      | .podN p => if s.stopped p then s.updPartition p fun x => { x with podN := v } else s
      | .podHome p j => if s.stopped p then s.updPartition p fun x => { x with podHome := put j v x.podHome } else s
      | .plimit p => if s.stopped p then s.updPartition p fun x => { x with plimit := v } else s
      | .phbm p => if s.stopped p then s.updPartition p fun x => { x with phbm := v } else s
      | .hmapB p n => s.updPartition p fun x => { x with hmapB := put n v x.hmapB }
      | .hmapL p n =>
        if v.getLsbD 62 && v.getLsbD 63 then s.emit 0 (.homeMoveStart p n (look 0 n (s.partition p).hmapB) v)
        else s.updPartition p fun x => { x with hmapL := put n v x.hmapL }
      | .lsprot core j => s.updCore core fun c => { c with lsprot := put j v c.lsprot }
      | .hwinBase p => s.updPartition p fun x => { x with hwinBase := v }
      | .evBase p => s.updPartition p fun x => { x with evBase := v }
      | .coltmo p => s.updPartition p fun x => { x with coltmo := v }
      | .msixTable p j => s.updPartition p fun x => { x with msixTable := put j v x.msixTable }
      | .ttroot p c => s.updContext p c fun x => { x with ttroot := v }
      | .upcall p c => s.updContext p c fun x => { x with upcall := v }
      | .clsTab p c => s.updContext p c fun x => { x with clsTab := v }
      | .clsNum p c => s.updContext p c fun x => { x with clsNum := v }
      | .graphBase p c => s.updContext p c fun x => { x with graphBase := v }
      | .wdogWin p c =>
        let s1 := s.updContext p c fun x => { x with wdogWin := v, lastPulse := s.now, silent := false }
        if v = 0 then s1 else s1.emit (v.toNat * 1024) (.silentContext p c s.now)
      | .frecBase core => s.updCore core fun c => { c with frecBase := v, frecWritten := true }
      | .portKey0 vf n => if (s.port n).owner == some vf then s.updPort n fun p => { p with key0 := v } else s
      | .portKey1 vf n => if (s.port n).owner == some vf then s.updPort n fun p => { p with key1 := v } else s
    | _ => s

/-! ## DEVEN, PKGID, ownership, the memory window, attestation -/

/-- No partition runs (R21). -/
def State.noneRuns (s : State) : Bool := (List.range Config.partitions).all fun p => s.stopped p

/-- DEVEN_WRITE (R19-R21). -/
def execDevenWrite (s : State) : Result :=
  .next <|
    match s.ev with
    | .devenWrite i val => if i < 4 && s.noneRuns then { s with deven := put i (val &&& devcap) s.deven } else s
    | _ => s

/-- PKGID_WRITE (R344). -/
def execPkgidWrite (s : State) : Result :=
  .next <|
    match s.ev with
    | .pkgidWrite val =>
      let id := Bits.get val.toNat 9 0
      if s.started || 993 ≤ id then s else { s with pkgid := id }
    | _ => s

/-- OWNERSHIP_WRITE (R345, R359): a byte changes only while both partitions are stopped. -/
def execOwnershipWrite (s : State) : Result :=
  .next <|
    match s.ev with
    | .ownershipWrite quires i val =>
      let old := if quires then (s.quire i).owner else (s.port i).owner
      let quiet (o : Option Nat) : Bool := match o with | some p => s.stopped p | none => true
      if !quiet old || !quiet (ownerOf val) then s
      else if quires then (if i < 1024 then s.setQuire i { s.quire i with own := val &&& 0x9F } else s)
      else if i < Config.ports then s.updPort i fun p => { p with own := val &&& 0x9F }
      else s
    | _ => s

/-- NOTIFY_PAGE_STORE (R347). -/
def execNotifyPageStore (s : State) : Result :=
  .next <|
    match s.ev with
    | .notifyPageStore p val => (s.updPartition p fun x => { x with notifyVal := val }).raiseVector p 3
    | _ => s

/-- Where a window access goes (R346). -/
def State.windowPa (s : State) (vf off : Nat) : Nat :=
  (Bits.get (s.partition vf).phbm.toNat 9 0 + (s.partition vf).hwinBase.toNat) * 2 ^ 30 + off

/-- HOST_WINDOW_ACCESS (R46, R342, R346): straight to HBM within the share, a read of a port's window, or an access to BAR 0, whose writes are those of
its registers. -/
def execHostWindowAccess (s : State) : Result :=
  .next <|
    match s.ev with
    | .hostWindowAccess vf off acc =>
      let pa := s.windowPa vf off
      match acc with
      | .write data => if s.inShare vf pa data.length && off + data.length ≤ 2 ^ 36 then s.hbmWrite pa data else s
      | .read n =>
        let b := if s.inShare vf pa n && off + n ≤ 2 ^ 36 && pa + n ≤ Config.hbmBytes then memLoad s.hbm pa n else List.replicate n 0xFF
        { s with hostReads := s.hostReads ++ [(vf, b)] }
      | .port n len =>
        let r := s.portRead vf n off len
        { r.1 with hostReads := r.1.hostReads ++ [(vf, r.2)] }
      | .barRead pf len => { s with hostReads := s.hostReads ++ [(vf, s.barRead pf vf off len)] }
      | .barWrite pf data => (if pf then State.pfWrite off data else State.vfWrite vf off data).foldl (fun (s : State) e => s.emit 0 e) s
    | _ => s

/-- What an attestation report speaks of besides its nonce (R361): PKGID, DEVEN, QOWN, PHBM and PORTOWN. -/
def State.measured (s : State) : List Byte :=
  Bytes.ofNat 2 s.pkgid ++ ((List.range 4).flatMap fun i => Bytes.ofNat 8 (look 0 i s.deven).toNat) ++
    ((List.range 1024).map fun q => (s.quire q).own) ++
    ((List.range 24).flatMap fun p => Bytes.ofNat 8 (s.partition p).phbm.toNat) ++
    ((List.range Config.ports).map fun n => (s.port n).own)

/-- ATTESTATION_REQUEST (R361). -/
def execAttestationRequest (s : State) : Result :=
  .next <|
    match s.ev with
    | .attestationRequest nonce => if nonce.length = 32 then { s with mailbox := Config.attestation (nonce ++ s.measured) } else s
    | _ => s

/-! ## Partitions (R358) -/

namespace State

/-- The cores of a partition, ascending. -/
def coresIn (s : State) (part : Nat) : List Nat := (s.homeList part).flatMap coresOf

/-- A core at the start of its partition. -/
def startCore (now : Nat) (c : Core) : Core :=
  { discardCore now c with
    serials := [], jobSeq := 0, jobs := [], edition := 0, ctxRun := BitVec.allOnes 64, ctxReq := BitVec.allOnes 64, recordSeq := 0
    seen := [] }

/-- Committed writes that wait at their homes or are on their way there arrive (R413). -/
def settleWrites (s : State) (part : Nat) : State :=
  let request (s : State) (r : HomeReq) : State :=
    if r.part ≠ part || r.pkg.isSome then s
    else
      match r.op with
      | .store data g => s.performWrite (s.requestWrite r .unit data g)
      | .nontemporal _ data g => s.performWrite (s.requestWrite r .unit data g)
      | _ => s
  let s1 := (s.cowQueue.filter fun w => w.part == part).foldl (fun (s : State) w => s.performWrite w) s
  let s2 := s1.agenda.foldl (fun (s : State) x => match x.2.2 with | .homeRequest r => request s r | _ => s) (s1.peerWait.foldl request s1)
  { s2 with cowQueue := s2.cowQueue.filter fun w => w.part != part, peerWait := s2.peerWait.filter fun r => r.part != part }

/-- An actor goes to its record (R38); a failed retirement is recorded (R371), and the actor goes all the same. -/
def retireAll (s : State) (core : Nat) : State :=
  let s1 := (s.core core).actors.foldl (fun (s : State) e =>
    let x := e.2
    if x.phase == .filling then s
    else
      let data := memLoad (s.core core).store (slotOffset (s.core core) e.1) (256 * x.entry.stLines.toNat)
      match s.writeRecord (s.core core).edition x.actor x.entry x.dirIndex data with
      | (s1, none) => s1
      | (s1, some c) =>
        s1.report x.actor.part (some x.actor.ctx) EventCode.actorStateFault.byte 1 core (BitVec.ofNat 64 (c.1 + 256 * c.2))
          (Bytes.ofNat 2 x.actor.cls.toNat ++ [0, 0] ++ Bytes.ofNat 16 x.actor.key.toNat)) s
  s1.updCore core fun c => { c with actors := [] }

end State

/-- The lines that a partition's ports hold go (R358). -/
def dropHeld (part : Nat) (p : Nat × Port) : Nat × Port := if p.2.owner == some part then (p.1, { p.2 with held := [] }) else p

/-- PARTITION_START (R358): counters, channel numbers and job counters are zero, and the Ephemeris is empty. -/
def execPartitionStart (s : State) : Result :=
  .next <|
    match s.ev with
    | .partitionStart part =>
      if !s.stopped part || Config.partitions ≤ part then s
      else
        let cores := s.coresIn part
        let s1 := s.discardWork part
        let s2 := cores.foldl (fun (s : State) c => s.updCore c (State.startCore s.now)) s1
        let s3 := (s2.homeList part).foldl (fun (s : State) q => s.updSlice q fun _ => Slice.reset) s2
        let s4 := { s3.updPartition part fun p =>
          { p with pctl := 1, edition := 0, census := [], censusQueue := [], evCnt := 0, checkpoint := false, restoring := none } with
          started := true, fabricOut := s3.fabricOut.filter (fun f => f.part != part), editions := s3.editions.filter fun e => e.part != part, ports := s3.ports.map (dropHeld part) }
        (cores.foldl (fun (s : State) c => s.offer c) s4).startWatchdogs part
    | _ => s

/-- PARTITION_STOP (R358): STOPPING; the partition's work is discarded. -/
def execPartitionStop (s : State) : Result :=
  .next <|
    match s.ev with
    | .partitionStop part =>
      if !s.running part then s
      else
        let s1 := (s.settleWrites part).discardWork part
        ({ s1 with ports := s1.ports.map (dropHeld part) }.updPartition part fun p => { p with pctl := 2, checkpoint := false, restoring := none }).emit 1
          (.partitionStopComplete part)
    | _ => s

/-- PARTITION_STOP_COMPLETE (R358): live actors and dirty lines have reached memory. -/
def execPartitionStopComplete (s : State) : Result :=
  .next <|
    match s.ev with
    | .partitionStopComplete part =>
      if (s.partition part).pctl ≠ 2 then s
      else
        let s1 := (s.coresIn part).foldl (fun (s : State) c => s.retireAll c) s
        let s2 := (s1.l2.filter fun l => l.part == part).foldl (fun (s : State) l => s.writeBack l) s1
        (s2.dropLines part).updPartition part fun p => { p with pctl := 0 }
    | _ => s

end Sys2Proof.Machine
end

