-- ==== Sys2Proof/Machine/Recovery.lean ====
section
/-! DEFINITION. Partition events (R385-R392): lost links, errors, the quiesce, the checkpoint strands and `rollback` (R228),
link training (R348, R352), and power good (R363). -/

namespace Sys2Proof.Machine

/-! ## The return to a cut (R299) -/

namespace State

def lastComplete (s : State) (part : Nat) : Option Edition :=
  (s.editions.filter fun e => e.part == part && e.state == 1).foldl (fun b e =>
    match b with | some x => if x.n.toNat < e.n.toNat then some e else some x | none => some e) none

/-- A page goes back to its old frame, and the frame of its copy to its pool. -/
def undoPage (s : State) (e : Edition) (p : PageCopy) : State :=
  let frame := match p.entries with | (pa, _) :: _ => ptePfn (s.physWord pa) * 4096 / p.size * p.size | [] => 0
  let s1 := p.entries.foldl (fun (s : State) x => s.physWrite x.1 (Bytes.ofNat 8 x.2.toNat)) s
  let code := if p.size = 4096 then 0 else if p.size = 65536 then 1 else if p.size = 2 ^ 21 then 2 else 3
  let at_ := 72 + 16 * code
  let top := s1.headerWord e at_ 8
  let array := s1.headerWord e (at_ + 8) 8
  (s1.unitWrite e.part e.ctx (array + 8 * top) (Bytes.ofNat 8 frame)).1.headerPut e at_ (Bytes.ofNat 8 (top + 1))

def undoPages (s : State) (e : Edition) : State :=
  (e.pages.reverse.foldl (fun (s : State) p => s.undoPage e p) s).updEdition e.part e.n fun e => { e with pages := [] }

/-- Requests of a sampler's queue in the order of their acceptance (R318). -/
def byOrder (q : List Waiting) : List Waiting :=
  q.foldl (fun acc w => (acc.filter fun v => decide (v.order < w.order)) ++ [w] ++ acc.filter fun v => decide (w.order < v.order)) []

/-- A unit reloads its record (R299). DESIGN CHOICE (log 88): what the dump lines of R90 do not carry of a strand (JOBLAST, KEYLO, KEYHI, CLSTYPE, MSG,
STATE, code bounds, frames) comes from the model's own record of the core. -/
def reload (s : State) (part : Nat) (n : W32) (u : UnitId) (r : UnitRecord) : State :=
  match u, r with
  | .core k, .core c tasks =>
    let now := s.core k
    let slots := c.slots.map fun e => (e.1, { e.2 with budgetAt := s.now, startedAt := s.ids + e.1, copy := CopyState.wanted })
    { (s.setCore k { discardCore s.now c with
        slots := slots, deque := c.deque, lowQ := c.lowQ, highQ := c.highQ, starts := c.starts, orders := c.orders, jobs := c.jobs
        cens := c.cens, early := c.early, givesOut := c.givesOut, givesIn := c.givesIn
        l1 := [], edition := n, frecBase := now.frecBase, frecWritten := now.frecWritten, lsprot := now.lsprot
        engFlt0 := now.engFlt0, engFlt1 := now.engFlt1, recordSeq := now.recordSeq, lastIssue := none }) with
      tasks := tasks.foldl (fun t x => put x.1 x.2 t) s.tasks, ids := s.ids + 16 }
  | .slice q, .slice x =>
    s.updSlice q fun _ => { x with arrived := [], nextSeq := [], asked := [], asking := false, switching := false, heldReports := [], edition := n }
  | .engines q, .engines x => s.setQuire q { x with own := (s.quire q).own }
  | .node k, .node b c =>
    { s.updPartition part fun p => { p with census := c.foldl (fun t x => put x.1 x.2 t) p.census } with
      barriers := b.map (fun x => { x with releasing := false }) ++ s.barriers.filter fun x => !(x.key.part == part && barNode x.key == k) }
  | .sampler k, .sampler x => s.updSampler k fun y =>
      let own (j : Nat) : Bool := (look 0 j y.own).getLsbD 7 && (look 0 j y.own).toNat % 32 == part
      { y with images := x.images.filter (fun e => own e.1) ++ y.images.filter (fun e => !own e.1)
               lists := x.lists.filter (fun e => own e.1) ++ y.lists.filter (fun e => !own e.1)
               queue := byOrder (x.queue.filter (fun w => w.req.part == part) ++ y.queue) }
  | .baseDie, .base c accepted =>
    { s with
      contexts := s.contexts.filter (fun x => x.1 / 64 != part) ++ c.filter (fun x => x.1 / 64 == part)
      ports := s.ports.map fun p => if p.2.owner == some part then
        (p.1, { p.2 with accepted := look 0 p.1 accepted, posted := look 0 p.1 accepted }) else p }
  | _, _ => s

/-- The time limits of a partition's barriers and open censuses start again, and a census whose cores have all answered completes (R305, R379,
R380). DEDUCED (log 92): the whole limit. -/
def startLimits (s : State) (part : Nat) : State :=
  let win := Bits.get (s.partition part).coltmo.toNat 31 0
  let s1 := (s.barriers.filter fun b => b.key.part == part).foldl (fun (s : State) b =>
    let phases := (b.counts.map (·.phase)).foldl (fun acc p => if acc.contains p then acc else p :: acc) []
    (if win = 0 then s else phases.foldl (fun (s : State) p => s.emit (win * 1024) (.barrierTimeout b.key p)) s).barCheck b.key) s
  (s1.partition part).census.foldl (fun (s : State) x =>
    let id : CensusId := ⟨part, x.1, x.2.seq⟩
    let scope := match x.2.q with | some q => q.scope | none => 0
    if !x.2.open_ || x.2.complete then s
    else
      let s1 := if win = 0 then s else s.emit (win * 1024) (.censusTimeout id)
      if x.2.left.isEmpty && !(scope == 4 && s.foreign part) then s1.emit (censusCycles scope) (.censusComplete id) else s1) s1

/-- The restart of what was restored: copies of constant windows, budgets, waiting starts, messages that slices hold, requests of samplers. -/
def restart (s : State) (part : Nat) : State :=
  let refs := s.strandsWhere fun _ t => t.part == part
  let s1 := refs.foldl (fun (s : State) r =>
    let s1 := s.copyStart r
    let t := s1.strand r
    if t.counted && !t.spent && t.wait != .stopped then s1.emit (t.budgetNow s.now).toNat (.budgetOverrun r t.startedAt) else s1) s
  let s2 := (s1.homeList part).foldl (fun (s : State) q =>
    (s.slice q).forwards.foldl (fun (s : State) f => s.emit 0 (.heldMessageForward q f.core f.msg.high)) (s.offerQuire (4 * q))) s1
  let s3 := (s2.ports.filter fun p => p.2.owner == some part).foldl (fun (s : State) p =>
    p.2.held.foldl (fun (s : State) h => s.emit 0 (.portLineCommit p.1 part h.1 h.2))
      { s with ports := put p.1 { look Port.reset p.1 s.ports with held := [] } s.ports }) s2
  let s4 := (List.range 8).foldl (fun (s : State) k =>
    let waits := (s.sampler k).queue.any fun w => w.parked.isSome && !w.ready
    let looked := s.agenda.any fun x => match x.2.2 with | .samplerParkExamine n => n == k | _ => false
    if waits && !looked then s.emit (256 - s.now % 256) (.samplerParkExamine k) else s) (s3.startLimits part).unitsGoOn
  s4.startWatchdogs part

/-- A record of a channel is delivered again (R299): a message for its home comes on a channel of the home's own. -/
def redeliver (s : State) (e : Event) : State :=
  match e with
  | .messageAccept q p =>
    let k := (Sender.slice q, homeKey s.pkgid q)
    let n := ((s.chseq.find? fun c => c.1 == k).map (·.2)).getD 0
    { s with chseq := (k, (n + 1) % 2 ^ 32) :: s.chseq.filter fun c => c.1 != k }.emit 0
      (.messageAccept q { p with sender := .slice q, out := none, msg := { p.msg with chseq := BitVec.ofNat 32 n } })
  | .messageAtCore core slice a m =>
    (s.updCore core fun c => if m.high then { c with highSent := c.highSent + 1 } else { c with lowSent := c.lowSent + 1 }).emit 0
      (.messageAtCore core slice a m)
  | e => s.emit 0 e

/-- An actor slot and an Ephemeris entry of records made at different moments stand only together: LIVE, at that core and slot (R35, R294).
DEDUCED (log 92): a slot in retirement or on its move is live again, one that was being filled is filled anew. -/
def reconcile (s : State) (part : Nat) : State :=
  let live (core j : Nat) (x : ActorSlot) : Bool :=
    match s.eph x.slice x.actor with
    | some e => e.phase == .live && e.core == core && e.index == j
    | none => false
  let mine := s.cores.filter fun e => s.owner (quireOf e.1) == some part
  let s1 := mine.foldl (fun (s : State) e =>
    let gone (a : ActorId) : Option ActorSlot := (e.2.actors.find? fun x => x.2.actor == a && !live e.1 x.1 x.2).map (·.2)
    let s1 := s.updCore e.1 fun c =>
      { c with actors := (c.actors.filter fun x => live e.1 x.1 x.2).map fun x =>
                 (x.1, { x.2 with phase := if x.2.phase == .filling then .filling else .live, noticed := false })
               lowQ := c.lowQ.filter fun q => (gone q.actor).isNone
               highQ := c.highQ.filter fun q => (gone q.actor).isNone }
    let s2 := (e.2.lowQ ++ e.2.highQ).foldl (fun (s : State) q =>
      match gone q.actor with | some x => s.bounce e.1 x.slice q.actor q.msg | none => s) s1
    (e.2.actors.filter fun x => x.2.phase == .filling && live e.1 x.1 x.2).foldl (fun (s : State) x => s.emit 0 (.slotFillDone e.1 x.1)) s2) s
  { s1 with slices := s1.slices.map fun x =>
      if s1.owner x.1 == some part then
        (x.1, { x.2 with ephs := x.2.ephs.filter fun e =>
          e.phase != .live || ((s1.core e.core).actors.any fun a => a.1 == e.index && a.2.actor == e.actor) })
      else x }

/-- Censuses whose broadcast no record of the cut shows are free: their `solicit` runs again (R302, R308). -/
def dropUnsent (s : State) (part : Nat) (e : Edition) : State :=
  s.updPartition part fun p =>
    { p with census := p.census.map fun x =>
        let known := s.cores.any (fun c => s.owner (quireOf c.1) == some part && c.2.seen.contains (x.1, x.2.seq)) ||
          e.channel.any fun r => match r.2 with | .censusProcess _ c _ => c.slot == x.1 && c.seq == x.2.seq | _ => false
        if x.2.open_ && !x.2.sent && !known then (x.1, { Census.reset with seq := x.2.seq }) else x }

/-- What a slice had of its edition and not yet accepted or begun comes to it again (R298): packets that had arrived, a port's among those that the host
posts again (R299), and transitions that waited for the switch. -/
def resumeSlices (s : State) (e : Edition) : State :=
  e.records.foldl (fun (s : State) u =>
    match u with
    | (.slice q, .slice x) =>
      let s1 := (x.arrived.filter fun p => match p.sender with | .port _ => false | _ => true).foldl (fun (s : State) p => s.redeliver (.messageAccept q p)) s
      x.heldReports.foldl (fun (s : State) r => s.emit 0 r) s1
    | _ => s) s

/-- The partition begins its return to a complete edition (R299): its work and its lines go. DEDUCED (log 92): a moment later it is restored. -/
def rollBack (s : State) (part : Nat) (e : Edition) : State :=
  (((s.discardWork part).dropLines part).updPartition part fun p => { p with restoring := some e.n }).emitNet 0 (.editionComplete part)

/-- The partition is restored (R299). -/
def restore (s1 : State) (part : Nat) (e : Edition) : State :=
  let later := s1.editions.filter fun x => x.part == part && e.n.toNat ≤ x.n.toNat
  let newest := later.foldl (fun acc x => acc.takeWhile (fun y => x.n.toNat < y.n.toNat) ++ [x] ++ acc.dropWhile (fun y => x.n.toNat < y.n.toNat)) []
  let s2 := newest.foldl (fun (s : State) x => s.undoPages x) s1
  let s3 := e.records.foldl (fun (s : State) u => s.reload part e.n u.1 u.2) s2
  let s4 := (s3.updPartition part fun p => { p with edition := e.n, hmask := e.hmask, plimit := e.plimit, checkpoint := false, restoring := none }).headerPut e 52
    (Bytes.ofNat 4 0)
  let s5 := (newest.filter fun x => x.n != e.n).foldl (fun (s : State) x =>
    (s.headerPut x 4 [2]).updEdition part x.n fun x => { x with state := 2 }) s4
  let s6 := ((s5.reconcile part).dropUnsent part e).resumeSlices e
  (e.channel.foldl (fun (s : State) x => s.redeliver x.2) s6).restart part

end State

/-- EDITION_COMPLETE (R297, R299): the controller looks whether the open edition is complete, or a partition that returns to a cut is restored. -/
def execEditionComplete (s : State) : Result :=
  .next <|
    match s.ev with
    | .editionComplete part =>
      match (s.partition part).restoring with
      | none => s.completeEdition part
      | some n => match s.editionOf part n with | some e => s.restore part e | none => s
    | _ => s

/-- A saturating 32-bit counter of ERRCNT (R387). -/
def countUp (n : Nat) : Nat := min (2 ^ 32 - 1) (n + 1)

namespace State

/-- The packages of a partition (R344). -/
def packages (s : State) (part : Nat) : List Nat :=
  let n := Bits.get (s.partition part).podN.toNat 9 0
  if n = 0 then [s.pkgid] else (List.range n).map fun j => Bits.get (look 0 j (s.partition part).podHome).toNat 9 0

/-! ## The quiesce (R388) and the checkpoint strands (R389) -/

/-- The checkpoint entry of a context, if it has one: its class entry and its pc. -/
def checkpointEntry (s : State) (part ctx : Nat) : State × Option (ClassEntry × Nat × Word) :=
  let x := s.context part ctx
  let cls := Bits.get x.upcall.toNat 47 32
  let at_ := 8 * (Bits.get x.upcall.toNat 31 0 + 1)
  if x.clsNum.toNat ≤ cls then (s, none)
  else
    match s.classEntry part ctx cls with
    | (s1, .error _) => (s1, none)
    | (s1, .ok e) => (s1, if at_ < e.codeLim.toNat then some (e, cls, BitVec.ofNat 64 (e.code.toNat + at_)) else none)

/-- One checkpoint strand starts. -/
def startCheckpoint (s : State) (part ctx core : Nat) (code : EventCode) (info : Word) : State :=
  match s.checkpointEntry part ctx with
  | (s1, none) => s1
  | (s1, some (e, cls, pc)) =>
    let last := s1.lastComplete part
    let n : Word := match last with | some x => x.n.setWidth 64 | none => 0
    let header : Word := match last with | some x => x.header | none => 0
    let regs := [code.byte.setWidth 64, info, n, header, (s1.partition part).evCnt, BitVec.ofNat 64 ctx]
    let l := { classLaunch .checkpoint part ctx e (BitVec.ofNat 64 (cls * 256 + 0xFF)) pc regs with
               budget := BitVec.allOnes 64, counted := false, task := s1.ids }
    (s1.newTask { Task.none with part := part, ctx := ctx, core := core }).begin_ ⟨core, ctx % 12⟩ l 0

/-- The checkpoint strands of a partition, in the lowest package that is reached. -/
def startCheckpoints (s : State) (part : Nat) (code : EventCode) (info : Word) : State :=
  let lowest := ((s.packages part).filter s.reachable).foldl min 1024
  if lowest ≠ s.pkgid then s
  else
    let cores := s.coresIn part
    let s1 := (List.range 64).foldl (fun (s : State) c =>
      match cores[c / 12]? with
      | some core => s.startCheckpoint part c core code info
      | none => s) s
    if (s1.strandsWhere fun _ t => t.part == part).isEmpty then s1.emit 0 (.partitionStop part) else s1

/-- A partition event (R386, R388, R392): an open edition aborts, the work goes, the record and vector 0 follow, and the
checkpoint strands start; in the checkpoint state only the record and the vector. -/
def partitionEvent (s : State) (part : Nat) (code : EventCode) (src unit : Nat) (info : Word) (detail : List Byte) : State :=
  let record (s : State) : State := (s.report part none code.byte src unit info detail).raiseVector part 0
  if !s.running part then s
  else if s.checkpointing part then record s
  else
    let s1 := record (((s.abortEdition part 6 0).discardWork part).dropLines part)
    (s1.updPartition part fun p => { p with checkpoint := true }).startCheckpoints part code info

/-- A partition event found here (R385, R388): every package of the partition that is reached gets the quiesce collective. -/
def quiesceAll (s : State) (part : Nat) (code : EventCode) (src unit : Nat) (info : Word) (detail : List Byte) : State :=
  if !s.running part then s
  else
    (((s.listed part).filter fun k => k != s.pkgid && s.reachable k).foldl (fun (s : State) k =>
      s.toFabric (.collective k part (code == .fabricLoss) info detail)) s).partitionEvent part code src unit info detail

/-- FABRIC_LOSS found here (R385). -/
def fabricLoss (s : State) (part unit : Nat) (info : Word) : State :=
  s.quiesceAll part .fabricLoss 6 unit info (Bytes.ofNat 2 s.pkgid)

end State

/-- LINK_LOST (R385): the paths that use the link go. Where it is this package's own, this one is the detecting package of causes 0 and 1, the
second for a package that it has lost with the link. -/
def execLinkLost (s : State) : Result :=
  .next <|
    match s.ev with
    | .linkLost near far inFlight =>
      if near ≠ s.pkgid && far ≠ s.pkgid then { s with lostLinks := (min near far, max near far) :: s.lostLinks.filter (· != (min near far, max near far)) }
      else
        let peer := if near = s.pkgid then far else near
        let port := portTo s.pkgid peer
        let s1 := { s with portsUp := s.portsUp.del port }
        (List.range Config.partitions).foldl (fun (s2 : State) p =>
          if inFlight.contains p then s2.fabricLoss p port (BitVec.ofNat 64 peer)
          else
            match (s.listed p).find? fun k => s.reachable k && !s1.reachable k with
            | some k => s2.fabricLoss p port (BitVec.ofNat 64 (k + 65536))
            | none => s2) s1
    | _ => s

/-- FLIT_REPLAY (R350, R387). -/
def execFlitReplay (s : State) : Result :=
  .next <| match s.ev with | .flitReplay _ => { s with corrected := countUp s.corrected } | _ => s

/-- QUIESCE_WRITE (R385): cause 2. -/
def execQuiesceWrite (s : State) : Result :=
  .next <|
    match s.ev with
    | .quiesceWrite val =>
      ((List.range Config.partitions).filter fun p => val.getLsbD p).foldl (fun (s : State) p => s.fabricLoss p 0 0x20000) s
    | _ => s

/-- The SRC of an error's record (R366). -/
def errorSource (code : Nat) : Nat :=
  match code with
  | 1 | 2 | 5 | 8 | 9 => 1
  | 3 | 4 => 0
  | 6 => 2
  | 7 => 7
  | 11 => 4
  | _ => 5

/-- QUIESCE_COLLECTIVE (R385, R388): the event is raised here with the same INFO. -/
def execQuiesceCollective (s : State) : Result :=
  .next <|
    match s.ev with
    | .quiesceCollective part loss info detail =>
      if !s.takesPackets part then s
      else s.partitionEvent part (if loss then .fabricLoss else .uncorrectable) (if loss then 6 else errorSource info.toNat) 0 info detail
    | _ => s

/-- UNCORRECTABLE (R386, R387): the owner's event, or every running partition's for a shared structure; in a record that is being restored it stops the
partition (R392; DEDUCED, log 92: records are read from HBM, structure 7). -/
def execUncorrectable (s : State) : Result :=
  .next <|
    match s.ev with
    | .uncorrectable e =>
      let s1 := { s with uncorrected := countUp s.uncorrected }
      let hit (s : State) (p : Nat) : State :=
        let s1 := s.quiesceAll p .uncorrectable (errorSource e.structureCode) e.unit (BitVec.ofNat 64 e.structureCode) (Bytes.ofNat 8 e.addr.toNat)
        if (s.partition p).restoring.isSome && e.structureCode = 7 then s1.emit 0 (.partitionStop p) else s1
      if e.structureCode = 12 then (List.range Config.partitions).foldl hit s1
      else
        match e.part with
        | some p => hit s1 p
        | none => s1
    | _ => s

/-- REGISTER_PARITY_ERROR (R386): the strand's chunk is squashed and issues again from its checkpoint; a strand that sleeps or is stopped, with no chunk
that could still be squashed, has its registers corrected where it stands. DESIGN CHOICE (log 88): so has one whose chunk has been performed alone. -/
def execRegisterParityError (s : State) : Result :=
  .next <|
    match s.ev with
    | .registerParityError r =>
      let s1 := { s with corrected := countUp s.corrected }
      let t := s1.strand r
      if !s1.occupied r then s1
      else if t.opened.count ≠ 0 then s1.squashFrom r t.closed.length
      else
        match t.closed.getLast? with
        | some c => if c.granted.isNone && !c.alone then s1.squashFrom r (t.closed.length - 1) else s1
        | none => s1
    | _ => s

/-- CORRECTED_ERROR (R386): counted; a clean line is dropped where it erred, in a core's L1 (structure 2) or at its slice. -/
def execCorrectedError (s : State) : Result :=
  .next <|
    match s.ev with
    | .correctedError e line =>
      let s1 := { s with corrected := countUp s.corrected }
      match line with
      | none => s1
      | some (part, n) =>
        if e.structureCode = 2 then s1.leaveL1 e.unit fun l => l.part == part && l.line == n
        else { s1 with l2 := s1.l2.filter fun l => !(l.part == part && l.line == n && l.dirty.isEmpty) }
    | _ => s

/-- LINK_TRAINING (R348, R352) of this package's port, or of another's: one whose neighbour is not that of the geometry stays down. -/
def execLinkTraining (s : State) : Result :=
  .next <|
    match s.ev with
    | .linkTraining near port neighbour =>
      let fits := (packageNeighbours near)[port]? == some neighbour
      if near = s.pkgid then { s with portsUp := if fits then s.portsUp.add port else s.portsUp.del port }
      else if fits then { s with lostLinks := s.lostLinks.filter (· != (min near neighbour, max near neighbour)) }
      else s
    | _ => s

/-- POWER_GOOD (R363): bring-up leaves the part as after reset; the model's free values go on. -/
def execPowerGood (s : State) : Result :=
  .next <|
    resetAgenda.foldl (fun (s : State) x => s.emit x.1 x.2.2) { State.reset with agenda := [], free := s.free, ids := s.ids, flush := .all }

/-! ## rollback (R228, R299, R391) -/

/-- `rollback` (R228): privileged and alone; the partition returns to its last complete edition once every package of it is
reached; outside the checkpoint state an open edition aborts first (R399). -/
def execRollback (c : CWord) (s : State) : Result :=
  privileged (.rollback c) s fun s =>
    let part := s.me.part
    match s.lastComplete part with
    | none => s.raiseCode .reservedField
    | some e =>
      if s.opA c ≠ e.n.setWidth 64 then s.raiseCode .reservedField
      else if !s.aloneNow then s.waitAlone
      else if !((s.packages part).all s.reachable) then s.stall (.untilCycle (s.now + 64))
      else
        let s1 := if s.checkpointing part then s else s.abortEdition part 6 0
        { s1.rollBack part e with issue := .no }

end Sys2Proof.Machine
end

