-- ==== Sys2Proof/Machine/Dispatch.lean ====
section
/-! DEFINITION. One arm for every step of the part. -/

namespace Sys2Proof.Machine

def exec (i : Instr) (s : State) : Host.Outcome State Fault Refusal :=
  match i with
  | .nopC c => Sys2Proof.Machine.execNopC c s
  | .jmp c => Sys2Proof.Machine.execJmp c s
  | .jal c => Sys2Proof.Machine.execJal c s
  | .jr c => Sys2Proof.Machine.execJr c s
  | .bz c => Sys2Proof.Machine.execBz c s
  | .bnz c => Sys2Proof.Machine.execBnz c s
  | .bkany c => Sys2Proof.Machine.execBkany c s
  | .bkall c => Sys2Proof.Machine.execBkall c s
  | .loop c => Sys2Proof.Machine.execLoop c s
  | .endStrand c => Sys2Proof.Machine.execEndStrand c s
  | .fork c => Sys2Proof.Machine.execFork c s
  | .join c => Sys2Proof.Machine.execJoin c s
  | .jend c => Sys2Proof.Machine.execJend c s
  | .migr c => Sys2Proof.Machine.execMigr c s
  | .yield c => Sys2Proof.Machine.execYield c s
  | .trap c => Sys2Proof.Machine.execTrap c s
  | .send c => Sys2Proof.Machine.execSend c s
  | .spawn c => Sys2Proof.Machine.execSpawn c s
  | .bar c => Sys2Proof.Machine.execBar c s
  | .mon c => Sys2Proof.Machine.execMon c s
  | .waitm c => Sys2Proof.Machine.execWaitm c s
  | .snap c => Sys2Proof.Machine.execSnap c s
  | .solicit c => Sys2Proof.Machine.execSolicit c s
  | .cwait c => Sys2Proof.Machine.execCwait c s
  | .catIns c => Sys2Proof.Machine.execCatIns c s
  | .catDel c => Sys2Proof.Machine.execCatDel c s
  | .catGive c => Sys2Proof.Machine.execCatGive c s
  | .replyCen c => Sys2Proof.Machine.execReplyCen c s
  | .replyMsg c => Sys2Proof.Machine.execReplyMsg c s
  | .ldB c => Sys2Proof.Machine.execLdB c s
  | .ldH c => Sys2Proof.Machine.execLdH c s
  | .ldW c => Sys2Proof.Machine.execLdW c s
  | .ldD c => Sys2Proof.Machine.execLdD c s
  | .ldBu c => Sys2Proof.Machine.execLdBu c s
  | .ldHu c => Sys2Proof.Machine.execLdHu c s
  | .ldWu c => Sys2Proof.Machine.execLdWu c s
  | .stB c => Sys2Proof.Machine.execStB c s
  | .stH c => Sys2Proof.Machine.execStH c s
  | .stW c => Sys2Proof.Machine.execStW c s
  | .stD c => Sys2Proof.Machine.execStD c s
  | .vldB c => Sys2Proof.Machine.execVldB c s
  | .vldH c => Sys2Proof.Machine.execVldH c s
  | .vldW c => Sys2Proof.Machine.execVldW c s
  | .vstB c => Sys2Proof.Machine.execVstB c s
  | .vstH c => Sys2Proof.Machine.execVstH c s
  | .vstW c => Sys2Proof.Machine.execVstW c s
  | .vgat c => Sys2Proof.Machine.execVgat c s
  | .vsca c => Sys2Proof.Machine.execVsca c s
  | .ldf c => Sys2Proof.Machine.execLdf c s
  | .ldfc c => Sys2Proof.Machine.execLdfc c s
  | .stf c => Sys2Proof.Machine.execStf c s
  | .stnt c => Sys2Proof.Machine.execStnt c s
  | .vstnt c => Sys2Proof.Machine.execVstnt c s
  | .pref c => Sys2Proof.Machine.execPref c s
  | .stmx c => Sys2Proof.Machine.execStmx c s
  | .atomAdd c => Sys2Proof.Machine.execAtomAdd c s
  | .atomAnd c => Sys2Proof.Machine.execAtomAnd c s
  | .atomOr c => Sys2Proof.Machine.execAtomOr c s
  | .atomXor c => Sys2Proof.Machine.execAtomXor c s
  | .atomMin c => Sys2Proof.Machine.execAtomMin c s
  | .atomMax c => Sys2Proof.Machine.execAtomMax c s
  | .atomMinu c => Sys2Proof.Machine.execAtomMinu c s
  | .atomMaxu c => Sys2Proof.Machine.execAtomMaxu c s
  | .atomSwap c => Sys2Proof.Machine.execAtomSwap c s
  | .atomCas c => Sys2Proof.Machine.execAtomCas c s
  | .atomFadd c => Sys2Proof.Machine.execAtomFadd c s
  | .vatomAdd c => Sys2Proof.Machine.execVatomAdd c s
  | .vatomAnd c => Sys2Proof.Machine.execVatomAnd c s
  | .vatomOr c => Sys2Proof.Machine.execVatomOr c s
  | .vatomXor c => Sys2Proof.Machine.execVatomXor c s
  | .vatomMin c => Sys2Proof.Machine.execVatomMin c s
  | .vatomMax c => Sys2Proof.Machine.execVatomMax c s
  | .vatomMinu c => Sys2Proof.Machine.execVatomMinu c s
  | .vatomMaxu c => Sys2Proof.Machine.execVatomMaxu c s
  | .vatomSwap c => Sys2Proof.Machine.execVatomSwap c s
  | .vatomFadd c => Sys2Proof.Machine.execVatomFadd c s
  | .fence c => Sys2Proof.Machine.execFence c s
  | .drain c => Sys2Proof.Machine.execDrain c s
  | .wbr c => Sys2Proof.Machine.execWbr c s
  | .invL1 c => Sys2Proof.Machine.execInvL1 c s
  | .invHome c => Sys2Proof.Machine.execInvHome c s
  | .wmaskSet c => Sys2Proof.Machine.execWmaskSet c s
  | .wmaskClr c => Sys2Proof.Machine.execWmaskClr c s
  | .wmaskPut c => Sys2Proof.Machine.execWmaskPut c s
  | .cmd c => Sys2Proof.Machine.execCmd c s
  | .jwait c => Sys2Proof.Machine.execJwait c s
  | .jpoll c => Sys2Proof.Machine.execJpoll c s
  | .topk c => Sys2Proof.Machine.execTopk c s
  | .sfuRcp c => Sys2Proof.Machine.execSfuRcp c s
  | .sfuSqrt c => Sys2Proof.Machine.execSfuSqrt c s
  | .sfuRsqrt c => Sys2Proof.Machine.execSfuRsqrt c s
  | .sfuExp2 c => Sys2Proof.Machine.execSfuExp2 c s
  | .sfuLog2 c => Sys2Proof.Machine.execSfuLog2 c s
  | .sfuSinpi c => Sys2Proof.Machine.execSfuSinpi c s
  | .sfuCospi c => Sys2Proof.Machine.execSfuCospi c s
  | .sfuTanh c => Sys2Proof.Machine.execSfuTanh c s
  | .enc8 c => Sys2Proof.Machine.execEnc8 c s
  | .ltab c => Sys2Proof.Machine.execLtab c s
  | .samp c => Sys2Proof.Machine.execSamp c s
  | .csrr c => Sys2Proof.Machine.execCsrr c s
  | .csrw c => Sys2Proof.Machine.execCsrw c s
  | .resume c => Sys2Proof.Machine.execResume c s
  | .tinvPage c => Sys2Proof.Machine.execTinvPage c s
  | .tinvCtx c => Sys2Proof.Machine.execTinvCtx c s
  | .tinvPart c => Sys2Proof.Machine.execTinvPart c s
  | .ctxsw c => Sys2Proof.Machine.execCtxsw c s
  | .rollback c => Sys2Proof.Machine.execRollback c s
  | .hmset c => Sys2Proof.Machine.execHmset c s
  | .nopA w => Sys2Proof.Machine.execNopA w s
  | .add w => Sys2Proof.Machine.execAdd w s
  | .sub w => Sys2Proof.Machine.execSub w s
  | .mul w => Sys2Proof.Machine.execMul w s
  | .mulh w => Sys2Proof.Machine.execMulh w s
  | .mulhu w => Sys2Proof.Machine.execMulhu w s
  | .mad w => Sys2Proof.Machine.execMad w s
  | .min w => Sys2Proof.Machine.execMin w s
  | .max w => Sys2Proof.Machine.execMax w s
  | .minu w => Sys2Proof.Machine.execMinu w s
  | .maxu w => Sys2Proof.Machine.execMaxu w s
  | .and w => Sys2Proof.Machine.execAnd w s
  | .or w => Sys2Proof.Machine.execOr w s
  | .xor w => Sys2Proof.Machine.execXor w s
  | .andn w => Sys2Proof.Machine.execAndn w s
  | .shl w => Sys2Proof.Machine.execShl w s
  | .shr w => Sys2Proof.Machine.execShr w s
  | .sar w => Sys2Proof.Machine.execSar w s
  | .rot w => Sys2Proof.Machine.execRot w s
  | .popc w => Sys2Proof.Machine.execPopc w s
  | .clz w => Sys2Proof.Machine.execClz w s
  | .ctz w => Sys2Proof.Machine.execCtz w s
  | .neg w => Sys2Proof.Machine.execNeg w s
  | .not w => Sys2Proof.Machine.execNot w s
  | .abs w => Sys2Proof.Machine.execAbs w s
  | .brev w => Sys2Proof.Machine.execBrev w s
  | .lid w => Sys2Proof.Machine.execLid w s
  | .cmp w => Sys2Proof.Machine.execCmp w s
  | .cmpu w => Sys2Proof.Machine.execCmpu w s
  | .fadd w => Sys2Proof.Machine.execFadd w s
  | .fsub w => Sys2Proof.Machine.execFsub w s
  | .fmul w => Sys2Proof.Machine.execFmul w s
  | .ffma w => Sys2Proof.Machine.execFfma w s
  | .fmin w => Sys2Proof.Machine.execFmin w s
  | .fmax w => Sys2Proof.Machine.execFmax w s
  | .fneg w => Sys2Proof.Machine.execFneg w s
  | .fabs w => Sys2Proof.Machine.execFabs w s
  | .ffloor w => Sys2Proof.Machine.execFfloor w s
  | .fceil w => Sys2Proof.Machine.execFceil w s
  | .ftrunc w => Sys2Proof.Machine.execFtrunc w s
  | .fround w => Sys2Proof.Machine.execFround w s
  | .frint w => Sys2Proof.Machine.execFrint w s
  | .fclass w => Sys2Proof.Machine.execFclass w s
  | .fsgn w => Sys2Proof.Machine.execFsgn w s
  | .fcmp w => Sys2Proof.Machine.execFcmp w s
  | .cvtFtoi w => Sys2Proof.Machine.execCvtFtoi w s
  | .cvtFtou w => Sys2Proof.Machine.execCvtFtou w s
  | .cvtFtoiz w => Sys2Proof.Machine.execCvtFtoiz w s
  | .cvtFtouz w => Sys2Proof.Machine.execCvtFtouz w s
  | .cvtItof w => Sys2Proof.Machine.execCvtItof w s
  | .cvtUtof w => Sys2Proof.Machine.execCvtUtof w s
  | .cvtFtoh w => Sys2Proof.Machine.execCvtFtoh w s
  | .cvtFtob w => Sys2Proof.Machine.execCvtFtob w s
  | .cvtHtof w => Sys2Proof.Machine.execCvtHtof w s
  | .cvtBtof w => Sys2Proof.Machine.execCvtBtof w s
  | .cvtFtol w => Sys2Proof.Machine.execCvtFtol w s
  | .cvtLtof w => Sys2Proof.Machine.execCvtLtof w s
  | .sel w => Sys2Proof.Machine.execSel w s
  | .mov w => Sys2Proof.Machine.execMov w s
  | .bcast w => Sys2Proof.Machine.execBcast w s
  | .shuf w => Sys2Proof.Machine.execShuf w s
  | .lrot w => Sys2Proof.Machine.execLrot w s
  | .redAdd w => Sys2Proof.Machine.execRedAdd w s
  | .redAnd w => Sys2Proof.Machine.execRedAnd w s
  | .redOr w => Sys2Proof.Machine.execRedOr w s
  | .redXor w => Sys2Proof.Machine.execRedXor w s
  | .redMin w => Sys2Proof.Machine.execRedMin w s
  | .redMax w => Sys2Proof.Machine.execRedMax w s
  | .redMinu w => Sys2Proof.Machine.execRedMinu w s
  | .redMaxu w => Sys2Proof.Machine.execRedMaxu w s
  | .redFadd w => Sys2Proof.Machine.execRedFadd w s
  | .redFmin w => Sys2Proof.Machine.execRedFmin w s
  | .redFmax w => Sys2Proof.Machine.execRedFmax w s
  | .scanAdd w => Sys2Proof.Machine.execScanAdd w s
  | .scanAnd w => Sys2Proof.Machine.execScanAnd w s
  | .scanOr w => Sys2Proof.Machine.execScanOr w s
  | .scanXor w => Sys2Proof.Machine.execScanXor w s
  | .scanMin w => Sys2Proof.Machine.execScanMin w s
  | .scanMax w => Sys2Proof.Machine.execScanMax w s
  | .scanMinu w => Sys2Proof.Machine.execScanMinu w s
  | .scanMaxu w => Sys2Proof.Machine.execScanMaxu w s
  | .scanFadd w => Sys2Proof.Machine.execScanFadd w s
  | .scanFmin w => Sys2Proof.Machine.execScanFmin w s
  | .scanFmax w => Sys2Proof.Machine.execScanFmax w s
  | .kopAnd w => Sys2Proof.Machine.execKopAnd w s
  | .kopOr w => Sys2Proof.Machine.execKopOr w s
  | .kopXor w => Sys2Proof.Machine.execKopXor w s
  | .kopAndn w => Sys2Proof.Machine.execKopAndn w s
  | .kopNot w => Sys2Proof.Machine.execKopNot w s
  | .kopMov w => Sys2Proof.Machine.execKopMov w s
  | .kopLow w => Sys2Proof.Machine.execKopLow w s
  | .addsat w => Sys2Proof.Machine.execAddsat w s
  | .subsat w => Sys2Proof.Machine.execSubsat w s
  | .dp4 w => Sys2Proof.Machine.execDp4 w s
  | .fdp2 w => Sys2Proof.Machine.execFdp2 w s
  | .samplerHalt w => Sys2Proof.Machine.execSamplerHalt w s
  | .samplerLdi w => Sys2Proof.Machine.execSamplerLdi w s
  | .samplerAdd w => Sys2Proof.Machine.execSamplerAdd w s
  | .samplerSub w => Sys2Proof.Machine.execSamplerSub w s
  | .samplerMulq w => Sys2Proof.Machine.execSamplerMulq w s
  | .samplerXfer w => Sys2Proof.Machine.execSamplerXfer w s
  | .samplerBz w => Sys2Proof.Machine.execSamplerBz w s
  | .samplerBnz w => Sys2Proof.Machine.execSamplerBnz w s
  | .samplerLdc w => Sys2Proof.Machine.execSamplerLdc w s
  | .samplerStc w => Sys2Proof.Machine.execSamplerStc w s
  | .samplerLdr w => Sys2Proof.Machine.execSamplerLdr w s
  | .samplerLogit w => Sys2Proof.Machine.execSamplerLogit w s
  | .samplerKeep w => Sys2Proof.Machine.execSamplerKeep w s
  | .samplerGmask w => Sys2Proof.Machine.execSamplerGmask w s
  | .samplerPen w => Sys2Proof.Machine.execSamplerPen w s
  | .samplerScale w => Sys2Proof.Machine.execSamplerScale w s
  | .samplerExpw w => Sys2Proof.Machine.execSamplerExpw w s
  | .samplerNucl w => Sys2Proof.Machine.execSamplerNucl w s
  | .samplerRand w => Sys2Proof.Machine.execSamplerRand w s
  | .samplerPick w => Sys2Proof.Machine.execSamplerPick w s
  | .samplerFind w => Sys2Proof.Machine.execSamplerFind w s
  | .samplerEmit w => Sys2Proof.Machine.execSamplerEmit w s
  | .zcfg x tile val => Sys2Proof.Machine.execZcfg x tile val s
  | .zzero x tiles => Sys2Proof.Machine.execZzero x tiles s
  | .mma x c => Sys2Proof.Machine.execMma x c s
  | .drainCommand x c => Sys2Proof.Machine.execDrainCommand x c s
  | .merr x c => Sys2Proof.Machine.execMerr x c s
  | .copy1d x c => Sys2Proof.Machine.execCopy1d x c s
  | .copy2d x c => Sys2Proof.Machine.execCopy2d x c s
  | .fillCmd x c => Sys2Proof.Machine.execFillCmd x c s
  | .gather2d x c => Sys2Proof.Machine.execGather2d x c s
  | .gatherCmd x c => Sys2Proof.Machine.execGatherCmd x c s
  | .decodeCmd x c => Sys2Proof.Machine.execDecodeCmd x c s
  | .engineCommandComplete => Sys2Proof.Machine.execEngineCommandComplete s
  | .engineWindowStore => Sys2Proof.Machine.execEngineWindowStore s
  | .wemptyWrite => Sys2Proof.Machine.execWemptyWrite s
  | .drainRowTakeout => Sys2Proof.Machine.execDrainRowTakeout s
  | .epilogueStart => Sys2Proof.Machine.execEpilogueStart s
  | .drainRowOutput => Sys2Proof.Machine.execDrainRowOutput s
  | .folioDecodeComplete => Sys2Proof.Machine.execFolioDecodeComplete s
  | .messageAccept => Sys2Proof.Machine.execMessageAccept s
  | .bouncedMessage => Sys2Proof.Machine.execBouncedMessage s
  | .entryFreeRound => Sys2Proof.Machine.execEntryFreeRound s
  | .retireRequest => Sys2Proof.Machine.execRetireRequest s
  | .activationOrder => Sys2Proof.Machine.execActivationOrder s
  | .retirementWritebackDone => Sys2Proof.Machine.execRetirementWritebackDone s
  | .slotFillDone => Sys2Proof.Machine.execSlotFillDone s
  | .ready => Sys2Proof.Machine.execReady s
  | .refused => Sys2Proof.Machine.execRefused s
  | .unfit => Sys2Proof.Machine.execUnfit s
  | .retireNotice => Sys2Proof.Machine.execRetireNotice s
  | .retired => Sys2Proof.Machine.execRetired s
  | .cancel => Sys2Proof.Machine.execCancel s
  | .activationFault => Sys2Proof.Machine.execActivationFault s
  | .moveOrder => Sys2Proof.Machine.execMoveOrder s
  | .moved => Sys2Proof.Machine.execMoved s
  | .messageAtCore => Sys2Proof.Machine.execMessageAtCore s
  | .heldMessageForward => Sys2Proof.Machine.execHeldMessageForward s
  | .taskStart => Sys2Proof.Machine.execTaskStart s
  | .taskEnd => Sys2Proof.Machine.execTaskEnd s
  | .portSlotWrite => Sys2Proof.Machine.execPortSlotWrite s
  | .portLineCommit => Sys2Proof.Machine.execPortLineCommit s
  | .portbindWrite => Sys2Proof.Machine.execPortbindWrite s
  | .spawnRequest => Sys2Proof.Machine.execSpawnRequest s
  | .spawnAnswer => Sys2Proof.Machine.execSpawnAnswer s
  | .spawnChildStart => Sys2Proof.Machine.execSpawnChildStart s
  | .dequePop => Sys2Proof.Machine.execDequePop s
  | .steal => Sys2Proof.Machine.execSteal s
  | .migrArrival => Sys2Proof.Machine.execMigrArrival s
  | .joinDecrementApplied => Sys2Proof.Machine.execJoinDecrementApplied s
  | .joinWake => Sys2Proof.Machine.execJoinWake s
  | .budgetOverrun => Sys2Proof.Machine.execBudgetOverrun s
  | .freeCountReport => Sys2Proof.Machine.execFreeCountReport s
  | .gkickWrite => Sys2Proof.Machine.execGkickWrite s
  | .nodeCompletion => Sys2Proof.Machine.execNodeCompletion s
  | .silentContext => Sys2Proof.Machine.execSilentContext s
  | .powerManagerExamine => Sys2Proof.Machine.execPowerManagerExamine s
  | .thermalThrottle => Sys2Proof.Machine.execThermalThrottle s
  | .thermalStop => Sys2Proof.Machine.execThermalStop s
  | .commitGrant => Sys2Proof.Machine.execCommitGrant s
  | .commitTakesEffect => Sys2Proof.Machine.execCommitTakesEffect s
  | .homeRequest => Sys2Proof.Machine.execHomeRequest s
  | .cacheFillReturn => Sys2Proof.Machine.execCacheFillReturn s
  | .invalidationArrival => Sys2Proof.Machine.execInvalidationArrival s
  | .peerOwnedRequest => Sys2Proof.Machine.execPeerOwnedRequest s
  | .hmsetSliceAdopt => Sys2Proof.Machine.execHmsetSliceAdopt s
  | .homeMoveStart => Sys2Proof.Machine.execHomeMoveStart s
  | .moveLineAck => Sys2Proof.Machine.execMoveLineAck s
  | .remoteLoadAtTarget => Sys2Proof.Machine.execRemoteLoadAtTarget s
  | .remoteAtomicAtTarget => Sys2Proof.Machine.execRemoteAtomicAtTarget s
  | .remoteResult => Sys2Proof.Machine.execRemoteResult s
  | .postedStoreApply => Sys2Proof.Machine.execPostedStoreApply s
  | .postedStoreAck => Sys2Proof.Machine.execPostedStoreAck s
  | .remoteRefused => Sys2Proof.Machine.execRemoteRefused s
  | .ldfWake => Sys2Proof.Machine.execLdfWake s
  | .waitmWake => Sys2Proof.Machine.execWaitmWake s
  | .waitmLimit => Sys2Proof.Machine.execWaitmLimit s
  | .jwaitWake => Sys2Proof.Machine.execJwaitWake s
  | .barrierArrival => Sys2Proof.Machine.execBarrierArrival s
  | .barrierRelease => Sys2Proof.Machine.execBarrierRelease s
  | .barrierTimeout => Sys2Proof.Machine.execBarrierTimeout s
  | .censusProcess => Sys2Proof.Machine.execCensusProcess s
  | .censusDone => Sys2Proof.Machine.execCensusDone s
  | .censusComplete => Sys2Proof.Machine.execCensusComplete s
  | .censusTimeout => Sys2Proof.Machine.execCensusTimeout s
  | .giveInstall => Sys2Proof.Machine.execGiveInstall s
  | .giveAck => Sys2Proof.Machine.execGiveAck s
  | .closeRequest => Sys2Proof.Machine.execCloseRequest s
  | .expcapWrite => Sys2Proof.Machine.execExpcapWrite s
  | .sampleRequestReserve => Sys2Proof.Machine.execSampleRequestReserve s
  | .sampleAnswer => Sys2Proof.Machine.execSampleAnswer s
  | .sampleRequestArrival => Sys2Proof.Machine.execSampleRequestArrival s
  | .samplerRun => Sys2Proof.Machine.execSamplerRun s
  | .samplerParkExamine => Sys2Proof.Machine.execSamplerParkExamine s
  | .samplerInstructionLimit => Sys2Proof.Machine.execSamplerInstructionLimit s
  | .editionMarker => Sys2Proof.Machine.execEditionMarker s
  | .editionPacket => Sys2Proof.Machine.execEditionPacket s
  | .coreSwitchTimeout => Sys2Proof.Machine.execCoreSwitchTimeout s
  | .homeSliceSwitch => Sys2Proof.Machine.execHomeSliceSwitch s
  | .editionComplete => Sys2Proof.Machine.execEditionComplete s
  | .cowCopy => Sys2Proof.Machine.execCowCopy s
  | .cowPoolRetry => Sys2Proof.Machine.execCowPoolRetry s
  | .strandFaultReport => Sys2Proof.Machine.execStrandFaultReport s
  | .upcallStart => Sys2Proof.Machine.execUpcallStart s
  | .linkLost => Sys2Proof.Machine.execLinkLost s
  | .flitReplay => Sys2Proof.Machine.execFlitReplay s
  | .quiesceCollective => Sys2Proof.Machine.execQuiesceCollective s
  | .uncorrectable => Sys2Proof.Machine.execUncorrectable s
  | .registerParityError => Sys2Proof.Machine.execRegisterParityError s
  | .correctedError => Sys2Proof.Machine.execCorrectedError s
  | .linkTraining => Sys2Proof.Machine.execLinkTraining s
  | .powerGood => Sys2Proof.Machine.execPowerGood s
  | .partitionStart => Sys2Proof.Machine.execPartitionStart s
  | .partitionStop => Sys2Proof.Machine.execPartitionStop s
  | .partitionStopComplete => Sys2Proof.Machine.execPartitionStopComplete s
  | .quiesceWrite => Sys2Proof.Machine.execQuiesceWrite s
  | .devenWrite => Sys2Proof.Machine.execDevenWrite s
  | .pkgidWrite => Sys2Proof.Machine.execPkgidWrite s
  | .waymaskWrite => Sys2Proof.Machine.execWaymaskWrite s
  | .aslotWrite => Sys2Proof.Machine.execAslotWrite s
  | .cbselWrite => Sys2Proof.Machine.execCbselWrite s
  | .ctxreqWrite => Sys2Proof.Machine.execCtxreqWrite s
  | .coreschedWrite => Sys2Proof.Machine.execCoreschedWrite s
  | .engflt1Write => Sys2Proof.Machine.execEngflt1Write s
  | .sampctlWrite => Sys2Proof.Machine.execSampctlWrite s
  | .samplerStoreWrite => Sys2Proof.Machine.execSamplerStoreWrite s
  | .ownershipWrite => Sys2Proof.Machine.execOwnershipWrite s
  | .notifyPageStore => Sys2Proof.Machine.execNotifyPageStore s
  | .hostWindowAccess => Sys2Proof.Machine.execHostWindowAccess s
  | .attestationRequest => Sys2Proof.Machine.execAttestationRequest s
  | .registerWrite => Sys2Proof.Machine.execRegisterWrite s
  | .moveCopyComplete => Sys2Proof.Machine.execMoveCopyComplete s
  | .homeAcknowledgement => Sys2Proof.Machine.execHomeAcknowledgement s
  | .giveRequest => Sys2Proof.Machine.execGiveRequest s
  | .giveAnswer => Sys2Proof.Machine.execGiveAnswer s
  | .censusSlotRequest => Sys2Proof.Machine.execCensusSlotRequest s
  | .censusIdAnswer => Sys2Proof.Machine.execCensusIdAnswer s
  | .snapRequestArrival => Sys2Proof.Machine.execSnapRequestArrival s
  | .snapAnswer => Sys2Proof.Machine.execSnapAnswer s

end Sys2Proof.Machine
end

