-- ==== Sys2Proof/Machine/Issue.lean ====
section
/-! DEFINITION. What a step does besides the meaning of an instruction: the waits that end, lookahead windows that
land (R191), fetch (R178-R183), the bundle that a core issues (R59, R180), engine acceptance (R259), sampler words
(R318), and the order of events. -/

namespace Sys2Proof.Machine

/-- No chunk of the strand waits to commit, and none is open. -/
def Strand.settled (t : Strand) : Bool := t.closed.isEmpty && t.opened.count == 0

/-- A window stands in the way of the strand's next bundle: no further bundle may issue before it, or the bundle
writes its destination, and its result is not there (R191). -/
def Strand.blockedBy (t : Strand) (now : Nat) (dests : List Dest) : Bool :=
  t.windows.any fun w => (w.left == 0 || w.dests.any fun d => dests.contains d) && !w.landable now

/-- The registers a bundle writes. -/
def bundleWrites : Bundle → List Dest
  | .single i => i.writes
  | .pair c a => c.writes ++ a.writes

/-- The v register a bundle's C-word names as destination. -/
def bundleDest : Bundle → Option (BitVec 5)
  | .single i | .pair i _ => i.cword.map fun x => x.2.d

/-- The level of a strand (R59): 0 high, 1 epilogue, 2 low. -/
def levelOf (slot : Nat) (t : Strand) : Nat := if 12 ≤ slot then 0 else if t.kind == .epilogue then 1 else 2

/-- The first of an ascending list of slots after a pointer, with wrap (R59). -/
def afterPointer (p : Nat) (l : List Nat) : Option Nat := (l.find? fun n => decide (p < n)).orElse fun _ => l.head?

/-- What a fetch finds (R178, R183). -/
inductive Fetched where
  | bundle (b : Bundle)
  | fault (f : FaultInfo)
  | miss
  deriving DecidableEq, Repr

namespace State

/-! ## Fetch -/

/-- The bundle at a strand's pc, with the checks of R183 in their order. A fetch is bounded by CODE and CODELIM
(R24), and its line must grant X (R145). -/
def fetch (s : State) (r : Ref) : Fetched :=
  let t := s.strand r
  let pc := t.regs.pc
  let f (c : EventCode) : FaultInfo := { code := c, va := pc, isFetch := true }
  if pc.toNat % 8 ≠ 0 then .fault (f .misalignedFetch)
  else if pc.toNat < t.code.toNat || t.code.toNat + t.codeLim.toNat ≤ pc.toNat then .fault (f .fetchLimit)
  else if pc.toNat / 2 ^ 57 ≠ 0 then .fault (f .notPresent)
  else if inAperture pc.toNat then .fault (f .aperture)
  else if s.homeMoved t.part pc.toNat then .fault (f .homeMoved)
  else
    match { s with cur := r, latch := none }.lookCached pc.toNat 8 .fetch with
    | .miss => .miss
    | .strong _ => .fault (f .strongMisuse)
    | .fault x => .fault { x with va := pc, isFetch := true }
    | .held b _ =>
      match decodeBundle (BitVec.ofNat 32 (Bytes.toNat (b.take 4))) (BitVec.ofNat 32 (Bytes.toNat ((b.drop 4).take 4))) with
      | .ok x => .bundle x
      | .error c => .fault { code := c }

/-- A write of WAYMASK or ASLOT of the strand has not taken effect (R33, R86, R123): its next chunk waits for that, as its bundles do under LA
(R191), unless the strand's own task holds an actor there, whose end the write waits for. -/
def csrWaits (s : State) (r : Ref) (t : Strand) : Bool :=
  let own := match (s.task t.task).actor with | some (c, _) => c == r.core | none => false
  (t.closed.any fun c => c.held.any fun h => match h with | .csr sel _ => sel == 0x010 || sel == 0x012 | _ => false) ||
    ((s.core r.core).aslotBy.contains t.startedAt && !own) || (s.core r.core).maskBy.contains t.startedAt

/-- The strand's wait lets it issue: it is not asleep, a third chunk does not start before the first of two has
committed (R154), and a chunk starts after one that reads at its commit (R158). After four squashes every bundle is a chunk of its own
(R158). -/
def mayIssue (s : State) (r : Ref) (t : Strand) : Bool :=
  (match t.wait with
   | .ready | .waking => true
   | .untilCycle n => decide (n ≤ s.now)
   | .committed => t.settled
   | _ => false) &&
  !(t.opened.count == 0 && (decide (2 ≤ t.closed.length) || t.owes || s.csrWaits r t)) && (t.solo == 0 || t.settled) && !t.blockedBy s.now []

/-- A bundle that reads the constant buffer waits for its copy (R81). -/
def awaitsCopy (t : Strand) (b : Bundle) : Bool :=
  (match t.copy with | .wanted | .asked | .remote _ => true | _ => false) &&
    (match b with | .single i => readsCb i | .pair c a => readsCb c || readsCb a)

/-- A strand is ready (R59): its bundle is fetched, or its fetch faults, and neither a window nor the copy of its
constants holds it. -/
def readyStrand (s : State) (r : Ref) (t : Strand) : Bool :=
  s.mayIssue r t && (t.asyncFaults.isEmpty || t.inFlight) &&
    (match s.fetch r with
     | .miss => false
     | .fault _ => true
     | .bundle b => !t.blockedBy s.now (bundleWrites b) && !awaitsCopy t b)

/-- The strand whose constants are wanted (R81), and not empty. -/
def copier (s : State) : Option Ref :=
  (s.strandsWhere fun r t => match t.copy with | .wanted => !s.copyWaits r t | _ => false).head?

/-- The strand that fetches a line next. -/
def fetcher (s : State) : Option Ref :=
  (s.strandsWhere fun r t =>
    s.mayIssue r t && (t.asyncFaults.isEmpty || t.inFlight) && (match s.fetch r with | .miss => true | _ => false)).head?

/-! ## Waits that end without an event -/

/-- The wait of a strand whose release, `drain` or maintenance is complete (R166, R173, R255). -/
def waitOver (s : State) (r : Ref) (t : Strand) : Bool :=
  match t.wait with
  | .release scope _ => t.closed.isEmpty && s.releaseDone r scope
  | .drained scope => t.closed.isEmpty && t.unackedStores == 0 && (decide (scope < 4) || (t.ntOut.isEmpty && !t.podWrites.any (·.2)))
  | .maintained => t.closed.all (·.alone) && t.unackedMaint == 0
  | _ => false

/-- A refusal or an expired budget may stop a strand before its next bundle (R374, R411). -/
def asyncDue (s : State) (t : Strand) : Bool :=
  !t.asyncFaults.isEmpty && !t.inFlight && !lastIssued t && (match t.wait with | .ready | .waking | .committed => true | .untilCycle n => decide (n ≤ s.now) | _ => false)

/-- The first of those stops the strand before the bundle it would issue; the chunk ends first (R374, R411, R412). -/
def raiseAsync (s : State) (r : Ref) : State :=
  match (s.strand r).asyncFaults with
  | [] => s
  | f :: rest => { s with cur := r, latch := none }.updStrand r (fun t => { t with asyncFaults := rest }) |>.stopWith f

/-- What follows a completed release (R168, R252, R284, R304). A refused store stops the strand instead of its
arrival at a barrier (R412). -/
def doAfter (s : State) (r : Ref) (a : After) : State :=
  let ready (t : Strand) : Strand := { t with wait := .ready }
  match a with
  | .go => s.updStrand r ready
  | .acquire scope => (s.acquire r.core scope).updStrand r ready
  | .answer _ v => (s.updTask (s.strand r).task fun k => { k with answer := some v }).updStrand r fun t => { t with wait := .ready, back := none }
  | .arrive b desc =>
    match (s.strand r).asyncFaults.find? (·.async) with
    | some f => (s.updStrand r fun t => { t with asyncFaults := t.asyncFaults.erase f }).raiseAsleep r f
    | none =>
      (s.updStrand r fun t => { t with wait := .asleep (.barrier b ((s.barrier b).openPhase (quireOf r.core))) }).emit 0
        (.barrierArrival b r desc (s.core r.core).edition)

def endWait (s : State) (r : Ref) : State :=
  match (s.strand r).wait with
  | .release _ a => s.doAfter r a
  | .drained _ => s.drainEnds r
  | _ => s.updStrand r fun t => { t with wait := .ready }

/-- The first instruction of a strand that waits for each kind of resource (R191). -/
def firstWants (t : Strand) : List (Nat × Want) :=
  t.wants.foldl (fun acc w => if acc.any fun x => x.2.kind == w.2.kind then acc else acc ++ [w]) []

/-- The resource is there. -/
def wantFree (s : State) (r : Ref) (w : Want) : Bool :=
  match w with
  | .journal _ _ _ => (journalFree (s.core r.core)).isSome
  | .outbound _ => (freeEntry 8 (s.core r.core).outbound).isSome
  | .queue e _ _ _ => s.queueFree (quireOf r.core) e r.core

def wantDue (s : State) (r : Ref) (t : Strand) : Option (Nat × Want) := (firstWants t).find? fun w => s.wantFree r w.2

/-- A strand's waiting instruction is accepted: its effect takes the place of its wait, and its window has its result (R129, R191, R214, R261). -/
def accepted (s : State) (r : Ref) (tag : Nat) (h : Held) (delay : Nat) (ws : List RegWrite) : State :=
  let f (c : Chunk) : Chunk := { c with held := c.held.map fun x => match x with | .wants n _ => if n = tag then h else x | _ => x }
  s.updStrand r fun t =>
    { t with opened := f t.opened, closed := t.closed.map f
             windows := t.windows.map fun w => if w.tag = tag then { w with writes := some ws, due := s.now + delay } else w }

def grantWant (s : State) (r : Ref) : State :=
  let t := s.strand r
  match s.wantDue r t with
  | none => s
  | some (tag, w) =>
    let chunk := (((t.windows.find? fun x => x.tag == tag).map (·.chunk)).getD t.opened.id)
    match w with
    | .journal p va width =>
      match journalFree (s.core r.core) with
      | some n => (s.takeJournal n chunk r va width).accepted r tag (.posted { p with idx := some n }) 0 []
      | none => s
    | .outbound m =>
      match freeEntry 8 (s.core r.core).outbound with
      | some n => (s.fillOutbound r.core n).accepted r tag (.send n m) 0 []
      | none => s
    | .queue e d words x =>
      let id := s.nextJob r.core
      (s.takeEntry r e).accepted r tag (.command e words { x with job := id }) 1 [.s d (id.setWidth 64)]

/-- The strand whose wait ends now, that has a resource to take, that is to write back its lines (R166), or that an asynchronous fault
stops. -/
def waiter (s : State) : Option Ref :=
  (s.strandsWhere fun r t => s.waitOver r t || podDue t || (s.wantDue r t).isSome || s.asyncDue t).head?

def serveWait (s : State) (r : Ref) : State :=
  let t := s.strand r
  if s.waitOver r t then s.endWait r
  else if podDue t then s.podWriteBack r
  else if (s.wantDue r t).isSome then s.grantWant r
  else s.raiseAsync r

/-! ## Windows -/

/-- Before a bundle: windows that must land do, and one whose result is due may (R191, a free choice, log entry 1). -/
def landWindows (s : State) (r : Ref) (dests : List Dest) : State :=
  (s.strand r).windows.foldl (fun (s : State) w =>
    if !w.landable s.now then s
    else
      let forced := w.left == 0 || w.dests.any fun d => dests.contains d
      let s1 := if forced then s else s.drawn
      if forced || s.draw.getLsbD 0 then s1.updStrand r fun t => t.landWhere fun x => x.tag == w.tag else s1) s

/-- The windows open before a bundle that has issued count it (R191). -/
def countWindows (s : State) (r : Ref) (ids : Nat) : State :=
  s.updStrand r fun t =>
    if t.windows.isEmpty then t
    else { t with windows := t.windows.map fun w => if w.tag < ids then { w with left := w.left - 1 } else w }

/-! ## Issue -/

/-- The strand whose bundle executes, with the registers as they stand before it (R180); what it waited for is over. The first bundle of a chunk
fixes its checkpoint (R154, R157). What a vector access has written of its destination is not a source (R406). -/
def beginBundle (s : State) (r : Ref) (b : Option Bundle) : State :=
  let t0 := s.strand r
  let t := if t0.opened.count = 0 then
      { t0 with opened := { t0.opened with
          check := t0.regs, jobLast := t0.jobLast, scale := t0.scaleBase, mon := t0.monitor, frames := t0.frames
          counter := t0.counter, bundle := b } }
    else t0
  let regs :=
    match t.vecBefore, b.bind bundleDest with
    | some x, some d => { t.regs with v := t.regs.v.set d.toNat x (vIndex d) }
    | _, _ => t.regs
  { (s.setStrand r { t with wait := .ready }).useLines r [t.regs.pc.toNat] with cur := r, latch := some regs, issue := .no }

/-- The commit of an access to a page with O = 1 (R163): it asks for no grant, and commits in the cycle it completes. -/
def commitNow (s : State) (r : Ref) : State :=
  match (s.strand r).closed with
  | [c] => (s.updDie (dieOf r.core) fun d => { d with requests := d.requests.filter fun q => !(q.who == r && q.chunk == c.id) }).commitChunk r c
  | _ => s

/-- What the strand has read is a sector of a commit of its die that has been granted and has not taken effect (R156). -/
def readsInFlight (s : State) (r : Ref) (reads : NatSet) : Bool :=
  !reads.isEmpty && s.cores.any fun e => dieOf e.1 == dieOf r.core && e.2.slots.any fun x =>
    (e.1 != r.core || x.1 != r.slot) && x.2.closed.any fun c => c.granted.isSome && c.writes.meets reads

/-- After a bundle has executed: the chunk counts it and ends where R153 says, or is squashed because it has read what
a granted commit is about to write (R156). A chunk of one bundle is not: it reads again at its commit (R158). One whose bundle has been performed alone
asks for its grant (R162, R333), or commits at once (R163). -/
def endBundle (s : State) (r : Ref) (ids : Nat) : State :=
  match s.issue with
  | .no => s
  | .alone | .strong =>
    let s1 := (s.updStrand r fun t =>
      { t with opened := { t.opened with count := 1, alone := true, reads := [] }, known := [], solo := t.solo - 1 }).endChunkOf r
    if s.issue = .strong then s1.commitNow r else s1
  | i =>
    let s1 := (s.updStrand r fun t => { t with opened := { t.opened with count := t.opened.count + 1 } }).countWindows r ids
    let t := s1.strand r
    let full := 0 < t.solo || i == .ends || decide (256 ≤ t.opened.count)
    if s1.readsInFlight r t.opened.reads && !(full && t.opened.count == 1 && t.opened.rereads) then s1.squashFrom r t.closed.length
    else if full then (s1.updStrand r fun t => { t with solo := t.solo - 1 }).endChunkOf r
    else s1

end State

/-- The meaning of what follows a next state. -/
def onNext (x : Result) (f : State → Result) : Result :=
  match x with
  | .next s => f s
  | .fault e => .fault e
  | .refused e => .refused e

/-- A pair of words (R180): both read the registers before the bundle; where the C-word does not issue, the A-word does
not either, and where a word is ill-formed the bundle raises it, the C-word first (R183). The bundle of a `join` that runs a child in place
issues again after it (R212), and its A-word then. DESIGN CHOICE (log 88): the sticky bits that an A-word
raises are overwritten by a `csrw FPCTL` beside it (R79), since the C-word's write stands after the A-word's; and of an A-word that reads a faulted copy of
the constants (R81) beside a C-word with a fault of its own the A-word's is reported, since R183 and R395 order only the C-word's. -/
def execPair (c a : Instr) (s : State) : Result :=
  if !c.wf then exec c s
  else
    onNext (exec a s) fun ta =>
      if ta.issue = .no then .next ta
      else
        let t := s.me
        onNext (exec c { ta.updMe (fun x => { x with received := t.received, doneLanes := t.doneLanes, vecBefore := t.vecBefore }) with issue := .no })
          fun tc => if tc.issue = .no || tc.me.frames.length ≠ s.me.frames.length then exec c s else .next tc

/-- A bundle executes at the strand `cur` (R180). -/
def execBundle (b : Bundle) (s : State) : Result :=
  match b with
  | .single i => exec i s
  | .pair c a => execPair c a s

/-- A strand issues its bundle. What commits at once switches its core first, where that waits for its next commit (R294): the bundle then issues after
the switch. -/
def issueStrand (r : Ref) (s : State) : Result :=
  match s.fetch r with
  | .miss => .next s
  | .fault f => .next ((s.beginBundle r none).raise f)
  | .bundle b =>
    let s1 := (s.landWindows r (bundleWrites b)).beginBundle r (some b)
    onNext (execBundle b s1) fun t =>
      match t.issue, (s.core r.core).trigger with
      | .strong, some n => .next (s.switchUnit (s.strand r).part (.core r.core) n)
      | _, _ => .next (t.endBundle r s1.ids)

/-! ## Loads behind their windows (R191, R394) -/

namespace State

/-- A load behind its window whose line has come. -/
def resumer (s : State) : Option (Ref × Pending) :=
  s.cores.findSome? fun e => e.2.slots.findSome? fun x => (x.2.pending.find? (·.ready)).map fun p => (⟨e.1, x.1⟩, p)

/-- The load has been performed, in `u`: its result is there, and its sectors are among what its chunk, number `j` of the strand's, has read. A
chunk that has read what a granted commit is about to write is squashed (R156). -/
def loadDone (s u : State) (r : Ref) (p : Pending) (j : Nat) : State :=
  let done := u.strand r
  let read (c : Chunk) : Chunk := if c.id == p.chunk then { c with reads := c.reads.union done.opened.reads } else c
  let land (w : Window) : Window :=
    match done.windows with
    | x :: _ => if w.tag = p.tag then { w with writes := x.writes, due := x.due } else w
    | [] => w
  let t := s.strand r
  let s1 := u.setStrand r { t with
    opened := read t.opened, closed := t.closed.map read, windows := t.windows.map land, pending := t.pending.filter fun x => x.tag != p.tag }
  let again := j < t.closed.length && done.opened.count == 1
  if s1.readsInFlight r done.opened.reads && !again then s1.squashFrom r j else s1

end State

/-- The strand as a load behind its window sees it: the registers of its issue and the effects held before it. With it stands its chunk's number. -/
def loadView (t : Strand) (p : Pending) : Option (Nat × Strand) :=
  let all := t.closed ++ [t.opened]
  (all.findIdx? fun c => c.id == p.chunk).bind fun j => (all[j]?).map fun c =>
    (j, { t with
      regs := p.regs, cbuf := p.cbuf, scaleBase := p.scale, copy := .present, closed := all.take j
      opened := { c with held := c.held.take p.held, inOrder := true }, received := p.got, known := [], windows := [], pending := [], wait := .ready
      fault := none, doneLanes := 0, vecBefore := none })

/-- A load behind its window is performed (R191), or waits for a further line. Where it faults or cannot be performed behind later bundles, its chunk is
issued again with what the home has answered, and its loads are waited for (R394). -/
def resumeLoad (r : Ref) (p : Pending) (s : State) : Result :=
  match loadView (s.strand r) p with
  | none => .next (s.updStrand r fun t => { t with pending := t.pending.filter fun x => x.tag != p.tag })
  | some (j, t) =>
    onNext (exec p.instr { s.setStrand r t with cur := r, latch := some p.regs, issue := .no }) fun u =>
      match u.issue, (u.strand r).wait with
      | .goes, _ => .next { s.loadDone u r p j with issue := .no }
      | .no, .asleep (.fill n) =>
        let waits := { p with line := n, got := (u.strand r).received, ready := false }
        let now := s.strand r
        .next (u.setStrand r { now with pending := now.pending.map fun x => if x.tag = p.tag then waits else x })
      | _, _ =>
        let answers := p.got.filter fun x => match x with | .fault _ => true | .line _ [] _ => true | _ => false
        .next ((s.reissue r j answers).updStrand r fun t => { t with opened := { t.opened with inOrder := true } })

/-! ## The reads of one-bundle chunks (R158) -/

namespace State

/-- A strand about to perform its one-bundle chunk again: what the bundle did at its issue is undone. -/
def rewound (s : State) (r : Ref) (c : Chunk) : State :=
  let undone := c.held.reverse.foldl (fun (s : State) h => s.releaseHeld r.core h) s
  (undone.updStrand r fun t =>
    { t with
      regs := c.check, jobLast := c.jobLast, scaleBase := c.scale, monitor := c.mon, frames := c.frames, counter := c.counter
      opened := { Chunk.empty s.ids c.check c.jobLast with done := c.done, vec := c.vec, inOrder := true }
      windows := t.windows.filter fun w => w.chunk != c.id
      received := t.received.filter fun x => match x with | .line _ _ _ => true | _ => false
      doneLanes := c.done, vecBefore := c.vec }).fresh

/-- The bundle has been performed again: its results are written, and its chunk stands where it stood. `t` is the strand before. -/
def rejoined (s : State) (r : Ref) (t : Strand) (c : Chunk) : State :=
  s.updStrand r fun u =>
    let u1 := u.landWhere fun w => w.chunk == u.opened.id
    { u1 with
      wait := t.wait, fault := t.fault, known := t.known, received := []
      opened := { Chunk.empty s.ids u1.regs u1.jobLast with done := u1.doneLanes, vec := u1.vecBefore }
      closed := t.closed.map fun x => if x.id == c.id then { u.opened with id := c.id, count := 1, granted := c.granted, hit := false } else x }

/-- The line a stalled strand sleeps for, as its home holds it. -/
def lineForSleeper (s : State) (r : Ref) : Option (State × Received) :=
  let t := s.strand r
  match t.wait with
  | .asleep (.fill n) =>
    match s.homeLine { part := t.part, ctx := t.ctx, va := n * 256, acc := .load, priv := privOf t.regs.flags } with
    | (s1, _, .ok (b, g)) =>
      if b.isEmpty || s.homePackage t.part (n * 256) ≠ s.pkgid then none
      else some (s1, .line (BitVec.ofNat 64 (n * 256)) (s1.dieBytes (dieOf r.core) t.part n b) g)
    | _ => none
  | _ => none

end State

/-- A chunk of one bundle performs its reads at its commit (R158), a line that its L1 has lost meanwhile from its home. DESIGN CHOICE (log 71): where
the bundle cannot be performed then, what it read at its issue stands, and where that has been written since, it is issued again. -/
def reread (r : Ref) (c : Chunk) (b : Bundle) (before : State) : Nat → State → Result
  | 0, _ => .next before
  | n + 1, s =>
    onNext (execBundle b ((s.rewound r c).beginBundle r (some b))) fun u =>
      let waits := (u.strand r).windows.any fun w => w.chunk == (u.strand r).opened.id && w.writes.isNone
      match u.issue with
      | .goes | .ends =>
        if waits then .next before else .next { (u.rejoined r (before.strand r) c).fresh with latch := none, issue := .no }
      | _ =>
        match u.lineForSleeper r with
        | some (_, x) => reread r c b before n (s.updStrand r fun t => { t with received := x :: t.received })
        | none => .next (if c.hit then before.squashFrom r ((before.strand r).closed.findIdx fun x => x.id == c.id) else before)

/-- What a commit does before its held effects: the reads of a one-bundle chunk (R158). -/
def readAtCommit (e : Event) (s : State) : Result :=
  match e with
  | .commitTakesEffect r id =>
    match (s.strand r).closed.find? fun c => c.id == id && c.granted == some s.now with
    | some c =>
      match c.bundle, c.rereads with
      | some b, true => reread r c b s 34 s
      | _, _ => .next s
    | none => .next s
  | _ => .next s

namespace State

/-- The ready slots of a core at a level. -/
def readySlots (s : State) (core level : Nat) : List Nat :=
  ((s.core core).slots.filter fun e => levelOf e.1 e.2 == level && e.2.wait != .waking && s.readyStrand ⟨core, e.1⟩ e.2).map (·.1)

/-- For how many cycles in a row up to the last a level has held a ready strand and not issued (R59). -/
def starvedFor (s : State) (c : Core) (level : Nat) : Nat :=
  if c.lastIssue = some (s.now - 1) && s.now ≠ 0 then look 0 level c.starved else 0

/-- CORESCHED.STARVE, at least 8 (R60, R90). -/
def starveLimit (c : Core) : Nat := max 8 (Bits.get c.coresched.toNat 7 0)

/-- The level a core issues from (R59): an epilogue level that has starved, a low one that has, then the levels in
their order. -/
def levelPick (s : State) (core : Nat) : Option Nat :=
  let c := s.core core
  let some_ (l : Nat) : Bool := !(s.readySlots core l).isEmpty
  let due (l : Nat) : Bool := some_ l && decide (starveLimit c ≤ s.starvedFor c l)
  if due 1 then some 1 else if due 2 then some 2 else [0, 1, 2].find? some_

/-- The core's choice in this cycle: the slot that issues, with the pointers and counters of R59 brought up to date. -/
def arbitrate (s : State) (core : Nat) : Option (Nat × State) :=
  if (s.core core).lastIssue = some s.now then none
  else
    match s.levelPick core with
    | none => none
    | some l =>
      (afterPointer (look 15 l (s.core core).pointers) (s.readySlots core l)).map fun slot =>
        let count (k : Nat) : Nat := if k ≠ l && !(s.readySlots core k).isEmpty then s.starvedFor (s.core core) k + 1 else 0
        (slot, s.updCore core fun c =>
          { c with lastIssue := some s.now, pointers := put l slot c.pointers, starved := put 1 (count 1) (put 2 (count 2) []) })

/-- A strand whose bundle has slept and ends its sleep now, beside what its core issues (R336, R341). -/
def completer (s : State) : Option Ref := (s.strandsWhere fun r t => t.wait == .waking && s.readyStrand r t).head?

/-- The first core with a strand to issue in this cycle. -/
def issuer (s : State) : Option (Ref × State) :=
  s.cores.findSome? fun e => (s.arbitrate e.1).map fun x => (⟨e.1, x.1⟩, x.2)

/-! ## Sampler words (R318, R322) -/

/-- The sampler whose run goes on now: not while a write of a unit of its partition waits at its home (R296, R321). -/
def samplerDue (s : State) : Option (Nat × Run) :=
  s.samplers.findSome? fun e =>
    match e.2.running with
    | some r => if r.due ≤ s.now && !s.unitWaiting r.req.part then some (e.1, r) else none
    | none => none

end State

/-- A sampler executes the word at its pc; a reserved word ends the run with STATUS 1, and a pc outside the store with
STATUS 2 (R326). -/
def runSamplerWord (n : Nat) (r : Run) (s : State) : Result :=
  if 2048 ≤ r.pc then .next (s.endRun n 2)
  else
    match decodeSampler (look 0 r.pc (s.sampler n).store) with
    | some i => exec i { s with smp := n }
    | none => .next (s.endRun n 1)

namespace State

/-! ## Engine acceptance (R174, R259) -/

/-- An earlier job of the command's core is outstanding (R257). -/
def fenced (s : State) (q : Queued) : Bool :=
  (q.x.withWord0 (word q.words 0)).fence &&
    (match q.x.core with
     | some c => ((s.core c).jobs.takeWhile fun j => !(j.id == q.x.job && j.status.isNone)).any fun j => j.status.isNone
     | none => false)

/-- Writes that the issuing strand committed before the command are on their way (R174; log entry 19). -/
def writesPending (s : State) (x : CmdCtx) : Bool :=
  match x.core with
  | none => false
  | some c => s.writesOut ⟨c, x.slot⟩ x.start x.task

/-- The queue an engine serves next, in the rotation of R259. -/
def queueNext (s : State) (g : Engine) : Option Nat :=
  ((List.range 5).map fun k => (g.last + 1 + k) % 5).find? fun k =>
    match look [] k g.queues with
    | q :: _ => decide (q.due ≤ s.now) && !s.fenced q && !s.writesPending q.x
    | [] => false

/-- An engine that can accept a command: its quire, its number and the queue. One that waits to switch to an edition accepts none (R294). -/
def acceptor (s : State) : Option (Nat × Nat × Nat) :=
  s.quires.findSome? fun e =>
    e.2.engines.findSome? fun g =>
      if g.2.running.isSome || s.editions.any (fun x => x.marked.contains (.engines e.1) && x.left.contains (.engines e.1)) then none else (s.queueNext g.2).map fun k => (e.1, g.1, k)

end State

/-- A command is accepted and checked (R259, R400). -/
def acceptCommand (q g k : Nat) (s : State) : Result :=
  match look [] k (s.engine q g).queues with
  | [] => .next s
  | c :: rest =>
    let s1 := s.updEngine q g fun e => { e with queues := put k rest e.queues, last := k }
    let bad := .next (s1.reject (c.x.withWord0 (word c.words 0)) g (s1.commandCost q none))
    if commandEngine c.words ≠ g then bad
    else
      match decodeCommand c.x c.words with
      | some i => if i.wf then exec i s1 else bad
      | none => bad

namespace State

/-! ## Events -/

/-- A counted packet at its unit (R295): partition, unit, edition, and KIND, VA and content of its channel record. -/
def counted (s : State) (e : Event) : Option (Nat × UnitId × BitVec 16 × Nat × Word × List Byte) :=
  match e with
  | .messageAccept q p | .bouncedMessage q p => some (p.part, .slice q, p.edition.setWidth 16, 0, 0, p.msg.line)
  | .messageAtCore c _ a m => some (a.part, .core c, m.edition, 1, 0, m.line)
  | .postedStoreApply p =>
    some (p.part, .core p.target, p.edition.setWidth 16, 2,
      BitVec.ofNat 64 (Config.aperture + p.target * 2 ^ 20 + s.replyBase p + (p.data.head?.map (·.1)).getD 0), p.data.map (·.2))
  | .barrierArrival b _ _ n => some (b.part, .node (barNode b), n.setWidth 16, 3, 0, Config.packetBytes 3)
  | .censusProcess c k n => some (k.part, .core c, n.setWidth 16, 5, 0, Config.packetBytes 5)
  | .censusDone _ k n =>
    some (k.part, .node (censusNode (s.census k.part k.slot).q), n.setWidth 16, 5, 0, Config.packetBytes 5)
  | .giveInstall g => some (g.part, .core g.dst, g.edition.setWidth 16, 5, 0, Config.packetBytes 5)
  | .giveAck c _ _ n => (s.owner (quireOf c)).map fun p => (p, .core c, n.setWidth 16, 5, 0, Config.packetBytes 5)
  | _ => none

/-- A counted packet reaches its unit: the edition's rules come first (R294, R295), and say whether the unit holds it unprocessed. A release
reaches every core that sleeps at its barrier. -/
def seeCounted (s : State) (e : Event) : State × Bool :=
  match e with
  | .barrierRelease b phase n =>
    ((((s.barSleepers b phase).map (·.core)) ++ ((s.partition b.part).ahead.filterMap fun x =>
        match x with | (.core c, y) => if y == e then some c else none | _ => none)).foldl (fun (s : State) c =>
      if s.aheadOf b.part (.core c) n then (s.summon b.part (.core c) n).holdAhead b.part (.core c) e
      else (s.popAhead b.part (.core c) e).recordPacket b.part (.core c) (n.setWidth 16) 4 0 (Config.packetBytes 4) e) s, false)
  | .censusIdAnswer r _ _ n =>
    match s.owner (quireOf r.core) with
    | some p => s.meet p (.core r.core) (n.setWidth 16) e
    | none => (s, false)
  | _ =>
    match s.counted e with
    | none => (s, false)
    | some (part, u, n, kind, va, content) =>
      match s.meet part u n e with
      | (s1, true) => (s1, true)
      | (s1, false) => (s1.recordPacket part u n kind va content e, false)

/-- The partition whose work an event belongs to; none for registers, units of the package and the host. -/
def eventPart (s : State) (e : Event) : Option Nat :=
  let onCore (c : Nat) := s.owner (quireOf c)
  match e with
  | .engineCommandComplete x => some x.x.part
  | .engineWindowStore r _ _ _ | .spawnRequest r _ _ _ | .spawnAnswer r _ _ _ | .joinWake r | .budgetOverrun r _
  | .commitTakesEffect r _ | .remoteResult r _ _ _ | .ldfWake r | .waitmWake r | .waitmLimit r _ | .jwaitWake r
  | .sampleRequestReserve r _ _ | .sampleAnswer r _ _ _ | .strandFaultReport r | .upcallStart r | .registerParityError r
  | .homeAcknowledgement r _ _ _ | .giveRequest r _ _ _ | .giveAnswer r _ _ _ | .censusSlotRequest r _ _
  | .censusIdAnswer r _ _ _ | .snapRequestArrival r _ _ | .snapAnswer r _ _ | .cbselWrite r _ => onCore r.core
  | .wemptyWrite c _ | .retirementWritebackDone c _ | .slotFillDone c _ | .taskStart c _ | .dequePop c | .steal c
  | .joinDecrementApplied c _ | .postedStoreAck c _ | .remoteRefused c _ _ | .giveAck c _ _ _ | .moveCopyComplete c _ _ _ => onCore c
  | .drainRowTakeout q | .epilogueStart q | .drainRowOutput q | .entryFreeRound q | .heldMessageForward q _ _ => s.owner q
  | .messageAccept _ p | .bouncedMessage _ p => some p.part
  | .retireRequest _ _ a | .ready _ a _ _ | .refused _ a _ _ | .unfit _ a _ | .retireNotice _ a _ | .retired _ a _
  | .cancel _ a _ _ | .activationFault _ a _ _ _ | .moveOrder _ a _ | .moved _ a _ _ | .messageAtCore _ _ a _ => some a.part
  | .activationOrder _ o => some o.actor.part
  | .taskEnd k => some (s.task k).part
  | .spawnChildStart _ _ l | .migrArrival _ l => some l.part
  | .nodeCompletion p _ _ _ | .gkickWrite p _ _ | .silentContext p _ _ | .cacheFillReturn _ p _ _ | .invalidationArrival _ p _
  | .hmsetSliceAdopt p _ _ _ | .closeRequest p _ _ _ _ | .editionMarker p _ _ | .editionPacket p _ _ | .coreSwitchTimeout p _ _
  | .homeSliceSwitch p _ _ | .editionComplete p => some p
  | .homeRequest r => some r.part
  | .remoteLoadAtTarget r => some r.part
  | .remoteAtomicAtTarget r => some r.part
  | .postedStoreApply p => some p.part
  | .barrierArrival b _ _ _ | .barrierRelease b _ _ | .barrierTimeout b _ => some b.part
  | .censusProcess _ c _ | .censusDone _ c _ | .censusComplete c | .censusTimeout c => some c.part
  | .giveInstall g => some g.part
  | .sampleRequestArrival r => some r.part
  | .cowCopy w | .cowPoolRetry w => some w.part
  | _ => none

/-- The order of events of one cycle: what a retirement frees goes to an order that waits before one that arrives (R330), messages at their homes
go as R42 orders their senders, a grant follows the requests of its cycle (R331, R333), and a timer what it times (R377, R381). -/
def eventRank : Event → Nat
  | .messageAccept _ p =>
    match p.sender with
    | .core n | .far _ 0 n => 1 + n
    | .port n | .far _ 1 n => 2 ^ 17 + n
    | .baseUnit n | .far _ 2 n => 2 ^ 18 + n
    | .slice n | .far _ _ n => 2 ^ 19 + n
  | .activationOrder _ _ => 1
  | .barrierTimeout _ _ | .censusTimeout _ | .silentContext _ _ _ => 2 ^ 21
  | .commitGrant _ => 2 ^ 20
  | _ => 0

/-- The rank from which an event follows all else that its cycle holds, the bundles too (R331, R377, R381). -/
def lateRank : Nat := 2 ^ 20

/-- Due before, with the order of one cycle. -/
def agendaLe (a b : Nat × Nat × Event) : Bool := decide (a.1 < b.1) || (a.1 == b.1 && decide (a.2.1 ≤ b.2.1))

/-- An event joins the agenda after those due with it. -/
def insertEvent (x : Nat × Nat × Event) : List (Nat × Nat × Event) → List (Nat × Nat × Event)
  | [] => [x]
  | y :: r => if agendaLe y x then y :: insertEvent x r else x :: y :: r

/-- Events sent join the agenda; none is due before now. -/
def schedule (now : Nat) (sent : List (Nat × Event)) (agenda : List (Nat × Nat × Event)) : List (Nat × Nat × Event) :=
  sent.foldl (fun a e => insertEvent (max now e.1, eventRank e.2, e.2) a) agenda

/-- The agenda as an event leaves it: whole, empty, or without a partition's events (R299, R358, R363) or answers that stand no more (R226). -/
def kept (s : State) (f : Flush) (agenda : List (Nat × Nat × Event)) : List (Nat × Nat × Event) :=
  match f with
  | .keep => agenda
  | .all => []
  | .part p => agenda.filter fun x => s.eventPart x.2.2 != some p
  | .drop es => agenda.filter fun x => !es.contains x.2.2

/-- A step's end: what was sent joins the agenda of the state the step began from, `pre`, and time stands still. -/
def settleStep (pre t : State) : State :=
  let now := if t.flush = .all then t.now else pre.now
  { t with now := now, agenda := schedule now t.sent (pre.kept t.flush pre.agenda), sent := [], flush := .keep, latch := none }

end State

/-! ## What a step is -/

/-- A step from `pre` ends (`State.settleStep`); a stop stays a stop. -/
def ending (pre : State) (x : Result) : Result := onNext x fun t => .next (pre.settleStep t)

/-- An event that is due: its packet is at hand, and its meaning runs; a one-bundle chunk that commits reads first (R158), and a packet that its
unit holds until it has switched waits (R294). -/
def runEvent (e : Event) (s : State) : Result :=
  onNext (readAtCommit e s) fun s =>
    match s.seeCounted e with
    | (s1, true) => .next s1
    | (s1, false) => exec e.instr { s1 with ev := e }

/-- What the part does in a cycle besides events, one thing at a time: a home's lookup, a message that is injected, a sleep that ends, a load whose
line has come, a wait that ends, a copy of constants, a fetch that misses, a sampler word, an engine's acceptance, a core's bundle, then the events that
follow all else. When nothing is left to do the cycle ends. -/
def runCycle (s : State) : Result :=
  match s.lookup, s.injector, s.completer, s.resumer with
  | some n, _, _, _ => ending s (.next (s.acceptAll n))
  | none, some n, _, _ => ending s (.next (s.inject n))
  | none, none, some r, _ => ending s (issueStrand r s)
  | none, none, none, some (r, p) => ending s (resumeLoad r p s)
  | none, none, none, none =>
  match s.waiter, s.copier, s.fetcher, s.samplerDue, s.acceptor, s.issuer with
  | some r, _, _, _, _, _ => ending s (.next (s.serveWait r))
  | none, some r, _, _, _, _ => ending s (.next (s.copyStart r))
  | none, none, some r, _, _, _ => ending s (.next ({ s with cur := r, latch := none }.requestLine (s.strand r).regs.pc.toNat .fetch))
  | none, none, none, some (n, r), _, _ => ending s (runSamplerWord n r s)
  | none, none, none, none, some (q, g, k), _ => ending s (acceptCommand q g k s)
  | none, none, none, none, none, some (r, s1) => ending s (issueStrand r s1)
  | none, none, none, none, none, none =>
    match s.agenda with
    | x :: rest => if x.1 ≤ s.now then ending { s with agenda := rest } (runEvent x.2.2 { s with agenda := rest }) else .next { s with now := s.now + 1 }
    | [] => .next { s with now := s.now + 1 }

/-! ## A program from outside (log entry 20) -/

/-- Where a placed bundle lies. -/
def placedAt : Nat := 0x1000

/-- The part with nothing to do before a placed instruction: no other strand, no event due, no sampler or engine at
work. -/
def quietened (s : State) : State :=
  { s with
    halted := false
    agenda := s.agenda.filter fun x => decide (s.now < x.1)
    sent := []
    flush := .keep
    samplers := s.samplers.map fun e => (e.1, { e.2 with running := none })
    slices := s.slices.map fun e => (e.1, { e.2 with lookedAt := some s.now })
    quires := s.quires.map fun e => (e.1, { e.2 with engines := e.2.engines.map fun g => (g.1, { g.2 with queues := [] }) })
    partitions := s.partitions.map fun e => (e.1, { e.2 with hmapL := [] })
    cores := s.cores.map fun e => (e.1, { e.2 with slots := [], injected := some s.now }) }

/-- Slot 0 of core 0 is about to issue the bundle of two words, which its core's L1 holds. -/
def placeBundle (s : State) (w : W32 × W32) : State :=
  let c := s.core 0
  let t0 := s.strand ⟨0, 0⟩
  let regs := { t0.regs with pc := BitVec.ofNat 64 placedAt, flags := if has 0 c.slots then t0.regs.flags else 0x10000 }
  let t : Strand :=
    { t0 with
      regs := regs, wait := .ready, code := 0, codeLim := 0x100000000, windows := [], pending := [], asyncFaults := [], fault := none, closed := [],
      opened := Chunk.empty 0 regs t0.jobLast, solo := 0, received := [], vecBefore := none, doneLanes := 0, copy := .present }
  let line : L1Line :=
    { part := t.part, line := placedAt / 256, way := 0, data := memStore [] 0 (Bytes.ofNat 4 w.1.toNat ++ Bytes.ofNat 4 w.2.toNat),
      valid := List.range 8, g := { rights := 0xF, frame := placedAt, size := 4096 }, pending := false }
  let q := quietened s
  { q with cores := put 0 { c with slots := [(0, t)], l1 := [line], lastIssue := none, injected := some s.now } q.cores }

/-- Sampler 0 is about to run the word. -/
def placeSamplerWord (s : State) (w : W32) : State :=
  let q := quietened s
  let x := q.sampler 0
  let req : SampReq :=
    { who := ⟨0, 0⟩, start := 0, task := 0, part := 0, ctx := 0, ctxId := 0, sampler := 0, rtype := 0, v := 0, fmt := 0, arg := 0, logits := 0, rcls := 0, rkey := 0 }
  { q with samplers := put 0 { x with store := put 0 w x.store,
                                      running := some { req := req, order := 0, pc := 0, g := Vector.replicate 16 0, count := 0,
                                                        emitted := [], due := s.now } } q.samplers }

/-- The table's word placed where the next step fetches it (log entries 11, 20). -/
def placeTableWord (s : State) (w : W32) : State :=
  if tableIsSampler w then placeSamplerWord s w else placeBundle s (tableBundle w)

end Sys2Proof.Machine
end

