-- ==== Sys2Proof/Machine/Step.lean ====
section
/-! DEFINITION. One step of the part, and the placing of a word where the next step fetches it. -/

namespace Sys2Proof.Machine

/-- One step: the event that is due, in the agenda's order; with none due, or one that follows all else, what the units do in this cycle. After the
power has been removed (R362) nothing runs. -/
def step (s : State) : Host.Outcome State Fault Refusal :=
  if s.halted then .fault .packageStopped
  else
    match s.agenda with
    | [] => runCycle s
    | x :: rest => if x.1 ≤ s.now && x.2.1 < State.lateRank then ending { s with agenda := rest } (runEvent x.2.2 { s with agenda := rest }) else runCycle s

/-- `s` with a word of the opcode table placed where the next step fetches it. -/
def State.withFetchWord (s : State) (nbits w : Nat) : State :=
  if nbits = 32 then placeTableWord s (BitVec.ofNat 32 w) else s

end Sys2Proof.Machine
end

