-- ==== Sys2Proof/Safety.lean ====
section
/-! DEFINITION. What counts as a safe state and a safe run: the invariants that claims speak of. -/

namespace Sys2Proof.Machine

/-- Every event is due no earlier than the one before it, and those of one cycle stand in their order. -/
def agendaSorted : List (Nat × Nat × Event) → Bool
  | [] => true
  | [_] => true
  | x :: y :: r => State.agendaLe x y && agendaSorted (y :: r)

/-- Between steps: the agenda is in order, nothing in it is overdue, nothing that was sent is left aside, and no bundle
holds its sources. -/
def State.orderly (s : State) : Bool :=
  agendaSorted s.agenda && s.agenda.all (fun x => decide (s.now ≤ x.1)) && s.sent.isEmpty && s.flush == .keep && s.latch.isNone

/-- HBM is in its canonical form. -/
def State.hbmWf (s : State) : Bool := Memory.wf s.hbm

/-- A run of `n` steps goes on without a stop. -/
def runsFor : Nat → State → Bool
  | 0, _ => true
  | n + 1, s =>
    match step s with
    | .next t => runsFor n t
    | .fault _ => false
    | .refused _ => false

end Sys2Proof.Machine
end

