-- ==== Sys2Proof/Certificates/Slice0/Obligations.lean ====
section
/-! DEFINITION. The statements about the model, with the terms they are written in. -/

namespace Sys2Proof.Claims

open Sys2Proof.Machine

/-! ## Terms -/

/-- A bundle word may have its effect: its fields are ones its entry admits (R203, R396), and the constants it reads
have arrived (R81). -/
def Ready (i : Instr) (s : State) : Prop := i.wf = true ∧ (readsCb i = true → s.me.copy = .present)

/-- The state after a bundle that has only changed its strand: the strand is `t`, what the bundle had received so far is
spent, and the bundle has issued in the manner `h`. Every other strand, every memory, every other register and every unit
is as in `s`. -/
def after (s : State) (t : Strand) (h : Issue) : State :=
  { s.setMe { t with received := [], doneLanes := 0, vecBefore := none } with issue := h }

/-- The state after a bundle that has written registers and goes on at pc + 8 (R201). -/
def wrote (s : State) (r : Regs) : State := after s { s.me with regs := { r with pc := s.bpc + 8 } } .goes

/-! ## The A slot -/

/-- The result of R190 and R216 for two operands: 32 lanes under k[K] when a source is a v register, else the 64-bit
register. -/
def intResult (s : State) (w : AWord) (f : (n : Nat) → BitVec n → BitVec n → BitVec n) : State :=
  wrote s (if w.vDest then
      s.me.regs.setV w.d (lanes fun j => f 32 (s.laneInt w.ta w.a w.ext j) (s.laneInt w.tb w.b w.ext j)) (s.readK w.k)
    else s.me.regs.setS w.d (f 64 (s.scalar w.ta w.a w.ext) (s.scalar w.tb w.b w.ext)))

/-- R217: the binary operations, each at its width. -/
def intBinaryTable : List ((AWord → Instr) × ((n : Nat) → BitVec n → BitVec n → BitVec n)) :=
  [(.add, fun _ a b => a + b),
   (.sub, fun _ a b => a - b),
   (.mul, fun _ a b => a * b),
   (.mulh, fun n a b => (a.signExtend (2 * n) * b.signExtend (2 * n)).extractLsb' n n),
   (.mulhu, fun n a b => (a.setWidth (2 * n) * b.setWidth (2 * n)).extractLsb' n n),
   (.min, fun _ a b => if a.toInt ≤ b.toInt then a else b),
   (.max, fun _ a b => if b.toInt ≤ a.toInt then a else b),
   (.minu, fun _ a b => if a.toNat ≤ b.toNat then a else b),
   (.maxu, fun _ a b => if b.toNat ≤ a.toNat then a else b),
   (.and, fun _ a b => a &&& b),
   (.or, fun _ a b => a ||| b),
   (.xor, fun _ a b => a ^^^ b),
   (.andn, fun _ a b => a &&& ~~~b),
   (.shl, fun n a b => a <<< (b.toNat % n)),
   (.shr, fun n a b => a >>> (b.toNat % n)),
   (.sar, fun n a b => a.sshiftRight (b.toNat % n)),
   (.rot, fun n a b => a.rotateLeft (b.toNat % n)),
   (.addsat, fun n a b => BitVec.ofInt n (max (-2 ^ (n - 1)) (min (2 ^ (n - 1) - 1) (a.toInt + b.toInt)))),
   (.subsat, fun n a b => BitVec.ofInt n (max (-2 ^ (n - 1)) (min (2 ^ (n - 1) - 1) (a.toInt - b.toInt))))]

/-- The result of R190 for an operation that also reads its destination. -/
def accResult (s : State) (w : AWord) (f : (n : Nat) → BitVec n → BitVec n → BitVec n → BitVec n) : State :=
  wrote s (if w.vDest then
      s.me.regs.setV w.d
        (lanes fun j => f 32 (s.readV w.d)[j] (s.laneInt w.ta w.a w.ext j) (s.laneInt w.tb w.b w.ext j)) (s.readK w.k)
    else s.me.regs.setS w.d (f 64 (s.readS w.d) (s.scalar w.ta w.a w.ext) (s.scalar w.tb w.b w.ext)))

/-- Byte `j` of a word as a signed number. -/
def sbyte {n : Nat} (x : BitVec n) (j : Nat) : Int := (x.extractLsb' (8 * j) 8).toInt

/-- R218 and R223: multiply-add, and the sum of four signed byte products. -/
def accTable : List ((AWord → Instr) × ((n : Nat) → BitVec n → BitVec n → BitVec n → BitVec n)) :=
  [(.mad, fun _ d a b => d + a * b),
   (.dp4, fun n d a b => d + BitVec.ofInt n
      (sbyte a 0 * sbyte b 0 + sbyte a 1 * sbyte b 1 + sbyte a 2 * sbyte b 2 + sbyte a 3 * sbyte b 3))]

/-- The result of one operand (R219, R221); the operation knows its lane, 0 in the scalar form. -/
def unaryResult (s : State) (w : AWord) (f : (n : Nat) → Nat → BitVec n → BitVec n) : State :=
  wrote s (if w.ta = .v then
      s.me.regs.setV w.d (lanes fun j => f 32 j.val (s.laneInt w.ta w.a w.ext j)) (s.readK w.k)
    else s.me.regs.setS w.d (f 64 0 (s.scalar w.ta w.a w.ext)))

/-- The number of bits of `x` that are 1. -/
def ones {n : Nat} (x : BitVec n) : Nat := ((List.range n).filter fun i => x.getLsbD i).length

/-- R219 and the `mov` of R221. -/
def unaryTable : List ((AWord → Instr) × ((n : Nat) → Nat → BitVec n → BitVec n)) :=
  [(.popc, fun n _ a => BitVec.ofNat n (ones a)),
   (.clz, fun n _ a => BitVec.ofNat n (((List.range n).find? fun i => a.getLsbD (n - 1 - i)).getD n)),
   (.ctz, fun n _ a => BitVec.ofNat n (((List.range n).find? fun i => a.getLsbD i).getD n)),
   (.neg, fun _ _ a => 0 - a),
   (.not, fun n _ a => BitVec.allOnes n ^^^ a),
   (.abs, fun n _ a => BitVec.ofNat n a.toInt.natAbs),
   (.brev, fun _ _ a => a.reverse),
   (.lid, fun n i _ => BitVec.ofNat n i),
   (.mov, fun _ _ a => a)]

/-- The six conditions of R220, as K codes them: eq, ne, lt, le, gt, ge. -/
def holds (k : BitVec 3) (lt eq : Bool) : Bool :=
  match k.toNat with
  | 0 => eq
  | 1 => !eq
  | 2 => lt
  | 3 => lt || eq
  | 4 => !(lt || eq)
  | _ => !lt

/-- R220: every bit of k[D] is the condition in its lane, or the one scalar condition. -/
def compareBit (s : State) (w : AWord) (lt : (n : Nat) → BitVec n → BitVec n → Bool) (j : Fin 32) : Bool :=
  if w.vDest then
    let a := s.laneInt w.ta w.a w.ext j
    let b := s.laneInt w.tb w.b w.ext j
    holds w.k (lt 32 a b) (a == b)
  else
    let a := s.scalar w.ta w.a w.ext
    let b := s.scalar w.tb w.b w.ext
    holds w.k (lt 64 a b) (a == b)

/-- R222: the mask operations. -/
def maskTable : List ((AWord → Instr) × (W32 → W32 → W32)) :=
  [(.kopAnd, fun a k => a &&& k), (.kopOr, fun a k => a ||| k), (.kopXor, fun a k => a ^^^ k),
   (.kopAndn, fun a k => a &&& ~~~k), (.kopNot, fun a _ => ~~~a), (.kopMov, fun a _ => a),
   (.kopLow, fun a _ => a &&& (0 - a))]

/-- A result of a float operation with its flags: lanes under k[K], or zext into s[D] (R230, R95). -/
def floatResult (s : State) (vd : Bool) (w : AWord) (lane : Fin 32 → W32 × Sticky) (val : W32 × Sticky) : State :=
  wrote s (if vd then
      let r := s.me.regs.setV w.d (lanes fun j => (lane j).1) (s.readK w.k)
      { r with flags := r.flags ||| ((stickyOf (s.readK w.k) fun j => (lane j).2).setWidth 64 <<< 4) }
    else
      let r := s.me.regs.setS w.d (val.1.setWidth 64)
      { r with flags := r.flags ||| (val.2.setWidth 64 <<< 4) })

/-- R231: the binary float operations. -/
def floatBinaryTable : List ((AWord → Instr) × (FCtl → W32 → W32 → W32 × Sticky)) :=
  [(.fadd, floatAdd), (.fsub, floatSub), (.fmul, floatMul), (.fmin, fun c => floatMinMax c false),
   (.fmax, fun c => floatMinMax c true)]

/-- R231, R235: those that accumulate into their destination. -/
def floatAccTable : List ((AWord → Instr) × (FCtl → W32 → W32 → W32 → W32 × Sticky)) :=
  [(.ffma, floatFma), (.fdp2, floatDp2)]

/-- R232 and the narrowing conversions of R234. -/
def floatUnaryTable : List ((AWord → Instr) × (FCtl → W32 → W32 × Sticky)) :=
  [(.fneg, fun c => floatSign c fun b => !b), (.fabs, fun c => floatSign c fun _ => false),
   (.ffloor, fun c => floatIntegral c 3 false), (.fceil, fun c => floatIntegral c 2 false),
   (.ftrunc, fun c => floatIntegral c 1 false), (.fround, fun c => floatIntegral c 0 false),
   (.frint, fun c => floatIntegral c c.rm true), (.fclass, fun _ a => (floatClass a, 0)), (.fsgn, floatSgn),
   (.cvtFtoh, fun c => floatNarrow c fp16), (.cvtFtob, fun c => floatNarrow c bf16)]

/-- R98, R234: conversions to integers, with their range and rounding. -/
def toIntTable : List ((AWord → Instr) × Int × Int × (FCtl → Nat)) :=
  [(.cvtFtoi, -2 ^ 31, 2 ^ 31 - 1, fun c => c.rm), (.cvtFtou, 0, 2 ^ 32 - 1, fun c => c.rm),
   (.cvtFtoiz, -2 ^ 31, 2 ^ 31 - 1, fun _ => 1), (.cvtFtouz, 0, 2 ^ 32 - 1, fun _ => 1),
   (.cvtFtol, -2 ^ 63, 2 ^ 63 - 1, fun c => c.rm)]

/-- R234: conversions from integers: the value read in 32 lanes, and in 64 bits. -/
def fromIntTable : List ((AWord → Instr) × (W32 → Int) × (Word → Int)) :=
  [(.cvtItof, fun a => a.toInt, fun a => (a.setWidth 32).toInt),
   (.cvtUtof, fun a => a.toNat, fun a => (a.setWidth 32).toNat),
   (.cvtLtof, fun a => a.toInt, fun a => a.toInt)]

/-- R234: conversions from 16-bit floats. -/
def widenTable : List ((AWord → Instr) × Fmt) := [(.cvtHtof, fp16), (.cvtBtof, bf16)]

/-- R116, R237: the reductions, with their node operation and whether s[D] is sign-extended. -/
def reduceTable : List ((AWord → Instr) × (FCtl → NodeOp) × Bool) :=
  let s32 (f : W32 → W32 → W32) (id : W32) (_ : FCtl) : NodeOp := ⟨fun a b => (f a b, 0), id⟩
  [(.redAdd, s32 (· + ·) 0, true), (.redAnd, s32 (· &&& ·) 0xFFFFFFFF, false), (.redOr, s32 (· ||| ·) 0, false),
   (.redXor, s32 (· ^^^ ·) 0, false), (.redMin, s32 (fun a b => if b.slt a then b else a) 0x7FFFFFFF, true),
   (.redMax, s32 (fun a b => if a.slt b then b else a) 0x80000000, true),
   (.redMinu, s32 (fun a b => if b.ult a then b else a) 0xFFFFFFFF, false),
   (.redMaxu, s32 (fun a b => if a.ult b then b else a) 0, false),
   (.redFadd, fun c => ⟨floatAdd c, 0x80000000⟩, false), (.redFmin, fun c => ⟨floatMinMax c false, 0x7F800000⟩, false),
   (.redFmax, fun c => ⟨floatMinMax c true, 0xFF800000⟩, false)]

/-- R117, R237: the scans use the same nodes. -/
def scanTable : List ((AWord → Instr) × (FCtl → NodeOp)) :=
  ([.scanAdd, .scanAnd, .scanOr, .scanXor, .scanMin, .scanMax, .scanMinu, .scanMaxu, .scanFadd, .scanFmin, .scanFmax] :
    List (AWord → Instr)).zip (reduceTable.map fun e => e.2.1)

end Sys2Proof.Claims

open Sys2Proof Sys2Proof.Machine Sys2Proof.Claims

/-- R190, R216, R217: the 19 binary integer operations write their result, and nothing else of the machine changes. -/
def Sys2Proof.Claims.IntegerBinaryResults : Prop :=
  ∀ p ∈ intBinaryTable, ∀ w s, Ready (p.1 w) s → exec (p.1 w) s = .next (intResult s w p.2)

/-- R218, R223: `mad` and `dp4` add to their destination. -/
def Sys2Proof.Claims.IntegerAccumulateResults : Prop :=
  ∀ p ∈ accTable, ∀ w s, Ready (p.1 w) s → exec (p.1 w) s = .next (accResult s w p.2)

/-- R219, R221: the integer operations of one operand. -/
def Sys2Proof.Claims.IntegerUnaryResults : Prop :=
  ∀ p ∈ unaryTable, ∀ w s, Ready (p.1 w) s → exec (p.1 w) s = .next (unaryResult s w p.2)

/-- R220: `cmp` and `cmpu` write all 32 bits of k[D], and of k0 none; a D of 8 or more and the conditions 6 and 7 raise
RESERVED_FIELD. -/
def Sys2Proof.Claims.IntegerCompares : Prop :=
  ∀ w s, ∀ p ∈ ([(Instr.cmp w, fun _ a b => a.slt b), (Instr.cmpu w, fun _ a b => a.ult b)] :
      List (Instr × ((n : Nat) → BitVec n → BitVec n → Bool))),
    (Ready p.1 s → ∃ m : W32, (∀ j : Fin 32, m.getLsbD j = compareBit s w p.2 j) ∧
      exec p.1 s = .next (wrote s (s.me.regs.setK (w.d.setWidth 3) m))) ∧
    ((8 ≤ w.d.toNat ∨ 6 ≤ w.k.toNat) → exec p.1 s = .next (s.raise { code := .reservedField }))

/-- R190, R216-R220, R223: the integer operations of the A slot: binary, accumulating, of one operand, and the compares. -/
def Obligations.IntegerOperations : Prop := Claims.IntegerBinaryResults ∧ Claims.IntegerAccumulateResults ∧ Claims.IntegerUnaryResults ∧ Claims.IntegerCompares

/-- R221, R236: select, broadcast, shuffle and rotate of lanes, and the tags that raise RESERVED_FIELD. -/
def Sys2Proof.Claims.LaneMoves : Prop :=
  ∀ w s,
    (Ready (.sel w) s → exec (.sel w) s = .next (wrote s (if w.vDest then
        s.me.regs.setV w.d (lanes fun j =>
          if (s.readK w.k).getLsbD j then s.laneInt w.ta w.a w.ext j else s.laneInt w.tb w.b w.ext j) 0xFFFFFFFF
      else s.me.regs.setS w.d (if (s.readK w.k).getLsbD 0 then s.scalar w.ta w.a w.ext else s.scalar w.tb w.b w.ext)))) ∧
    (Ready (.bcast w) s → exec (.bcast w) s = .next (wrote s
      (s.me.regs.setV w.d (Vector.replicate 32 ((s.scalar w.ta w.a w.ext).setWidth 32)) (s.readK w.k)))) ∧
    (Ready (.shuf w) s → exec (.shuf w) s = .next (wrote s
      (s.me.regs.setV w.d (lanes fun j => (s.readV w.a).toList.getD ((s.laneInt w.tb w.b w.ext j).toNat % 32) 0) (s.readK w.k)))) ∧
    (Ready (.lrot w) s → exec (.lrot w) s = .next (wrote s
      (s.me.regs.setV w.d (lanes fun j =>
        (s.readV w.a).toList.getD ((j.val + (s.scalar w.tb w.b w.ext).toNat) % 32) 0) (s.readK w.k)))) ∧
    (∀ i ∈ ((if w.ta = .v then [.bcast w] else [.shuf w, .lrot w]) : List Instr), exec i s = .next (s.raise { code := .reservedField })) ∧
    (w.tb = .v → exec (.lrot w) s = .next (s.raise { code := .reservedField }))

/-- R222: the mask operations, and R195: the two no-operations and `yield` only go on. -/
def Sys2Proof.Claims.MasksAndNoOperations : Prop :=
  (∀ p ∈ maskTable, ∀ w s, Ready (p.1 w) s → exec (p.1 w) s =
    .next (wrote s (s.me.regs.setK (w.d.setWidth 3) (p.2 (s.readK (w.a.setWidth 3)) (s.readK w.k))))) ∧
  (∀ c w s, (Ready (.nopC c) s → exec (.nopC c) s = .next (wrote s s.me.regs)) ∧
    (Ready (.nopA w) s → exec (.nopA w) s = .next (wrote s s.me.regs)) ∧
    (Ready (.yield c) s → exec (.yield c) s = .next (wrote s s.me.regs)))

/-- R195, R221, R222, R236: the lane moves, the mask operations and the no-operations. -/
def Obligations.LanesAndMasks : Prop := Claims.LaneMoves ∧ Claims.MasksAndNoOperations

/-- R230-R232, R234, R235: float arithmetic with its sticky flags. -/
def Sys2Proof.Claims.FloatResults : Prop :=
  (∀ p ∈ floatBinaryTable, ∀ w s, Ready (p.1 w) s → exec (p.1 w) s = .next (floatResult s w.vDest w
    (fun j => p.2 (s.fctl w) (s.laneFloat w.ta w.a w.ext j) (s.laneFloat w.tb w.b w.ext j))
    (p.2 (s.fctl w) (s.scalarFloat w.ta w.a w.ext) (s.scalarFloat w.tb w.b w.ext)))) ∧
  (∀ p ∈ floatAccTable, ∀ w s, Ready (p.1 w) s → exec (p.1 w) s = .next (floatResult s w.vDest w
    (fun j => p.2 (s.fctl w) (s.readV w.d)[j] (s.laneFloat w.ta w.a w.ext j) (s.laneFloat w.tb w.b w.ext j))
    (p.2 (s.fctl w) ((s.readS w.d).setWidth 32) (s.scalarFloat w.ta w.a w.ext) (s.scalarFloat w.tb w.b w.ext)))) ∧
  (∀ p ∈ floatUnaryTable, ∀ w s, Ready (p.1 w) s → exec (p.1 w) s = .next (floatResult s (w.ta == .v) w
    (fun j => p.2 (s.fctl w) (s.laneFloat w.ta w.a w.ext j)) (p.2 (s.fctl w) (s.scalarFloat w.ta w.a w.ext))))

/-- R98, R234: conversions between floats and integers and from 16-bit floats: lanes where the source is a v register,
else the register, with the sticky flags. -/
def Sys2Proof.Claims.Conversions : Prop :=
  (∀ p ∈ toIntTable, ∀ w s, Ready (p.1 w) s →
    let f (a : W32) := floatToInt w.fzi (p.2.2.2 (s.fctl w)) p.2.1 p.2.2.1 a
    exec (p.1 w) s = .next (if w.ta = .v then
        floatResult s true w (fun j => (BitVec.ofInt 32 (f (s.laneFloat w.ta w.a w.ext j)).1, (f (s.laneFloat w.ta w.a w.ext j)).2)) (0, 0)
      else
        let r := f (s.scalarFloat w.ta w.a w.ext)
        let g := s.me.regs.setS w.d (BitVec.ofInt 64 r.1)
        wrote s { g with flags := g.flags ||| (r.2.setWidth 64 <<< 4) })) ∧
  (∀ p ∈ fromIntTable, ∀ w s, Ready (p.1 w) s →
    exec (p.1 w) s = .next (floatResult s (w.ta == .v) w
      (fun j => intToFloat (s.fctl w) (p.2.1 (s.laneInt w.ta w.a w.ext j)))
      (intToFloat (s.fctl w) (p.2.2 (s.scalar w.ta w.a w.ext))))) ∧
  (∀ p ∈ widenTable, ∀ w s, Ready (p.1 w) s → w.ta ≠ .lit →
    exec (p.1 w) s = .next (floatResult s (w.ta == .v) w
      (fun j => floatWiden (s.fctl w) p.2 (s.laneInt w.ta w.a w.ext j))
      (floatWiden (s.fctl w) p.2 ((s.scalar w.ta w.a w.ext).setWidth 32)))) ∧
  (∀ p ∈ widenTable, ∀ w s, Ready (p.1 w) s → w.ta = .lit →
    let x := narrowLiteral (s.fctl w) p.2 w.a w.ext
    let r := floatWiden (s.fctl w) p.2 x.1
    exec (p.1 w) s = .next (floatResult s false w (fun _ => (0, 0)) (r.1, x.2 ||| r.2)))

/-- R233: `fcmp` writes all 32 bits of k[D] and the sticky flags of its lanes. -/
def Sys2Proof.Claims.FloatCompare : Prop :=
  ∀ w s, Ready (.fcmp w) s → ∃ (m : W32) (f : Sticky),
    (w.vDest = true → f = stickyOf 0xFFFFFFFF (fun j =>
        (floatCmp w.fzi w.k.toNat (s.laneFloat w.ta w.a w.ext j) (s.laneFloat w.tb w.b w.ext j)).2) ∧
      ∀ j : Fin 32, m.getLsbD j =
        (floatCmp w.fzi w.k.toNat (s.laneFloat w.ta w.a w.ext j) (s.laneFloat w.tb w.b w.ext j)).1) ∧
    (w.vDest = false →
      f = (floatCmp w.fzi w.k.toNat (s.scalarFloat w.ta w.a w.ext) (s.scalarFloat w.tb w.b w.ext)).2 ∧
      ∀ j : Fin 32, m.getLsbD j =
        (floatCmp w.fzi w.k.toNat (s.scalarFloat w.ta w.a w.ext) (s.scalarFloat w.tb w.b w.ext)).1) ∧
    exec (.fcmp w) s = .next (wrote s
      (let r := s.me.regs.setK (w.d.setWidth 3) m
       { r with flags := r.flags ||| (f.setWidth 64 <<< 4) }))

/-- R98, R230-R235: float arithmetic, conversions and the float compare, with their sticky flags. -/
def Obligations.FloatOperations : Prop := Claims.FloatResults ∧ Claims.Conversions ∧ Claims.FloatCompare

/-- R116, R117, R237: the reductions write s[D], the scans the lanes of v[D] under k[K], both with their flags. -/
def Sys2Proof.Claims.ReductionsAndScans : Prop :=
  (∀ p ∈ reduceTable, ∀ w s, Ready (p.1 w) s →
    let r := treeReduce (p.2.1 (s.fctl w)) (s.readV w.a) (s.readK w.k)
    let g := s.me.regs.setS w.d (if p.2.2 then r.1.signExtend 64 else r.1.setWidth 64)
    exec (p.1 w) s = .next (wrote s { g with flags := g.flags ||| (r.2.setWidth 64 <<< 4) })) ∧
  (∀ p ∈ scanTable, ∀ w s, Ready (p.1 w) s →
    let r := prefixScan (p.2 (s.fctl w)) (s.readV w.a) (s.readK w.k)
    let g := s.me.regs.setV w.d r.1 (s.readK w.k)
    exec (p.1 w) s = .next (wrote s { g with flags := g.flags ||| (r.2.setWidth 64 <<< 4) }))


namespace Sys2Proof.Claims

/-! ## Results under LA, and effects held to the commit -/

/-- A result `cost` cycles after issue (R191): with LA = 0 the destinations are written before the strand's next bundle,
which waits for them; with LA > 0 a window holds them and LA more bundles may issue. -/
def underLA (s : State) (la : BitVec 4) (cost : Nat) (dests : List Dest) (ws : List RegWrite) : State :=
  if la = 0 then
    after s { s.me with regs := { ws.foldl Regs.apply s.me.regs with pc := s.bpc + 8 },
                        wait := if cost = 0 then s.me.wait else .untilCycle (s.now + cost) } .goes
  else
    { after s { s.me with
        regs := { s.me.regs with pc := s.bpc + 8 }
        windows := s.me.windows ++ [{ tag := s.ids, chunk := s.me.opened.id, dests := dests, left := la.toNat,
                                      due := s.now + cost, writes := some ws }] } .goes with ids := s.ids + 1 }

/-- The open chunk's read signature also has the bits of these sectors (R155), whose lines are now the core's most recently used (R130). -/
def reading (s : State) (sectors : List Nat) : State :=
  (s.setMe { s.me with opened := { s.me.opened with reads := s.me.opened.reads.union (sigOf s.me.part sectors) } }).useLines s.cur sectors

/-- An effect is held to the commit of the open chunk (R160), with the signature bits of the sectors it writes (R155), whose lines
are now the core's most recently used (R130). -/
def holding (s : State) (h : Held) (sectors : List Nat) : State :=
  (s.setMe { s.me with opened := { s.me.opened with
    held := s.me.opened.held ++ [h], writes := s.me.opened.writes.union (sigOf s.me.part sectors) } }).useLines s.cur sectors

/-- The bundle's only effect is held to the commit: no byte of memory, no register but the pc and no unit has changed. -/
def held (s : State) (h : Held) (sectors : List Nat) : State := wrote (holding s h sectors) s.me.regs

/-- A posted store's journal entry is taken at issue (R129, R334). -/
def journaled (s : State) (j va n : Nat) : State :=
  s.updMyCore fun k => { k with
    journal := put j { slot := s.cur.slot, va := BitVec.ofNat 64 va, width := n, chunk := s.me.opened.id,
                       startedAt := s.me.startedAt, task := s.me.task, refused := false } k.journal
    journalNext := (j + 1) % 64 }

/-- The bundle has issued, and its effect waits for a resource in a window under LA (R191): no byte of memory and no unit has changed. -/
def waiting (s : State) (la : BitVec 4) (dests : List Dest) (w : Want) : State :=
  { after s { s.me with
      regs := { s.me.regs with pc := s.bpc + 8 }
      opened := { s.me.opened with held := s.me.opened.held ++ [.wants s.ids w] }
      windows := s.me.windows ++ [{ tag := s.ids, chunk := s.me.opened.id, dests := dests, left := la.toNat, due := s.now,
                                    writes := none }] } .goes with ids := s.ids + 1 }

/-- The posted store of bytes to another core's store through a window (R122, R128). -/
def postedTo (s : State) (j : Option Nat) (core va : Nat) (data : List Byte) : PostedStore :=
  { src := s.cur.core, idx := j, part := s.me.part, target := core, data := data.zipIdx.map fun b => (va % 262144 + b.2, b.1),
    setFull := apWindow va == 7, reply := none, edition := s.myCore.edition }

/-! ## The C slot -/

/-- R238: the special functions by their code. -/
def sfuTable : List ((CWord → Instr) × Nat) :=
  [(.sfuRcp, 0), (.sfuSqrt, 1), (.sfuRsqrt, 2), (.sfuExp2, 3), (.sfuLog2, 4), (.sfuSinpi, 5), (.sfuCospi, 6), (.sfuTanh, 7)]

/-- The lanes or the register that a C-slot float function writes, with its flags (R95, R238, R239). -/
def cFloat (s : State) (c : CWord) (cost : Nat) (f : W32 → W32 × Sticky) : State :=
  if c.ta = .v then
    underLA s c.la cost [.v c.d]
      [.v c.d ((s.readV c.a).map fun x => (f x).1) (s.readK (c.msk.setWidth 3)),
       .sticky ((stickyOf (s.readK (c.msk.setWidth 3)) fun i => (f (s.readV c.a)[i]).2).setWidth 64 <<< 4)]
  else
    let r := f (s.scalarFloat c.ta c.a c.ext)
    underLA s c.la cost [.s c.d] [.s c.d (r.1.setWidth 64), .sticky (r.2.setWidth 64 <<< 4)]

/-- A taken branch (R205): the strand goes on at `pc`, in the second cycle after the branch at the earliest. -/
def jumped (s : State) (r : Regs) (pc : Word) : State :=
  after s { s.me with regs := { r with pc := pc }, wait := .untilCycle (s.now + 2) } .goes

/-- The target pc + 8·off (R201): off is the sign-extended B of a paired bundle or word 1 of a lone one. -/
def branchTo (s : State) (c : CWord) : Word :=
  s.bpc + 8 * (match c.ext with | .paired => c.b.signExtend 64 | .lone w => w.signExtend 64)

def branched (s : State) (c : CWord) (r : Regs) (taken : Bool) : State :=
  if taken then jumped s r (branchTo s c) else wrote s r

/-- R242: the scalar loads, with their width, whether a window of R120 decodes for them, and how the value is extended. -/
def loadTable : List ((CWord → Instr) × Nat × Bool × (Word → Word)) :=
  [(.ldB, 1, false, fun x => (x.setWidth 8).signExtend 64), (.ldH, 2, false, fun x => (x.setWidth 16).signExtend 64),
   (.ldW, 4, true, fun x => (x.setWidth 32).signExtend 64), (.ldD, 8, false, fun x => x), (.ldBu, 1, false, fun x => x),
   (.ldHu, 2, false, fun x => x), (.ldWu, 4, true, fun x => x)]

/-- R242: the scalar stores with their width. -/
def storeTable : List ((CWord → Instr) × Nat) := [(.stB, 1), (.stH, 2), (.stW, 4), (.stD, 8)]

/-- The form of a scalar load and of a scalar store (R241, R242). -/
def loadsAs (n : Nat) (decodes : Bool) : Form :=
  { acc := .load, size := n, decodes := decodes, syncs := true, remote := true, vec := false }
def storesAs (n : Nat) : Form := { acc := .store, size := n, decodes := false, syncs := true, remote := true, vec := false }

/-- The address of an own store's byte through window 0 (R118). -/
def ownVa (off : Nat) : Nat := 0x01FFFFF000000000 + 0xFFF * 2 ^ 20 + off

/-- `n` own bytes, aligned, at an offset that the strand may access through window 0 (R118, R126). -/
def OwnBytes (s : State) (acc : Access) (off n : Nat) : Prop :=
  16384 % n = 0 ∧ off % n = 0 ∧ off < 262144 ∧ s.myCore.wayMask.getLsbD (off / 16384) = true ∧
    s.ownProtection acc off n = true

/-- `n` aligned bytes of a line that the strand's core holds, as the strand sees them, with the rights for the access (R130, R145). -/
def CachedBytes (s : State) (va n : Nat) (acc : Access) (b : List Byte) (g : Grant) : Prop :=
  va < 2 ^ 57 ∧ inAperture va = false ∧ va % n = 0 ∧ s.homeMoved s.me.part va = false ∧ s.lookCached va n acc = .held b g

/-- `n` aligned bytes of a line of which the strand's core holds what its leaf says, with the right to store (R130, R145). -/
def StorableBytes (s : State) (va n : Nat) (g : Grant) : Prop :=
  va < 2 ^ 57 ∧ inAperture va = false ∧ va % n = 0 ∧ s.homeMoved s.me.part va = false ∧ ∃ b, s.lookStore va = .held b g

/-- Cycles of a load beyond those it has waited for (R14, R418): 4 in a local aperture, 6 of a line that the core holds, none of one
that its home has just answered. -/
def loadCycles (s : State) (va : Nat) : Nat :=
  if inAperture va then 4 else if (State.receivedLine s.me.received (va / 256)).isSome then 0 else 6

/-- R252: the atomic functions. -/
def atomTable : List ((CWord → Instr) × AtomFn) :=
  [(.atomAdd, .add), (.atomAnd, .and), (.atomOr, .or), (.atomXor, .xor), (.atomMin, .min), (.atomMax, .max),
   (.atomMinu, .minu), (.atomMaxu, .maxu), (.atomSwap, .swap), (.atomCas, .cas), (.atomFadd, .fadd)]

def vatomTable : List ((CWord → Instr) × AtomFn) :=
  [(.vatomAdd, .add), (.vatomAnd, .and), (.vatomOr, .or), (.vatomXor, .xor), (.vatomMin, .min), (.vatomMax, .max),
   (.vatomMinu, .minu), (.vatomMaxu, .maxu), (.vatomSwap, .swap), (.vatomFadd, .fadd)]

/-- The new value of R251 over `n` bits, from the old bits, the value and the comparand. -/
def newBits (fn : AtomFn) (n : Nat) (o x cmp : BitVec n) : BitVec n :=
  match fn with
  | .add => o + x
  | .and => o &&& x
  | .or => o ||| x
  | .xor => o ^^^ x
  | .min => if o.toInt ≤ x.toInt then o else x
  | .max => if x.toInt ≤ o.toInt then o else x
  | .minu => if o.toNat ≤ x.toNat then o else x
  | .maxu => if x.toNat ≤ o.toNat then o else x
  | .swap => x
  | .cas => if o = cmp then x else o
  | .fadd => ((floatAdd ⟨0, false, false⟩ (o.setWidth 32) (x.setWidth 32)).1).setWidth n

end Sys2Proof.Claims

/-- R238, R239: the special functions after 16 cycles and `enc8` after 8, under LA. -/
def Sys2Proof.Claims.FunctionResults : Prop :=
  (∀ p ∈ sfuTable, ∀ c s, Ready (p.1 c) s → exec (p.1 c) s = .next (cFloat s c 16 (sfuEval p.2 (rmOf s.pre.flags)))) ∧
  (∀ c s, Ready (.enc8 c) s → exec (.enc8 c) s = .next (cFloat s c 8 fun x =>
    ((enc8Value (s.myCore.tableAt s.now) (c.b.getLsbD 0) x).1.setWidth 32, (enc8Value (s.myCore.tableAt s.now) (c.b.getLsbD 0) x).2)))

/-- R116, R117, R237-R239: reductions, scans and the functions of the C slot. -/
def Obligations.ReductionsScansAndFunctions : Prop := Claims.ReductionsAndScans ∧ Claims.FunctionResults

/-- R201, R204-R206: where each branch goes, what it links and what it counts. A fault that is raised writes no register and stops the
strand; where the chunk before it has still to read what it commits (R158), the bundle issues again after that instead. -/
def Obligations.Branches : Prop :=
  ∀ c s,
    (Ready (.jmp c) s → exec (.jmp c) s = .next (jumped s s.me.regs (branchTo s c))) ∧
    (Ready (.jal c) s → exec (.jal c) s = .next (jumped s (s.me.regs.setS c.d (s.bpc + 8)) (branchTo s c))) ∧
    (Ready (.jr c) s → (s.opA c).toNat % 8 = 0 →
      exec (.jr c) s = .next (jumped s (s.me.regs.setS c.d (s.bpc + 8)) (s.opA c))) ∧
    (Ready (.jr c) s → (s.opA c).toNat % 8 ≠ 0 →
      exec (.jr c) s = .next (s.raise { code := .misalignedFetch, va := s.opA c, isFetch := true })) ∧
    (∀ f, (s.raise f).me.regs = s.me.regs ∧
      (s.endBefore.me.owes = false → (s.raise f).me.wait = .faulting ∧ (s.raise f).me.fault = some f) ∧
      (s.endBefore.me.owes = true → (s.raise f).me.wait = .ready ∧ (s.raise f).me.fault = s.me.fault ∧ (s.raise f).issue = .no)) ∧
    (Ready (.bz c) s → exec (.bz c) s = .next (branched s c s.me.regs (s.opA c == 0))) ∧
    (Ready (.bnz c) s → exec (.bnz c) s = .next (branched s c s.me.regs (s.opA c != 0))) ∧
    (Ready (.bkany c) s → exec (.bkany c) s = .next (branched s c s.me.regs (s.readK (c.d.setWidth 3) != 0))) ∧
    (Ready (.bkall c) s → exec (.bkall c) s = .next (branched s c s.me.regs (s.readK (c.d.setWidth 3) == 0xFFFFFFFF))) ∧
    (Ready (.loop c) s →
      exec (.loop c) s = .next (branched s c (s.me.regs.setS c.d (s.readS c.d - 1)) (s.readS c.d != 1)))

/-- R241, R242: what each scalar load does with its element, whatever the place it lies in: the value it finds (a window's
element decoded, a remote element as the target answered it) is extended into s[D], an own or cached one under LA; a fault
of the place is raised, a line that is lacking or another core's store is asked, a page with O = 1 is read at its home, and a load of a notify
page is refused (R347). -/
def Sys2Proof.Claims.ScalarLoads : Prop :=
  ∀ p ∈ loadTable, ∀ c s, Ready (p.1 c) s →
    let va := s.loadAddress c p.2.1
    (∀ x sectors, s.readElement (loadsAs p.2.1 p.2.2.1) 0 va = .val x sectors →
      ¬ (inAperture va = true ∧ apSel va ≠ 0xFFF) →
      exec (p.1 c) s = .next (underLA (reading s sectors) c.la (loadCycles s va) [.s c.d] [.s c.d (p.2.2.2 x)])) ∧
    (∀ x sectors, s.readElement (loadsAs p.2.1 p.2.2.1) 0 va = .val x sectors → inAperture va = true → apSel va ≠ 0xFFF →
      exec (p.1 c) s = .next (after s { s.me with regs := { s.me.regs.setS c.d (p.2.2.2 x) with pc := s.bpc + 8 } } .alone)) ∧
    (∀ f, s.readElement (loadsAs p.2.1 p.2.2.1) 0 va = .fault f → exec (p.1 c) s = .next (s.raise f)) ∧
    (s.readElement (loadsAs p.2.1 p.2.2.1) 0 va = .need → exec (p.1 c) s = .next (s.requestLoad c.la [.s c.d] (p.1 c) va .load)) ∧
    (∀ core, s.readElement (loadsAs p.2.1 p.2.2.1) 0 va = .remote core → s.aloneNow = true → ∃ t n x, exec (p.1 c) s = .next t ∧
      t.issue = .no ∧ t.me.wait = .asleep .remote ∧ (n, .remoteLoadAtTarget x) ∈ t.sent ∧ x.who = s.cur ∧ x.target = core ∧
      x.elems = [(0, BitVec.ofNat 64 va)] ∧ x.size = p.2.1) ∧
    (∀ g, s.readElement (loadsAs p.2.1 p.2.2.1) 0 va = .strong g → let pa := g.frame + va % 256
      (s.aloneNow = false → exec (p.1 c) s = .next s.waitAlone) ∧
      (s.aloneNow = true → s.homePackage s.me.part va = s.pkgid → pa < Config.engineFrame → s.lockedLine s.me.part va = false →
        (∀ l ∈ s.l2, l.g.frame = pa / 256 * 256 → l.dirty = []) →
        exec (p.1 c) s = .next (after s { s.me with
          regs := { s.me.regs.setS c.d (p.2.2.2 (BitVec.ofNat 64 (Bytes.toNat (memLoad s.hbm pa p.2.1)))) with pc := s.bpc + 8 } } .strong)) ∧
      (s.aloneNow = true → s.homePackage s.me.part va = s.pkgid → Config.notifyPage ≤ pa → (notifyPartition pa).isSome = true →
        exec (p.1 c) s = .next (s.raise ((loadsAs p.2.1 p.2.2.1).fault .permission va))))

/-- R118, R120, R241: an element of the own store through window 0, and one of a cached line, are the bytes that lie there,
least significant first; those of the strand's own uncommitted stores lie over them. -/
def Sys2Proof.Claims.LoadedBytes : Prop :=
  (∀ (s : State) (f : Form) (lane off : Nat), OwnBytes s f.acc off f.size →
    s.readElement f lane (ownVa off) = .val (BitVec.ofNat 64 (Bytes.toNat (s.scratchBytes off f.size)))
      ((sectorsOf off f.size).map scratchVa)) ∧
  (∀ (s : State) (f : Form) (lane va : Nat) b g, CachedBytes s va f.size f.acc b g →
    s.readElement f lane va = .val (BitVec.ofNat 64 (Bytes.toNat b)) [va / 32 * 32])

/-- A line that uncommitted stores of a core's strands have written, which is dirty (R130, R131). -/
def Sys2Proof.Claims.DirtyLine (c : Core) (part line : Nat) : Prop :=
  ∃ e ∈ c.slots, e.2.part = part ∧ ∃ k ∈ e.2.closed ++ [e.2.opened], ∃ va data g,
    Held.store va data g ∈ k.held ∧ va.toNat / 256 ≤ line ∧ line * 256 < va.toNat + data.length

/-- Every L1 way of a further line's set holds a dirty line (R132); the ways are the zeros of WAYMASK (R130). -/
def Sys2Proof.Claims.DirtySet (c : Core) (part line : Nat) : Prop :=
  let ways := ((List.range 16).filter fun j => !c.wayMask.getLsbD j).length
  ¬ DirtyLine c part line ∧ 0 < ways ∧ ∃ ls : List (Nat × Nat), ls.Nodup ∧ ways ≤ ls.length ∧
    ∀ x ∈ ls, x.2 % 64 = line % 64 ∧ DirtyLine c x.1 x.2

/-- R130, R132: a line that is lacking is asked for at its home, unless its fill is under way (R311), and the strand sleeps until the
answer; where dirty lines fill its set, the chunk ends before the bundle instead, nothing is asked, and the bundle issues again in the
next cycle or later. -/
def Sys2Proof.Claims.LinesAsked : Prop :=
  ∀ (s : State) (va : Nat) (acc : Access), let t := s.requestLine va acc
    (¬ DirtySet s.myCore s.me.part (va / 256) → t.me = { s.me with wait := .asleep (.fill (va / 256)) } ∧ t.issue = .no ∧
      (s.me.part, va / 256) ∈ t.myCore.fills ∧
      ((s.me.part, va / 256) ∈ s.myCore.fills → t.sent = s.sent) ∧
      ((s.me.part, va / 256) ∉ s.myCore.fills →
        ∃ n x, t.sent = s.sent ++ [(n, .homeRequest x)] ∧ s.now + toSlice (quireOf s.cur.core) (s.homeOf s.me.part va) ≤ n ∧
          x.who = s.cur ∧ x.part = s.me.part ∧ x.va = BitVec.ofNat 64 va ∧ x.op = .need acc)) ∧
    (DirtySet s.myCore s.me.part (va / 256) → t.me = { s.endBefore.me with wait := .untilCycle (s.now + 1) } ∧ t.me.opened.count = 0 ∧
      t.issue = .no ∧ ∀ n x, (n, .homeRequest x) ∈ t.sent → (n, .homeRequest x) ∈ s.sent)

/-- R191, R394: a load that misses with LA = 0 waits, and so does one in a chunk that is issued again because one of its loads has faulted, or one
partly performed; any other has issued. Its window is open, with no result yet, the line is asked for as above, and the load itself is kept with what it
reads besides memory. -/
def Sys2Proof.Claims.LoadsBehindWindows : Prop :=
  ∀ (s : State) (la : BitVec 4) (dests : List Dest) (word : Instr) (va : Nat) (acc : Access), let t := s.requestLoad la dests word va acc
    ((la = 0 ∨ s.me.opened.inOrder = true ∨ s.me.doneLanes ≠ 0 ∨ DirtySet s.myCore s.me.part (va / 256)) → t = s.requestLine va acc) ∧
    (la ≠ 0 → s.me.opened.inOrder = false → s.me.doneLanes = 0 → ¬ DirtySet s.myCore s.me.part (va / 256) →
      ∃ tag, t.issue = .goes ∧ t.me.regs = { s.me.regs with pc := s.bpc + 8 } ∧
        t.me.windows = s.me.windows ++ [{ tag := tag, chunk := s.me.opened.id, dests := dests, left := la.toNat, due := s.now, writes := none }] ∧
        t.me.pending = s.me.pending ++ [{ tag := tag, chunk := s.me.opened.id, held := s.me.opened.held.length, instr := word, regs := s.pre,
                                          cbuf := s.me.cbuf, scale := s.me.scaleBase, line := va / 256, got := [], ready := false }] ∧
        (s.me.part, va / 256) ∈ t.myCore.fills ∧
        ((s.me.part, va / 256) ∈ s.myCore.fills → t.sent = s.sent) ∧
        ((s.me.part, va / 256) ∉ s.myCore.fills →
          ∃ n x, t.sent = s.sent ++ [(n, .homeRequest x)] ∧ s.now + toSlice (quireOf s.cur.core) (s.homeOf s.me.part va) ≤ n ∧
            x.who = s.cur ∧ x.part = s.me.part ∧ x.va = BitVec.ofNat 64 va ∧ x.op = .need acc))

/-- R422: the first store of a strand to a line whose leaf its core does not hold asks the home whether it may be performed; nothing of
the strand's own waits for the answer. -/
def Sys2Proof.Claims.StoresChecked : Prop :=
  ∀ (s : State) (va : Nat), let t := s.askCheck va
    t.me = s.me ∧ t.myCore = s.myCore ∧
    ((∃ k ∈ s.me.closed ++ [s.me.opened], ∃ a d, (Held.store a d none ∈ k.held ∨ Held.nontemporal a d none ∈ k.held) ∧
        a.toNat / 256 = va / 256) → t = s) ∧
    ((∀ k ∈ s.me.closed ++ [s.me.opened], ∀ a d, (Held.store a d none ∈ k.held ∨ Held.nontemporal a d none ∈ k.held) →
        a.toNat / 256 ≠ va / 256) →
      ∃ n x, t.sent = s.sent ++ [(n, .homeRequest x)] ∧ s.now + toSlice (quireOf s.cur.core) (s.homeOf s.me.part va) ≤ n ∧
        x.who = s.cur ∧ x.part = s.me.part ∧ x.va = BitVec.ofNat 64 va ∧ x.op = .check)

/-- R118, R120, R130, R132, R191, R241, R242: the scalar loads, the bytes that they find, and what a line that is lacking takes. -/
def Obligations.ScalarLoadsOfMemory : Prop := Claims.ScalarLoads ∧ Claims.LoadedBytes ∧ Claims.LinesAsked ∧ Claims.LoadsBehindWindows

/-- R128, R129, R130, R160, R241, R242, R422: a scalar store to the own store or to a cached line is held to its chunk's commit, at the
address that the store computes; where the core does not hold what the line's leaf says, the home is asked and the line allocated without
a fetch, or, where dirty lines fill its set, the chunk ends first (R132). A store to another core's store also takes a journal entry, or
waits for one under its LA, behind the strand's earlier ones that wait (R191); a fault of the place is raised, and a page with O = 1, an engine window and a notify page are stored
to at once, alone. -/
def Sys2Proof.Claims.ScalarStoresHeld : Prop :=
  ∀ p ∈ storeTable, ∀ c s, Ready (p.1 c) s →
    let va := s.storeAddress c p.2
    let data := Bytes.ofNat p.2 (s.opA c).toNat
    (∀ off, va = ownVa off → OwnBytes s .store off p.2 →
      exec (p.1 c) s = .next (held s (.scratch off data false) ((sectorsOf off p.2).map scratchVa))) ∧
    (∀ g, StorableBytes s va p.2 g →
      exec (p.1 c) s = .next (held s (.store (BitVec.ofNat 64 va) data (some g)) [va / 32 * 32])) ∧
    (∀ core j, s.place (storesAs p.2) va = .ok (.remote core) → State.journalFree s.myCore = some j → s.me.wantsKind 0 = false →
      exec (p.1 c) s = .next (held (journaled s j va p.2) (.posted (postedTo s (some j) core va data)) [])) ∧
    (∀ core, s.place (storesAs p.2) va = .ok (.remote core) → (State.journalFree s.myCore = none ∨ s.me.wantsKind 0 = true) →
      exec (p.1 c) s = .next (waiting s c.la [] (.journal (postedTo s none core va data) (BitVec.ofNat 64 va) p.2))) ∧
    (∀ f, s.place (storesAs p.2) va = .error f → exec (p.1 c) s = .next (s.raise f)) ∧
    (s.place (storesAs p.2) va = .ok .cached → s.lookStore va = .miss →
      (DirtySet s.myCore s.me.part (va / 256) → exec (p.1 c) s = .next (s.requestLine va .store)) ∧
      (¬ DirtySet s.myCore s.me.part (va / 256) → exec (p.1 c) s =
        .next (held ((s.askCheck va).allocate va) (.store (BitVec.ofNat 64 va) data none) [va / 32 * 32]))) ∧
    (∀ g, s.place (storesAs p.2) va = .ok .cached → s.lookStore va = .strong g →
      let pa := g.frame + va % 256
      (s.aloneNow = false → exec (p.1 c) s = .next s.waitAlone) ∧
      (∀ q, s.aloneNow = true → s.homePackage s.me.part va = s.pkgid → engineFrameQuire pa = some q →
        q = quireOf s.cur.core → pa % 4096 / 256 = s.cur.core % 4 → pa % 4096 < 1024 → pa % 64 + p.2 < 64 →
        ∃ t, exec (p.1 c) s = .next t ∧ t.issue = .strong ∧ t.me.regs = { s.me.regs with pc := s.bpc + 8 } ∧
          t.sent = s.sent ++ [(s.now, .engineWindowStore s.cur pa p.2 (BitVec.ofNat 64 (Bytes.toNat data)))] ∧ t.hbm = s.hbm) ∧
      (∀ k, s.aloneNow = true → s.homePackage s.me.part va = s.pkgid → notifyPartition pa = some k → pa % 4096 = 0 → p.2 = 8 →
        ∃ t, exec (p.1 c) s = .next t ∧ t.issue = .strong ∧ t.me.regs = { s.me.regs with pc := s.bpc + 8 } ∧
          t.sent = s.sent ++ [(s.now + toBase (quireOf s.cur.core), .notifyPageStore k (BitVec.ofNat 64 (Bytes.toNat data)))] ∧ t.hbm = s.hbm) ∧
      (s.aloneNow = true → s.homePackage s.me.part va = s.pkgid → engineFrameQuire pa = none → notifyPartition pa = none →
        s.lockedLine s.me.part va = false → s.cowDefer (s.strongWrite va data g) = none →
        ∃ t, exec (p.1 c) s = .next t ∧ t.issue = .strong ∧ t.me.regs = { s.me.regs with pc := s.bpc + 8 } ∧ t.me.wait = s.me.wait ∧
          t.hbm = (s.performWrite (s.strongWrite va data g)).hbm))

/-- R128-R130, R132, R148, R160, R241, R242, R422: the scalar stores, and the check that a store of a lacking line asks for. -/
def Obligations.ScalarStores : Prop := Claims.ScalarStoresHeld ∧ Claims.StoresChecked

/-- R246, R247: `stf` fills its sector at the commit; `ldf` and `ldfc` read a full sector, which `ldfc` empties at the
commit, and sleep at an empty one; `wmask` sets and clears the full bits of 32 sectors at the commit. -/
def Obligations.FullBits : Prop :=
  ∀ c s,
    (∀ off, Ready (.stf c) s → s.storeAddress c 8 = ownVa off → OwnBytes s .store off 8 →
      exec (.stf c) s = .next (held s (.scratch off (Bytes.ofNat 8 (s.opA c).toNat) true) ((sectorsOf off 8).map scratchVa))) ∧
    (∀ p ∈ ([(.ldf c, false), (.ldfc c, true)] : List (Instr × Bool)), ∀ off, Ready p.1 s → s.loadAddress c 8 = ownVa off →
      OwnBytes s .load off 8 →
      let sector := scratchVa (32 * (off / 32))
      let x := BitVec.ofNat 64 (Bytes.toNat (s.scratchBytes off 8))
      exec p.1 s = .next (if s.sectorFull (off / 32) then
          underLA (reading (if p.2 then holding s (.fullBits [] [off / 32]) [sector] else s) [sector]) c.la 4 [.s c.d] [.s c.d x]
        else s.sleepOn (.sector (off / 32)))) ∧
    (∀ p ∈ ([(.wmaskSet c, fun b => (b, false)), (.wmaskClr c, fun b => (false, b)), (.wmaskPut c, fun b => (b, !b))] :
        List (Instr × (Bool → Bool × Bool))), Ready p.1 s →
      let bits (f : Bool → Bool) : List Nat := (List.range 32).filter fun j => f ((s.opA c).getLsbD j)
      let changed := bits fun b => (p.2 b).1 || (p.2 b).2
      ∀ off, s.maskBase (s.readS c.d).toNat changed = .ok off →
        exec p.1 s = .next (held s (.fullBits ((bits fun b => (p.2 b).1).map (off / 32 + ·)) ((bits fun b => (p.2 b).2).map (off / 32 + ·)))
          (changed.map fun j => scratchVa (off + 32 * j))))

namespace Sys2Proof.Claims

/-! ## Vector memory -/

/-- The lanes that a vector access has still to perform: those of k[MK] that an earlier report has not (R243, R406). -/
def mask (s : State) (c : CWord) : W32 := s.readK (c.msk.setWidth 3) &&& ~~~s.me.doneLanes

/-- The form of a vector load or store of `n` bytes a lane (R243). -/
def vectorForm (acc : Access) (n : Nat) (decodes : Bool) : Form :=
  { acc := acc, size := n, decodes := decodes, syncs := true, remote := true, vec := true }

/-- Element bytes and shift of a gather or scatter: in word 1 of a lone bundle, words at shift 2 in a paired one (R245). -/
def gather (c : CWord) : Nat × Nat :=
  match c.ext with
  | .paired => (4, 2)
  | .lone w => (2 ^ (w.toNat % 4), w.toNat / 4 % 4)

/-- A vector access: the instruction, its form, its lanes with their addresses, and whether the lanes are a run. -/
structure Access32 where
  i : Instr
  v : VecForm
  addr : Nat → Nat

/-- Runs from pc-relative-free bases (R243) and gathers (R245). -/
def vectorLoads (s : State) (c : CWord) : List Access32 :=
  let run (i : Instr) (n : Nat) : Access32 :=
    let base := s.loadAddress c (32 * n)
    ⟨i, { f := vectorForm .load n (n == 4), run := true, base := base, mask := s.readK (c.msk.setWidth 3) }, runAddress base n⟩
  [run (.vldB c) 1, run (.vldH c) 2, run (.vldW c) 4,
   ⟨.vgat c, { f := vectorForm .load (gather c).1 ((gather c).1 == 4), run := false, base := 0, mask := s.readK (c.msk.setWidth 3) },
    s.indexAddress (s.opA c) c.b (gather c).2⟩]

def vectorStores (s : State) (c : CWord) : List Access32 :=
  let run (i : Instr) (n : Nat) : Access32 :=
    let base := s.storeAddress c (32 * n)
    ⟨i, { f := vectorForm .store n false, run := true, base := base, mask := s.readK (c.msk.setWidth 3) }, runAddress base n⟩
  [run (.vstB c) 1, run (.vstH c) 2, run (.vstW c) 4,
   ⟨.vsca c, { f := vectorForm .store (gather c).1 false, run := false, base := 0, mask := s.readK (c.msk.setWidth 3) },
    s.indexAddress (s.readS c.d) c.b (gather c).2⟩]

/-- The lanes still to perform, ascending, each with its address. -/
def Access32.lanes (a : Access32) (s : State) (c : CWord) : List (Fin 32 × Nat) := laneAddresses (mask s c) a.addr

/-- A fault of a vector access: the record's lanes are those performed or masked out (R404). -/
def vectorFault (s : State) (c : CWord) (f : FaultInfo) : State :=
  s.raise { f with vec := true, lanes := ~~~s.readK (c.msk.setWidth 3) ||| s.me.doneLanes }

/-- An address in another core's store, and one outside a core's own store. -/
def elsewhere (va : Nat) : Bool := inAperture va && apSel va != 0xFFF

/-- Effects held in order (R160). -/
def holdAll (s : State) (hs : List (Held × List Nat)) : State := hs.foldl (fun u h => holding u h.1 h.2) s

end Sys2Proof.Claims

/-- R243, R245: the lanes of a vector load or gather take their elements, sign-extended to 32 bits, under LA, or at once where a
lane lies in another core's store; the rules of R395 for the whole access come first. -/
def Obligations.VectorLoads : Prop :=
  ∀ c s, ∀ a ∈ vectorLoads s c, Ready a.i s →
    (∀ f, vectorCheck s.myCore a.v (a.lanes s c) = some f → exec a.i s = .next (vectorFault s c f)) ∧
    (∀ (x : Fin 32 → Word) (sectors : Fin 32 → List Nat), vectorCheck s.myCore a.v (a.lanes s c) = none →
      (∀ l ∈ a.lanes s c, s.readElement a.v.f l.1 l.2 = .val (x l.1) (sectors l.1)) →
      let v : VReg := lanes fun j => if laneOn (mask s c) j then
        BitVec.ofInt 32 ((x j).setWidth (8 * a.v.f.size)).toInt else 0
      exec a.i s = .next (if (a.lanes s c).any fun l => elsewhere l.2 then
          after s { s.me with regs := { s.me.regs.setV c.d v (mask s c) with pc := s.bpc + 8 } } .alone
        else
          underLA (reading s ((a.lanes s c).flatMap fun l => sectors l.1)) c.la
            (loadCycles s (((a.lanes s c).head?.map (·.2)).getD 0)) [.v c.d] [.v c.d v (mask s c)]))

/-- R160, R243, R245: the lanes of a vector store or scatter are held in ascending order; each lane's bytes are the low ones of
its lane of v[A]. -/
def Obligations.VectorStores : Prop :=
  (∀ c s, ∀ a ∈ vectorStores s c, Ready a.i s →
    let data (j : Fin 32) : List Byte := Bytes.ofNat a.v.f.size (s.readV c.a)[j].toNat
    (∀ f, vectorCheck s.myCore a.v (a.lanes s c) = some f → exec a.i s = .next (vectorFault s c f)) ∧
    (∀ h : Fin 32 → Held × List Nat, vectorCheck s.myCore a.v (a.lanes s c) = none →
      (∀ l ∈ a.lanes s c,
        (∃ off, l.2 = ownVa off ∧ OwnBytes s .store off a.v.f.size ∧
          h l.1 = (.scratch off (data l.1) false, (sectorsOf off a.v.f.size).map scratchVa)) ∨
        (∃ g, StorableBytes s l.2 a.v.f.size g ∧
          h l.1 = (.store (BitVec.ofNat 64 l.2) (data l.1) (some g), [l.2 / 32 * 32]))) →
      exec a.i s = .next (wrote (holdAll s ((a.lanes s c).map fun l => h l.1)) s.me.regs)))

/-- R172, R248, R249, R422: non-temporal stores to cached lines are held and set no signature, the home being asked of a line that the
core lacks, and a local-aperture address raises
APERTURE; `pref` asks the home for a line that the core lacks and otherwise has no effect. -/
def Obligations.NontemporalStoresAndPrefetch : Prop :=
  (∀ c s, Ready (.stnt c) s → let va := s.storeAddress c 8
    (∀ g, StorableBytes s va 8 g → exec (.stnt c) s =
      .next (held s (.nontemporal (BitVec.ofNat 64 va) (Bytes.ofNat 8 (s.opA c).toNat) (some g)) [])) ∧
    (va < 2 ^ 57 → inAperture va = false → va % 8 = 0 → s.homeMoved s.me.part va = false → s.lookStore va = .miss →
      exec (.stnt c) s =
        .next (held (s.askCheck va) (.nontemporal (BitVec.ofNat 64 va) (Bytes.ofNat 8 (s.opA c).toNat) none) [])) ∧
    (va < 2 ^ 57 → va % 8 = 0 → inAperture va = true → exec (.stnt c) s =
      .next (s.raise { code := .aperture, va := BitVec.ofNat 64 va, isWrite := true,
                       info := BitVec.ofNat 64 (8 + 256 * apWindow va) }))) ∧
  (∀ c s, Ready (.vstnt c) s → inAperture (s.storeAddress c 128) = false →
    let ls := laneAddresses (mask s c) fun i => (s.storeAddress c 128 + 4 * i) % 2 ^ 64
    ∀ h : Fin 32 → Held,
      (∀ l ∈ ls, ∃ g, StorableBytes s l.2 4 g ∧
        h l.1 = .nontemporal (BitVec.ofNat 64 l.2) (Bytes.ofNat 4 (s.readV c.a)[l.1].toNat) (some g)) →
      exec (.vstnt c) s = .next (wrote (holdAll s (ls.map fun l => (h l.1, []))) s.me.regs)) ∧
  (∀ c s, Ready (.pref c) s → let va := s.loadAddress c 256
    ((2 ^ 57 ≤ va ∨ inAperture va = true ∨ s.homeMoved s.me.part va = true ∨ ∃ b g, s.lookLine va = .held b g) →
      exec (.pref c) s = .next (wrote s s.me.regs)) ∧
    (va < 2 ^ 57 → inAperture va = false → s.homeMoved s.me.part va = false → s.lookLine va = .miss →
      exec (.pref c) s = .next (s.requestLine va .load)))

/-- R113-R115, R250: `stmx` stores the codes of its block, its scale and an entry for each lane that the format cannot hold,
moves the errata tail, takes from the room, and sets ERRFULL when an entry finds none. -/
def Sys2Proof.Claims.NarrowingStore : Prop :=
  ∀ c s, Ready (.stmx c) s →
    let fmt := c.b.toNat % 4
    let group (j : Nat) : Word := s.readS (c.d + BitVec.ofNat 5 j)
    let xs := laneList.map fun i => if laneOn (s.readK (c.msk.setWidth 3)) i then (s.readV c.a)[i] else 0
    let block := narrowBlock fmt (!c.b.getLsbD 2) ((group 3).toNat / 2 ^ 32 % 256) xs
    let out := (List.range 32).filter fun j => (block.2.getD j (some 0)).isNone
    let kept := out.take ((group 3).toNat / 2 ^ 40)
    let stores := [((group 0).toNat, packCodes fmt (block.2.map (·.getD 0))), ((group 1).toNat, [BitVec.ofNat 8 block.1])] ++
      kept.zipIdx.map fun e => ((group 2 + BitVec.ofNat 64 (8 * e.2)).toNat,
        Bytes.ofNat 4 ((group 3).toNat % 2 ^ 32 + e.1) ++ Bytes.ofNat 4 (xs.getD e.1 0).toNat)
    (∀ e ∈ stores, e.1 = ownVa (apOff e.1) ∧ OwnBytes s .store (apOff e.1) e.2.length) →
    exec (.stmx c) s = .next (underLA
      (holdAll s (stores.map fun e => (.scratch (apOff e.1) e.2 false, (sectorsOf (apOff e.1) e.2.length).map scratchVa)))
      c.la 4 [.s (c.d + 2), .s (c.d + 3)]
      ([.s (c.d + 2) (group 2 + BitVec.ofNat 64 (8 * kept.length)), .s (c.d + 3) (group 3 - (BitVec.ofNat 64 kept.length <<< 40))] ++
        (if kept.length < out.length then [.sticky (1 <<< 10)] else [])))

/-- R240: `ltab` reads a table of 1 KiB, of which entry j is bits [18:0] of word j, and the core switches to it when the read's
cost has passed (4 cycles for the own store, and what contention adds). -/
def Sys2Proof.Claims.TableLoad : Prop :=
  ∀ c s off, Ready (.ltab c) s → (s.opA c).toNat = ownVa off → (∀ j < 4, OwnBytes s .load (off + 256 * j) 256) →
    let s1 := reading s ((List.range 4).flatMap fun j => (sectorsOf (off + 256 * j) 256).map scratchVa)
    let entries := (List.range 256).map fun j => BitVec.ofNat 19 (Bytes.toNat (s.scratchBytes (off + 4 * j) 4))
    ∃ n, 4 ≤ n ∧ exec (.ltab c) s = .next (underLA (({ s1 with free := s1.free + 1 } : State).updMyCore fun k => { k.settleTable s.now with
      tables := (k.settleTable s.now).tables ++ [{ due := s.now + n, chunk := s.me.opened.id, entries := entries }] })
        c.la n [] [])

/-- R240: a core uses its old table until it switches, and of the tables that it has switched to the one whose switch is the latest; that a committed
table is no longer kept apart changes none of it. -/
def Sys2Proof.Claims.TableSwitches : Prop :=
  ∀ (c : Core) (now : Nat),
    ((∀ x ∈ c.tables, now < x.due) → c.tableAt now = c.table) ∧
    (∀ x ∈ c.tables, x.due ≤ now → (∀ y ∈ c.tables, y ≠ x → y.due ≤ now → y.due < x.due) → c.tableAt now = x.entries) ∧
    ((c.settleTable now).tableAt now = c.tableAt now)

/-- R113-R115, R240, R250: `stmx` and `ltab`. -/
def Obligations.NarrowingAndTables : Prop := Claims.NarrowingStore ∧ Claims.TableLoad ∧ Claims.TableSwitches

/-- R281: the experts that a row flags are those of the kept ones that fewer than k others come before: a greater key, or the
same key and a lower index. Without a group limit every live expert is kept. -/
def Sys2Proof.Claims.TopkSelection : Prop :=
  ∀ (t : TopkShape) (dead : Nat → Bool) (key : Nat → Nat), t.gl = 0 →
    let live := (List.range t.e).filter fun e => !dead e
    let before (a b : Nat) : Bool := decide (key b < key a) || (key a == key b && decide (a < b))
    let row := topkRow t dead key
    (∀ e, e ∈ row.1 ↔ e ∈ live ∧ (live.filter fun f => before f e).length < t.k) ∧
    row.1.length = min t.k live.length ∧ (row.2 = true ↔ live.length < t.k) ∧
    row.1.Pairwise fun a b => before a b = true

/-- R160, R280, R281: `topk` makes a row of 64 bytes for each row of scores, which are stores held to its commit, and s[D] has a bit for each row with
fewer than k live experts; it runs as a chunk of its own. -/
def Sys2Proof.Claims.TopkResults : Prop :=
  ∀ c s sc out dd, Ready (.topk c) s → c.a.toNat ≤ 12 → s.aloneNow = true →
    let arg (j : Nat) : Word := s.readS (c.a + BitVec.ofNat 5 j)
    let t := topkShape (arg 2)
    topkOk (arg 2) t = true →
    s.scratchRange .load (arg 0).toNat (t.rows * (32 * Bits.ceilDiv t.e 16)) 32 = .ok sc →
    s.scratchRange .store (arg 1).toNat (64 * t.rows) 32 = .ok out →
    (arg 3 = 0 ∨ s.scratchRange .load (arg 3).toNat 32 32 = .ok dd) →
    let store := s.myCore.store
    let row (r : Nat) : List Nat × Bool := topkRow t (fun e => arg 3 != 0 && (memGet store (dd + e / 8)).getLsbD (e % 8))
      (fun e => scoreKey (Bytes.toNat (memLoad store (sc + r * (32 * Bits.ceilDiv t.e 16) + 2 * e) 2)))
    ∃ (u : State) (m : Word), exec (.topk c) s = .next u ∧ u.issue = .alone ∧ u.me.regs = { s.me.regs.setS c.d m with pc := s.bpc + 8 } ∧
      u.me.wait = .untilCycle (s.now + 16 * t.rows + 8) ∧
      (∀ r, m.getLsbD r = (decide (r < t.rows) && (row r).2)) ∧
      u.me.opened.held = s.me.opened.held ++ [.scratch out ((List.range t.rows).flatMap fun r => topkBytes (row r)) false] ∧
      u.me.opened.writes = s.me.opened.writes.union (sigOf s.me.part ((sectorsOf out (64 * t.rows)).map scratchVa)) ∧
      u.hbm = s.hbm ∧ u.l2 = s.l2 ∧ ∀ n, (u.core n).store = (s.core n).store

/-- R280, R281: `topk`: which experts it selects, and what it writes. -/
def Obligations.TopkSelectsAndWrites : Prop := Claims.TopkSelection ∧ Claims.TopkResults

namespace Sys2Proof.Claims

/-! ## Ends of chunks, waits, answers of units, atomics -/

/-- The bundle has issued, its chunk ends after it (R153), and the strand's next bundle waits for `w`. -/
def endsWaiting (s : State) (w : Wait) : State :=
  after s { s.me with regs := { s.me.regs with pc := s.bpc + 8 }, wait := w } .ends

/-- The bundle has issued as a chunk of its own, having written `r` (R162, R163). -/
def alone (s : State) (r : Regs) : State := { wrote s r with issue := .alone }

/-- The bundle asks another unit, with a result under LA that the unit answers (R191); the question arrives after `delay`
cycles and a contention that is free (log entry 1). -/
def asking (s : State) (la : BitVec 4) (dests : List Dest) (delay : Nat) (e : Event) : State :=
  { s.setMe { s.me with windows := s.me.windows ++
      [{ tag := s.ids, chunk := s.me.opened.id, dests := dests, left := la.toNat, due := s.now, writes := none }] } with
    ids := s.ids + 1, sent := s.sent ++ [(s.now + (delay + s.draw.toNat), e)], free := s.free + 1 }

/-- The same, with an effect that is held under the question's tag (R52, R283, R301, R302). -/
def awaiting (s : State) (c : CWord) (h : Held) (delay : Nat) (e : Event) : State :=
  wrote (asking (holding s h []) c.la [.s c.d] delay e) s.me.regs

/-- The sectors of a line or descriptor in the own store. -/
def lineSectors (off n : Nat) : List Nat := (sectorsOf off n).map scratchVa

/-- An atomic may be performed now: the strand has no uncommitted chunk, its release has completed, and it has received
nothing yet (R162, R169). -/
def AtomReady (s : State) (c : CWord) : Prop :=
  s.aloneNow = true ∧ s.me.received = [] ∧ (c.msk.getLsbD 1 = true → s.releaseDone s.cur (c.ext.word1.toNat % 8) = true)

/-- The lanes of a `vatom` on a store, in ascending order: the store after them, and their old values (R253). -/
def atomRun (fn : AtomFn) (x : Fin 32 → W32) : List (Fin 32 × Nat) → Mem → List (Fin 32 × W32) → Mem × List (Fin 32 × W32)
  | [], m, olds => (m, olds)
  | (j, off) :: r, m, olds =>
    let o := BitVec.ofNat 32 (Bytes.toNat (memLoad m off 4))
    atomRun fn x r (memStore m off (Bytes.ofNat 4 (newBits fn 32 o (x j) 0).toNat)) (olds ++ [(j, o)])

/-- Every byte of memory outside a core's store is as before; the L2 may have lost SHARED lines of other packages, which an acquire
drops (R167). -/
def SameElsewhere (s t : State) (core : Nat) : Prop :=
  t.hbm = s.hbm ∧ (∀ l, l.peer ≠ some false → (l ∈ t.l2 ↔ l ∈ s.l2)) ∧ (∀ l ∈ t.l2, l ∈ s.l2) ∧
    ∀ n, n ≠ core → (t.core n).store = (s.core n).store

/-- A control register's number in a `csrr` or `csrw` (R224). -/
def selector (c : CWord) : Nat := c.a.toNat * 128 + c.b.toNat * 4 + c.msk.toNat

end Sys2Proof.Claims

/-- R169, R251, R252: an atomic on the own store reads the old bits, stores the new ones and writes the old ones, sign-extended, to
s[D], as a chunk of its own; no other byte of memory changes. -/
def Sys2Proof.Claims.ScalarAtomics : Prop :=
  ∀ p ∈ atomTable, ∀ c s off, Ready (p.1 c) s → AtomReady s c → (s.opA c).toNat = ownVa off →
    let w := c.ext.word1
    let n := if w.extractLsb' 3 2 = 0 then 4 else 8
    OwnBytes s .atomic off n →
    let x := match (w.extractLsb' 5 2).toNat with
      | 0 => ((s.readV (w.extractLsb' 7 5))[0]).setWidth 64
      | 1 => s.readS (w.extractLsb' 7 5)
      | 2 => s.readCb (w.extractLsb' 7 5)
      | _ => (w.extractLsb' 20 12).signExtend 64
    let o : BitVec (8 * n) := BitVec.ofNat (8 * n) (Bytes.toNat (memLoad s.myCore.store off n))
    let new := newBits p.2 (8 * n) o (x.setWidth (8 * n)) ((s.readS (w.extractLsb' 12 5)).setWidth (8 * n))
    ∃ t, exec (p.1 c) s = .next t ∧ t.issue = .alone ∧
      t.me.regs = { s.me.regs.setS c.d (o.signExtend 64) with pc := s.bpc + 8 } ∧
      (t.core s.cur.core).store = memStore s.myCore.store off (Bytes.ofNat n new.toNat) ∧ SameElsewhere s t s.cur.core

/-- R251, R253: `vatom` performs its lanes under k[KM] in ascending order and writes their old values to v[D]. -/
def Sys2Proof.Claims.VectorAtomics : Prop :=
  ∀ p ∈ vatomTable, ∀ c s (off : Fin 32 → Nat), Ready (p.1 c) s → AtomReady s c →
    let w := c.ext.word1
    let km := s.readK (w.extractLsb' 17 3) &&& ~~~s.me.doneLanes
    let ls := (laneList.filter fun j => laneOn km j)
    (∀ j ∈ ls, s.indexAddress (s.readS (w.extractLsb' 12 5)) c.a 2 j = ownVa (off j) ∧ OwnBytes s .atomic (off j) 4) →
    let x (j : Fin 32) : W32 := match (w.extractLsb' 5 2).toNat with
      | 0 => (s.readV (w.extractLsb' 7 5))[j]
      | 1 => (s.readS (w.extractLsb' 7 5)).setWidth 32
      | 2 => (s.readCb (w.extractLsb' 7 5)).setWidth 32
      | _ => (w.extractLsb' 20 12).signExtend 32
    let r := atomRun p.2 x (ls.map fun j => (j, off j)) s.myCore.store []
    ∃ t, exec (p.1 c) s = .next t ∧ t.issue = .alone ∧
      t.me.regs = { s.me.regs.setV c.d (lanes fun j => ((r.2.find? fun e => e.1 == j).map (·.2)).getD 0) km with pc := s.bpc + 8 } ∧
      (t.core s.cur.core).store = r.1 ∧ SameElsewhere s t s.cur.core

/-- R169, R251-R253: the scalar and the vector atomics. -/
def Obligations.Atomics : Prop := Claims.ScalarAtomics ∧ Claims.VectorAtomics

/-- R168, R173, R254-R256: a fence ends its chunk and then acquires, or waits for its release, or both in turn; `drain` waits
for the strand's non-temporal stores; maintenance is held to the commit and waited for, over a range below 2^57 and outside the
aperture. -/
def Obligations.FencesAndMaintenance : Prop :=
  ∀ c s, let scope := c.d.toNat % 8
    let a := s.opA c
    let len := s.readS c.d
    (Ready (.fence c) s → exec (.fence c) s = .next (if c.msk = 1 then (({ wrote s s.me.regs with issue := .ends } : State).acquire s.cur.core scope)
      else endsWaiting s (.release scope (if c.msk = 2 then .go else .acquire scope)))) ∧
    (Ready (.drain c) s → exec (.drain c) s = .next (endsWaiting s (.drained scope))) ∧
    (∀ p ∈ ([(.wbr c, 0), (.invL1 c, 1), (.invHome c, 2)] : List (Instr × Nat)), Ready p.1 s →
      (a.toNat < 2 ^ 57 → len.toNat < 2 ^ 31 → (len = 0 ∨ (inAperture a.toNat = false ∧ a.toNat + len.toNat ≤ 0x01FFFFF000000000)) →
        exec p.1 s = .next (endsWaiting (holding s (.maintain p.2 a len) []) .maintained)) ∧
      (2 ^ 31 ≤ len.toNat → exec p.1 s = .next (s.raise { code := .reservedField })) ∧
      (2 ^ 57 ≤ a.toNat → len.toNat < 2 ^ 31 → exec p.1 s = .next (s.raise { code := .notPresent, va := a })) ∧
      (a.toNat < 2 ^ 57 → len.toNat < 2 ^ 31 → len ≠ 0 → inAperture a.toNat = true → exec p.1 s = .next (s.raise { code := .aperture, va := a })))

/-- R207, R208, R211, R213: a strand that ends, joins its parent or migrates issues nothing more until its final chunk has committed;
a `jend` decrements its counter there; `trap` raises its event with the code. -/
def Obligations.EndingStrands : Prop :=
  ∀ c s,
    (Ready (.endStrand c) s → exec (.endStrand c) s = .next (endsWaiting (holding s .endStrand []) .committed)) ∧
    (Ready (.jend c) s → exec (.jend c) s = .next (match s.me.counter with
      | none => endsWaiting (holding s .endStrand []) .committed
      | some (core, off) => endsWaiting (holding (holding s (.decrement core off)
          (if core = s.cur.core then [scratchVa (off / 32 * 32)] else [])) .joinEnd []) .committed)) ∧
    (Ready (.migr c) s →
      let a := s.opA c
      let core := if apSel a.toNat = 0xFFF then s.cur.core else apSel a.toNat
      let mayGo := (if inAperture a.toNat then s.owner (quireOf core) == some s.me.part else !s.homeMoved s.me.part a.toNat)
      exec (.migr c) s = .next (
        if s.me.kind = .epilogue ∨ s.me.kind = .checkpoint ∨ s.me.frames ≠ [] then s.raise { code := .reservedField }
        else if mayGo then endsWaiting (holding s (.migrate a) []) .committed
        else s.raise { code := if inAperture a.toNat then .aperture else .homeMoved, va := a })) ∧
    (Ready (.trap c) s → exec (.trap c) s = .next (s.raise { code := .trap c.b, info := c.b.setWidth 64 }))

/-- R209, R210, R212: `fork` increments its counter at the commit and puts a descriptor with s0-s13 and the target into the deque,
or writes 1 where the deque is full; `join` goes on once its counter reads 0, and else runs a child in place or sleeps. -/
def Obligations.ForksAndJoins : Prop :=
  ∀ c s off,
    (Ready (.fork c) s → (s.opA c).toNat = ownVa off → OwnBytes s .load off 8 → s.ownProtection .atomic off 8 = true →
      s.me.kind ≠ .epilogue → s.me.kind ≠ .checkpoint →
      let k := s.myCore
      exec (.fork c) s = .next (if k.deque.length + k.dequeReserved < 32 then
          wrote (holding (s.updMyCore fun k => { k with dequeReserved := k.dequeReserved + 1 })
            (.fork off (s.descriptor (branchTo s c) off)) [scratchVa (off / 32 * 32)]) (s.me.regs.setS c.d 0)
        else wrote s (s.me.regs.setS c.d 1))) ∧
    (Ready (.join c) s → (s.opA c).toNat = ownVa off → OwnBytes s .load off 8 → s.ownProtection .atomic off 8 = true →
      let x := Bytes.toNat (s.scratchBytes off 8)
      (x = 0 → exec (.join c) s = .next (wrote (reading s [scratchVa (off / 32 * 32)]) s.me.regs)) ∧
      (x ≠ 0 → (∀ d, s.myCore.deque.getLast? = some d → d.counter = (s.cur.core, off) → 4 ≤ s.me.frames.length) →
        exec (.join c) s = .next (s.sleepOn (.counter off))) ∧
      (∀ d, x ≠ 0 → s.myCore.deque.getLast? = some d → d.counter = (s.cur.core, off) → s.me.frames.length < 4 →
        ∃ t, exec (.join c) s = .next t ∧ t.issue = .goes ∧ t.me.regs.pc = d.pc ∧
          t.me.regs.flags = d.flags &&& ~~~(0x7F0 : Word) ∧ t.me.opened.held = s.me.opened.held ++ [.pop d] ∧
          t.me.frames = { s := s.me.regs.s, flags := s.me.regs.flags, pc := s.bpc, counter := s.me.counter } :: s.me.frames ∧
          t.me.counter = some d.counter ∧ t.me.scaleBase = 0 ∧
          (∀ j : Fin 14, t.me.regs.s[j.val] = d.regs.getD j 0) ∧ t.me.regs.s[14] = BitVec.ofNat 64 s.cur.core ∧ t.me.regs.s[15] = 0 ∧
          t.me.regs.v = s.me.regs.v ∧ t.me.regs.k = s.me.regs.k ∧ (t.core s.cur.core).deque = s.myCore.deque.dropLast))

/-- R26, R214, R304: `send` copies its line into a free outbound entry, stamps its place, core, edition and context, and the
message leaves at the commit; where no entry is free, or earlier ones of the strand wait for one, it waits under its LA (R191); a line that asks for more than 28 words or sets reserved flags raises RESERVED_FIELD. -/
def Obligations.SendOfMessages : Prop :=
  ∀ c s off, Ready (.send c) s → (s.opA c).toNat = ownVa off → OwnBytes s .load off 256 →
    let plen := (s.scratchBytes (off + 23) 1).headD 0
    let flags := (s.scratchBytes (off + 3) 1).headD 0
    let n := 32 + 8 * plen.toNat
    (plen.toNat ≤ 28 → flags.toNat < 16 →
      (∀ j, freeEntry 8 s.myCore.outbound = some j → s.me.wantsKind 1 = false →
        let u := (reading s (lineSectors off n)).updMyCore fun k => { k with outbound := put j { fill := s.ids, ready := none } k.outbound }
        exec (.send c) s = .next (wrote (holding { u with ids := s.ids + 1 }
          (.send j (s.stampMsg s.cur (Msg.ofLine (s.scratchBytes off n)))) []) s.me.regs)) ∧
      ((freeEntry 8 s.myCore.outbound = none ∨ s.me.wantsKind 1 = true) → exec (.send c) s = .next (waiting (reading s (lineSectors off n)) c.la []
        (.outbound (s.stampMsg s.cur (Msg.ofLine (s.scratchBytes off n))))))) ∧
    ((28 < plen.toNat ∨ 16 ≤ flags.toNat) → exec (.send c) s = .next (s.raise { code := .reservedField }))

/-- R52, R215, R283, R301, R302: a `spawn`, `samp`, `cat.give` or `solicit` whose operand its rules admit completes: it asks its unit,
opens its window for s[D] under LA, and holds its effect to the commit. A partition in the checkpoint state answers `spawn` with 1 (R390), a target outside it raises SPAWN_TARGET, and `cat.give` of an entry that is not there answers 1. -/
def Sys2Proof.Claims.QuestionsComplete : Prop :=
  ∀ c s, let target := (s.opA c).toNat
    (Ready (.spawn c) s → target < 4096 → s.owner (quireOf target) = some s.me.part →
      s.checkpointing s.me.part = false → exec (.spawn c) s =
        .next (awaiting s c (.spawn s.ids target none (s.childOf (branchTo s c))) (4 + travelCores s.cur.core target)
          (.spawnRequest s.cur s.ids target (s.childOf (branchTo s c))))) ∧
    (∀ off q, Ready (.samp c) s → target = ownVa off → OwnBytes s .load off 64 → sampRequest s (s.scratchBytes off 64) = some q →
      exec (.samp c) s =
        .next (awaiting (reading s (lineSectors off 64)) c (.sample s.ids q) (4 + toBase (quireOf s.cur.core))
          (.sampleRequestReserve s.cur s.ids q))) ∧
    (∀ off q, Ready (.solicit c) s → target = ownVa off → OwnBytes s .load off 64 → solicitOf s (s.scratchBytes off 64) = some q →
      exec (.solicit c) s =
        .next (awaiting (reading s (lineSectors off 64)) c (.solicit s.ids s.me.part 8 q) (20 + spineHops (quireOf s.cur.core))
          (.censusSlotRequest s.cur s.ids q))) ∧
    (∀ off e, Ready (.catGive c) s → target = ownVa off → OwnBytes s .load off 32 →
      let b := s.scratchBytes off 32
      let j := lineNat b 24 1
      let dst := lineNat b 26 2
      lineNat b 25 1 = 0 → lineNat b 28 4 = 0 → j < 64 → dst < 4096 → s.owner (quireOf dst) = some s.me.part →
      s.catView.find? (fun e => e.1 == j) = some (j, e) → e.ctx = s.me.ctx → exec (.catGive c) s =
        .next (awaiting (reading s (lineSectors off 32)) c
          (.give s.ids { tag := s.ids, src := s.cur.core, dst := dst, part := s.me.part, srcIndex := j, index := 0, entry := e, view := [],
                         edition := 0 })
          (4 + travelCores s.cur.core dst) (.giveRequest s.cur s.ids dst s.me.part)))

/-- R52, R301, R390: where the four are turned away. -/
def Sys2Proof.Claims.QuestionsTurnedAway : Prop :=
  ∀ c s, let target := (s.opA c).toNat
    (Ready (.spawn c) s → (4096 ≤ target ∨ s.owner (quireOf target) ≠ some s.me.part) →
      exec (.spawn c) s = .next (s.raise { code := .spawnTarget })) ∧
    (Ready (.spawn c) s → target < 4096 → s.owner (quireOf target) = some s.me.part →
      s.checkpointing s.me.part = true → exec (.spawn c) s = .next (wrote s (s.me.regs.setS c.d 1))) ∧
    (∀ off, Ready (.catGive c) s → target = ownVa off → OwnBytes s .load off 32 →
      let b := s.scratchBytes off 32
      let dst := lineNat b 26 2
      lineNat b 25 1 = 0 → lineNat b 28 4 = 0 → lineNat b 24 1 < 64 →
      ((4096 ≤ dst ∨ s.owner (quireOf dst) ≠ some s.me.part) → exec (.catGive c) s = .next (s.raise { code := .spawnTarget })) ∧
      (dst < 4096 → s.owner (quireOf dst) = some s.me.part → s.catView.find? (fun e => e.1 == lineNat b 24 1) = none →
        exec (.catGive c) s = .next (wrote (reading s (lineSectors off 32)) (s.me.regs.setS c.d 1))))

/-- R52, R283, R301, R302: the answer to a question with LA = 0 writes s[D]: 0 accepted, 1 refused, and of a `solicit` the census id; a
refusal drops the held effect. -/
def Sys2Proof.Claims.QuestionsAnswered : Prop :=
  ∀ (c : CWord) (s : State) (h : Held) (n : Nat) (e : Event), c.la = 0 → heldTag h = some s.ids →
    let t := awaiting s c h n e
    let answered (i : Instr) (ev : Event) (val : Word) (kept : Option Held) : Prop :=
      ∃ u, exec i { t with ev := ev } = .next u ∧ u.me.regs = t.me.regs.setS c.d val ∧ u.me.windows.any (fun w => w.tag == s.ids) = false ∧
        (∀ x, kept = some x → x ∈ u.me.opened.held) ∧ (kept = none → ∀ x ∈ u.me.opened.held, heldTag x ≠ some s.ids)
    (∀ core target slot l, h = .spawn s.ids target none l →
      answered .spawnAnswer (.spawnAnswer s.cur s.ids core (some slot)) 0 (some (.spawn s.ids target (some slot) l)) ∧
      answered .spawnAnswer (.spawnAnswer s.cur s.ids core none) 1 none) ∧
    (∀ k place q, h = .sample s.ids q →
      answered .sampleAnswer (.sampleAnswer s.cur s.ids k (some place)) 0 (some (.sample s.ids { q with order := place })) ∧
      answered .sampleAnswer (.sampleAnswer s.cur s.ids k none) 1 none) ∧
    (∀ g core j, h = .give s.ids g →
      answered .giveAnswer (.giveAnswer s.cur s.ids core (some j)) 0 (some (.give s.ids { g with index := j })) ∧
      answered .giveAnswer (.giveAnswer s.cur s.ids core none) 1 none) ∧
    (∀ part slot q id ed, h = .solicit s.ids part slot q →
      answered .censusIdAnswer (.censusIdAnswer s.cur s.ids id ed) (BitVec.ofNat 64 (id % 65536))
        (some (.solicit s.ids part (id % 65536 / 8192) q)))

/-- R301: `cat.ins` takes the lowest free entry, or answers -1; `cat.del` removes an entry of its context, or answers 1. Both act at
the commit. -/
def Obligations.CatalogueEntries : Prop :=
  ∀ c s off, (s.opA c).toNat = ownVa off → OwnBytes s .load off 32 →
    let b := s.scratchBytes off 32
    let u := reading s (lineSectors off 32)
    lineNat b 25 1 = 0 → lineNat b 28 4 = 0 →
    (Ready (.catIns c) s → exec (.catIns c) s = .next (
      match (List.range 64).find? fun j => !has j s.myCore.catalogue && !s.myCore.catReserved.contains j with
      | none => wrote u (s.me.regs.setS c.d (BitVec.allOnes 64))
      | some j => wrote (holding (u.updMyCore fun k => { k with catReserved := j :: k.catReserved })
          (.catIns j { ctx := s.me.ctx, key := BitVec.ofNat 64 (lineNat b 0 8), addr := BitVec.ofNat 64 (lineNat b 8 8),
                       tag := BitVec.ofNat 64 (lineNat b 16 8), ans := [] }) []) (s.me.regs.setS c.d (BitVec.ofNat 64 j)))) ∧
    (Ready (.catDel c) s → lineNat b 24 1 < 64 → exec (.catDel c) s = .next (
      if (s.catView.find? fun e => e.1 == lineNat b 24 1).any (fun e => e.2.ctx == s.me.ctx) then
        wrote (holding u (.catDel (lineNat b 24 1)) []) (s.me.regs.setS c.d 0)
      else wrote u (s.me.regs.setS c.d 1)))

/-- R261-R264: `cmd` takes the next job id of its core and holds the submission, and waits under its LA (R191) for room in the queue;
`jwait` of a job that has ended and every `jpoll` read the job's status, with an acquire where the job has ended; `jpoll` reads 0 while it
is outstanding, and `jwait` sleeps. -/
def Sys2Proof.Claims.JobsComplete : Prop :=
  ∀ c s, let q := quireOf s.cur.core
    let j := s.cur.core % 4
    let id := BitVec.ofNat 16 (j * 16384 + s.myCore.jobSeq % 16384)
    let words := (s.readV c.a).toList.take 16
    (Ready (.cmd c) s → s.occupied s.cur = true → s.queueFree q c.b.toNat s.cur.core = true → s.me.wantsKind (2 + c.b.toNat) = false →
      let s1 := (s.updMyCore fun k => { k with jobSeq := (k.jobSeq + 1) % 16384, jobs := k.jobs ++ [⟨id, none⟩] }).updEngine q c.b.toNat
        fun g => { g with reserved := put j (look 0 j g.reserved + 1) g.reserved }
      let s2 := s1.setMe { s1.me with jobLast := 0x10000 ||| id.setWidth 64 }
      exec (.cmd c) s = .next (underLA (holding s2 (.command c.b.toNat words (s.commandContext s.cur id)) [])
        c.la 1 [.s c.d] [.s c.d (id.setWidth 64)])) ∧
    (Ready (.cmd c) s → (s.queueFree q c.b.toNat s.cur.core = false ∨ s.me.wantsKind (2 + c.b.toNat) = true) → exec (.cmd c) s =
      .next (waiting s c.la [.s c.d] (.queue c.b.toNat c.d words (s.commandContext s.cur 0)))) ∧
    let job : BitVec 16 := (s.opA c).setWidth 16
    let state := jobState (s.core (q * 4 + job.toNat / 16384)) job
    let kept := match s.me.jobWait with | some (n, w) => if n = job then some w else state | none => state
    let u := s.acquire s.cur.core 3
    (∀ w, Ready (.jwait c) s → kept = some w → exec (.jwait c) s =
      .next { wrote (u.setMe { u.me with jobWait := none }) (s.me.regs.setS c.d w) with issue := .ends }) ∧
    (Ready (.jwait c) s → kept = none → exec (.jwait c) s = .next (s.sleepOn (.job job))) ∧
    (∀ w, Ready (.jpoll c) s → state = some w → exec (.jpoll c) s =
      .next (endsWaiting (u.setMe { u.me with regs := s.me.regs.setS c.d w }) (.untilCycle (s.now + 4)))) ∧
    (Ready (.jpoll c) s → state = none → exec (.jpoll c) s =
      .next (endsWaiting (s.setMe { s.me with regs := s.me.regs.setS c.d 0 }) (.untilCycle (s.now + 4))))

/-- R52, R215, R261-R264, R283, R301, R302, R390: `cmd`, `jwait`, `jpoll`, `spawn`, `samp`, `cat.give` and `solicit` complete; where they
are turned away or wait; and what their answers write. -/
def Obligations.JobsAndQuestions : Prop :=
  Claims.JobsComplete ∧ Claims.QuestionsComplete ∧ Claims.QuestionsTurnedAway ∧ Claims.QuestionsAnswered

/-- R284-R290: a `bar` that its rules admit releases, then arrives, and keeps the registers of before it for a timeout; `mon` on the own
store arms the sector; `waitm` ends with the first event latched, 5 without a monitor, and else sleeps under its limit. -/
def Sys2Proof.Claims.BarriersAndMonitors : Prop :=
  ∀ c s,
    (Ready (.bar c) s → let scope := c.d.toNat % 8
      exec (.bar c) s = .next (
        if s.barOk scope (s.opA c) = false then s.raise { code := .reservedField }
        else if s.checkpointing s.me.part then
          s.raise { code := .barrierTimeout, info := s.barInfo (s.barrier (s.barKey scope c.b.toNat)) }
        else after s { s.me with regs := { s.me.regs with pc := s.bpc + 8 }, back := some s.pre,
                                 wait := .release scope (.arrive (s.barKey scope c.b.toNat) (s.opA c)) } .ends)) ∧
    (∀ off, Ready (.mon c) s → (s.opA c).toNat = ownVa off → OwnBytes s .load off 8 →
      let m : Monitor := { va := BitVec.ofNat 64 (ownVa off / 32 * 32), onScratch := true, events := [], first := none, id := s.ids }
      exec (.mon c) s = .next { wrote (s.setMe { s.me with monitor := some m }) s.me.regs with ids := s.ids + 1 }) ∧
    (Ready (.mon c) s → let va := (s.opA c).toNat
      va < 2 ^ 57 → inAperture va = false → va % 8 = 0 → s.homeMoved s.me.part va = false → s.me.received = [] →
      (∀ b g, s.lookCached va 8 .load = .held b g → ((s.freshen va).monLine va).isSome = true →
        ∃ t m, exec (.mon c) s = .next t ∧ t.issue = .goes ∧ t.me.regs = { s.me.regs with pc := s.bpc + 8 } ∧ t.me.monitor = some m ∧
          m.va = BitVec.ofNat 64 (va / 32 * 32) ∧ m.onScratch = false ∧ m.events = [] ∧ m.first = none ∧ t.hbm = s.hbm ∧ t.l2 = s.l2) ∧
      (s.lookCached va 8 .load = .miss → ((s.freshen va).monLine va) = none → ¬ DirtySet s.myCore s.me.part (va / 256) →
        ∃ t, exec (.mon c) s = .next t ∧ t.issue = .no ∧ t.me.wait = .asleep (.fill (va / 256)) ∧
          t.me.monitor.map (·.id) = s.me.monitor.map (·.id)) ∧
      (∀ g, s.lookCached va 8 .load = .strong g → exec (.mon c) s =
        .next (s.raise { code := .strongMisuse, va := BitVec.ofNat 64 va, info := 8 }))) ∧
    (Ready (.waitm c) s → exec (.waitm c) s = .next (
      let ends (n : Nat) : State := wrote (s.setMe { s.me with monitor := none }) (s.me.regs.setS c.d (BitVec.ofNat 64 n))
      match s.me.monitor with
      | none => ends 5
      | some m => match m.first, m.events with
        | some e, _ => ends e
        | none, e :: _ => ends e
        | none, [] => (if s.opA c = 0 ∨ s.endBefore.me.owes = true then s else s.emit (s.opA c).toNat (.waitmLimit s.cur m.id)).sleepOn .monitor))

/-- R302, R304, R307, R380: `cwait` collects a complete census: its value, and its counts with the cores that answered, with an acquire;
`reply.cen` releases and then answers, once for a task; `reply.msg` is a posted store into the sender's line. -/
def Sys2Proof.Claims.CollectionsAndReplies : Prop :=
  ∀ c s,
    (let w := (s.opA c).toNat % 65536
     let id : CensusId := ⟨s.me.part, w / 8192, w % 8192⟩
     let x := s.census id.part id.slot
     ∀ q, Ready (.cwait c) s → s.checkpointing s.me.part = false → x.open_ = true → x.seq = id.seq → x.complete = true →
      x.timedOut = false → x.q = some q →
      let r := (s.me.regs.setS c.d (combineAnswers q.op x.answers)).setS (c.d + 1)
        (BitVec.ofNat 64 (x.answers.length % 2 ^ 32 + 2 ^ 32 * x.counted))
      ∃ t, exec (.cwait c) s = .next t ∧ t.issue = .ends ∧ t.me.regs = { r with pc := s.bpc + 8 } ∧ SameElsewhere s t s.cur.core) ∧
    (∀ id n, Ready (.replyCen c) s → (s.task s.me.task).census = some (id, n) → (s.task s.me.task).answer = none →
      s.strandsWhere (fun _ t => t.task == s.me.task && (match t.wait with | .release _ (.answer _ _) => true | _ => false)) = [] →
      exec (.replyCen c) s = .next (endsWaiting (s.setMe { s.me with back := some s.pre }) (.release (match (s.census id.part id.slot).q with | some q => q.scope | none => 0)
        (.answer id (s.opA c))))) ∧
    (∀ off m j, Ready (.replyMsg c) s → (s.opA c).toNat = ownVa off → OwnBytes s .load off 256 →
      let plen := ((s.scratchBytes (off + 23) 1).headD 0).toNat
      let task := s.task s.me.task
      plen ≤ 28 → ((s.scratchBytes (off + 3) 1).headD 0).toNat < 16 → task.start = some m → m.wantsReply = true → task.replied = false →
      s.strandsWhere (fun _ t => t.task == s.me.task && ((t.closed ++ [t.opened]).flatMap (·.held)).any isReply) = [] →
      (16 ≤ m.sstrand.toNat → exec (.replyMsg c) s = .next (held s .dropReply [])) ∧
      (m.sstrand.toNat < 16 → State.journalFree s.myCore = some j → s.me.wantsKind 0 = false → ∃ t p, exec (.replyMsg c) s = .next t ∧ t.issue = .goes ∧
        t.me.regs = { s.me.regs with pc := s.bpc + 8 } ∧ t.me.opened.held = s.me.opened.held ++ [.posted p] ∧
        p.src = s.cur.core ∧ p.idx = some j ∧ p.target = m.score.toNat ∧ p.setFull = true ∧
        p.reply = some (m.sstrand.toNat, m.pcx.toNat / 2048) ∧
        p.data.map (·.2) = (s.stampMsg s.cur (Msg.ofLine (s.scratchBytes off (32 + 8 * plen)))).line))

/-- R284-R290, R302, R304, R307, R380: barriers, monitors, census collection and replies. -/
def Obligations.SynchronizingBundles : Prop := Claims.BarriersAndMonitors ∧ Claims.CollectionsAndReplies

/-- R84, R85, R224: `csrr` reads what the strand has written, below 0x010 at once and else under LA; `csrw` writes the strand's own
registers at once and holds the others to the commit; a wrong selector raises RESERVED_FIELD and a forbidden write PERMISSION. -/
def Obligations.ControlRegisters : Prop :=
  ∀ c s, let n := selector c
    let v := match c.ta with | .s | .v => s.readS c.d | .cb => s.readCb c.d | .lit => literal 0 c.ext
    (Ready (.csrr c) s → exec (.csrr c) s = .next (match s.csrFault n false with
      | some e => s.raise { code := e }
      | none => if n < 0x010 then wrote s (s.me.regs.setS c.d (s.csrRead n))
        else underLA s c.la (if n < 0x020 then 2 else if 0x100 ≤ n then 24 else 20 + toBase (quireOf s.cur.core)) [.s c.d]
          [.s c.d (s.csrRead n)])) ∧
    (∀ e, Ready (.csrw c) s → s.csrFault n true = some e → exec (.csrw c) s = .next (s.raise { code := e })) ∧
    (Ready (.csrw c) s → s.csrFault n true = none →
      (n = 0x001 → exec (.csrw c) s = .next (wrote s { s.me.regs with flags := (s.me.regs.flags &&& ~~~(0x5F3 : Word)) ||| (v &&& 0x5F3) })) ∧
      (n = 0x002 → ∃ t, exec (.csrw c) s = .next t ∧ t.issue = .goes ∧ t.me.copy = .wanted ∧ t.sent = s.sent ++ [(s.now, .cbselWrite s.cur (v &&& 0xFFFF))] ∧
        t.me.regs = { s.me.regs with pc := s.bpc + 8, flags := (s.me.regs.flags &&& ~~~(0xFFFF000000 : Word)) ||| ((v &&& 0xFFFF) <<< 24) }) ∧
      (n = 0x003 → exec (.csrw c) s = .next (wrote (s.setMe { s.me with scaleBase := v &&& 0x3FFFF }) s.me.regs)) ∧
      (n = 0x010 → exec (.csrw c) s = .next (if s.wayMaskOk s.me.part (s.csrSet 0x012 (State.aslotSet s.myCore)) (s.csrSet 0x011 (State.frecSet s.myCore)) v then held s (.csr n v) []
        else s.raise { code := .reservedField })) ∧
      (n = 0x012 → exec (.csrw c) s = .next (if State.aslotOk (s.csrRead 0x010) (v &&& 0x3FFFFFFFFFFFF) then held s (.csr n v) []
        else s.raise { code := .reservedField })) ∧
      (0x010 < n → n ≠ 0x012 → exec (.csrw c) s = .next (held s (.csr n v) [])))

/-- R84, R225, R226, R227, R228, R292: an instruction that only a privileged strand may run raises PERMISSION where PRIV is 0. -/
def Sys2Proof.Claims.PrivilegeIsChecked : Prop :=
  ∀ c s, ∀ i ∈ ([.ctxsw c, .tinvPage c, .tinvCtx c, .tinvPart c, .hmset c, .rollback c, .snap c] : List Instr),
    i.wf = true → s.pre.flags.getLsbD 16 = false → exec i s = .next (s.raise { code := .permission })

/-- R225, R227-R229, R292: what the privileged instructions and `resume` do: a context switch and a resume are held to the commit;
`hmset` leaves for the base die, where it joins its partition's queue, `rollback` returns to the last complete edition, and `snap` asks its controller, all alone. -/
def Sys2Proof.Claims.PrivilegedEffects : Prop :=
  ∀ c s, let priv := s.pre.flags.getLsbD 16 = true
    let p := s.partition s.me.part
    (Ready (.ctxsw c) s → priv → exec (.ctxsw c) s = .next (held s (.ctxsw (c.d.toNat % 8) (s.opA c)) [])) ∧
    (Ready (.resume c) s → let r : Ref := ⟨s.cur.core, (s.opA c).toNat⟩
      (s.opA c).toNat < 16 → s.occupied r = true → r ≠ s.cur → (s.strand r).wait = .stopped → (s.strand r).fault ≠ none →
      ((s.strand r).byUpcall = true ∨ s.me.kind = .upcall) →
      (s.strand r).part = s.me.part → (s.strand r).ctx = s.me.ctx → exec (.resume c) s = .next (held s (.resume (s.opA c).toNat) [])) ∧
    (Ready (.hmset c) s → priv → s.aloneNow = true → ∃ t, exec (.hmset c) s = .next t ∧ t.issue = .alone ∧ t.me.wait = .maintained ∧
      t.me.unackedMaint = s.me.unackedMaint + 1 ∧ t.me.regs = { s.me.regs with pc := s.bpc + 8 } ∧
      (t.partition s.me.part).hmask = p.hmask ∧
      ∃ n, t.sent = s.sent ++ [(n, .hmsetSliceAdopt s.me.part 0 (s.opA c) (some s.cur))] ∧ s.now + toBase (quireOf s.cur.core) ≤ n) ∧
    (∀ part r v, ∃ t, exec .hmsetSliceAdopt { s with ev := .hmsetSliceAdopt part 0 v (some r) } = .next t ∧
      (t.partition part).hmsets = (s.partition part).hmsets ++ [(r, v)] ∧ (t.partition part).hmask = (s.partition part).hmask ∧
      ((s.partition part).hmsets = [] → ∀ q ∈ s.homeList part, ∃ n, (n, .hmsetSliceAdopt part q v none) ∈ t.sent)) ∧
    (∀ e, Ready (.rollback c) s → priv → s.lastComplete s.me.part = some e → s.opA c = e.n.setWidth 64 → s.aloneNow = true →
      (s.packages s.me.part).all s.reachable = true →
      exec (.rollback c) s = .next { (if s.checkpointing s.me.part then s else s.abortEdition s.me.part 6 0).rollBack s.me.part e with issue := .no }) ∧
    (Ready (.snap c) s → priv → s.aloneNow = true → let a := s.opA c
      ∀ b g, CachedBytes s a.toNat 8 .load b g → a.toNat % 4096 = 0 → exec (.snap c) s = .next (
        if s.checkpointing s.me.part then alone s (s.me.regs.setS c.d 0)
        else alone (asking s c.la [.s c.d] (20 + spineHops (quireOf s.cur.core)) (.snapRequestArrival s.cur s.ids a)) s.me.regs))

/-- R226, R420, R422: a `tinv` runs alone and takes from every die the walk entries that it covers and from the L2 the lines that it
covers; of an aperture address nothing is held. The other packages of its partition are told, and the strand waits for them. -/
def Sys2Proof.Claims.TranslationInvalidates : Prop :=
  ∀ c s, s.pre.flags.getLsbD 16 = true → s.aloneNow = true →
    let others := s.otherPackages s.me.part
    let ends (t : State) : Prop := t.issue = .alone ∧ t.me.regs = { s.me.regs with pc := s.bpc + 8 } ∧
      (others = [] → t.me.wait = .untilCycle (s.now + (20 + toBase (quireOf s.cur.core)))) ∧
      (others ≠ [] → t.me.wait = .maintained ∧ t.me.unackedMaint = s.me.unackedMaint + others.length)
    (∀ k ∈ ([(.tinvPage c, State.tinvPage s.me.part s.me.ctx (s.opA c).toNat), (.tinvCtx c, State.tinvCtx s.me.part s.me.ctx),
        (.tinvPart c, State.tinvPart s.me.part)] : List (Instr × State.Tinv)),
      Ready k.1 s → s.tinvWaits k.2 = false → (k.1 = .tinvPage c → inAperture (s.opA c).toNat = false) →
      ∃ t, exec k.1 s = .next t ∧ ends t ∧
        (∀ d, (t.die d).walk = (s.die d).walk.filter fun e => !k.2.entry e) ∧
        (∀ l ∈ t.l2, (l.part == k.2.part && k.2.covers l.line l.g) = false)) ∧
    (Ready (.tinvPage c) s → inAperture (s.opA c).toNat = true →
      ∃ t, exec (.tinvPage c) s = .next t ∧ ends t ∧ t.dies = s.dies ∧ t.l2 = s.l2)

/-- R84, R225-R229, R292, R420, R422: the privileged instructions, in either mode. -/
def Obligations.PrivilegedInstructions : Prop := Claims.PrivilegeIsChecked ∧ Claims.PrivilegedEffects ∧ Claims.TranslationInvalidates

namespace Sys2Proof.Claims

/-! ## Sampler programs and engine commands -/

/-- The sampler at hand runs `r`, and the word is one R326 does not refuse. -/
def Runs (i : Instr) (s : State) (r : Run) : Prop := i.wf = true ∧ (s.sampler s.smp).running = some r

/-- The run goes on after a word that has changed nothing but itself (R322, R326). -/
def went (s : State) (r : Run) (pc cost : Nat) : State :=
  { s with
    samplers := put s.smp { s.sampler s.smp with
      running := some { r with pc := pc, count := r.count + 1, due := s.now + cost } } s.samplers
    sent := s.sent ++ (if 65536 ≤ r.count + 1 then [(s.now, .samplerInstructionLimit s.smp)] else []) }

/-- A word's result in g[D]; g0 reads zero. -/
def wrote64 (s : State) (r : Run) (w : SWord) (v : Word) (cost : Nat) : State := went s (State.setGreg r w.d v) (r.pc + 1) cost

/-- A value held within 64 signed bits (R320). -/
def clamp64 (x : Int) : Int := max (-2 ^ 63) (min (2 ^ 63 - 1) x)

/-- A sampler word that reads or changes the candidate list takes its entries and 4 cycles (R322). -/
def listed (s : State) (r : Run) (w : SWord) (v : Option Word) (cs : List Cand) : State :=
  went (s.setCands s.smp r.req.ctxId cs) (match v with | some x => State.setGreg r w.d x | none => r) (r.pc + 1)
    ((s.cands s.smp r.req.ctxId).length + 4)

/-- A command that acceptance refuses completes at once with COMMAND_FORMAT and does nothing (R400). -/
def refused (s : State) (x : CmdCtx) (engine cost : Nat) : State :=
  (s.updEngine x.quire engine fun e => { e with running := some x, cost := cost, written := [] }).emit 0
    (.engineCommandComplete { x := x, engine := engine, prog := 0, fault := none, rejected := true })

/-- A command that runs, with what it costs the engine (R259). -/
def started (s : State) (x : CmdCtx) (engine cost : Nat) : State :=
  s.updEngine x.quire engine fun e => { e with running := some x, cost := cost, written := [] }

end Sys2Proof.Claims

/-- R322, R327: the sampler's arithmetic, its image and request reads and its generator write g[D] in one cycle. -/
def Obligations.SamplerValues : Prop :=
  ∀ w s r, let g := State.greg r
    let ctx := r.req.ctxId
    (Runs (.samplerLdi w) s r → exec (.samplerLdi w) s = .next (wrote64 s r w (w.imm.signExtend 64) 1)) ∧
    (Runs (.samplerAdd w) s r → exec (.samplerAdd w) s = .next (wrote64 s r w (g w.a + g w.b) 1)) ∧
    (Runs (.samplerSub w) s r → exec (.samplerSub w) s = .next (wrote64 s r w (g w.a - g w.b) 1)) ∧
    (Runs (.samplerMulq w) s r → exec (.samplerMulq w) s =
      .next (wrote64 s r w (BitVec.ofInt 64 (clamp64 (((g w.a).toInt * (g w.b).toInt) / 2 ^ 32))) 1)) ∧
    (Runs (.samplerLdc w) s r → exec (.samplerLdc w) s = .next (wrote64 s r w (s.image s.smp ctx w.imm.toNat) 1)) ∧
    (Runs (.samplerStc w) s r → exec (.samplerStc w) s =
      .next (went (s.setImage s.smp ctx w.imm.toNat (g w.a)) r (r.pc + 1) 1)) ∧
    (Runs (.samplerLdr w) s r → exec (.samplerLdr w) s = .next (wrote64 s r w (match w.imm.toNat with
      | 0 => BitVec.ofNat 64 ctx
      | 1 => BitVec.ofNat 64 r.req.v
      | 2 => BitVec.ofNat 64 r.req.fmt
      | 3 => r.req.arg.setWidth 64
      | _ => r.req.logits) 1)) ∧
    (Runs (.samplerRand w) s r → exec (.samplerRand w) s = .next (
      let ctr := s.image s.smp ctx 3
      wrote64 (s.setImage s.smp ctx 3 (ctr + 1)) r w (randWord (s.image s.smp ctx 2) ctr) 1))

/-- R322, R325, R326: `halt` replies with STATUS 0, a branch counts from itself, and `emit` appends to the reply and to the penalty
window and advances the position, with STATUS 5 for a token beyond 32 bits and 6 for a seventeenth. A word that R326 refuses ends
the run with STATUS 1. -/
def Obligations.SamplerControl : Prop :=
  ∀ w s r, let g := State.greg r
    let n := s.smp
    let ctx := r.req.ctxId
    (Runs (.samplerHalt w) s r → exec (.samplerHalt w) s = .next (s.endRun n 0)) ∧
    (∀ p ∈ ([(.samplerBz w, g w.a == 0), (.samplerBnz w, g w.a != 0)] : List (Instr × Bool)), Runs p.1 s r →
      exec p.1 s = .next (went s r (if p.2 then (if (r.pc : Int) + w.imm.toInt < 0 then 2048 else ((r.pc : Int) + w.imm.toInt).toNat)
        else r.pc + 1) 1)) ∧
    (Runs (.samplerEmit w) s r →
      (2 ^ 32 ≤ (g w.a).toNat → exec (.samplerEmit w) s = .next (s.endRun n 5)) ∧
      ((g w.a).toNat < 2 ^ 32 → 16 ≤ r.emitted.length → exec (.samplerEmit w) s = .next (s.endRun n 6)) ∧
      ((g w.a).toNat < 2 ^ 32 → r.emitted.length < 16 → ∃ t, exec (.samplerEmit w) s = .next t ∧
        let pos := (s.image n ctx 1).toNat
        (t.sampler n).running = some { r with pc := r.pc + 1, count := r.count + 1, due := s.now + 1,
                                              emitted := r.emitted ++ [(g w.a).setWidth 32] } ∧
        t.image n ctx 1 = BitVec.ofNat 64 ((pos + 1) % 2 ^ 32) ∧
        (∀ j < 16, (t.image n ctx (6 + j / 2)).toNat / 2 ^ (32 * (j % 2)) % 2 ^ 32 =
          if j = pos % 16 then (g w.a).toNat else (s.image n ctx (6 + j / 2)).toNat / 2 ^ (32 * (j % 2)) % 2 ^ 32) ∧
        (∀ k, k ≠ 1 → k < 6 ∨ 14 ≤ k → t.image n ctx k = s.image n ctx k))) ∧
    (∀ i ∈ ([.samplerHalt w, .samplerLdi w, .samplerBz w, .samplerEmit w, .samplerLdr w] : List Instr), i.wf = false →
      (s.sampler n).running = some r → exec i s = .next (s.endRun n 1))

/-- R322, R324: the words over the candidate list: penalty, scale, weights, nucleus, draw and rank. -/
def Obligations.SamplerLists : Prop :=
  ∀ w s r, let g := State.greg r
    let ctx := r.req.ctxId
    let cs := s.cands s.smp ctx
    let sum (l : List Cand) : Word := BitVec.ofNat 64 ((l.map (·.weight)).sum)
    let order (l : List Cand) : List Cand := l.foldl (fun acc c => insertCand c acc) []
    (Runs (.samplerPen w) s r → exec (.samplerPen w) s = .next (listed s r w none (order (cs.map fun c =>
      if c.token ≠ 0xFFFFFFFF ∧ (∃ j < 16, (s.image s.smp ctx (6 + j / 2)).toNat / 2 ^ (32 * (j % 2)) % 2 ^ 32 = c.token) then
        { c with value := (BitVec.ofInt 64 (max (c.value - (g w.a).toInt) (-2 ^ 63))).toInt }
      else c)))) ∧
    (Runs (.samplerScale w) s r → exec (.samplerScale w) s = .next (listed s r w none
      (order (cs.map fun c => { c with value := clamp64 (c.value * (g w.a).toInt / 2 ^ 32) })))) ∧
    (Runs (.samplerExpw w) s r → exec (.samplerExpw w) s = .next (
      let cs1 := cs.map fun c => { c with weight := candWeight (c.value - (cs.head?.map (·.value)).getD 0) }
      listed s r w (some (sum cs1)) cs1)) ∧
    (Runs (.samplerNucl w) s r → ∃ kept, exec (.samplerNucl w) s = .next (listed s r w (some (sum kept)) kept) ∧
      (2 ^ 32 ≤ (g w.a).toNat → kept = cs) ∧
      ((g w.a).toNat < 2 ^ 32 → cs ≠ [] → ∃ m, 1 ≤ m ∧ m ≤ cs.length ∧ kept = cs.take m ∧
        (∀ j, 1 ≤ j → j < m → ((cs.take j).map (·.weight)).sum * 2 ^ 32 < (g w.a).toNat * (g w.b).toNat) ∧
        (m < cs.length → (g w.a).toNat * (g w.b).toNat ≤ ((cs.take m).map (·.weight)).sum * 2 ^ 32))) ∧
    (Runs (.samplerPick w) s r → let total := (g w.b).toNat
      let target := (g w.a).toNat * total / 2 ^ 64
      (total = 0 ∨ cs = [] → exec (.samplerPick w) s = .next (wrote64 s r w (BitVec.allOnes 64) (cs.length + 4))) ∧
      (∀ j, total ≠ 0 → (h : j < cs.length) → ((cs.take j).map (·.weight)).sum ≤ target → target < ((cs.take (j + 1)).map (·.weight)).sum →
        exec (.samplerPick w) s = .next (wrote64 s r w (BitVec.ofNat 64 cs[j].token) (cs.length + 4)))) ∧
    (Runs (.samplerFind w) s r → exec (.samplerFind w) s = .next (listed s r w (some (
      match cs.findIdx? fun c => BitVec.ofNat 64 c.token == g w.a with
      | some j => BitVec.ofNat 64 j
      | none => BitVec.allOnes 64)) cs))

/-- R319-R323: the words that read memory: `keep` leaves the k first of the row's logits, NaN ones aside, in the order of the list; a
read that faults ends the run with STATUS 3, a mask that is not ready parks it. -/
def Obligations.SamplerMemoryWords : Prop :=
  ∀ w s r, let g := State.greg r
    let n := s.smp
    let q := r.req
    (Runs (.samplerLogit w) s r →
      (q.v ≤ (g w.a).toNat → exec (.samplerLogit w) s = .next (wrote64 s r w 0x8000000000000000 1)) ∧
      (∀ s1 x, (g w.a).toNat < q.v → s.readLogit q (g w.b).toNat (g w.a).toNat = (s1, x) →
        exec (.samplerLogit w) s = .next (match x with
          | none => s1.endRun n 3
          | some v => s1.goOn n (State.setGreg r w.d (BitVec.ofInt 64 (v.getD (-2 ^ 63)))) (r.pc + 1) 601))) ∧
    (Runs (.samplerKeep w) s r → let k := min 512 (g w.a).toNat
      (k = 0 → exec (.samplerKeep w) s = .next (s.endRun n 1)) ∧
      (∀ x : Nat → Option Int, k ≠ 0 → (∀ i < q.v, s.readLogit q (g w.b).toNat i = (s, some (x i))) →
        ∃ t, exec (.samplerKeep w) s = .next t ∧
          (t.cands n q.ctxId).map (fun c => (c.token, c.value)) =
            (((List.range q.v).filterMap fun i => (x i).map fun v => (i, v)).mergeSort
              fun a b => decide (b.2 < a.2 ∨ (a.2 = b.2 ∧ a.1 ≤ b.1))).take k ∧
          ∃ r1, (t.sampler n).running = some r1 ∧ r1.pc = r.pc + 1 ∧ r1.g = r.g)) ∧
    (Runs (.samplerGmask w) s r →
      (s.image n q.ctxId 4 = 0 → exec (.samplerGmask w) s = .next (went s r (r.pc + 1) 1)) ∧
      (∀ s1, s.image n q.ctxId 4 ≠ 0 → s.maskReady n q = (s1, none) → exec (.samplerGmask w) s = .next (s1.endRun n 3)) ∧
      (∀ s1, s.image n q.ctxId 4 ≠ 0 → s.maskReady n q = (s1, some false) → exec (.samplerGmask w) s = .next (s1.park n r)) ∧
      (∀ bit : Nat → Byte, s.image n q.ctxId 4 ≠ 0 → s.maskReady n q = (s, some true) →
        let slot := ((s.image n q.ctxId 4).toNat + (s.image n q.ctxId 5).toNat % 2 ^ 32 * ((s.image n q.ctxId 1).toNat % 16)) % 2 ^ 64
        (∀ c ∈ s.cands n q.ctxId, s.samplerRead q ((slot + 64 + c.token / 8) % 2 ^ 64) 1 = (s, some [bit c.token])) →
        exec (.samplerGmask w) s = .next (went (s.setCands n q.ctxId
          ((s.cands n q.ctxId).filter fun c => (bit c.token).getLsbD (c.token % 8))) r (r.pc + 1) 601))) ∧
    (Runs (.samplerXfer w) s r → let va := (g w.a).toNat
      (va % 64 ≠ 0 → exec (.samplerXfer w) s = .next (s.endRun n 3)) ∧
      (∀ s1, va % 64 = 0 → w.imm = 0 → va + 513 ≤ 2 ^ 57 → inAperture va = false →
        s.unitWrite q.part q.ctx va ((List.range 64).flatMap fun k => Bytes.ofNat 8 (s.image n q.ctxId k).toNat) = (s1, .ok ()) →
        exec (.samplerXfer w) s = .next (s1.goOn n r (r.pc + 1) 601)) ∧
      (∀ b, va % 64 = 0 → w.imm ≠ 0 → s.samplerRead q va 512 = (s, some b) → ∃ t, exec (.samplerXfer w) s = .next t ∧
        (∀ k < 64, t.image n q.ctxId k = BitVec.ofNat 64 (Bytes.toNat ((b.drop (8 * k)).take 8))) ∧
        ∃ r1, (t.sampler n).running = some r1 ∧ r1.pc = r.pc + 1 ∧ r1.g = r.g))

/-- R83, R265-R274: the commands of the matrix engine. -/
def Obligations.MatrixCommands : Prop :=
  ∀ (x : CmdCtx) s,
    (∀ (tile : BitVec 4) (val : BitVec 27), let bad := 8 < val.toNat / 256 % 16 ∨ 8 < val.toNat / 4096 % 16
      exec (.zcfg x tile val) s = .next (if bad then refused s x 0 32
        else
          let u := s.quire x.quire
          (started (s.setQuire x.quire { u with zp := put tile.toNat ((look 0 tile.toNat u.zp &&& 0x300000000) ||| val.setWidth 64) u.zp })
            x 0 32).willEnd { x := x, engine := 0, prog := 0, fault := none, rejected := false } 4)) ∧
    (∀ tiles : BitVec 16, ∃ t, exec (.zzero x tiles) s = .next t ∧ (t.engine x.quire 0).running = some x ∧
      (∀ n < 16, tiles.getLsbD n = true → look 0 n (t.quire x.quire).zp = look 0 n (s.quire x.quire).zp &&& 0x7FFFFFF ∧
        ∀ r c, t.tileElem x.quire n r c = Elem.zero) ∧
      (∀ q n r c, q ≠ x.quire ∨ tiles.getLsbD n = false → t.tileElem q n r c = s.tileElem q n r c)) ∧
    (∀ c, let p := precision (s.zpOf x.quire c.n)
      let pass := Bits.ceilDiv c.m 32 * Bits.ceilDiv c.nn 32 * Bits.ceilDiv c.k 64 * p.wa * p.wb
      (mmaOk s x c p = false → exec (.mma x c) s = .next (refused s x 0 pass)) ∧
      (mmaOk s x c p = true →
        let s0 := started (if x.core.isNone && (p.fa == 6 || p.fb == 6) then { s with free := s.free + 256 } else s) x 0 pass
        let ended (t : State) (prog : Nat) (f : Option JobFault) : State :=
          t.willEnd { x := x, engine := 0, prog := prog, fault := f, rejected := false } (pass + s.firstCost x c.a.toNat)
        let a : MmaSide := { f := p.fa, w := p.wa, c := containerBits p.fa c.esza, base := c.a, stride := c.astr.toNat,
                             scale := c.asc, scaleStride := c.ascstr.toNat }
        let b : MmaSide := { f := p.fb, w := p.wb, c := containerBits p.fb c.eszb, base := c.b, stride := c.bstr.toNat,
                             scale := c.bsc, scaleStride := c.bscstr.toNat }
        let table := s.commandTable x
        (c.m ≤ c.start → exec (.mma x c) s = .next (ended s0 c.m none)) ∧
        (∀ t f, c.start < c.m → State.loadRows x table b c.k c.nn s0 = (t, .error f) →
          exec (.mma x c) s = .next (ended t c.start (some f))) ∧
        (∀ t bs, c.start < c.m → State.loadRows x table b c.k c.nn s0 = (t, .ok bs) →
          let d := State.mmaRows x table c a bs (c.m - c.start) c.start t
          exec (.mma x c) s = .next (ended d.1 d.2.1 d.2.2)))) ∧
    (∀ c, let p := precision (s.zpOf x.quire c.n)
      let d : Drain := { x := x, c := c, et := p.et, sat := p.sat, rows := [], lastTake := none, ackDue := 0, fault := none }
      exec (.drainCommand x c) s = .next (
        if 32 < c.r0 + c.rows ∨ (c.raw = true ∧ c.dst ≠ 0) ∨ c.dst.toNat % 4 ≠ 0 ∨ x.core = none ∨ badAddress x c.dst = true then refused s x 0 32
        else ((started s x 0 32).updEngine x.quire 0 fun e => { e with drain := some d }).emit 0 (.drainRowTakeout x.quire))) ∧
    (∀ c, let cost := Bits.ceilDiv c.count.toNat 8 + 8 + s.firstCost x c.list.toNat
      (c.list.toNat % 8 ≠ 0 ∨ badAddress x c.list = true → exec (.merr x c) s = .next (refused s x 0 32)) ∧
      (∀ t f, c.list.toNat % 8 = 0 → badAddress x c.list = false →
        State.engineBytes x c.list.toNat (8 * c.count.toNat) (started s x 0 32) = (t, .error f) →
        exec (.merr x c) s = .next (t.willEnd { x := x, engine := 0, prog := 0, fault := some f, rejected := false } cost)) ∧
      (∀ t b, c.list.toNat % 8 = 0 → badAddress x c.list = false →
        State.engineBytes x c.list.toNat (8 * c.count.toNat) (started s x 0 32) = (t, .ok b) →
        let entry (k : Nat) : Nat × W32 := ((Bytes.toNat ((b.drop (8 * k)).take 4) + 2 ^ 32 - c.base.toNat) % 2 ^ 32,
          BitVec.ofNat 32 (Bytes.toNat ((b.drop (8 * k + 4)).take 4)))
        let mine (j : Nat) : List (Option Int) := ((List.range c.count.toNat).filter fun k => (entry k).1 == j).map fun k =>
          errataContribution (precision (s.zpOf x.quire c.n)).et (entry k).2
        ∃ u, exec (.merr x c) s = .next u ∧ ∀ j < 1024, u.tileElem x.quire c.n (j / 32) (j % 32) =
          if mine j = [] then t.tileElem x.quire c.n (j / 32) (j % 32)
          else (t.tileElem x.quire c.n (j / 32) (j % 32)).update ((mine j).map fun v => v.getD 0).sum ((mine j).any fun v => v.isNone)))

/-- R107, R108, R269: a row of A updates one element for each column, by the sum of its blocks' contributions; every other element of
every tile is as before. -/
def Obligations.MatrixRow : Prop :=
  ∀ (s : State) (q : Nat) (c : MmaCmd) (row : Nat) (a : List (Int × List (Option Int))) (bs : List (List (Int × List (Option Int)))),
    bs.length = c.nn → row < 1024 →
    let t := s.mmaRow q c row a bs
    let tile (col : Nat) : Nat := c.n + row / 32 * Bits.ceilDiv c.nn 32 + col / 32
    (∀ col (h : col < bs.length), t.tileElem q (tile col) (row % 32) (col % 32) =
      (s.tileElem q (tile col) (row % 32) (col % 32)).update (State.dotRow (precision (s.zpOf q (tile col))).et a bs[col]).1
        (State.dotRow (precision (s.zpOf q (tile col))).et a bs[col]).2) ∧
    (∀ k n r j, r < 32 → j < 32 → (∀ col < bs.length, (k, n, r, j) ≠ (q, tile col, row % 32, col % 32)) →
      t.tileElem k n r j = s.tileElem k n r j)

/-- R275-R278, R400: the commands of the copy engine, the gather engine and the decode engine: what acceptance refuses, and what the
accepted ones move. -/
def Obligations.CopyCommands : Prop :=
  ∀ (x : CmdCtx) s,
    (∀ c, let n := c.bytes.toNat
      exec (.copy1d x c) s = .next (
        if badAddress x c.src || badAddress x c.dst || rangesMeet (plainAddress x c.src.toNat) n (plainAddress x c.dst.toNat) n then
          refused s x 1 (Bits.ceilDiv n 64)
        else s.copyCommand x (some c.src.toNat) ((List.range n).map fun j => ((c.dst.toNat + j) % 2 ^ 64, .inl ((c.src.toNat + j) % 2 ^ 64))))) ∧
    (∀ c, let w := c.width.toNat
      let h := c.height.toNat
      exec (.copy2d x c) s = .next (
        if badAddress x c.src || badAddress x c.dst || rangesMeet (plainAddress x c.src.toNat) (spanOf w h c.fpitch.toNat)
            (plainAddress x c.dst.toNat) (spanOf w h c.tpitch.toNat) then
          refused s x 1 (Bits.ceilDiv (w * h) 64)
        else s.copyCommand x (some c.src.toNat) ((List.range h).flatMap fun y => (List.range w).map fun j =>
          ((c.dst.toNat + (y * c.tpitch.toNat + j)) % 2 ^ 64, .inl ((c.src.toNat + (y * c.fpitch.toNat + j)) % 2 ^ 64))))) ∧
    (∀ c, let n := c.bytes.toNat
      exec (.fillCmd x c) s = .next (if badAddress x c.dst then refused s x 1 (Bits.ceilDiv n 64)
        else s.copyCommand x none ((List.range n).map fun j =>
          ((c.dst.toNat + j) % 2 ^ 64, .inr (c.pattern.extractLsb' (8 * (j % 8)) 8))))) ∧
    (∀ c, let patch := c.pw * c.ph * 2 ^ c.esz.toNat
      let cost := Bits.ceilDiv (c.count.toNat * patch) 64
      let dst := plainAddress x c.dst.toNat
      let out := spanOf patch c.count.toNat c.tstr.toNat
      let bad := c.esz = 3 ∨ c.tstr.toNat < patch ∨ c.list.toNat % 4 ≠ 0 ∨ badAddress x c.image ∨ badAddress x c.dst ∨ badAddress x c.list ∨
        rangesMeet (plainAddress x c.image.toNat) (c.ih.toNat * c.ipitch.toNat) dst out ∨
        rangesMeet (plainAddress x c.list.toNat) (4 * c.count.toNat) dst out
      (bad → exec (.gather2d x c) s = .next (refused s x 1 cost)) ∧
      (∀ t b, ¬bad → State.engineBytes x c.list.toNat (4 * c.count.toNat) s = (t, .ok b) →
        exec (.gather2d x c) s = .next (t.copyCommand x (some c.list.toNat) (patchBytes c b))) ∧
      (∀ t f, ¬bad → State.engineBytes x c.list.toNat (4 * c.count.toNat) s = (t, .error f) →
        exec (.gather2d x c) s = .next ((started t x 1 cost).willEnd { x := x, engine := 1, prog := 0, fault := some f, rejected := false } cost))) ∧
    (∀ c, let dst := c.dst.toNat
      let bad := badAddress x c.idx || inAperture c.base.toNat || c.idx.toNat % 4 != 0 || !inAperture dst || apWindow dst != 0 ||
        apSel dst != 0xFFF || dst.testBit 19 || apNib dst != 0 || dst % (32 * 2 ^ c.esz.toNat) != 0 || x.core.isNone
      (bad = true → exec (.gatherCmd x c) s = .next (refused s x 2 8)) ∧
      (∀ t f, bad = false → State.engineBytes x c.idx.toNat 128 (started s x 2 8) = (t, .error f) →
        exec (.gatherCmd x c) s = .next (t.willEnd { x := x, engine := 2, prog := 0, fault := some f, rejected := false } (s.firstCost x c.idx.toNat))) ∧
      (∀ t idx (el : Nat → List Byte), let eb := 2 ^ c.esz.toNat
        let core := engineCore x dst
        bad = false → (s.engine x.quire 2).waiting = [] → State.engineBytes x c.idx.toNat 128 (started s x 2 8) = (t, .ok idx) →
        (∀ i < 32, c.lmask.getLsbD i = true → gatherAddress c idx i % eb = 0 ∧ inAperture (gatherAddress c idx i) = false ∧
          (el i).length = eb ∧ State.engineBytes x (gatherAddress c idx i) eb t = (t, .ok (el i))) →
        (∀ j < 32 * eb, t.engineRefused x (dst + j) true = none) →
        (∀ j < eb, x.wempty = false ∨ (t.core core).full.contains (apOff dst / 32 + j) = false) →
        ∃ u, exec (.gatherCmd x c) s = .next u ∧ (∀ i < 32, ∀ j < eb, memGet (u.core core).store (apOff dst + i * eb + j) =
            if c.lmask.getLsbD i then (el i).getD j 0 else 0) ∧
          (∀ a, a < apOff dst ∨ apOff dst + 32 * eb ≤ a → memGet (u.core core).store a = memGet (t.core core).store a) ∧
          ∃ n, (n, .engineCommandComplete { x := x, engine := 2, prog := 0, fault := none, rejected := false }) ∈ u.sent)) ∧
    (∀ c, let bad := 2 ≤ c.ofmt.toNat ∨ c.budget = 0 ∨ badAddress x c.input = true ∨ badAddress x c.out = true
      (bad → exec (.decodeCmd x c) s = .next (refused s x 3 8)) ∧
      (¬bad → ∃ t d, exec (.decodeCmd x c) s = .next t ∧ d < 8 ∧ (∀ k < 8, (s.decoder d).length ≤ (s.decoder k).length) ∧
        (t.decoder d).map (·.c) = (s.decoder d).map (·.c) ++ [c] ∧ ∀ k, k ≠ d → t.decoder k = s.decoder k))

namespace Sys2Proof.Claims

/-! ## Events -/

/-- With `e` as the packet at hand the event answers a next state, of which `P` holds. -/
def Does (s : State) (i : Instr) (e : Event) (P : State → Prop) : Prop := s.ev = e → ∃ t, exec i s = .next t ∧ P t

/-- An event has been sent, for some cycle no earlier than `d` from now. -/
def SentBy (s t : State) (d : Nat) (e : Event) : Prop := ∃ n, s.now + d ≤ n ∧ (n, e) ∈ t.sent

/-- A path to a package is left, so that what is sent to it leaves (R349, R385). -/
def Reaches (s : State) (pkg : Nat) : Prop := s.pathsTo pkg ≠ []

/-- A packet has left for a package. -/
def Left (t : State) (pkg : Nat) (p : FabricPacket) : Prop := ∃ f ∈ t.fabricOut, f.body = p ∧ f.dst = pkg

/-- A strand started from `l` stands in a slot: R51's registers, pc and flags, and its first bundle issues after `d` cycles. -/
def StartedAs (s t : State) (r : Ref) (l : Launch) (d : Nat) : Prop :=
  t.occupied r = true ∧ (t.strand r).regs.pc = l.pc ∧ (∀ i (h : i < 16), (t.strand r).regs.s[i] = l.regs.getD i 0) ∧
    (t.strand r).regs.flags = (l.cbsel.setWidth 64 <<< 24) ||| (if l.ctx = 0 then 0x10000 else 0) ||| (l.sticky &&& 0x7F0) ||| l.rm.setWidth 64 ∧
    (t.strand r).kind = l.kind ∧ (t.strand r).part = l.part ∧ (t.strand r).ctx = l.ctx ∧ (t.strand r).task = l.task ∧
    (t.strand r).wait = .untilCycle (s.now + d)

/-- The phases of a DRAIN's rows. -/
def phases (s : State) (q : Nat) : List RowPhase := ((s.engine q 0).drain.map fun d => d.rows.map (·.phase)).getD []

/-- A job's status when it has ended (R263). -/
def endStatus (e : JobEnd) : Word :=
  BitVec.ofNat 64 (65536 * e.prog + 256 * (if e.rejected then 0x41 else match e.fault with | some f => f.1.byte.toNat | none => 0) +
    (if e.rejected = false ∧ e.fault = none then 1 else 3))

/-- The 16 words in the 64 bytes of an engine window (R260). -/
def windowWords (m : Mem) : List W32 := (List.range 16).map fun j => BitVec.ofNat 32 (Bytes.toNat (memLoad m (4 * j) 4))

end Sys2Proof.Claims

/-- R257, R260, R263, R264, R272, R410: the events of engines: a completion frees the engine, sets the job's state, latches a fault
and sends the wakes of its sleepers; a window's last byte submits the staged command; a sector that empties takes the write that waits
for it; and a `jwait` that slept issues again. -/
def Obligations.EngineEvents : Prop :=
  ∀ s : State,
    (∀ e c, (s.engine e.x.quire e.engine).running = some e.x → e.x.core = some c →
      (∀ w ∈ s.cowQueue, w.part = e.x.part → w.kind ≠ .unit) →
      Does s .engineCommandComplete (.engineCommandComplete e) fun t =>
        (t.engine e.x.quire e.engine).running = none ∧ (t.engine e.x.quire e.engine).waiting = [] ∧
        jobState (t.core c) e.x.job = some (endStatus e) ∧
        (∀ f, e.fault = some f → (t.core c).engFlt0 = f.2.1 &&& 0x1FFFFFFFFFFFFFF ∧
          (t.core c).engFlt1 = BitVec.ofNat 64 (e.x.job.toNat + 65536 * f.1.byte.toNat + 2 ^ 24 * (f.2.2 % 8) + 2 ^ 32)) ∧
        (∀ r, s.occupied r = true → quireOf r.core = e.x.quire → (s.strand r).wait = .asleep (.job e.x.job) →
          (s.now + 4, .jwaitWake r) ∈ t.sent) ∧
        (t.context e.x.part e.x.ctx).lastPulse = s.now) ∧
    (∀ r pa n data, let k := pa % 256 / 64
      let staged := memStore (look [] k (s.core r.core).staging) (pa % 256 % 64) (Bytes.ofNat n data.toNat)
      (pa % 256 % 64 + n ≠ 64 → Does s .engineWindowStore (.engineWindowStore r pa n data) fun t =>
        t = s.updCore r.core fun c => { c with staging := put k staged c.staging }) ∧
      (pa % 256 % 64 + n = 64 → s.queueFree (quireOf r.core) k r.core = true →
        Does s .engineWindowStore (.engineWindowStore r pa n data) fun t =>
          ∃ x, look [] (r.core % 4) (t.engine (quireOf r.core) k).queues =
              look [] (r.core % 4) (s.engine (quireOf r.core) k).queues ++ [{ words := windowWords staged, x := x, due := s.now }] ∧
            x.core = some r.core ∧ x.job = s.nextJob r.core ∧ (s.occupied r = true → (t.strand r).jobLast = 0x10000 ||| x.job.setWidth 64)) ∧
      (pa % 256 % 64 + n = 64 → s.queueFree (quireOf r.core) k r.core = false →
        Does s .engineWindowStore (.engineWindowStore r pa n data) fun t => t = s)) ∧
    (∀ core sector, inScratch (s.core core) (32 * sector) 32 = true → (s.core core).full.contains sector = true →
      Does s .wemptyWrite (.wemptyWrite core sector) fun t => t = s) ∧
    (∀ core sector q e w j due, inScratch (s.core core) (32 * sector) 32 = true → (s.core core).full.contains sector = false →
      s.quires.map (·.1) = [q] → (s.quire q).engines.map (·.1) = [e] → (s.engine q e).waiting = [w] → w.core = core → w.off / 32 = sector →
      (s.engine q e).ends = some (j, due) →
      Does s .wemptyWrite (.wemptyWrite core sector) fun t => (t.engine q e).waiting = [] ∧
        (t.core core).store = ((s.putSector q e core w.off w.data).core core).store ∧ (s.now + (due - s.now), .engineCommandComplete j) ∈ t.sent) ∧
    (∀ r id x, (s.strand r).jobWait = some (id, x) → (s.strand r).wait = .asleep (.job id) → s.occupied r = true →
      Does s .jwaitWake (.jwaitWake r) fun t => t = s.setStrand r { s.strand r with wait := .ready })

/-- R58, R272, R273, R278, R311: the four events of a DRAIN and of a Folio decoder complete. A row is taken out of its tile with its
registers while no more than EPIRSV + 1 rows run after the oldest; a waiting row starts its epilogue strand, a task of its own, where a slot
is free; an ended row lands in order, after its strand's stores, and the last one completes the job; a decode completes its command, sends its
message and lets the next run. -/
def Obligations.DrainAndDecodeEvents : Prop :=
  ∀ s : State,
    (∀ q d, (s.engine q 0).drain = some d → d.x.quire = q → d.fault = none → d.rows.length < d.c.rows → d.lastTake ≠ some s.now →
      (∀ k r, d.rows[k]? = some r → r.phase = .waiting ∨ r.phase = .running →
        d.rows.length ≤ k + min 4 (Bits.get (s.core (d.x.core.getD 0)).coresched.toNat 10 8) + 1) →
      let n := d.rows.length
      let e (i : Fin 32) : Elem := s.tileElem q d.c.n (d.c.r0 + n) i.val
      Does s .drainRowTakeout (.drainRowTakeout q) fun t =>
        (∃ row, (t.engine q 0).drain = some { d with rows := d.rows ++ [row], lastTake := some s.now } ∧
          row.taken = s.now ∧ row.phase = .waiting ∧
          (d.c.raw = false → row.regs = [(31, lanes fun i => (e i).drain d.et d.sat d.x.rm.toNat)]) ∧
          (d.c.raw = true → row.regs = [(29, lanes fun i => (e i).raw.1), (30, lanes fun i => (e i).raw.2.1), (31, lanes fun i => (e i).raw.2.2)])) ∧
        (∀ i < 32, t.tileElem q d.c.n (d.c.r0 + n) i = if d.c.clr then Elem.zero else s.tileElem q d.c.n (d.c.r0 + n) i) ∧
        (s.now, .epilogueStart q) ∈ t.sent ∧ (n + 1 < d.c.rows → (s.now + 1, .drainRowTakeout q) ∈ t.sent)) ∧
    (∀ q d j row slot, (s.engine q 0).drain = some d → d.rows[j]? = some row → row.phase = .waiting →
      (∀ k r, d.rows[k]? = some r → r.phase = .waiting → j ≤ k) → Sys2Proof.Machine.epilogueStart (s.core (d.x.core.getD 0)) = some slot →
      Does s .epilogueStart (.epilogueStart q) fun t =>
        StartedAs s t ⟨d.x.core.getD 0, slot⟩ { State.epilogue d j row with task := s.ids } (row.taken + 8 - s.now) ∧
        (phases t q)[j]? = some RowPhase.running ∧ (t.task s.ids).live = 1 ∧
        (∀ v, row.regs = [(31, v)] → (t.strand ⟨d.x.core.getD 0, slot⟩).regs.getV 31 = v)) ∧
    (∀ q d j v, (s.engine q 0).drain = some d → d.x.quire = q → d.fault = none → d.ackDue ≤ s.now →
      (phases s q)[j]? = some (RowPhase.ended v) → (∀ k < j, (phases s q)[k]? = some RowPhase.landed) →
      (d.c.dst = 0 → Does s .drainRowOutput (.drainRowOutput q) fun t => (phases t q)[j]? = some RowPhase.landed) ∧
      (∀ u row, d.c.dst ≠ 0 → d.rows[j]? = some row → s.rowUnacked row = false →
        s.moveBytes d.x 0 ((v.toList.flatMap fun w => Bytes.ofNat 4 w.toNat).zipIdx.map fun b =>
          ((at64 d.c.dst (j * d.c.dstr.toNat) + b.2) % 2 ^ 64, .inr b.1)) = (u, none) →
        Does s .drainRowOutput (.drainRowOutput q) fun t =>
          (phases t q)[j]? = some (if (u.engine q 0).waiting = [] ∧ u.unitWaiting d.x.part = false then RowPhase.landed else RowPhase.writing) ∧
          t.hbm = u.hbm ∧ t.l2 = u.l2 ∧ t.cores = u.cores)) ∧
    (∀ q d, (s.engine q 0).drain = some d → d.x.quire = q → d.fault = none → d.ackDue ≤ s.now → d.rows.length = d.c.rows →
      (∀ p ∈ phases s q, p = .landed) → (d.x.node = 0 ∨ ∀ row ∈ d.rows, s.rowUnacked row = false) →
      Does s .drainRowOutput (.drainRowOutput q) fun t =>
        (s.now, .engineCommandComplete { x := d.x, engine := 0, prog := d.c.rows, fault := none, rejected := false }) ∈ t.sent) ∧
    (∀ d j rest fault reason patches bytes, s.decoder d = j :: rest → j.result = some (fault, reason, patches, bytes) → j.due ≤ s.now →
      (s.engine j.x.quire 3).waiting = [] → s.unitWaiting j.x.part = false → Does s .folioDecodeComplete (.folioDecodeComplete d) fun t =>
        let e : JobEnd := { x := j.x, engine := 3, prog := 0, fault := fault, rejected := false }
        (s.now + toBase j.x.quire, .engineCommandComplete e) ∈ t.sent ∧
        (∃ p : Packet, ((∃ h n, (n, .messageAccept h p) ∈ t.sent) ∨ ∃ pkg, ∃ f ∈ t.fabricOut, f.body = .message pkg p) ∧ p.sender = .baseUnit d ∧
          p.part = j.x.part ∧ p.ctx = j.x.ctx ∧ p.msg.cls = j.c.rcls ∧ p.msg.type = j.c.rtype ∧ p.msg.key = j.c.rkey ∧ p.msg.plen = 4 ∧
          p.msg.payload = [BitVec.ofNat 64 (j.x.job.toNat + 65536 * j.x.core.getD 0), endStatus e, BitVec.ofNat 64 patches,
            BitVec.ofNat 64 (bytes + reason * 2 ^ 56)]) ∧
        (t.decoder d).map (·.c) = rest.map (·.c) ∧ (∀ k, k ≠ d → t.decoder k = s.decoder k))

namespace Sys2Proof.Claims

/-! ## Homes and actor slots -/

/-- An event has been sent. -/
def Sent (t : State) (e : Event) : Prop := ∃ n, (n, e) ∈ t.sent

/-- The actor slot of a number at a core. -/
def slotAt (s : State) (core j : Nat) : Option ActorSlot := ((s.core core).actors.find? fun e => e.1 == j).map (·.2)

/-- The actor's slot at a core. -/
def actorAt (s : State) (core : Nat) (a : ActorId) : Option (Nat × ActorSlot) := (s.core core).actors.find? fun e => e.2.actor == a

/-- A home has nothing arrived that it has not accepted, and does not wait to switch to an edition. -/
def Idle (s : State) (q : Nat) : Prop := (s.slice q).arrived = [] ∧ (s.slice q).switching = false

/-- A home holds a message of the actor (R42), or one for the same queue of the core (R45). -/
def holdsFor (s : State) (q core : Nat) (a : ActorId) (high : Bool) : Bool :=
  (s.slice q).forwards.any fun f => f.actor == a || (f.core == core && f.msg.high == high)

/-- The first of the candidates that stands for a core (R37). -/
def firstCore (s : State) (e : ClassEntry) (ks : List Nat) (fb : Bool) : Option Nat := (ks.filterMap fun k => s.candidateCore fb e k).head?

/-- The core that an entry's order goes to next (R37, R369): of its ranking the first that has been neither refused nor found unfit, and when
each has refused the first that is not unfit. -/
def nextCore (s : State) (q : Nat) (x : Eph) (e : ClassEntry) : Option Nat :=
  match (if x.ranking = [] then s.rankingOf q x.actor e else .ok (x.ranking, x.fallback)) with
  | .ok (ks, fb) => (firstCore s e (ks.filter fun k => !x.unfit.contains k && !x.refused.contains k) fb).orElse fun _ =>
      firstCore s e (ks.filter fun k => !x.unfit.contains k) fb
  | .error _ => none

/-- The order that a home sends for an entry (R35, R37). -/
def orderOf (q : Nat) (a : ActorId) (e : ClassEntry) (m : Msg) : ActOrder :=
  { slice := q, actor := a, entry := e, dirIndex := State.dirIndex a.part a.cls a.key e.dirLog.toNat, msg := m }

/-- A packet comes from this package, or from another one of a partition that takes its packets here (R350). -/
def TakesFrom (s : State) (p : Packet) : Prop := ∀ k m n, p.sender = .far k m n → s.takesPackets p.part = true

/-- The state after a home has taken a packet that is the next of its channel, in this cycle's lookup (R329). -/
def taken (s : State) (q : Nat) (p : Packet) : State :=
  (s.updSlice q fun x => { x with lookedAt := some s.now
                                  nextSeq := (p.sender, (p.msg.chseq.toNat + 1) % 2 ^ 32) :: x.nextSeq.filter fun c => c.1 != p.sender }).acknowledge p

/-- The slot at a core has no order waiting for it and no ASLOT write. -/
def Quiet (s : State) (core : Nat) : Prop := (s.core core).aslotTo = none ∧ (s.core core).orders = []

/-- A message as a home forwards it to a core (R44). -/
def carried (s : State) (q : Nat) (m : Msg) : Msg := { m with edition := (s.slice q).edition.setWidth 16 }

end Sys2Proof.Claims

/-- R30, R35, R37, R42, R45, R314, R329, R350, R368: what a home does with a message that arrives as the next of its channel: it is checked, and
then queued, forwarded, held, or starts an activation, one lookup in a cycle; a message out of its turn waits, and one that would start an activation
waits while the home is to switch to an edition; one of another package that its partition does not take is dropped (R350); a returned message goes after the returned ones that wait and before the others; a round asks the entry that
has been live longest. At an ACTIVATING or a LIVE entry, and between the ranks of a candidate, the model's choices are those of log 88. -/
def Obligations.MessagesAtHomes : Prop :=
  ∀ (s : State) q,
    (∀ p k m n, p.sender = .far k m n → s.takesPackets p.part = false → Does s .messageAccept (.messageAccept q p) fun t => t = s) ∧
    (∀ p, TakesFrom s p → (s.slice q).arrived = [] → (s.slice q).lookedAt = some s.now → s.needsEntry q p = false →
      Does s .messageAccept (.messageAccept q p) fun t => t = s.updSlice q fun x => { x with arrived := x.arrived ++ [p] }) ∧
    (∀ p, TakesFrom s p → (s.slice q).arrived = [] → (s.slice q).switching = true → s.eph q (actorOf p) = none →
      Does s .messageAccept (.messageAccept q p) fun t => t = s.updSlice q fun x => { x with arrived := x.arrived ++ [p] }) ∧
    (∀ p, TakesFrom s p → (s.slice q).arrived = [] → p.msg.chseq.toNat ≠ State.nextOf (s.slice q) p.sender →
      Does s .messageAccept (.messageAccept q p) fun t => t = s.updSlice q fun x => { x with arrived := x.arrived ++ [p] }) ∧
    (∀ p v c, TakesFrom s p → (s.slice q).lookedAt ≠ some s.now → Idle s q → p.msg.chseq.toNat = State.nextOf (s.slice q) p.sender → s.needsEntry q p = false → State.storeLines (s.slice q) < 256 →
      (s.context p.part p.ctx).expert = none → (taken s q p).judge p.part p.ctx p.msg = (v, .error c) → Idle v q → p.msg.node = 0 →
      Does s .messageAccept (.messageAccept q p) fun t => t.slices = v.slices ∧ (t.partition p.part).evCnt = (v.partition p.part).evCnt + 1) ∧
    (∀ p v e pc, TakesFrom s p → (s.slice q).lookedAt ≠ some s.now → Idle s q → p.msg.chseq.toNat = State.nextOf (s.slice q) p.sender → s.needsEntry q p = false → State.storeLines (s.slice q) < 256 →
      (s.context p.part p.ctx).expert = none → (taken s q p).judge p.part p.ctx p.msg = (v, .ok (e, pc)) → Idle v q →
      (v.context p.part p.ctx).expert = none →
      let a := actorOf p
      let m := { p.msg with pc := pc }
      Does s .messageAccept (.messageAccept q p) fun t =>
        (∀ x, v.eph q a = some x → x.phase ≠ .live → t = v.setEph q { x with pend := x.pend ++ [m] }) ∧
        (∀ x, v.eph q a = some x → x.phase = .live → State.coreRoom (v.core x.core) m.high = true → holdsFor v q x.core a m.high = false →
          Sent t (.messageAtCore x.core q a (carried v q m))) ∧
        (∀ x, v.eph q a = some x → x.phase = .live → State.coreRoom (v.core x.core) m.high = false ∨ holdsFor v q x.core a m.high = true →
          t = v.updSlice q fun y => { y with forwards := y.forwards ++ [{ core := x.core, actor := a, msg := m }] }) ∧
        (∀ ks fb core, v.eph q a = none → v.rankingOf q a e = .ok (ks, fb) → firstCore v e ks fb = some core →
          Sent t (.activationOrder core (orderOf q a e m)) ∧
          t.eph q a = some { actor := a, phase := .activating, core := core, index := 0, pend := [m], heads := 0, ranking := ks, fallback := fb, refused := [],
                             unfit := [], liveAt := 0 })) ∧
    (∀ p x, s.eph q (actorOf p) = some x → Does s .bouncedMessage (.bouncedMessage q p) fun t =>
      let among (n : Nat) : Eph := { x with pend := x.pend.take n ++ [p.msg] ++ x.pend.drop n, heads := n + 1 }
      (x.phase = .retiring ∨ x.phase = .moving → t = s.setEph q (among x.heads)) ∧
      (x.phase = .activating → t = s.setEph q (among (max 1 x.heads))) ∧
      (x.phase = .live → State.coreRoom (s.core x.core) p.msg.high = true → holdsFor s q x.core (actorOf p) p.msg.high = false →
        Sent t (.messageAtCore x.core q (actorOf p) (carried s q p.msg)))) ∧
    (∀ p u e ks fb core, let a := actorOf p
      s.eph q a = none → (s.slice q).switching = false → s.judgeClass a.part a.ctx a.cls false = (u, .ok e) → u.rankingOf q a e = .ok (ks, fb) →
      firstCore u e ks fb = some core →
      Does s .bouncedMessage (.bouncedMessage q p) fun t => Sent t (.activationOrder core (orderOf q a e p.msg))) ∧
    (∀ p f, (s.slice q).arrived = [p] → (s.slice q).asking = false → (s.slice q).switching = false → (s.slice q).roundAt = some s.now → p.msg.chseq.toNat = State.nextOf (s.slice q) p.sender → s.needsEntry q p = true →
      f ∈ (s.slice q).ephs → f.phase = .live → State.nothingPending (s.slice q) f = true →
      (∀ g ∈ (s.slice q).ephs, g.phase = .live → State.nothingPending (s.slice q) g = true → g ≠ f → f.liveAt < g.liveAt) →
      Does s .entryFreeRound (.entryFreeRound q) fun t => Sent t (.retireRequest f.core q f.actor) ∧ (t.slice q).asking = true) ∧
    (∀ core high f, Idle s q → (s.slice q).forwards = [f] → f.core = core → State.coreRoom (s.core core) f.msg.high = true →
      Does s .heldMessageForward (.heldMessageForward q core high) fun t => (t.slice q).forwards = [] ∧
        Sent t (.messageAtCore core q f.actor (carried s q f.msg)))

/-- R30, R35, R37, R38, R369-R371: how the reports of cores move an Ephemeris entry: READY, MOVED and CANCEL make it LIVE, RETIRE_NOTICE
RETIRING with what its home holds for its core, RETIRED frees it or activates it again, REFUSED and UNFIT of an order send it to the next
candidate, REFUSED of a retire request asks the next entry, and a fault of the activation frees it with one record. -/
def Sys2Proof.Claims.ReportsAtHomes : Prop :=
  ∀ (s : State) q a x, s.eph q a = some x → Idle s q → x.actor = a →
    (∀ core k, x.pend.drop 1 = [] → Does s .ready (.ready q a core k) fun t =>
      t.eph q a = some { x with phase := .live, core := core, index := k, pend := [], heads := 0, ranking := [], fallback := false, liveAt := s.now, refused := [], unfit := [] }) ∧
    (∀ core k h m, x.pend = [h, m] → (s.slice q).forwards = [] → State.coreRoom (s.core core) m.high = true →
      Does s .ready (.ready q a core k) fun t => Sent t (.messageAtCore core q a (carried s q m))) ∧
    (∀ core k, x.pend = [] → (Does s .moved (.moved q a core k) fun t =>
        t.eph q a = some { x with phase := .live, core := core, index := k, pend := [], heads := 0, liveAt := s.now }) ∧
      (Does s .cancel (.cancel q a core k) fun t => t.eph q a = some { x with phase := .live, core := core, index := k, pend := [], heads := 0 })) ∧
    (∀ core, x.phase = .live → Does s .retireNotice (.retireNotice q a core) fun t =>
      t.eph q a = some { x with phase := .retiring, heads := 0,
                                pend := (((s.slice q).forwards.filter fun f => f.actor == a).map (·.msg)) ++ x.pend } ∧
      (t.slice q).forwards = (s.slice q).forwards.filter fun f => f.actor != a) ∧
    (∀ core, x.pend = [] → Does s .retired (.retired q a core) fun t => t.eph q a = none) ∧
    (∀ core u e c ks fb m r, x.pend = m :: r → s.judgeClass a.part a.ctx a.cls false = (u, .ok e) → u.rankingOf q a e = .ok (ks, fb) →
      firstCore u e ks fb = some c →
      Does s .retired (.retired q a core) fun t => Sent t (.activationOrder c (orderOf q a e m))) ∧
    (∀ core u e c m r, let k := State.candidateOf e core
      x.phase = .activating → x.pend = m :: r → s.classEntry a.part a.ctx a.cls.toNat = (u, .ok e) →
      (nextCore u q { x with refused := k :: x.refused } e = some c →
        Does s .refused (.refused q a core true) fun t => Sent t (.activationOrder c (orderOf q a e m))) ∧
      (nextCore u q { x with unfit := k :: x.unfit } e = some c →
        Does s .unfit (.unfit q a core) fun t => Sent t (.activationOrder c (orderOf q a e m)))) ∧
    (∀ core f, (s.slice q).asking = true → f ∈ (s.slice q).ephs → f.phase = .live → State.nothingPending (s.slice q) f = true → (s.slice q).asked.contains f.actor = false →
      (∀ g ∈ (s.slice q).ephs, g.phase = .live → State.nothingPending (s.slice q) g = true → (s.slice q).asked.contains g.actor = false → g ≠ f → f.liveAt < g.liveAt) →
      Does s .refused (.refused q a core false) fun t => Sent t (.retireRequest f.core q f.actor)) ∧
    (∀ core cause code, (∀ m ∈ x.pend, m.node = 0) → Does s .activationFault (.activationFault q a core cause code) fun t =>
      t.eph q a = none ∧ (t.partition a.part).evCnt = (s.partition a.part).evCnt + 1)

/-- R33, R34, R38-R40, R44, R330, R370, R371: what a core does with orders and with its actor slots: a slot fills and its actor goes live, or its
constructor runs first, an idle actor retires and its bytes reach its record, a failed retirement leaves it live, a move copies its bytes, and
a message joins the queue or goes back; while an ASLOT write is under way an order is refused, and one order is handled in a cycle. Which free slot is taken is the model's choice
(log 88). -/
def Obligations.ActorSlotsOfCores : Prop :=
  ∀ (s : State) core, let c := s.core core
    (∀ o, c.orderedAt = some s.now → Does s .activationOrder (.activationOrder core o) fun t => (s.now + 1, .activationOrder core o) ∈ t.sent ∧ t.cores = s.cores) ∧
    (∀ o, c.orderedAt ≠ some s.now → c.aslotTo ≠ none →
      Does s .activationOrder (.activationOrder core o) fun t => Sent t (.refused o.slice o.actor core true) ∧ t.cores = (s.ordered core).cores) ∧
    (∀ o, c.orderedAt ≠ some s.now → c.aslotTo = none → (c.aslotWritten = false ∨ State.aslotCount c.aslot = 0 ∨ State.aslotSize c.aslot < o.entry.stLines.toNat) →
      Does s .activationOrder (.activationOrder core o) fun t => Sent t (.unfit o.slice o.actor core) ∧ t.cores = (s.ordered core).cores) ∧
    (∀ o j, c.orderedAt ≠ some s.now → c.aslotWritten = true → State.aslotCount c.aslot ≠ 0 → o.entry.stLines.toNat ≤ State.aslotSize c.aslot → c.aslotTo = none →
      State.freeActorSlot c = some j → Does s .activationOrder (.activationOrder core o) fun t => Sent t (.slotFillDone core j) ∧
        ∃ x, slotAt t core j = some x ∧ x.actor = o.actor ∧ x.phase = .filling ∧ x.head = some o.msg) ∧
    (∀ o, c.orderedAt ≠ some s.now → c.aslotWritten = true → State.aslotCount c.aslot ≠ 0 → o.entry.stLines.toNat ≤ State.aslotSize c.aslot → c.aslotTo = none →
      State.freeActorSlot c = none → s.idleVictim core = none → Does s .activationOrder (.activationOrder core o) fun t =>
        if o.entry.attr.toNat % 4 = 2 then t = (s.updCore core fun c => { c with orders := c.orders ++ [o] }).ordered core
        else Sent t (.refused o.slice o.actor core true)) ∧
    (∀ q a j x, actorAt s core a = some (j, x) → slotAt s core j = some x → Does s .retireRequest (.retireRequest core q a) fun t =>
      if s.actorIdle core j x then (∀ e ∈ (t.core core).actors, e.1 = j → e.2.phase = .retiring) ∧
        (x.noticed = false → Sent t (.retireNotice x.slice x.actor core)) ∧
        (s.now + (32 + 8 * x.entry.stLines.toNat), .retirementWritebackDone core j) ∈ t.sent
      else Sent t (.refused q a core false) ∧ t.cores = s.cores) ∧
    (∀ j x u, c.actors = [(j, x)] → x.phase = .retiring → x.next = none →
      let b := memLoad c.store (State.aslotBase c.aslot + 256 * State.aslotSize c.aslot * j) (256 * x.entry.stLines.toNat)
      (s.writeRecord c.edition x.actor x.entry x.dirIndex b = (u, none) → Quiet u core →
        Does s .retirementWritebackDone (.retirementWritebackDone core j) fun t => slotAt t core j = none ∧ Sent t (.retired x.slice x.actor core)) ∧
      (∀ f, s.writeRecord c.edition x.actor x.entry x.dirIndex b = (u, some f) → Quiet u core →
        Does s .retirementWritebackDone (.retirementWritebackDone core j) fun t =>
          (∀ e ∈ (t.core core).actors, e.1 = j → e.2.phase = .live) ∧ Sent t (.cancel x.slice x.actor core j))) ∧
    (∀ j x u, c.actors = [(j, x)] → x.phase = .filling →
      let off := State.aslotBase c.aslot + 256 * State.aslotSize c.aslot * j
      (∀ v va b, s.findRecord x.actor x.entry x.dirIndex = (u, .ok (.hit va)) → u.unitRead x.actor.part x.actor.ctx va (256 * x.entry.stLines.toNat) = (v, .ok b) →
        (v.core core).aslotTo = none → Does s .slotFillDone (.slotFillDone core j) fun t => (t.core core).store = memStore (v.core core).store off b ∧
          (∀ e ∈ (t.core core).actors, e.1 = j → e.2.phase = .live) ∧ Sent t (.ready x.slice x.actor core j) ∧ Sent t (.taskStart core none)) ∧
      (∀ i, s.findRecord x.actor x.entry x.dirIndex = (u, .ok (.free i)) → x.entry.attr.getLsbD 3 = false → (u.core core).aslotTo = none →
        Does s .slotFillDone (.slotFillDone core j) fun t =>
          (t.core core).store = memStore (u.core core).store off (List.replicate (256 * State.aslotSize c.aslot) 0) ∧
          (∀ e ∈ (t.core core).actors, e.1 = j → e.2.phase = .live) ∧ Sent t (.ready x.slice x.actor core j)) ∧
      (∀ i m slot, s.findRecord x.actor x.entry x.dirIndex = (u, .ok (.free i)) → x.entry.attr.getLsbD 3 = true → x.head = some m →
        u.messageSlot core m.high = some slot → State.admitted (u.core core) x.actor.ctx = true →
        Does s .slotFillDone (.slotFillDone core j) fun t => t.occupied ⟨core, slot⟩ = true ∧ (t.strand ⟨core, slot⟩).kind = .constructor ∧
          (t.strand ⟨core, slot⟩).regs.pc = BitVec.ofNat 64 (x.entry.code.toNat + 8 * x.entry.ctor.toNat) ∧
          (∀ e ∈ (t.core core).actors, e.1 = j → e.2.phase = .filling ∧ e.2.head = none))) ∧
    (∀ q a dest x j y k, s.eph q a = some x → x.phase = .live → x.core = core → core ≠ dest → actorAt s core a = some (j, y) →
      State.freeActorSlot (s.core dest) = some k → s.actorIdle core j y = true → y.entry.stLines.toNat ≤ State.aslotSize (s.core dest).aslot →
      (s.core dest).aslotTo = none → s.owner (quireOf dest) = some a.part → (s.slice q).switching = false → Does s .moveOrder (.moveOrder q a dest) fun t =>
        SentBy s t (10 + travelCores core dest + 8 * y.entry.stLines.toNat) (.moveCopyComplete core j dest k) ∧
        (∀ e ∈ (t.core core).actors, e.1 = j → e.2.phase = .moving)) ∧
    (∀ j dest k x, c.actors = [(j, x)] → x.phase = .moving → core ≠ dest → Quiet s core →
      Does s .moveCopyComplete (.moveCopyComplete core j dest k) fun t =>
        (t.core dest).store = memStore (s.core dest).store (State.aslotBase (s.core dest).aslot + 256 * State.aslotSize (s.core dest).aslot * k)
          (memLoad c.store (State.aslotBase c.aslot + 256 * State.aslotSize c.aslot * j) (256 * x.entry.stLines.toNat)) ∧
        slotAt t core j = none ∧ Sent t (.moved x.slice x.actor dest k)) ∧
    (∀ q a m, let arrived := fun (t : State) => (if m.high then (t.core core).highQ else (t.core core).lowQ)
      (actorAt s core a = none → Does s .messageAtCore (.messageAtCore core q a m) fun t =>
        ∃ p, Sent t (.bouncedMessage q p) ∧ p.msg = { m with flags := m.flags ||| 2 } ∧ p.part = a.part ∧ p.ctx = a.ctx) ∧
      (∀ j x, c.actors = [(j, x)] → x.actor = a → (x.phase = .live ∨ x.phase = .filling) → x.noticed = false →
        Does s .messageAtCore (.messageAtCore core q a m) fun t => Sent t (.taskStart core none) ∧
          ∃ k, arrived t = arrived s ++ [k] ∧ k.msg = m ∧ k.actor = a ∧ k.slot = j) ∧
      (∀ j x, c.actors = [(j, x)] → x.actor = a → x.noticed = true →
        Does s .messageAtCore (.messageAtCore core q a m) fun t => arrived t = arrived s ∧
          ∃ p, Sent t (.bouncedMessage q p) ∧ p.msg = { m with flags := m.flags ||| 2 } ∧ p.part = a.part ∧ p.ctx = a.ctx))

/-- R282, R313, R315: an EXPCAP write hands the expert class to the homes; a close request closes its layer under EXPCAP as it was when the
request arrived, one at a time, and is answered. -/
def Sys2Proof.Claims.CapacityEvents : Prop :=
  ∀ (s : State) part ctx,
    (∀ val, val.getLsbD 63 = false → Does s .expcapWrite (.expcapWrite part ctx val) fun t =>
      t = s.updContext part ctx fun x => { x with expcap := val &&& 0x1FFFFFFFFFFFFFFF }) ∧
    (∀ val u h, let s1 := s.updContext part ctx fun x => { x with expcap := val &&& 0x9FFFFFFFFFFFFFFF }
      val.getLsbD 63 = true → s1.unitWord part ctx (val.toNat % 2 ^ 36 * 2 ^ 21 + 0x1FF800) 4 = (u, .ok h) →
      Does s .expcapWrite (.expcapWrite part ctx val) fun t => (t.context part ctx).expert = some (BitVec.ofNat 16 h, BitVec.ofNat 16 (h / 65536))) ∧
    (∀ layer rep, s.now < s.capBusy → Does s .closeRequest (.closeRequest part ctx layer rep none) fun t =>
      t = { s with capBusy := s.capBusy + 1624
                   sent := s.sent ++ [(s.capBusy, .closeRequest part ctx layer rep (some (s.context part ctx).expcap))] }) ∧
    (∀ layer held u n, held.isSome = true ∨ s.capBusy ≤ s.now →
      s.closeLayer (held.getD (s.context part ctx).expcap) part ctx layer = (u, n) →
      (Does s .closeRequest (.closeRequest part ctx layer none held) fun t => t = { u with capBusy := max s.capBusy (s.now + 1624) }) ∧
      (∀ core slot serial, Does s .closeRequest (.closeRequest part ctx layer (some (core, slot, serial)) held) fun t => ∃ p, Sent t (.postedStoreApply p) ∧
        p.target = core ∧ p.reply = some (slot, serial) ∧ p.setFull = true ∧
        Bytes.toNat (((p.data.map (·.2)).drop 32).take 8) = layer % 2 ^ 64 ∧ Bytes.toNat (((p.data.map (·.2)).drop 40).take 8) = n.toNat))

/-- R30, R35, R37, R38, R282, R313, R315, R369-R371: reports at homes and the expert capacity. -/
def Obligations.ReportsAndCapacity : Prop := Claims.ReportsAtHomes ∧ Claims.CapacityEvents

namespace Sys2Proof.Claims

/-! ## Tasks and strands -/

/-- Nothing of a core may start but what is named: no actor slots, no stopped strand that waits for its upcall, no migrant of the
quire, no descriptor of its own, and no stealing. -/
def Still (s : State) (core : Nat) : Prop :=
  (s.core core).aslotWritten = false ∧ s.migrants = [] ∧ (s.core core).deque = [] ∧ (s.core core).coresched.getLsbD 16 = false

/-- The bundle that a strand waits at may issue. -/
def Awake (s t : State) (r : Ref) : Prop := t = s.setStrand r { s.strand r with wait := .ready }

/-- The record of a strand fault (R404): pc, code, flags, level, journal entry, lanes, VA, INFO, entry, SEQ and zeros. -/
def recordOf (pc : Word) (f : FaultInfo) (seq : Word) : List Byte :=
  Bytes.ofNat 8 pc.toNat ++ [f.code.byte] ++
    [BitVec.ofNat 8 ((if f.async then 1 else 0) + (if f.vec then 2 else 0) + (if f.isWrite then 4 else 0) + (if f.isFetch then 8 else 0))] ++
    Bytes.ofNat 1 f.level ++ Bytes.ofNat 1 f.jidx ++ Bytes.ofNat 4 f.lanes.toNat ++ Bytes.ofNat 8 f.va.toNat ++ Bytes.ofNat 8 f.info.toNat ++
    Bytes.ofNat 8 f.pte.toNat ++ Bytes.ofNat 8 seq.toNat ++ List.replicate 80 0

end Sys2Proof.Claims

/-- R34, R44, R51, R54, R58, R59: what starts on a core: a launch that waits (the order among the kinds that wait is the model's, log 88), a launch that joins the low queue, a queued message of an idle actor with its line in the
store, the newest descriptor of the core's own deque, the oldest of a neighbour's, a spawned child in its reserved slot, and a strand
that migrates. -/
def Obligations.StartsOfStrands : Prop :=
  ∀ (s : State) core, let c := s.core core
    (∀ l slot, Still s core → c.upcalls = [] → c.starts = [l] → State.admitted c l.ctx = true → lowStart c = some slot →
      Does s .taskStart (.taskStart core none) fun t =>
        StartedAs s t ⟨core, slot⟩ l (if l.kind = .responder then 9 else 8) ∧ (t.core core).starts = []) ∧
    (∀ node l, Does s .taskStart (.taskStart core (some (node, l))) fun t =>
      (t.core core).starts = c.starts ++ [{ l with task := s.ids }] ∧ (t.task s.ids).node = node ∧ (t.task s.ids).live = 1 ∧
      (t.task s.ids).part = l.part ∧ (t.task s.ids).ctx = l.ctx) ∧
    (∀ q j x slot, c.upcalls = [] → s.migrants = [] → c.deque = [] → c.coresched.getLsbD 16 = false → c.starts = [] → c.aslotWritten = true →
      c.lowQ = [q] → c.highQ = [] → c.actors = [(j, x)] → x.actor = q.actor → x.phase = .live → x.head = none → q.msg.high = false →
      State.admitted c q.actor.ctx = true → s.actorRuns core j = false → s.messageSlot core false = some slot →
      let off := State.aslotMsg c.aslot + 256 * slot
      Does s .taskStart (.taskStart core none) fun t => let u := t.strand ⟨core, slot⟩
        (t.core core).lowQ = [] ∧ (t.core core).store = memStore c.store off q.msg.line ∧ u.kind = .message ∧ u.regs.pc = q.msg.pc ∧
        u.msg.toNat = ownVa off % 2 ^ 64 ∧ u.state.toNat = ownVa (State.slotOffset c j) % 2 ^ 64 ∧ u.keyLo = x.actor.key.extractLsb' 0 64 ∧
        u.keyHi = x.actor.key.extractLsb' 64 64 ∧ u.clsType = BitVec.ofNat 64 (q.msg.cls.toNat * 256 + q.msg.type.toNat) ∧
        u.ctx = x.actor.ctx ∧ (u.regs.flags.getLsbD 16 = decide (x.actor.ctx = 0)) ∧ u.wait = .untilCycle (s.now + 9)) ∧
    (∀ d rest slot, lowStart c = some slot → c.deque = rest ++ [d] → Does s .dequePop (.dequePop core) fun t =>
      StartedAs s t ⟨core, slot⟩ (State.childLaunch d core false) 1 ∧ (t.strand ⟨core, slot⟩).regs.pc = d.pc ∧ (t.core core).deque = rest) ∧
    (∀ n d rest slot, lowStart c = some slot → s.stealFrom core = some n → (s.core n).deque = d :: rest → Does s .steal (.steal core) fun t =>
      StartedAs s t ⟨core, slot⟩ (State.childLaunch d core true) 8 ∧ (t.core n).deque = rest) ∧
    (∀ r tag l, Does s .spawnRequest (.spawnRequest r tag core l) fun t =>
      let slot := if State.admitted c l.ctx then lowStart c else none
      SentBy s t (4 + travelCores core r.core) (.spawnAnswer r tag core slot) ∧ (t.core core).reserved = slot.toList ++ c.reserved) ∧
    (∀ l slot, State.admitted c l.ctx = true → Does s .spawnChildStart (.spawnChildStart core slot l) fun t =>
      StartedAs s t ⟨core, slot⟩ { l with task := s.ids } 0 ∧ (t.core core).reserved = c.reserved.erase slot) ∧
    (∀ l slot, State.admitted c l.ctx = false → Does s .spawnChildStart (.spawnChildStart core slot l) fun t =>
      (t.core core).starts = c.starts ++ [{ l with task := s.ids }] ∧ (t.core core).reserved = c.reserved.erase slot) ∧
    (∀ q l slot j, j < 4 → core = 4 * q + j → l.high = false → (∀ k < 4, k ≠ j → lowFree (s.core (4 * q + k)) = []) → lowStart c = some slot →
      State.admitted c l.ctx = true →
      Does s .migrArrival (.migrArrival q l) fun t => StartedAs s t ⟨core, slot⟩ { l with task := s.ids } 8) ∧
    (∀ q l, l.high = false → (∀ k < 4, lowFree (s.core (4 * q + k)) = [] ∨ State.admitted (s.core (4 * q + k)) l.ctx = false) →
      Does s .migrArrival (.migrArrival q l) fun t =>
      t = { s with migrants := s.migrants ++ [(q, l)] })

/-- R50, R52, R55, R71, R72, R210, R374: a task that ends is gone, pulses, and reports its node; an answer to a `spawn` lands in its
window; a decrement reaches its counter; a sleeping `join` issues again; and the fault of a budget that has run out waits for the strand's next bundle. -/
def Obligations.TasksAndBudgets : Prop :=
  ∀ s : State,
    (∀ n, let k := s.task n
      has n s.tasks = true → k.live = 0 → k.ended = false → s.taskUnacked n = false → k.actor = none → k.census = none → s.checkpointing k.part = false →
      Does s .taskEnd (.taskEnd n) fun t => has n t.tasks = false ∧ (t.context k.part k.ctx).lastPulse = s.now ∧
        (k.node ≠ 0 → SentBy s t (toBase (quireOf k.core)) (.nodeCompletion k.part k.ctx k.node (some 0)))) ∧
    (∀ r tag target slot w n, s.occupied r = true → (s.strand r).windows = [w] → w.tag = tag → w.dests = [.s n] →
      Does s .spawnAnswer (.spawnAnswer r tag target slot) fun t => let u := t.strand r
        let v : Word := if slot = none then 1 else 0
        (w.left = 0 → u.regs = (s.strand r).regs.setS n v ∧ u.windows = []) ∧
        (w.left ≠ 0 → u.regs = (s.strand r).regs ∧ u.windows = [{ w with writes := some [.s n v] }]) ∧
        (∀ core k l, (s.strand r).opened.held = [.spawn tag core k l] →
          u.opened.held = slot.toList.map fun j => .spawn tag core (some j) l)) ∧
    (∀ r tag target slot, (∀ w ∈ (s.strand r).windows, w.tag ≠ tag) → Does s .spawnAnswer (.spawnAnswer r tag target (some slot)) fun t =>
      t = s.unreserve target slot) ∧
    (∀ core off, Does s .joinDecrementApplied (.joinDecrementApplied core off) fun t =>
      (inScratch (s.core core) off 8 = false → t = s) ∧
      (inScratch (s.core core) off 8 = true → (t.core core).store = memStore (s.core core).store off
        (Bytes.ofNat 8 (BitVec.ofNat 64 (Bytes.toNat (memLoad (s.core core).store off 8)) - 1).toNat))) ∧
    (∀ r off, s.occupied r = true → (s.strand r).wait = .asleep (.counter off) → Does s .joinWake (.joinWake r) fun t => Awake s t r) ∧
    (∀ r start, let m := s.strand r
      s.occupied r = true → m.startedAt = start → m.counted = true → m.spent = false → m.wait = .ready →
      (m.budgetNow s.now ≠ 0 → Does s .budgetOverrun (.budgetOverrun r start) fun t =>
        t = { s with sent := s.sent ++ [(s.now + (m.budgetNow s.now).toNat, .budgetOverrun r start)] }) ∧
      (m.budgetNow s.now = 0 → m.monitor = none → lastIssued m = false → m.asyncFaults = [] → Does s .budgetOverrun (.budgetOverrun r start) fun t =>
        t.strand r = { m with asyncFaults := [{ code := .budgetOverrun, info := m.budgetStart }] }))

/-- R403, R404, R407, R408: the report of a strand fault writes the record at FRECBASE.OFF + 128·slot, counts it, and its upcall starts
12 cycles later in a slot of the strand's range, with the slot, the record, the code, the address and the record's SEQ in s0-s4; the strand
stops at the report with its budget as it stands; where the area is not scratch, or no handler may run, an event record takes its place. -/
def Obligations.StrandFaultReports : Prop :=
  ∀ (s : State) r, let m := s.strand r
    let c := s.core r.core
    let base := c.frecBase.toNat / 2 ^ 11 % 2 ^ 7 * 2048
    let u := (s.context m.part m.ctx).upcall
    let stopped : Strand := { m with wait := .stopped, budget := m.budgetNow s.now, budgetAt := s.now }
    (∀ f, s.occupied r = true → m.fault = some f → m.wait = .faulting → m.closed = [] → c.wayMask.getLsbD (base / 16384) = true →
      Does s .strandFaultReport (.strandFaultReport r) fun t =>
        (t.core r.core).store = memStore c.store (base + 128 * r.slot) (recordOf m.regs.pc f c.recordSeq) ∧
        (t.core r.core).recordSeq = c.recordSeq + 1 ∧ t.strand r = stopped ∧ (s.now, .upcallStart r) ∈ t.sent ∧ t.hbm = s.hbm ∧
        (f.async = true → has f.jidx (t.core r.core).journal = false)) ∧
    (∀ f, s.occupied r = true → m.fault = some f → m.wait = .faulting → m.closed = [] → c.wayMask.getLsbD (base / 16384) = false →
      Does s .strandFaultReport (.strandFaultReport r) fun t => (t.core r.core).store = c.store ∧ t.strand r = stopped ∧
        (t.partition m.part).evCnt = (s.partition m.part).evCnt + 1 ∧ t.sent = s.sent) ∧
    (∀ f v e, m.fault = some f → m.kind ≠ .upcall → m.kind ≠ .checkpoint → u.toNat / 2 ^ 32 % 2 ^ 16 < (s.context m.part m.ctx).clsNum.toNat →
      s.classEntry m.part m.ctx (u.toNat / 2 ^ 32 % 2 ^ 16) = (v, .ok e) → 8 * (u.toNat % 2 ^ 32) < e.codeLim.toNat →
      v.cores = s.cores → s.occupied r = true → Does s .upcallStart (.upcallStart r) fun t => ∃ l : Launch,
        (t.core r.core).upcalls = c.upcalls ++ [{ slot := r.slot, due := s.now + 12, launch := l }] ∧
        Sent t (.taskStart r.core none) ∧ (t.strand r).byUpcall = true ∧ (t.strand r).wait = m.wait ∧
        l.kind = .upcall ∧ l.pc = BitVec.ofNat 64 (e.code.toNat + 8 * (u.toNat % 2 ^ 32)) ∧ l.part = m.part ∧ l.ctx = m.ctx ∧
        l.regs = [BitVec.ofNat 64 r.slot, ownVa (base + 128 * r.slot), f.code.byte.setWidth 64, f.va,
          BitVec.ofNat 64 (Bytes.toNat (memLoad c.store (base + 128 * r.slot + 40) 8))]) ∧
    (∀ f, m.fault = some f → m.kind = .upcall → Does s .upcallStart (.upcallStart r) fun t =>
      t.cores = s.cores ∧ (t.partition m.part).evCnt = (s.partition m.part).evCnt + 1) ∧
    (∀ w slot, Still s r.core → c.upcalls = [w] → c.starts = [] → State.upcallSlot c w.slot = some slot →
      Does s .taskStart (.taskStart r.core none) fun t =>
        StartedAs s t ⟨r.core, slot⟩ { w.launch with task := s.ids } (w.due - s.now) ∧ (t.core r.core).upcalls = [])

/-- R154, R156-R161: the arbiter of a die grants a chunk, whose effects take place 28 cycles later in program order: stores reach
their bytes, and an ended strand's slot is free. -/
def Obligations.CommitsTakeEffect : Prop :=
  ∀ (s : State) r id c,
    (∀ d since rest, (s.die d).lastGrant ≠ some s.now → (s.die d).requests = [{ who := r, chunk := id, since := since }] → s.occupied r = true → (s.strand r).closed = c :: rest → c.id = id →
      c.granted = none → (∀ va b, Held.store va b none ∉ c.held ∧ Held.nontemporal va b none ∉ c.held) →
      (∀ w ∈ (s.strand r).windows, w.chunk = id → w.writes.isSome = true ∧ w.due ≤ s.now) →
      Does s .commitGrant (.commitGrant d) fun t => (s.now + 28, .commitTakesEffect r id) ∈ t.sent ∧ (t.die d).lastGrant = some s.now ∧
        ((t.strand r).closed.head?.map (·.granted)) = some (some (s.now + 28))) ∧
    ((s.strand r).closed = [c] → c.id = id → c.granted = some s.now → (s.core r.core).trigger = none → s.occupied r = true →
      (∀ stores : List (Nat × List Byte), c.held = stores.map (fun h => Held.scratch h.1 h.2 false) →
        Does s .commitTakesEffect (.commitTakesEffect r id) fun t => (t.strand r).closed = [] ∧
          (t.core r.core).store = stores.foldl (fun m h => memStore m h.1 h.2) (s.core r.core).store) ∧
      (∀ va data g, c.held = [.store va data (some g)] → g.rights.getLsbD 6 = false → g.rights.getLsbD 4 = false → data ≠ [] →
        s.homeOf (s.strand r).part va.toNat / 256 = dieOf r.core → s.homePackage (s.strand r).part va.toNat = s.pkgid →
        s.podEntry (s.strand r).part (va.toNat / 256) = none → s.lockedLine (s.strand r).part va.toNat = false →
        s.lineWaits (s.strand r).part (va.toNat / 256) = false →
        Does s .commitTakesEffect (.commitTakesEffect r id) fun t => let u := s.storeInLine (s.strand r).part (s.strand r).ctx va.toNat data g
          (t.strand r).closed = [] ∧ (t.strand r).unackedWrites = (s.strand r).unackedWrites + 1 ∧ t.l2 = u.l2 ∧ t.hbm = u.hbm) ∧
      (c.held = [.endStrand] → (s.strand r).row = none → Does s .commitTakesEffect (.commitTakesEffect r id) fun t =>
        t.occupied r = false ∧ (t.task (s.strand r).task).live = (if has (s.strand r).task s.tasks then (s.task (s.strand r).task).live - 1 else 0)) ∧
      (∀ sel val e, c.held = [.csr sel val] → s.csrEvent r sel val = some e → Does s .commitTakesEffect (.commitTakesEffect r id) fun t =>
        (if 0x020 ≤ sel then SentBy s t (toBase (quireOf r.core)) e else (s.now, e) ∈ t.sent) ∧ (t.strand r).closed = []))

namespace Sys2Proof.Claims

/-- A request waits at its home: behind others for its line, or for a line that is locked by a move (R133, R152). -/
def WaitsThere (s : State) (r : HomeReq) : Prop := s.lineWaits r.part (r.va.toNat / 256) = true ∨ s.lockedLine r.part r.va.toNat = true

/-- The slice at hand serves a request of this package: its home is here, and no package holds its line (R133, R139). -/
def ServedHere (s : State) (r : HomeReq) : Prop :=
  ¬ WaitsThere s r ∧ r.pkg = none ∧ s.homePackage r.part r.va.toNat = s.pkgid ∧ s.podEntry r.part (r.va.toNat / 256) = none

/-- A request of this package, or of another one that the partition takes (R350). -/
def Accepts (s : State) (r : HomeReq) : Prop := r.pkg = none ∨ s.takesPackets r.part = true

/-- No write of a die's strands is on its way to a home or waits there (R159). -/
def NoneOnTheWay (s : State) (die : Nat) : Prop := (s.die die).spine = [] ∧ s.cowQueue = [] ∧ s.peerWait = []

/-- A write's acknowledgement leaves its home, and is there no earlier than the invalidations to the holders that `keep` does not name (R166). -/
def Acknowledged (s t : State) (r : HomeReq) (kind : AckKind) (keep : Nat → Bool) : Prop :=
  ∃ a, s.now + travel (s.homeOf r.part r.va.toNat) (quireOf r.who.core) ≤ a ∧ (a, .homeAcknowledgement r.who kind r.task r.start) ∈ t.sent ∧
    ∀ c ∈ s.holders r.part (r.va.toNat / 256), keep c = false → ∃ n ≤ a, (n, .invalidationArrival c r.part (r.va.toNat / 256)) ∈ t.sent

end Sys2Proof.Claims

/-- R130, R133, R138, R139, R152, R159, R166, R173, R251, R296, R423: what a home does with a request: a line is answered, a store's check too, a
committed store and a non-temporal one reach the line, an atomic answers its old bits, and each write is acknowledged once the other copies
have their invalidations; a request waits for a locked line; a line of another package is asked for there once, and held SHARED or OWNED as
that package answers. -/
def Obligations.HomeEvents : Prop :=
  ∀ (s : State) (r : HomeReq), let va := r.va.toNat
    let line := va / 256
    let stored (data : List Byte) (g : Grant) (t : State) : Prop :=
      t.l2 = (s.storeInLine r.part r.ctx va data g).l2 ∧ t.hbm = (s.storeInLine r.part r.ctx va data g).hbm
    let find (acc : Access) := s.homeLine { part := r.part, ctx := r.ctx, va := va, acc := acc, priv := r.priv }
    (WaitsThere s r → Accepts s r → (∀ acc, r.op = .need acc ∨ r.op = .check → Does s .homeRequest (.homeRequest r) fun t => t = { s with peerWait := s.peerWait ++ [r] }) ∧
      (∀ n data g, r.op = .nontemporal n data g → Does s .homeRequest (.homeRequest r) fun t => t = { s with peerWait := s.peerWait ++ [r] }) ∧
      (∀ data g, r.op = .store data g → Does s .homeRequest (.homeRequest r) fun t => t.peerWait = s.peerWait ++ [r] ∧ t.l2 = s.l2 ∧ t.hbm = s.hbm)) ∧
    (¬ WaitsThere s r → r.pkg = none → s.homePackage r.part va ≠ s.pkgid → let pkg := s.homePackage r.part va
      let asked (p : FabricPacket) : State := { s with peerWait := s.peerWait ++ [r] }.toFabric p
      (∀ acc, r.op = .need acc ∨ r.op = .check → s.l2Find r.part line = none → Does s .homeRequest (.homeRequest r) fun t => t = asked (.request pkg r)) ∧
      (∀ acc l, r.op = .need acc → s.l2Find r.part line = some l → rightsOk acc r.priv l.g.rights = true → NoneOnTheWay s r.die →
        Does s .homeRequest (.homeRequest r) fun t => SentBy s t 24 (.cacheFillReturn r.who r.part r.start (.data r.va (memLoad l.data 0 256) l.g))) ∧
      (∀ n data g, r.op = .nontemporal n data g → (∀ l, s.l2Find r.part line = some l → l.peer ≠ some true) →
        Does s .homeRequest (.homeRequest r) fun t => t = asked (.own pkg r.part line s.pkgid))) ∧
    (∀ owned data g, r.op = .peer owned data g → data ≠ [] → s.peerWait = [] → s.takesPackets r.part = true → Does s .homeRequest (.homeRequest r) fun t =>
      ∃ l, t.l2Find r.part line = some l ∧ l.peer = some owned ∧ l.data = memStore [] 0 data ∧ l.dirty = [] ∧ l.g = g) ∧
    (ServedHere s r →
      (∀ acc u n, r.op = .need acc →
        (∀ f, find acc = (u, n, .error f) → Does s .homeRequest (.homeRequest r) fun t => SentBy s t (24 + n) (.cacheFillReturn r.who r.part r.start (.fault acc f))) ∧
        (∀ b g, find acc = (u, n, .ok (b, g)) → b = [] ∨ NoneOnTheWay u r.die →
          Does s .homeRequest (.homeRequest r) fun t => SentBy s t (24 + n) (.cacheFillReturn r.who r.part r.start (.data r.va b g)))) ∧
      (∀ u n, r.op = .check →
        (∀ f, find .store = (u, n, .error f) → Does s .homeRequest (.homeRequest r) fun t => SentBy s t (24 + n) (.cacheFillReturn r.who r.part r.start (.fault .store f))) ∧
        (∀ b g, find .store = (u, n, .ok (b, g)) → Does s .homeRequest (.homeRequest r) fun t =>
          SentBy s t (24 + n) (.cacheFillReturn r.who r.part r.start (.checked r.va g)))) ∧
      (∀ data g, g.rights.getLsbD 6 = false → g.rights.getLsbD 4 = false → data ≠ [] →
        (r.op = .store data g → Does s .homeRequest (.homeRequest r) fun t => stored data g t ∧ Acknowledged s t r .write (fun c => dieOf c == r.die) ∧
          (t.die r.die).spine = (s.die r.die).spine.eraseP fun x => x.part == r.part && x.va == r.va && x.data == data) ∧
        (∀ n, r.op = .nontemporal n data g → Does s .homeRequest (.homeRequest r) fun t => stored data g t ∧ Acknowledged s t r (.nontemporal n) fun _ => false)) ∧
      (∀ fn n lane x cmp g u k, r.op = .atomic fn n lane x cmp g →
        (∀ f, find .atomic = (u, k, .error f) → Does s .homeRequest (.homeRequest r) fun t => SentBy s t (24 + k) (.remoteResult r.who lane r.va (.fault f))) ∧
        (∀ b g2, g2.rights.getLsbD 6 = false → g2.rights.getLsbD 4 = false → b ≠ [] → (n = 4 ∨ n = 8) → find .atomic = (u, k, .ok (b, g2)) →
          let o : BitVec (8 * n) := BitVec.ofNat (8 * n) (Bytes.toNat ((b.drop (va % 256)).take n))
          let new := newBits fn (8 * n) o (x.setWidth (8 * n)) (cmp.setWidth (8 * n))
          Does s .homeRequest (.homeRequest r) fun t => SentBy s t (24 + k) (.remoteResult r.who lane r.va (.value (o.signExtend 64))) ∧
            Sent t (.homeAcknowledgement r.who .write r.task r.start) ∧
            t.l2 = (u.storeInLine r.part r.ctx va (Bytes.ofNat n new.toNat) g2).l2 ∧
            t.hbm = (u.storeInLine r.part r.ctx va (Bytes.ofNat n new.toNat) g2).hbm)))

/-- R127, R129, R130, R132, R161, R166, R255, R288, R411, R412: what reaches a core: the answer to a fetch, for which the least recently used
line of a full set makes way and which a set full of dirty lines does not take, an invalidation, remote accesses at their
target, their results, acknowledgements and refusals, and the wake of a sector that has filled. -/
def Obligations.CoreMemoryEvents : Prop :=
  ∀ s : State,
    (∀ r part start acc f, acc ≠ .store → s.occupied r = true → (s.strand r).startedAt = start → (s.strand r).wait = .asleep (.fill (f.va.toNat / 256)) →
      (s.strand r).part = part → (s.strand r).copy ≠ .asked → (s.strand r).pending = [] →
      Does s .cacheFillReturn (.cacheFillReturn r part start (.fault acc f)) fun t =>
        t.strand r = { s.strand r with received := .fault f :: (s.strand r).received, wait := .ready }) ∧
    (∀ r part start va b g, let line := va.toNat / 256
      s.occupied r = true → (s.strand r).wait = .asleep (.fill line) → (s.strand r).part = part → (s.strand r).copy ≠ .asked → (s.strand r).pending = [] →
      b ≠ [] → s.l2Find part line = none →
      Does s .cacheFillReturn (.cacheFillReturn r part start (.data va b g)) fun t =>
        t.strand r = { s.strand r with wait := .ready } ∧ (part, line) ∉ (t.core r.core).fills ∧ (t.core r.core).l1 = (s.core r.core).l1) ∧
    (∀ r part start va a g x, let c := s.core r.core
      let line := va.toNat / 256
      let b := memLoad x.data 0 256
      s.occupied r = true → (s.strand r).wait = .asleep (.fill line) → (s.strand r).part = part → (s.strand r).copy ≠ .asked →
      (s.strand r).monitor = none → (s.strand r).pending = [] → a ≠ [] → s.l2Find part line = some x → x.g.frame = g.frame →
      NoneOnTheWay s (dieOf r.core) → ¬ DirtySet c part line →
      Does s .cacheFillReturn (.cacheFillReturn r part start (.data va a g)) fun t =>
        t.strand r = { s.strand r with
          wait := .ready
          received := .line va b g :: (s.strand r).received.filter fun y => match y with | .line a _ _ => a.toNat / 256 != line | _ => true } ∧
        (c.wayMask &&& 0xFFFF ≠ 0xFFFF → ¬ DirtyLine c part line → (c.l1.map fun l => (l.part, l.line)).Nodup →
          (∀ l ∈ c.l1, (l.part, l.line) ≠ (part, line)) →
          ∃ l ∈ (t.core r.core).l1, l.part = part ∧ l.line = line ∧ l.g = g ∧ l.data = memStore [] 0 b ∧ l.valid = List.range 8)) ∧
    (∀ r part start va b g ls x y, let c := s.core r.core
      let name := fun (l : L1Line) => (l.part, l.line)
      b ≠ [] → (∀ e ∈ c.slots, ∀ k ∈ e.2.closed ++ [e.2.opened], k.held = []) → c.l1 = ls ++ [x] →
      (∀ l ∈ ls ++ [x], l.line % 64 = va.toNat / 256 % 64 ∧ name l ≠ (part, va.toNat / 256)) →
      (∀ j < 16, c.wayMask.getLsbD j = false → ∃ l ∈ ls ++ [x], l.way = j) → ((ls ++ [x]).map (·.way)).Nodup → c.wayMask &&& 0xFFFF ≠ 0xFFFF →
      s.l2Find part (va.toNat / 256) = some y → y.g.frame = g.frame →
      Does s .cacheFillReturn (.cacheFillReturn r part start (.data va b g)) fun t =>
        (t.core r.core).l1.map name = (part, va.toNat / 256) :: ls.map name) ∧
    (∀ r part start va b g y, s.occupied r = true → (s.strand r).wait = .asleep (.fill (va.toNat / 256)) → (s.strand r).part = part → (s.strand r).copy ≠ .asked →
      (s.strand r).pending = [] → b ≠ [] → DirtySet (s.core r.core) part (va.toNat / 256) → s.l2Find part (va.toNat / 256) = some y → y.g.frame = g.frame →
      Does s .cacheFillReturn (.cacheFillReturn r part start (.data va b g)) fun t =>
        t.strand r = { s.strand r with wait := .ready } ∧ (t.core r.core).l1 = (s.core r.core).l1) ∧
    (∀ core part line, (∀ c ∈ s.cores, ∀ x ∈ c.2.slots, x.2.monitor = none) →
      Does s .invalidationArrival (.invalidationArrival core part line) fun t =>
        t = s.updCore core fun c => { c with l1 := c.l1.map fun l => if l.part == part && l.line == line then { l with pending := true } else l }) ∧
    (∀ k : RemoteLoad,
      let c := s.core k.target
      let x (va : Word) := readWindow (fun o n => memLoad c.store o n) (c.tableAt s.now) k.scaleOff (apWindow va.toNat) (apOff va.toNat) (apNib va.toNat) k.size
      let checked (va : Word) := s.targetRefuses k.target k.part ((List.range (windowBytes (apWindow va.toNat) k.size)).map (apOff va.toNat + ·)) true false
      let answers := k.wait = false ∨ ∀ e ∈ k.elems, checked e.2 ≠ none ∨ ∀ a ∈ sectorsOf (apOff e.2.toNat) k.size, c.full.contains (a / 32) = true
      Does s .remoteLoadAtTarget (.remoteLoadAtTarget k) fun t => t.cores = s.cores ∧
        (answers → ∀ e ∈ k.elems, SentBy s t (4 + travelCores k.target k.who.core)
          (.remoteResult k.who e.1 e.2 (if checked e.2 = none then .value (x e.2)
            else .fault { code := if k.waited = true ∧ checked e.2 = some 1 then .aperture else .protection }))) ∧
        (¬ answers → (s.now + 1, .remoteLoadAtTarget { k with waited := true }) ∈ t.sent)) ∧
    (∀ k : RemoteAtomic, let off := apOff k.va.toNat
      let old := memLoad (s.core k.target).store off k.size
      let checked := s.targetRefuses k.target k.part ((List.range k.size).map (off + ·)) true true
      Does s .remoteAtomicAtTarget (.remoteAtomicAtTarget k) fun t =>
        (checked ≠ none → SentBy s t (4 + travelCores k.target k.who.core) (.remoteResult k.who k.lane k.va (.fault { code := .protection })) ∧ t.cores = s.cores) ∧
        (checked = none → (k.size = 4 ∨ k.size = 8) → let o : BitVec (8 * k.size) := BitVec.ofNat (8 * k.size) (Bytes.toNat old)
          Sent t (.remoteResult k.who k.lane k.va (.value (o.signExtend 64))) ∧
          (t.core k.target).store = memStore (s.core k.target).store off
            (Bytes.ofNat k.size (newBits k.fn (8 * k.size) o (k.val.setWidth (8 * k.size)) (k.cmp.setWidth (8 * k.size))).toNat))) ∧
    (∀ r lane va res, lane < 64 → s.occupied r = true → (s.strand r).received = [.asked lane va] ∨ (s.strand r).received = [.sent lane va] → (s.strand r).wait = .asleep .remote →
      Does s .remoteResult (.remoteResult r lane va res) fun t => t.strand r = { s.strand r with
        wait := .ready, received := [match res with | .value v => .element lane va v | .fault f => .fault { f with va := va }] }) ∧
    (∀ p : PostedStore, p.reply = none →
      (∀ cause n, s.targetRefuses p.target p.part (p.data.map (·.1)) false true = some cause → p.idx = some n →
        Does s .postedStoreApply (.postedStoreApply p) fun t => SentBy s t (travelCores p.target p.src) (.remoteRefused p.src n cause) ∧ t.cores = s.cores) ∧
      (∀ n, s.targetRefuses p.target p.part (p.data.map (·.1)) false true = none → (p.data.map (·.1)).Nodup → p.idx = some n →
        Does s .postedStoreApply (.postedStoreApply p) fun t => (s.now + travelCores p.target p.src, .postedStoreAck p.src n) ∈ t.sent ∧
          (∀ b ∈ p.data, memGet (t.core p.target).store b.1 = b.2) ∧
          (∀ a, a ∉ p.data.map (·.1) → memGet (t.core p.target).store a = memGet (s.core p.target).store a) ∧
          (p.setFull = true → ∀ b ∈ p.data, (t.core p.target).full.contains (b.1 / 32) = true))) ∧
    (∀ core n, (∀ e ∈ (s.core core).journal, has e.2.task s.tasks = false) →
      Does s .postedStoreAck (.postedStoreAck core n) fun t => t = s.updCore core fun c => { c with journal := drop n c.journal }) ∧
    (∀ core n cause e, (s.core core).journal.find? (fun x => x.1 == n) = some (n, e) → Does s .remoteRefused (.remoteRefused core n cause) fun t =>
      let r : Ref := ⟨core, e.slot⟩
      let info := BitVec.ofNat 64 (e.width % 256 + 256 * cause)
      (s.occupied r = true → (s.strand r).startedAt = e.startedAt → look { e with refused := false } n (t.core core).journal = { e with refused := true } ∧
        (t.strand r).asyncFaults = (s.strand r).asyncFaults ++
        [{ code := .remoteRefused, va := e.va, info := info, isWrite := true, async := true, jidx := n }]) ∧
      (∀ p, s.owner (quireOf core) = some p → s.occupied r = false →
        has n (t.core core).journal = false ∧ (t.partition p).evCnt = (s.partition p).evCnt + 1)) ∧
    (∀ r n, s.occupied r = true → (s.strand r).wait = .asleep (.sector n) → Does s .ldfWake (.ldfWake r) fun t => Awake s t r) ∧
    (∀ r task start, s.occupied r = true → (s.strand r).startedAt = start → has task s.tasks = false →
      (Does s .homeAcknowledgement (.homeAcknowledgement r .write task start) fun t =>
        t = s.setStrand r { s.strand r with unackedWrites := (s.strand r).unackedWrites - 1 }) ∧
      (∀ n va b a z, (s.strand r).ntOut = a ++ (n, va, b) :: z → (∀ w ∈ a ++ z, w.1 ≠ n) → b ≠ [] →
        Does s .homeAcknowledgement (.homeAcknowledgement r (.nontemporal n) task start) fun t =>
          (t.strand r).unackedStores = (s.strand r).unackedStores - 1 ∧ (t.strand r).ntOut = a ++ z ∧
          (t.strand r).ntDone = (va.toNat, b.length) :: (s.strand r).ntDone ∧ (t.strand r).regs = (s.strand r).regs ∧
          (∀ l ∈ (t.core r.core).l1, l ∈ (s.core r.core).l1 ∧ (l.part = (s.strand r).part → l.line = va.toNat / 256 → l.pending = false))) ∧
      (Does s .homeAcknowledgement (.homeAcknowledgement r .pod task start) fun t =>
        t = s.setStrand r { s.strand r with unackedPod := (s.strand r).unackedPod - 1 }) ∧
      (Does s .homeAcknowledgement (.homeAcknowledgement r .maintenance task start) fun t =>
        t = s.setStrand r { s.strand r with unackedMaint := (s.strand r).unackedMaint - 1 }))

/-- R137, R139, R151, R296, R384: the moves of homes and pages: the base die takes one `hmset` at a time, a slice adopts a new HMASK once, a
granule's lines are copied one after another until its entry names the new home, another package becomes a line's one holder, and a write waits
for its page's copy. -/
def Obligations.HomeMovesAndCopies : Prop :=
  ∀ s : State,
    (∀ part q v r, (s.partition part).hmsets ≠ [] → Does s .hmsetSliceAdopt (.hmsetSliceAdopt part q v (some r)) fun t =>
      t = s.updPartition part fun p => { p with hmsets := p.hmsets ++ [(r, v)] }) ∧
    (∀ part q v r, (s.partition part).hmsets = [] → Does s .hmsetSliceAdopt (.hmsetSliceAdopt part q v (some r)) fun t =>
      (t.partition part).hmsets = [(r, v)] ∧ (t.partition part).adoptLeft = s.homeList part ∧
      ∀ k ∈ s.homeList part, SentBy s t (toBase k) (.hmsetSliceAdopt part k v none)) ∧
    (∀ part q v, s.l2 = [] →
      (∀ a b l, (s.partition part).adoptLeft = a :: b :: l → q = a → Does s .hmsetSliceAdopt (.hmsetSliceAdopt part q v none) fun t =>
        t = s.updPartition part fun p => { p with adoptLeft := b :: l }) ∧
      (∀ r x, (s.partition part).adoptLeft = [q] → (s.partition part).hmsets = [(r, x)] →
        Does s .hmsetSliceAdopt (.hmsetSliceAdopt part q v none) fun t => (t.partition part).hmask = x ∧ (t.partition part).hmsets = [] ∧
          SentBy s t (toBase q + toBase (quireOf r.core)) (.homeAcknowledgement r .maintenance (s.strand r).task (s.strand r).startedAt))) ∧
    (∀ part n base limit, s.l2 = [] → limit.toNat / 2 ^ 38 % 2 ^ 10 = s.pkgid →
      Does s .homeMoveStart (.homeMoveStart part n base limit) fun t =>
        look 0 n (t.partition part).hmapB = base &&& 0xFFFFFFFFF ∧ look 0 n (t.partition part).hmapL = limit ||| 0x4000000000000000 ∧
        t.lockedLine part (base.toNat % 2 ^ 36 * 2 ^ 21) = true ∧ SentBy s t 80 (.moveLineAck part n 0)) ∧
    (∀ part n i m, let l := (look 0 n (s.partition part).hmapL).toNat
      s.moves = [m] → m.part = part → m.n = n → m.index = i → s.l2 = [] → s.peerWait = [] → l / 2 ^ 38 % 2 ^ 10 = s.pkgid →
      let lines := (l % 2 ^ 36 + 1 - m.base / 2 ^ 21) * 8192
      (i + 1 < lines → Does s .moveLineAck (.moveLineAck part n i) fun t => t.moves = [{ m with index := i + 1 }] ∧
        SentBy s t 80 (.moveLineAck part n (i + 1))) ∧
      (lines ≤ i + 1 → (s.context part 0).clsNum = 0 → Does s .moveLineAck (.moveLineAck part n i) fun t => t.moves = [] ∧
        (look 0 n (t.partition part).hmapL).toNat / 2 ^ 62 % 2 = 0 ∧ (look 0 n (t.partition part).hmapL).toNat / 2 ^ 50 % 2 ^ 10 = s.pkgid ∧
        (look 0 n (t.partition part).hmapL).toNat % 2 ^ 36 = l % 2 ^ 36)) ∧
    (∀ part line pkg, let entry := s.podEntry part line
      let e : Event := .peerOwnedRequest part line pkg
      (s.takesPackets part = false → Does s .peerOwnedRequest e fun t => t = s) ∧
      (s.takesPackets part = true → s.homePackage part (line * 256) = s.pkgid → s.lockedLine part (line * 256) = false → s.lineWaits part line = false →
      (∀ leaf, entry = none → s.l2 = [] → s.lineLeaf part (line * 256) = some leaf → Does s .peerOwnedRequest e fun t =>
        t.podEntry part line = some { part := part, line := line, holders := [pkg], owned := true, acks := 0 } ∧
        (Reaches s pkg → Left t pkg (.grant pkg part line true (memLoad s.hbm (leaf.pa / 256 * 256) 256)
          { rights := leaf.rights, frame := leaf.pa / 256 * 256, size := leaf.size })) ∧
        ∀ c ∈ s.holders part line, Sent t (.invalidationArrival c part line)) ∧
      (∀ x, entry = some x → x.owned = false → Does s .peerOwnedRequest e fun t => ∀ p ∈ x.holders, p ≠ pkg → Reaches s p → Left t p (.recall p part line none)) ∧
      (∀ x, entry = some x → x.owned = true → x.holders ≠ [] → x.holders ≠ [pkg] → Does s .peerOwnedRequest e fun t =>
        (s.now + 4, e) ∈ t.sent ∧ ∀ p ∈ x.holders, Reaches s p → Left t p (.recall p part line none)))) ∧
    (∀ w : CowWrite, w.kind ≠ .unit →
      let pte (p : Word) := p.toNat / 2 ^ 52 % 256 = (s.partition w.part).edition.toNat % 256
      (s.cowQueue = [w] → s.pageLeaf w.part w.ctx w.va.toNat = none → Does s .cowCopy (.cowCopy w) fun t =>
        Sent t (.homeAcknowledgement w.who w.kind w.task w.start) ∧ t.cowQueue = []) ∧
      (∀ l p, s.cowQueue = [w] → s.pageLeaf w.part w.ctx w.va.toNat = some (l, p) → w.g.rights.getLsbD 6 = true → l.rights.getLsbD 4 = false → w.data ≠ [] → l.size < 2 ^ 30 →
        w.edition = (s.partition w.part).edition → pte p → s.podEntry w.part (w.va.toNat / 256) = none →
        Does s .cowCopy (.cowCopy w) fun t => Sent t (.homeAcknowledgement w.who w.kind w.task w.start) ∧ t.cowQueue = [] ∧
          t.l2 = (s.storeInLine w.part w.ctx w.va.toNat w.data { rights := l.rights, frame := l.pa / 256 * 256, size := l.size }).l2) ∧
      (∀ l p u, s.pageLeaf w.part w.ctx w.va.toNat = some (l, p) → w.g.rights.getLsbD 6 = true → w.edition = (s.partition w.part).edition → ¬ pte p →
        l.size < 2 ^ 30 → (s.editionOf w.part w.edition).isSome = true →
        s.copyPage w.part w.ctx w.va.toNat l p = (u, false) → Does s .cowCopy (.cowCopy w) fun t => (u.now + 1024, .cowPoolRetry w) ∈ t.sent) ∧
      Does s .cowPoolRetry (.cowPoolRetry w) fun t => t = { s with sent := s.sent ++ [(s.now, .cowCopy w)] })

namespace Sys2Proof.Claims

/-! ## Barriers, censuses, samplers, editions -/

/-- The packet of a message that has left its sender: for a home of this package, or through the fabric. -/
def Leaves (t : State) (p : Packet) : Prop := (∃ home, Sent t (.messageAccept home p)) ∨ ∃ pkg, Left t pkg (.message pkg p)

/-- The one window with this tag takes the answer `v` in s[n]: now where no bundle may issue before it, else when it closes. -/
def Answered (s t : State) (r : Ref) (w : Window) (n : BitVec 5) (v : Word) : Prop :=
  (w.left = 0 → (t.strand r).regs = (s.strand r).regs.setS n v ∧ (t.strand r).windows = []) ∧
  (w.left ≠ 0 → (t.strand r).regs = (s.strand r).regs ∧ (t.strand r).windows = [{ w with writes := some [.s n v] }])

/-- A census that is open and has not completed. -/
def Open (s : State) (c : CensusId) (q : Solicit) : Prop :=
  (s.census c.part c.slot).open_ = true ∧ (s.census c.part c.slot).seq = c.seq ∧ (s.census c.part c.slot).complete = false ∧ (s.census c.part c.slot).q = some q

/-- A catalogue entry matches a census (R303). -/
def Matches (c : CensusId) (q : Solicit) (e : CatEntry) : Prop :=
  e.ctx = q.ctx ∧ (q.key ^^^ e.key) &&& q.mask = 0 ∧ (c.slot, c.seq) ∉ e.ans

/-- A core with a census it has begun to process (R303). -/
def begun (c : CensusId) (q : Solicit) (k : Core) : Core :=
  let mine (a : CenAnswer) : Bool := a.slot == c.slot && a.seq == c.seq
  { k with
    seen := (c.slot, c.seq) :: k.seen.filter (fun v => v.1 != c.slot)
    catalogue := k.catalogue.map fun e => if State.censusMatches c q e.2 then
      (e.1, { e.2 with ans := (c.slot, c.seq) :: e.2.ans.filter fun a => a.1 != c.slot }) else e
    early := k.early.filter fun a => !mine a
    cens := { id := c, live := 0, gives := k.givesOut, answers := k.early.filter mine, sent := false } ::
      k.cens.filter fun x => x.id.slot != c.slot || x.id.part != c.part }

end Sys2Proof.Claims

/-- R285, R286, R289, R290, R379: an arrival is counted and its strand sleeps; the last one of the phase sends the release, after which
every sleeper goes on; a phase that times out stops its sleepers; a monitor's sleeper wakes, and its limit latches event 3. -/
def Obligations.BarrierAndMonitorEvents : Prop :=
  ∀ s : State,
    (∀ b who desc ed, let x := s.barrier b
      b.scope = 1 → b.place = quireOf who.core → x.counts = [] → x.releasing = false → s.occupied who = true →
      Does s .barrierArrival (.barrierArrival b who desc ed) fun t => (t.strand who).wait = .asleep (.barrier b x.phase) ∧
        (t.barrier b).counts = [{ phase := x.phase, quire := quireOf who.core, desc := desc, n := 1 }] ∧
        (desc.toNat % 256 = 1 → (s.now + 4, .barrierRelease b x.phase (s.unitEdition b.part (.node b.place))) ∈ t.sent) ∧
        (1 < desc.toNat % 256 → (t.barrier b).releasing = false) ∧
        (let win := (s.partition b.part).coltmo.toNat % 2 ^ 32; win ≠ 0 → (s.now + win * 1024, .barrierTimeout b x.phase) ∈ t.sent)) ∧
    (∀ b who desc ed k, (s.barrier b).count ((s.barrier b).openPhase (quireOf who.core)) (quireOf who.core) = some k → k.desc ≠ desc → s.occupied who = true →
      Does s .barrierArrival (.barrierArrival b who desc ed) fun t => (t.strand who).fault = some { code := .reservedField } ∧
        (t.strand who).wait = .faulting ∧ t.barriers = s.barriers) ∧
    (∀ b n, (s.barrier b).releasing = true → Does s .barrierRelease (.barrierRelease b (s.barrier b).phase n) fun t =>
      (t.barrier b).phase = (s.barrier b).phase + 1 ∧
      ∀ r, s.occupied r = true → (s.strand r).wait = .asleep (.barrier b (s.barrier b).phase) → s.aheadOf b.part (.core r.core) n = false →
        (t.strand r).wait = .ready ∧ (t.strand r).back = none) ∧
    (∀ b, (s.barrier b).releasing = false → Does s .barrierTimeout (.barrierTimeout b (s.barrier b).phase) fun t =>
      (t.barrier b).phase = (s.barrier b).phase + 1 ∧ (t.partition b.part).evCnt = (s.partition b.part).evCnt + 1 ∧
      ∀ r, s.occupied r = true → (s.strand r).wait = .asleep (.barrier b (s.barrier b).phase) →
        (t.strand r).wait = .faulting ∧ ∃ info, (t.strand r).fault = some { code := .barrierTimeout, info := info }) ∧
    (∀ b phase, (s.barrier b).phase ≠ phase → (∀ n, (∀ r, s.occupied r = true → (s.strand r).wait ≠ .asleep (.barrier b phase)) →
        Does s .barrierRelease (.barrierRelease b phase n) fun t => t = s) ∧
      (Does s .barrierTimeout (.barrierTimeout b phase) fun t =>
        t = if (s.barrier b).phase < phase then { s with sent := s.sent ++ [(s.now + 1, .barrierTimeout b phase)] } else s)) ∧
    (∀ r, s.occupied r = true → (s.strand r).wait = .asleep .monitor → (Does s .waitmWake (.waitmWake r) fun t => t = s.setStrand r { s.strand r with wait := .waking }) ∧
      (∀ m, (s.strand r).monitor = some m → Does s .waitmLimit (.waitmLimit r m.id) fun t => (s.now + 4, .waitmWake r) ∈ t.sent ∧
        ∃ m2, (t.strand r).monitor = some m2 ∧ m2.va = m.va ∧ m2.events.contains 3 = true ∧ (m.first = none → m2.first = some 3)))

/-- R302-R307, R380: a census takes the lowest free slot, runs at the cores of its scope, completes with the last DONE and wakes its
sleepers, or times out with one record. -/
def Sys2Proof.Claims.CensusEvents : Prop :=
  ∀ s : State,
    (∀ r tag q j, let p := (s.strand r).part
      j < 8 → (s.census p j).open_ = false → (∀ k < j, (s.census p k).open_ = true) →
      Does s .censusSlotRequest (.censusSlotRequest r tag q) fun t => let seq := ((s.census p j).seq + 1) % 8192
        (t.census p j).open_ = true ∧ (t.census p j).seq = seq ∧ (t.census p j).q = some q ∧
        SentBy s t (20 + spineHops (quireOf r.core)) (.censusIdAnswer r tag (p * 65536 + j * 8192 + seq) (s.unitEdition p (.node 2048)))) ∧
    (∀ r tag q, let p := (s.strand r).part
      (∀ k < 8, (s.census p k).open_ = true) → Does s .censusSlotRequest (.censusSlotRequest r tag q) fun t =>
        t = s.updPartition p fun x => { x with censusQueue := x.censusQueue ++ [(r, tag, q)] }) ∧
    (∀ r tag id ed w n, s.occupied r = true → (s.strand r).windows = [w] → w.tag = tag → w.dests = [.s n] →
      Does s .censusIdAnswer (.censusIdAnswer r tag id ed) fun t => Answered s t r w n (BitVec.ofNat 64 (id % 65536))) ∧
    (∀ r tag id ed, (∀ w ∈ (s.strand r).windows, w.tag ≠ tag) → Does s .censusIdAnswer (.censusIdAnswer r tag id ed) fun t =>
      (t.census (id / 65536) (id % 65536 / 8192)).open_ = false) ∧
    (∀ core c q ed, Open s c q → (∀ e ∈ (s.core core).catalogue, ¬Matches c q e.2) → (s.core core).givesOut = [] →
      Does s .censusProcess (.censusProcess core c ed) fun t => (s.now, .censusDone core c (s.core core).edition) ∈ t.sent ∧ (c.slot, c.seq) ∈ (t.core core).seen ∧
        (t.core core).catalogue = (s.core core).catalogue) ∧
    (∀ core c q ed j e u k v pc, Open s c q → (s.core core).catalogue = [(j, e)] → Matches c q e →
      (s.updCore core (begun c q)).classEntry c.part q.ctx q.cls.toNat = (u, .ok k) → u.handlerPc c.part q.ctx k q.type.toNat = (v, .ok (some pc)) →
      Does s .censusProcess (.censusProcess core c ed) fun t => Sent t (.taskStart core none) ∧
        ∃ l, (t.core core).starts = (v.core core).starts ++ [l] ∧ l.pc = pc ∧ l.kind = .responder ∧
          l.regs = [e.key, e.addr, e.tag, q.arg, BitVec.ofNat 64 (c.slot * 8192 + c.seq), BitVec.ofNat 64 j, BitVec.ofNat 64 q.asker]) ∧
    (∀ core c q ed, Open s c q → core ∈ (s.census c.part c.slot).left → Does s .censusDone (.censusDone core c ed) fun t =>
      let x := s.census c.part c.slot
      let answers := (((s.core core).cens.find? fun k => k.id == c).map (·.answers)).getD []
      (t.census c.part c.slot).left = x.left.erase core ∧ (t.census c.part c.slot).counted = x.counted + 1 ∧
      (t.census c.part c.slot).answers = x.answers ++ answers ∧
      (x.left = [core] → q.scope ≤ 3 → (s.now + (if q.scope < 2 then 4 else if q.scope = 2 then 40 else 88), .censusComplete c) ∈ t.sent)) ∧
    (∀ c q, Open s c q → (Does s .censusComplete (.censusComplete c) fun t => (t.census c.part c.slot).complete = true ∧
        (t.census c.part c.slot).timedOut = false ∧
        ∀ r, s.occupied r = true → (s.strand r).wait = .asleep (.census c) → (s.now + 4, .waitmWake r) ∈ t.sent) ∧
      ((s.census c.part c.slot).left ≠ [] → Does s .censusTimeout (.censusTimeout c) fun t => (t.census c.part c.slot).complete = true ∧
        (t.census c.part c.slot).timedOut = true ∧ (t.partition c.part).evCnt = (s.partition c.part).evCnt + 1 ∧
        ∀ r, s.occupied r = true → (s.strand r).wait = .asleep (.census c) → (s.now + 4, .waitmWake r) ∈ t.sent))

/-- R301, R306: a GIVE reserves the lowest free entry of its target, is answered, installs its entry there, and is acknowledged. -/
def Sys2Proof.Claims.GiveEvents : Prop :=
  ∀ s : State,
    (∀ r tag target part, let free (j : Nat) : Bool := !has j (s.core target).catalogue && !(s.core target).catReserved.contains j
      Does s .giveRequest (.giveRequest r tag target part) fun t =>
        (∀ j, j < 64 → free j = true → (∀ k < j, free k = false) → (t.core target).catReserved = j :: (s.core target).catReserved ∧
          SentBy s t (4 + travelCores target r.core) (.giveAnswer r tag target (some j))) ∧
        ((∀ k < 64, free k = false) → t.cores = s.cores ∧ SentBy s t (4 + travelCores target r.core) (.giveAnswer r tag target none))) ∧
    (∀ r tag target j w n, s.occupied r = true → (s.strand r).windows = [w] → w.tag = tag → w.dests = [.s n] →
      Does s .giveAnswer (.giveAnswer r tag target j) fun t => Answered s t r w n (if j.isSome then 0 else 1) ∧
        ∀ g, (s.strand r).opened.held = [.give tag g] →
          (t.strand r).opened.held = match j with | some k => [.give tag { g with index := k }] | none => []) ∧
    (∀ r tag target j, (∀ w ∈ (s.strand r).windows, w.tag ≠ tag) → Does s .giveAnswer (.giveAnswer r tag target (some j)) fun t =>
      t = s.updCore target fun k => { k with catReserved := k.catReserved.erase j }) ∧
    (∀ g : Give, (s.core g.dst).seen = [] → Does s .giveInstall (.giveInstall g) fun t =>
      (t.core g.dst).catalogue = put g.index g.entry (s.core g.dst).catalogue ∧ (t.core g.dst).catReserved = (s.core g.dst).catReserved.erase g.index ∧
      SentBy s t (travelCores g.dst g.src) (.giveAck g.src g.tag [] (s.core g.dst).edition)) ∧
    (∀ core tag answers ed k, (s.core core).cens = [k] → k.gives = [tag] → k.live = 0 → k.sent = false → Does s .giveAck (.giveAck core tag answers ed) fun t =>
      (t.core core).givesOut = (s.core core).givesOut.erase tag ∧ (s.now, .censusDone core k.id (s.core core).edition) ∈ t.sent)

/-- R301-R307, R380: what the censuses and the gives of catalogue entries do. -/
def Obligations.CensusAndGiveEvents : Prop := Claims.CensusEvents ∧ Claims.GiveEvents

/-- R283, R318, R319, R321, R323, R326, R360: a sampler's queue takes and refuses requests, its oldest request runs from the context's start
with its registers zero once its strand's writes are at their homes, a parked one is looked at again, and a run ends with a message of its status and tokens. -/
def Obligations.SamplerEvents : Prop :=
  ∀ s : State,
    (∀ r tag q, let x := s.sampler q.sampler
      let ok : Prop := x.queue.length + x.reserved.length + (if x.running.isSome then 1 else 0) < 64
      Does s .sampleRequestReserve (.sampleRequestReserve r tag q) fun t =>
        SentBy s t (4 + toBase (quireOf r.core)) (.sampleAnswer r tag q.sampler (if ok then some x.order else none)) ∧
        (t.sampler q.sampler).reserved = (if ok then [q.part] else []) ++ x.reserved ∧ (t.sampler q.sampler).order = x.order + (if ok then 1 else 0)) ∧
    (∀ r tag x place w n, s.occupied r = true → (s.strand r).windows = [w] → w.tag = tag → w.dests = [.s n] →
      Does s .sampleAnswer (.sampleAnswer r tag x place) fun t => Answered s t r w n (if place = none then 1 else 0)) ∧
    (∀ r tag x place part, (∀ w ∈ (s.strand r).windows, w.tag ≠ tag) → s.owner (quireOf r.core) = some part →
      Does s .sampleAnswer (.sampleAnswer r tag x (some place)) fun t => (t.sampler x).reserved = (s.sampler x).reserved.erase part) ∧
    (∀ q, let x := s.sampler q.sampler
      Does s .sampleRequestArrival (.sampleRequestArrival q) fun t => (s.now, .samplerRun q.sampler) ∈ t.sent ∧
        (t.sampler q.sampler).queue = x.queue.filter (fun v => v.order < q.order) ++ [{ req := q, order := q.order, parked := none, ready := false }] ++
          x.queue.filter (fun v => q.order < v.order) ∧
        (t.sampler q.sampler).reserved = x.reserved.erase q.part) ∧
    (∀ n w, let x := s.sampler n
      x.hold = false → x.running = none → s.samplerHeld n = false → x.queue = [w] → w.parked = none → s.writesOut w.req.who w.req.start w.req.task = false →
      (look 0 w.req.ctxId x.own).toNat = 0x80 + w.req.part →
      Does s .samplerRun (.samplerRun n) fun t => (t.sampler n).queue = [] ∧ ∃ r, (t.sampler n).running = some r ∧ r.req = w.req ∧ r.order = w.order ∧
        r.pc = (s.image n w.req.ctxId 0).toNat % 2048 ∧ r.g = Vector.replicate 16 0 ∧ r.count = 0 ∧ r.emitted = [] ∧ r.due = s.now) ∧
    (∀ n, (s.sampler n).hold = true → Does s .samplerRun (.samplerRun n) fun t => t = s) ∧
    (∀ n w p u, (s.sampler n).queue = [w] → w.parked = some p → w.ready = false → u.samplers = s.samplers →
      (s.maskReady n w.req = (u, some true) → Does s .samplerParkExamine (.samplerParkExamine n) fun t =>
        (t.sampler n).queue = [{ w with ready := true }] ∧ Sent t (.samplerRun n)) ∧
      (s.maskReady n w.req = (u, some false) → Does s .samplerParkExamine (.samplerParkExamine n) fun t =>
        (t.sampler n).queue = [w] ∧ (u.now + 256, .samplerParkExamine n) ∈ t.sent)) ∧
    (∀ n r, (s.sampler n).running = some r → Does s .samplerInstructionLimit (.samplerInstructionLimit n) fun t =>
      t = if 65536 ≤ r.count then s.endRun n 4 else s) ∧
    (∀ n r status, (s.sampler n).running = some r → ∃ p, Leaves (s.endRun n status) p ∧ p.msg.cls = r.req.rcls ∧ p.msg.type = r.req.rtype ∧
      p.msg.key = r.req.rkey ∧ p.msg.score = BitVec.ofNat 16 (0x100 + n) ∧ p.msg.sstrand = 0xFE ∧ p.part = r.req.part ∧ p.ctx = r.req.ctx ∧
      p.msg.payload = [BitVec.ofNat 64 (r.req.ctxId + 65536 * r.emitted.length + 2 ^ 24 * status + 2 ^ 32 * ((s.image n r.req.ctxId 1).toNat % 2 ^ 32)),
        r.g[1]] ++ (List.range 8).map fun i => BitVec.ofNat 64 ((r.emitted.getD (2 * i) 0).toNat + 2 ^ 32 * (r.emitted.getD (2 * i + 1) 0).toNat)) ∧
    (∀ n val, Does s .sampctlWrite (.sampctlWrite n val) fun t => (t.sampler n).hold = val.getLsbD 0 ∧ (s.now, .samplerRun n) ∈ t.sent) ∧
    (∀ n i own (val : W32), Does s .samplerStoreWrite (.samplerStoreWrite n i own val) fun t =>
      ((s.sampler n).hold = false → t = s) ∧
      ((s.sampler n).hold = true → own = false → i < 2048 → look 0 i (t.sampler n).store = val ∧ ∀ j, j ≠ i → look 0 j (t.sampler n).store = look 0 j (s.sampler n).store) ∧
      ((s.sampler n).hold = true → own = true → i < 512 → look 0 i (t.sampler n).own = val.setWidth 8 &&& 0x9F))

/-- R291, R292, R294, R297: an edition starts unless one is open; a core switches at its next commit or after 64 cycles; a home's slice
and an engine switch when none of their work is in transition, and what would start one meanwhile is held; the edition is complete once every unit has its record. -/
def Obligations.EditionEvents : Prop :=
  ∀ s : State,
    (∀ r tag header, let part := (s.strand r).part
      (∀ e, s.openEdition part = some e → Does s .snapRequestArrival (.snapRequestArrival r tag header) fun t =>
        SentBy s t (20 + spineHops (quireOf r.core)) (.snapAnswer r tag 0) ∧ t.editions = s.editions) ∧
      (s.openEdition part = none → Does s .snapRequestArrival (.snapRequestArrival r tag header) fun t =>
        (t.partition part).edition = (s.partition part).edition + 1 ∧ Sent t (.snapAnswer r tag (((s.partition part).edition + 1).setWidth 64)) ∧
        Sent t (.editionComplete part) ∧ ∀ u ∈ s.unitsOf part, Sent t (.editionMarker part u ((s.partition part).edition + 1)))) ∧
    (∀ r tag val w n, s.occupied r = true → (s.strand r).windows = [w] → w.tag = tag → w.dests = [.s n] →
      Does s .snapAnswer (.snapAnswer r tag val) fun t => Answered s t r w n val) ∧
    (∀ part n e, s.editionOf part n = some e →
      (∀ core, e.left.contains (.core core) = true → (s.core core).trigger = none → Does s .editionMarker (.editionMarker part (.core core) n) fun t =>
        t = { (s.updCore core fun k => { k with trigger := some n }) with sent := s.sent ++ [(s.now + 64, .coreSwitchTimeout part core n)] }) ∧
      (∀ q, e.left.contains (.slice q) = true →
        ((s.slice q).switching = false → Does s .editionMarker (.editionMarker part (.slice q) n) fun t =>
          t = { (s.updSlice q fun x => { x with switching := true }) with sent := s.sent ++ [(s.now, .homeSliceSwitch part q n)] }) ∧
        (∀ x a core, s.eph q a = some x → x.phase = .live → (s.slice q).switching = true → Does s .retireNotice (.retireNotice q a core) fun t =>
          t = s.updSlice q fun y => { y with heldReports := y.heldReports ++ [.retireNotice q a core] }) ∧
        (∀ x, x ∈ (s.slice q).ephs → x.phase ≠ .live → Does s .homeSliceSwitch (.homeSliceSwitch part q n) fun t =>
          t = { s with sent := s.sent ++ [(s.now + 1, .homeSliceSwitch part q n)] }) ∧
        ((∀ x ∈ (s.slice q).ephs, x.phase = .live) → s.openEdition part = none → (s.slice q).arrived = [] →
          Does s .homeSliceSwitch (.homeSliceSwitch part q n) fun t =>
            (t.slice q).edition = n ∧ (t.slice q).switching = false ∧ (t.slice q).ephs = (s.slice q).ephs ∧
            ∀ e ∈ (s.slice q).heldReports, (s.now, e) ∈ t.sent)) ∧
      (∀ q k, e.left.contains (.engines q) = true → k < 4 → (s.engine q k).running.isSome = true →
        Does s .editionMarker (.editionMarker part (.engines q) n) fun t => (s.now + 1, .editionMarker part (.engines q) n) ∈ t.sent ∧
          t.quires = s.quires ∧ ∃ x, t.editionOf part n = some x ∧ x.left = e.left ∧ .engines q ∈ x.marked) ∧
      (∀ u, e.left.contains u = false → (Does s .editionMarker (.editionMarker part u n) fun t => t = s)) ∧
      (∀ core, (s.core core).trigger = some n → e.left.contains (.core core) = true →
        Does s .coreSwitchTimeout (.coreSwitchTimeout part core n) fun t => (t.core core).edition = n ∧ (t.core core).trigger = none)) ∧
    (∀ part core n, (s.core core).trigger = some n → s.editionOf part n = none → Does s .coreSwitchTimeout (.coreSwitchTimeout part core n) fun t =>
      t = s.updCore core fun k => { k with edition := n, trigger := none }) ∧
    (∀ part core n, (s.core core).trigger ≠ some n → Does s .coreSwitchTimeout (.coreSwitchTimeout part core n) fun t => t = s) ∧
    (∀ part u p, let e : Event := .editionPacket part u p
      (s.openEdition part = none → Does s .editionPacket e fun t => t = s) ∧
      (∀ x, s.openEdition part = some x → p.edition = x.n → x.left.contains u = true →
        Does s .editionPacket e fun t => t = { s with sent := s.sent ++ [(s.now, .editionMarker part u x.n)] }) ∧
      (∀ x, s.openEdition part = some x → p.edition ≠ x.n → x.left.contains u = true → Does s .editionPacket e fun t => t = s) ∧
      (∀ x, s.openEdition part = some x → (p.edition.setWidth 16 : BitVec 16) ≠ x.n.setWidth 16 → x.left.contains u = false →
        s.headerWord x 68 4 < s.headerWord x 64 4 → Does s .editionPacket e fun t =>
          ∃ y ∈ t.editions, y.part = part ∧ y.n = x.n ∧ y.channel = x.channel ++ [(u, e)])) ∧
    (∀ part e, s.openEdition part = some e →
      (s.editionDone e = true → Does s .editionComplete (.editionComplete part) fun t => (part, 1) ∈ t.msix ∧
        ∀ x ∈ t.editions, x.part = part → x.n = e.n → x.state = 1) ∧
      (s.editionDone e = false → Does s .editionComplete (.editionComplete part) fun t =>
        t = { s with sent := s.sent ++ [(s.now + 64, .editionComplete part)] }))

/-- R46-R48, R345, R372, R388: bytes of a port's slot are kept; a write that reaches its last 32 bytes commits the line, which becomes a
message of R47's fields, is held in the checkpoint state, or is discarded; the key of KMODE 2 counts the port's lines (log 57); line 15 reads as
POSTED and ACCEPTED; PORTBIND takes its fields only while it is disabled. -/
def Obligations.PortEvents : Prop :=
  ∀ (s : State) n vf, let p := s.port n
    let key (m : Msg) : BitVec 128 := match p.bind.toNat / 2 ^ 16 % 4 with
      | 0 => m.key
      | 1 => p.key1 ++ p.key0
      | _ => BitVec.ofNat 128 (n + 65536 * (s.portSent n % 2 ^ 32))
    let takes (slot : Nat) : Prop := p.owner = some vf ∧ p.bind.getLsbD 19 = true ∧ slot < 15 ∧ p.posted % 15 = slot ∧ p.posted - p.accepted < 15 ∧ s.running vf = true
    let becomes (off : Nat) (data : List Byte) (t : State) : Prop :=
      let m := Msg.ofLine (memLoad (memStore (look [] (off / 256) p.slots) (off % 256) data) 0 256)
      (t.port n).posted = p.posted + 1 ∧ (t.port n).accepted = p.accepted ∧
      ∃ q, Leaves t q ∧ q.sender = .port n ∧ q.part = vf ∧ q.ctx = p.bind.toNat / 2 ^ 20 % 64 ∧ q.msg.cls = p.bind.setWidth 16 ∧ q.msg.key = key m ∧
        q.msg.type = m.type ∧ q.msg.payload = m.payload ∧ q.msg.score = BitVec.ofNat 16 n ∧ q.msg.sstrand = 0xFF ∧
        q.msg.flags = (m.flags &&& 0x08) ||| (if p.bind.getLsbD 18 then 1 else 0)
    let held (off : Nat) (data : List Byte) (t : State) : Prop :=
      t = s.updPort n fun p => { p with held := p.held ++ [(256 * (off / 256) + off % 256, data)] }
    (∀ off data, p.owner = some vf → p.bind.getLsbD 19 = true → s.running vf = true → off / 256 < 15 → off % 256 + data.length ≤ 224 →
      Does s .portSlotWrite (.portSlotWrite n vf off data) fun t =>
        t = s.updPort n fun p => { p with slots := put (off / 256) (memStore (look [] (off / 256) p.slots) (off % 256) data) p.slots }) ∧
    (∀ off data, takes (off / 256) → s.checkpointing vf = false → off % 256 + data.length ≤ 256 →
      (224 < off % 256 + data.length → Does s .portSlotWrite (.portSlotWrite n vf off data) (becomes off data)) ∧
      Does s .portLineCommit (.portLineCommit n vf off data) (becomes off data)) ∧
    (∀ off data, takes (off / 256) → s.checkpointing vf = true → off % 256 + data.length ≤ 256 →
      (224 < off % 256 + data.length → Does s .portSlotWrite (.portSlotWrite n vf off data) (held off data)) ∧
      Does s .portLineCommit (.portLineCommit n vf off data) (held off data)) ∧
    (∀ off data, (p.owner ≠ some vf ∨ p.bind.getLsbD 19 = false ∨ 15 ≤ off / 256 ∨ s.running vf = false) →
      (Does s .portSlotWrite (.portSlotWrite n vf off data) fun t => t = s) ∧ Does s .portLineCommit (.portLineCommit n vf off data) fun t => t = s) ∧
    (∀ off data, (p.posted % 15 ≠ off / 256 ∨ 15 ≤ p.posted - p.accepted) →
      Does s .portLineCommit (.portLineCommit n vf off data) fun t => t = s) ∧
    (∀ off len, 0xF00 ≤ off → p.owner = some vf → Does s .hostWindowAccess (.hostWindowAccess vf off (.port n len)) fun t =>
      t.hostReads = s.hostReads ++ [(vf, (List.range len).map fun j =>
        (Bytes.ofNat 8 p.posted ++ Bytes.ofNat 8 p.accepted).getD (off + j - 0xF00) 0)] ∧ t.ports = s.ports) ∧
    (∀ val, p.owner = some vf → val.toNat / 2 ^ 16 % 4 ≠ 3 → Does s .portbindWrite (.portbindWrite n vf val) fun t =>
      (p.bind.getLsbD 19 = true → t = s.updPort n fun p => { p with bind := (p.bind &&& ~~~(0x80000 : Word)) ||| (val &&& 0x80000) }) ∧
      (p.bind.getLsbD 19 = false → val.getLsbD 19 = true → t = s.updPort n fun p => { p with bind := val &&& 0x3FFFFFF, posted := 0, accepted := 0 }) ∧
      (p.bind.getLsbD 19 = false → val.getLsbD 19 = false → t = s.updPort n fun p => { p with bind := val &&& 0x3FFFFFF })) ∧
    (∀ val, p.owner ≠ some vf → Does s .portbindWrite (.portbindWrite n vf val) fun t => t = s)

/-- R66, R70-R73, R362, R373, R377: a die's records are brought up to date every 64 cycles; a node launches by its kind and its
completion decrements its successors, launching those that reach 0; a silent context is recorded; clocks move by steps, and a stop ends
the part. -/
def Obligations.DistributorAndPowerEvents : Prop :=
  ∀ s : State,
    (∀ d, d < 4 → Does s .freeCountReport (.freeCountReport d) fun t => (s.now + 64, .freeCountReport d) ∈ t.sent ∧
      look QuireRecord.none (1024 + d) t.records = State.reset.quireReport 0 ∧
      ∀ q, q / 256 = d → (has q s.quires = true ∨ ∃ k, quireOf k = q ∧ has k s.cores = true) → look QuireRecord.none q t.records = s.quireReport q) ∧
    (∀ part ctx n, (n = 0 ∨ s.running part = false) → Does s .gkickWrite (.gkickWrite part ctx n) fun t => t = s) ∧
    (∀ part ctx n, n ≠ 0 → s.running part = true →
      (∀ u f, s.readNode part ctx n = (u, .error f) → Does s .gkickWrite (.gkickWrite part ctx n) fun t =>
        (t.partition part).evCnt = (u.partition part).evCnt + 1 ∧ t.sent = u.sent) ∧
      (∀ u g, s.readNode part ctx n = (u, .ok g) → g.reload = false → let w := u.pulse part ctx
        (g.kind = 0 → Does s .gkickWrite (.gkickWrite part ctx n) fun t => t = { w with sent := w.sent ++ [(w.now, .nodeCompletion part ctx n (some 0))] }) ∧
        (∀ v b, g.kind = 1 → w.unitRead part ctx g.arg 256 = (v, .ok b) → Does s .gkickWrite (.gkickWrite part ctx n) fun t =>
          ∃ p, Leaves t p ∧ p.msg.node = n ∧ p.msg.cls = (Msg.ofLine b).cls ∧ p.msg.key = (Msg.ofLine b).key ∧ p.msg.payload = (Msg.ofLine b).payload ∧
            p.msg.flags = (Msg.ofLine b).flags &&& 0x09) ∧
        (∀ v b v2 e, g.kind = 2 → g.target < 4096 → u.owner (quireOf g.target) = some part → w.unitRead part ctx g.arg 128 = (v, .ok b) →
          w.classEntry part ctx g.cls = (v2, .ok e) → Does s .gkickWrite (.gkickWrite part ctx n) fun t =>
          ∃ l, SentBy v t (toBase (quireOf g.target)) (.taskStart g.target (some (n, l))) ∧ l.kind = .spawnNode ∧ l.pc = BitVec.ofNat 64 (Bytes.toNat (b.take 8)) ∧
            l.regs = (List.range 14).map (fun j => BitVec.ofNat 64 (Bytes.toNat ((b.drop (8 + 8 * j)).take 8))) ∧
            l.clsType = BitVec.ofNat 64 (g.cls * 256 + 0xFF)) ∧
        (∀ v b, g.kind = 3 → g.target < 1024 → w.unitRead part ctx g.arg 64 = (v, .ok b) → v.owner g.target = some part →
          let engine := Bytes.toNat (b.take 4) / 2 ^ 20 % 16
          engine < 4 → n < 65536 → Does s .gkickWrite (.gkickWrite part ctx n) fun t => ∃ c, look [] 4 (t.engine g.target engine).queues =
            look [] 4 (v.engine g.target engine).queues ++ [c] ∧ c.x.node = n ∧ c.x.core = none ∧ c.x.part = part ∧ c.x.ctx = ctx ∧
            c.due = v.now + toBase g.target) ∧
        (∀ v x, g.kind = 4 → w.unitWord part ctx g.arg 8 = (v, .ok x) → Does s .gkickWrite (.gkickWrite part ctx n) fun t =>
          (v.now, .nodeCompletion part ctx n (some (min x (g.nsucc - 1)))) ∈ t.sent))) ∧
    (∀ part ctx n list u g v ids, s.readNode part ctx n = (u, .ok g) → u.successors part ctx g list = (v, .ok ids) →
      let start := max s.now s.cpBusy
      Does s .nodeCompletion (.nodeCompletion part ctx n (some list)) fun t => t.cpBusy = start + ids.length ∧
        (ids = [] → t = { v with cpBusy := start }) ∧
        ∀ i k, ids[i]? = some k → k ≠ 0 → (v.now + (start + i - v.now), .nodeCompletion part ctx k none) ∈ t.sent) ∧
    (∀ part ctx k a c b, s.unitWord part ctx (s.nodeVa part ctx k + 4) 2 = (a, .ok c) →
      a.unitWrite part ctx (a.nodeVa part ctx k + 4) (Bytes.ofNat 2 ((c + 65535) % 65536)) = (b, .ok ()) →
      Does s .nodeCompletion (.nodeCompletion part ctx k none) fun t =>
        (c = 1 → t = { b with sent := b.sent ++ [(b.now, .gkickWrite part ctx k)] }) ∧ (c ≠ 1 → t = b)) ∧
    (∀ part ctx since, let x := s.context part ctx
      let w := x.wdogWin.toNat * 1024
      (w = 0 → Does s .silentContext (.silentContext part ctx since) fun t => t = s) ∧
      (w ≠ 0 → s.running part = true → s.checkpointing part = false → Does s .silentContext (.silentContext part ctx since) fun t =>
        (x.lastPulse ≠ since → t = { s with sent := s.sent ++ [(s.now + (x.lastPulse + w - s.now), .silentContext part ctx x.lastPulse)] }) ∧
        (x.lastPulse = since → x.silent = false → (t.context part ctx).silent = true ∧ (t.partition part).evCnt = (s.partition part).evCnt + 1 ∧
          (part, 2) ∈ t.msix ∧ (s.now + w, .silentContext part ctx since) ∈ t.sent) ∧
        (x.lastPulse = since → x.silent = true → t = { s with sent := s.sent ++ [(s.now + w, .silentContext part ctx since)] }))) ∧
    (∀ within, Does s .powerManagerExamine (.powerManagerExamine within) fun t => (∃ b, (s.now + 256, .powerManagerExamine b) ∈ t.sent) ∧
      t.now = s.now ∧ (within = false → t.cores = s.cores) ∧
      ∀ x, s.barriers = [x] → x.key.scope = 2 → within = true → ∀ k, (t.core k).slots = (s.core k).slots ∧
        (k ∈ s.laggards x → (t.core k).raised = min 500 ((s.core k).raised + 100)) ∧ (k ∉ s.laggards x → (t.core k).raised = (s.core k).raised)) ∧
    (∀ x c, x.counts = [c] → c.phase = x.phase → let d := barShape c.desc
      let members := s.barMembers x.key c.desc
      (4 * min c.n d.nq < 3 * (d.nq * members.length) → s.laggards x = []) ∧
      (3 * (d.nq * members.length) ≤ 4 * min c.n d.nq → ∀ k, k ∈ s.laggards x ↔
        quireOf k ∈ members ∧ (quireOf k = c.quire → c.n < d.nq) ∧
        ∃ e ∈ (s.core k).slots, e.2.part = x.key.part ∧ ∀ phase, e.2.wait ≠ .asleep (.barrier x.key phase))) ∧
    (∀ d lower, Does s .thermalThrottle (.thermalThrottle d lower) fun t =>
      t = s.updDie d fun x => { x with clockMHz := if lower then max 1200 (x.clockMHz - 100) else min 2500 (x.clockMHz + 100) }) ∧
    (Does s .thermalStop .thermalStop fun t => t = { s with halted := true })

/-- R19-R21, R33, R63, R65, R81, R85, R86, R123, R343-R347, R358-R361: the registers that the host and cores write: which bits they take,
while which state of their partition, and what follows. The low byte of INFO after a failed constant copy is the model's choice (log 95). -/
def Obligations.RegisterWrites : Prop :=
  ∀ s : State, let quiet (o : Option Nat) : Prop := ∀ p, o = some p → (s.partition p).pctl = 0
    (∀ i val, Does s .devenWrite (.devenWrite i val) fun t => (i < 4 → (∀ p < 24, (s.partition p).pctl = 0) → t = { s with deven := put i 0 s.deven }) ∧
      ((∃ p < 24, (s.partition p).pctl ≠ 0) → t = s)) ∧
    (∀ val, Does s .pkgidWrite (.pkgidWrite val) fun t => t = if s.started = false ∧ val.toNat % 1024 < 993 then { s with pkgid := val.toNat % 1024 } else s) ∧
    (∀ core who val, let c := s.core core
      let v := val &&& 0xFFFF
      let ok := s.wayMaskOk ((s.owner (quireOf core)).getD 0) (State.aslotSet c) (State.frecSet c) v
      let rowsDue := s.drainsInto core ((List.range 16).filter fun w => c.wayMask.getLsbD w && !v.getLsbD w)
      Does s .waymaskWrite (.waymaskWrite core who val) fun t => (ok = false → t = s.updCore core fun c => { c with maskBy := c.maskBy.erase who }) ∧
        (ok = true → rowsDue = true → (s.now + 1, .waymaskWrite core who val) ∈ t.sent ∧ (t.core core).wayMask = c.wayMask ∧ who ∈ (t.core core).maskBy) ∧
        (ok = true → rowsDue = false → (t.core core).wayMask = v ∧ (t.core core).maskBy = c.maskBy.erase who ∧
        (∀ l ∈ (t.core core).l1, l ∈ c.l1 ∧ (c.wayMask.getLsbD l.way = true ∨ v.getLsbD l.way = false)) ∧
        ∀ a, a / 16384 < 16 → memGet (t.core core).store a = if c.wayMask.getLsbD (a / 16384) = val.getLsbD (a / 16384) then memGet c.store a else 0)) ∧
    (∀ core who val, let v := val &&& 0x3FFFFFFFFFFFF
      (State.aslotOk (s.core core).wayMask v = false → Does s .aslotWrite (.aslotWrite core who val) fun t => t = s) ∧
      (State.aslotOk (s.core core).wayMask v = true → (s.core core).actors = [] → (s.core core).lowQ = [] → (s.core core).highQ = [] →
        Does s .aslotWrite (.aslotWrite core who val) fun t =>
          t.core core = { s.core core with aslot := v, aslotWritten := true, aslotTo := none, aslotBy := [] } ∧
          t.sent = s.sent ++ [(s.now, .taskStart core none)]) ∧
      (∀ j x, State.aslotOk (s.core core).wayMask v = true → (s.core core).actors = [(j, x)] → x.phase = .live → x.head = none → x.noticed = false →
        (s.core core).lowQ = [] → (s.core core).highQ = [] → Does s .aslotWrite (.aslotWrite core who val) fun t =>
          (t.core core).aslotTo = some v ∧ (t.core core).aslot = (s.core core).aslot ∧ who ∈ (t.core core).aslotBy ∧
          SentBy s t (travel (quireOf core) x.slice) (.retireNotice x.slice x.actor core) ∧
          (s.actorRuns core j = false → (s.now + (32 + 8 * x.entry.stLines.toNat), .retirementWritebackDone core j) ∈ t.sent) ∧
          (s.actorRuns core j = true → ∃ y, (t.core core).actors = [(j, y)] ∧ y.phase = .live ∧ y.noticed = true))) ∧
    (∀ r val, let t0 := s.strand r
      let va := t0.cbank + (cbselOf t0.regs.flags).setWidth 64 * 256
      s.occupied r = true → t0.copy = .wanted → cbselOf t0.regs.flags = val.setWidth 16 →
      (2 ^ 57 ≤ va.toNat → Does s .cbselWrite (.cbselWrite r val) fun t =>
        t = s.setStrand r { t0 with copy := .faulted { code := .notPresent, va := va, info := accessInfo 256 va.toNat } }) ∧
      (∀ off, va.toNat = ownVa off → off % 256 = 0 → inScratch (s.core r.core) off 256 = true →
        (∀ a ∈ sectorsOf off 256, protectionOk (s.core r.core) (some t0.part) t0.part (a / 32) false true false = true) →
        Does s .cbselWrite (.cbselWrite r val) fun t => t = s.setStrand r { t0 with
          copy := .present, cbuf := (List.range 32).map fun j => BitVec.ofNat 64 (Bytes.toNat (((memLoad (s.storeView r) off 256).drop (8 * j)).take 8)) })) ∧
    (∀ r val, (s.strand r).copy ≠ .wanted → Does s .cbselWrite (.cbselWrite r val) fun t => t = s) ∧
    (∀ core val, Does s .ctxreqWrite (.ctxreqWrite core val) fun t => (t.core core).ctxReq = val ∧ (s.now, .taskStart core none) ∈ t.sent ∧
      ((s.core core).slots = [] → (s.core core).deque = [] → (∀ k ∈ s.tasks, k.2.core = core → k.2.ended = true ∨ ∃ l ∈ (s.core core).starts, l.task = k.1) →
        (t.core core).ctxRun = val) ∧
      (∀ e ∈ (s.core core).slots, ((s.core core).ctxRun &&& ~~~val).getLsbD e.2.ctx = true → (t.core core).ctxRun = (s.core core).ctxRun)) ∧
    (∀ core val, Does s .coreschedWrite (.coreschedWrite core val) fun t =>
      (t.core core).coresched = ((s.core core).coresched &&& ~~~(0x107FF : Word)) ||| (val &&& 0x107FF) ∧ (t.core core).slots = (s.core core).slots) ∧
    (∀ core val, Does s .engflt1Write (.engflt1Write core val) fun t => t = s.updCore core fun c =>
      { c with engFlt1 := if val.getLsbD 32 then c.engFlt1 &&& ~~~(0x100000000 : Word) else c.engFlt1 }) ∧
    (∀ i (val : Byte), let new : Option Nat := if val.getLsbD 7 then some (val.toNat % 32) else none
      (quiet new → quiet (s.quire i).owner → i < 1024 → Does s .ownershipWrite (.ownershipWrite true i val) fun t => t = s.setQuire i { s.quire i with own := val &&& 0x9F }) ∧
      (quiet new → quiet (s.port i).owner → i < Config.ports → Does s .ownershipWrite (.ownershipWrite false i val) fun t => t = s.updPort i fun p => { p with own := val &&& 0x9F }) ∧
      (¬quiet (s.quire i).owner → Does s .ownershipWrite (.ownershipWrite true i val) fun t => t = s) ∧
      (¬quiet new → ∀ q, Does s .ownershipWrite (.ownershipWrite q i val) fun t => t = s)) ∧
    (∀ p val, Does s .notifyPageStore (.notifyPageStore p val) fun t =>
      t = { s.updPartition p (fun x => { x with notifyVal := val }) with msix := s.msix ++ [(p, 3)] }) ∧
    (∀ vf off, let pa := ((s.partition vf).phbm.toNat % 1024 + (s.partition vf).hwinBase.toNat) * 2 ^ 30 + off
      (∀ data, s.inShare vf pa data.length = true → off + data.length ≤ 2 ^ 36 → pa + data.length ≤ Config.hbmBytes →
        Does s .hostWindowAccess (.hostWindowAccess vf off (.write data)) fun t => t = { s with hbm := memStore s.hbm pa data }) ∧
      (∀ n, s.inShare vf pa n = true → off + n ≤ 2 ^ 36 → pa + n ≤ Config.hbmBytes → Does s .hostWindowAccess (.hostWindowAccess vf off (.read n)) fun t =>
        t = { s with hostReads := s.hostReads ++ [(vf, memLoad s.hbm pa n)] }) ∧
      (s.inShare vf pa 8 = false → (Does s .hostWindowAccess (.hostWindowAccess vf off (.read 8)) fun t =>
          t = { s with hostReads := s.hostReads ++ [(vf, List.replicate 8 0xFF)] }) ∧
        ∀ data, data.length = 8 → Does s .hostWindowAccess (.hostWindowAccess vf off (.write data)) fun t => t = s)) ∧
    (∀ vf, (Does s .hostWindowAccess (.hostWindowAccess vf 0x18 (.barRead false 8)) fun t =>
        t = { s with hostReads := s.hostReads ++ [(vf, Bytes.ofNat 8 (s.partition vf).evCnt.toNat)] }) ∧
      (Does s .hostWindowAccess (.hostWindowAccess vf 0x28 (.barRead false 8)) fun t =>
        t = { s with hostReads := s.hostReads ++ [(vf, List.replicate 8 0)] }) ∧
      (∀ n, n < 65536 → (s.port n).owner ≠ some vf → Does s .hostWindowAccess (.hostWindowAccess vf (0x100000 + 32 * n) (.barRead false 8)) fun t =>
        t = { s with hostReads := s.hostReads ++ [(vf, List.replicate 8 0)] }) ∧
      (∀ n len, (s.port n).owner ≠ some vf → ∀ off, Does s .hostWindowAccess (.hostWindowAccess vf off (.port n len)) fun t =>
        t = { s with hostReads := s.hostReads ++ [(vf, List.replicate len 0)] }) ∧
      (∀ data, data.length = 8 → Does s .hostWindowAccess (.hostWindowAccess vf 0x40 (.barWrite true data)) fun t =>
        t = { s with sent := s.sent ++ [(s.now, .pkgidWrite (BitVec.ofNat 64 (Bytes.toNat data)))] })) ∧
    (∀ nonce, Does s .attestationRequest (.attestationRequest nonce) fun t =>
      t = if nonce.length = 32 then { s with mailbox := Config.attestation (nonce ++ s.measured) } else s) ∧
    (∀ p val, p < 24 → (s.partition p).pctl = 0 →
      (Does s .registerWrite (.registerWrite (.phbm p) val) fun t => t = s.updPartition p fun x => { x with phbm := val &&& 0x800003FF000003FF }) ∧
      (Does s .registerWrite (.registerWrite (.plimit p) val) fun t => t = s.updPartition p fun x => { x with plimit := val &&& 0xF000F }) ∧
      (Does s .registerWrite (.registerWrite (.podN p) val) fun t => t = s.updPartition p fun x => { x with podN := val &&& 0x3FF })) ∧
    (∀ p val, p < 24 → (s.partition p).pctl ≠ 0 → (Does s .registerWrite (.registerWrite (.phbm p) val) fun t => t = s) ∧
      (Does s .registerWrite (.registerWrite (.evBase p) val) fun t => t = s.updPartition p fun x => { x with evBase := val &&& 0xFFFFFFFFF0001 })) ∧
    (∀ p c val, p < 24 → c < 64 → (Does s .registerWrite (.registerWrite (.ttroot p c) val) fun t =>
        t = s.updContext p c fun x => { x with ttroot := val &&& 0xFFFFFFFFFF000 }) ∧
      (Does s .registerWrite (.registerWrite (.wdogWin p c) val) fun t => (t.context p c).wdogWin = val &&& 0xFFFFFFFF ∧ (t.context p c).lastPulse = s.now ∧
        (val &&& 0xFFFFFFFF ≠ 0 → (s.now + (val &&& 0xFFFFFFFF).toNat * 1024, .silentContext p c s.now) ∈ t.sent))) ∧
    (∀ p j val, p < 24 → j < 8 → Does s .registerWrite (.registerWrite (.msixTable p j) val) fun t =>
      t = s.updPartition p fun x => { x with msixTable := put j val x.msixTable }) ∧
    (∀ core j val, core < 4096 → j < 8 → Does s .registerWrite (.registerWrite (.lsprot core j) val) fun t =>
      t = s.updCore core fun c => { c with lsprot := put j (val &&& 0xFFFFFFFFF) c.lsprot })

/-- R228, R299, R348, R350, R352, R358, R363, R385-R388: a partition starts with its counters zero, stops through STOPPING, and has its
work discarded; links come up beside the neighbour of the geometry and go down when lost; errors are counted, and those that cannot be
corrected raise their partition's event; a parity error squashes its strand's chunk; power-good is the reset. -/
def Obligations.RecoveryEvents : Prop :=
  ∀ s : State,
    (∀ part, part < 24 → (s.partition part).pctl = 0 → Does s .partitionStart (.partitionStart part) fun t =>
      (t.partition part).pctl = 1 ∧ (t.partition part).evCnt = 0 ∧ (t.partition part).edition = 0 ∧ (t.partition part).checkpoint = false ∧ t.started = true) ∧
    (∀ part, (s.partition part).pctl ≠ 0 → Does s .partitionStart (.partitionStart part) fun t => t = s) ∧
    (∀ part, s.running part = true → Does s .partitionStop (.partitionStop part) fun t => (t.partition part).pctl = 2 ∧ Sent t (.partitionStopComplete part)) ∧
    (∀ part, s.running part = false → Does s .partitionStop (.partitionStop part) fun t => t = s) ∧
    (∀ part, (s.partition part).pctl = 2 → Does s .partitionStopComplete (.partitionStopComplete part) fun t => (t.partition part).pctl = 0 ∧
      (∀ l ∈ t.l2, l.part ≠ part) ∧ ∀ c ∈ t.cores, ∀ l ∈ c.2.l1, l.part ≠ part) ∧
    (∀ far inFlight, let down : State := { s with portsUp := s.portsUp.del (portTo s.pkgid far) }
      ((∀ p < 24, s.running p = false) → Does s .linkLost (.linkLost s.pkgid far inFlight) fun t => t = down) ∧
      (∀ p, p < 24 → inFlight = [p] → (∀ k < 24, k ≠ p → s.running k = false) → s.running p = true →
        (s.checkpointing p = true → Does s .linkLost (.linkLost s.pkgid far inFlight) fun t =>
          (t.partition p).evCnt = (s.partition p).evCnt + 1 ∧ t.msix = s.msix ++ [(p, 0)] ∧ t.portsUp = down.portsUp) ∧
        (s.checkpointing p = false → Does s .linkLost (.linkLost s.pkgid far inFlight) fun t => (t.partition p).checkpoint = true))) ∧
    (∀ a b inFlight, a ≠ s.pkgid → b ≠ s.pkgid → Does s .linkLost (.linkLost a b inFlight) fun t =>
      t = { s with lostLinks := (min a b, max a b) :: s.lostLinks.filter (· != (min a b, max a b)) }) ∧
    (∀ port n, Does s .linkTraining (.linkTraining s.pkgid port n) fun t => t =
      if (packageNeighbours s.pkgid)[port]? = some n then { s with portsUp := s.portsUp.add port } else { s with portsUp := s.portsUp.del port }) ∧
    (∀ a port n, a ≠ s.pkgid → Does s .linkTraining (.linkTraining a port n) fun t => t =
      if (packageNeighbours a)[port]? = some n then { s with lostLinks := s.lostLinks.filter (· != (min a n, max a n)) } else s) ∧
    (∀ port, Does s .flitReplay (.flitReplay port) fun t => t = { s with corrected := min (2 ^ 32 - 1) (s.corrected + 1) }) ∧
    (∀ part loss info detail, let e : Event := .quiesceCollective part loss info detail
      (s.takesPackets part = false → Does s .quiesceCollective e fun t => t = s) ∧
      (s.takesPackets part = true → s.checkpointing part = true → Does s .quiesceCollective e fun t =>
        (t.partition part).evCnt = (s.partition part).evCnt + 1 ∧ t.msix = s.msix ++ [(part, 0)] ∧ t.cores = s.cores) ∧
      (s.takesPackets part = true → s.checkpointing part = false → Does s .quiesceCollective e fun t =>
        (t.partition part).checkpoint = true)) ∧
    (∀ val, (∀ p < 24, val.getLsbD p = true → s.running p = false) → Does s .quiesceWrite (.quiesceWrite val) fun t => t = s) ∧
    (∀ val p, p < 24 → val = (1 : Word) <<< p → s.running p = true → s.checkpointing p = true → s.foreign p = false →
      Does s .quiesceWrite (.quiesceWrite val) fun t => (t.partition p).evCnt = (s.partition p).evCnt + 1 ∧ t.msix = s.msix ++ [(p, 0)]) ∧
    (∀ e, e.structureCode ≠ 12 → let n := min (2 ^ 32 - 1) (s.uncorrected + 1)
      (e.part = none → Does s .uncorrectable (.uncorrectable e) fun t => t = { s with uncorrected := n }) ∧
      (∀ p, e.part = some p → s.running p = true → s.checkpointing p = true → Does s .uncorrectable (.uncorrectable e) fun t =>
        t.uncorrected = n ∧ (t.partition p).evCnt = (s.partition p).evCnt + 1 ∧ t.msix = s.msix ++ [(p, 0)] ∧
        ((s.partition p).restoring ≠ none → e.structureCode = 7 → (s.now, .partitionStop p) ∈ t.sent))) ∧
    (∀ r, s.occupied r = true → (s.strand r).opened.count = 0 → (s.strand r).closed = [] → Does s .registerParityError (.registerParityError r) fun t =>
      t = { s with corrected := min (2 ^ 32 - 1) (s.corrected + 1) }) ∧
    (∀ r, s.occupied r = true → (s.strand r).opened.count ≠ 0 → Does s .registerParityError (.registerParityError r) fun t =>
      t.corrected = min (2 ^ 32 - 1) (s.corrected + 1) ∧ (t.strand r).regs = (s.strand r).opened.check ∧ (t.strand r).closed = (s.strand r).closed ∧
      (t.strand r).opened.held = [] ∧ (t.strand r).jobLast = (s.strand r).opened.jobLast ∧ (t.strand r).fault = none) ∧
    (∀ e, Does s .correctedError (.correctedError e none) fun t => t = { s with corrected := min (2 ^ 32 - 1) (s.corrected + 1) }) ∧
    (∀ e part n, Does s .correctedError (.correctedError e (some (part, n))) fun t =>
      t.corrected = min (2 ^ 32 - 1) (s.corrected + 1) ∧ t.hbm = s.hbm ∧
      (e.structureCode = 2 → (∀ l ∈ (t.core e.unit).l1, ¬(l.part = part ∧ l.line = n)) ∧ t.l2 = s.l2) ∧
      (e.structureCode ≠ 2 → (∀ l ∈ t.l2, ¬(l.part = part ∧ l.line = n ∧ l.dirty = [])) ∧ t.cores = s.cores)) ∧
    (Does s .powerGood .powerGood fun t => t.flush = .all ∧ t.now = 0 ∧ t.hbm = [] ∧ t.cores = [] ∧ t.quires = [] ∧ t.partitions = [] ∧ t.contexts = [] ∧
      t.started = false ∧ t.halted = false ∧ t.sent = State.reset.agenda.map fun x => (x.1, x.2.2))

namespace Sys2Proof.Claims

/-! ## Words and steps -/

/-- The bundle at a strand's pc is these two words: the pc is aligned and within its class's code, its line is held with X, and the
words lie there little-endian (R178, R183). -/
def Fetches (s : State) (r : Ref) (w0 w1 : W32) : Prop :=
  let t := s.strand r
  let pc := t.regs.pc.toNat
  pc % 8 = 0 ∧ t.code.toNat ≤ pc ∧ pc < t.code.toNat + t.codeLim.toNat ∧ pc < 2 ^ 57 ∧ inAperture pc = false ∧
    s.homeMoved t.part pc = false ∧ ∃ b g, { s with cur := r, latch := none }.lookCached pc 8 .fetch = .held b g ∧
      b.take 4 = Bytes.ofNat 4 w0.toNat ∧ (b.drop 4).take 4 = Bytes.ofNat 4 w1.toNat

/-- The part has power, and no event is due but those that follow all else in their cycle. -/
def NoEvent (s : State) : Prop := s.halted = false ∧ ∀ x rest, s.agenda = x :: rest → s.now < x.1 ∨ State.lateRank ≤ x.2.1

/-- No event is due, and nothing that comes before a bundle in a cycle is to be done. -/
def Quiescent (s : State) : Prop :=
  NoEvent s ∧ s.lookup = none ∧ s.injector = none ∧ s.completer = none ∧ s.resumer = none ∧ s.waiter = none ∧ s.copier = none ∧ s.fetcher = none

/-- A core issues the strand `r` in this cycle; `u` has its arbitration recorded. -/
def Turn (s : State) (r : Ref) (u : State) : Prop :=
  Quiescent s ∧ s.samplerDue = none ∧ s.acceptor = none ∧ s.issuer = some (r, u)

/-- The state in which a bundle that writes `dests` executes: the windows that must land have landed, the sources are held. -/
def executes (u : State) (r : Ref) (dests : List Dest) (b : Bundle) : State := (u.landWindows r dests).beginBundle r (some b)

/-- The state after strand `r` has issued its bundle in `u`, where its meaning gives `t`: the bundle's end, but for what commits at once on a core that
is to switch at its next commit, before which the core switches (R294). -/
def issued (u : State) (r : Ref) (ids : Nat) (t : State) : State :=
  match t.issue, (u.core r.core).trigger with
  | .strong, some n => u.switchUnit (u.strand r).part (.core r.core) n
  | _, _ => t.endBundle r ids

/-- The word context that decoding restores: a node number of 16 bits. -/
def NodeFits (x : CmdCtx) : Prop := x.node < 2 ^ 16

/-- The context of a command instruction. -/
def commandCtx : Instr → Option CmdCtx
  | .zcfg x _ _ | .zzero x _ | .mma x _ | .drainCommand x _ | .merr x _ | .copy1d x _ | .copy2d x _ | .fillCmd x _ | .gather2d x _
  | .gatherCmd x _ | .decodeCmd x _ => some x
  | _ => none

end Sys2Proof.Claims

/-- What reset leaves. The values of the first four groups are the register maps' own (R21, R33, R48, R63, R65, R79, R83, R86-R88,
R125, R134, R136, R142, R313, R344-R347, R358, R359, R365, R378); that a general register, a v or k register and a byte of memory that
nothing has written read zero is the model's choice where the maps give none (log entry 3), and so are the reports due after reset
(log entry 2). -/
def Obligations.ResetValues : Prop :=
  (∀ n, let c := State.reset.core n
    c.wayMask = 0xFF00 ∧ c.aslot = 0 ∧ c.coresched = 0x10240 ∧ c.ctxRun = BitVec.allOnes 64 ∧ c.ctxReq = BitVec.allOnes 64 ∧
    c.frecBase = 0 ∧ c.engFlt0 = 0 ∧ c.engFlt1 = 0 ∧ (∀ j, look 0 j c.lsprot = 0) ∧ c.slots = [] ∧ c.actors = [] ∧ c.catalogue = []) ∧
  (∀ p, let x := State.reset.partition p
    x.plimit = 0xB0008 ∧ x.hmask = 0xFFFF ∧ (∀ j, look 0 j x.hmapB = 0 ∧ look 0 j x.hmapL = 0) ∧ x.podN = 0 ∧ (∀ j, look 0 j x.podHome = 0) ∧
    x.pctl = 0 ∧ x.phbm = 0 ∧ x.hwinBase = 0 ∧ x.evBase = 0 ∧ x.evCnt = 0 ∧ x.coltmo = 0) ∧
  (∀ p c, let x := State.reset.context p c
    x.clsTab = 0 ∧ x.clsNum = 0 ∧ x.graphBase = 0 ∧ x.wdogWin = 0 ∧ x.expcap = 0 ∧ x.ttroot = 0 ∧ x.upcall = 0) ∧
  ((∀ i, look 0 i State.reset.deven = 0) ∧ State.reset.pkgid = 0 ∧ State.reset.minthr = 16 ∧ (∀ n, (State.reset.sampler n).hold = true) ∧
    (∀ n, (State.reset.port n).bind = 0 ∧ (State.reset.port n).key0 = 0 ∧ (State.reset.port n).key1 = 0 ∧ (State.reset.port n).owner = none) ∧
    (∀ q, (State.reset.quire q).owner = none ∧ ∀ n, State.reset.zpOf q n = 0) ∧ State.reset.corrected = 0 ∧ State.reset.uncorrected = 0) ∧
  ((∀ a, memGet State.reset.hbm a = 0 ∧ ∀ n, memGet (State.reset.core n).store a = 0) ∧
    (∀ r, (State.reset.strand r).regs = Regs.zero ∧ (State.reset.strand r).scaleBase = 0 ∧ State.reset.occupied r = false) ∧
    (∀ q n r c, State.reset.tileElem q n r c = Elem.zero) ∧ State.reset.now = 0 ∧ State.reset.halted = false)

/-- R77, R78, R181: a result for s16-s31 is discarded and k0 stays all ones, whatever is written; other registers are written, and no
other register changes. An A-word with such a destination only goes on, and a load still takes its bytes' sectors into its chunk. -/
def Obligations.DiscardingRegisters : Prop :=
  (∀ (r : Regs) (n : BitVec 5) (x : Word), (16 ≤ n.toNat → r.setS n x = r) ∧
    (∀ h : n.toNat < 16, (r.setS n x).s[n.toNat] = x ∧ (∀ m : Fin 16, m.val ≠ n.toNat → (r.setS n x).s[m] = r.s[m]) ∧
      (r.setS n x).v = r.v ∧ (r.setS n x).k = r.k ∧ (r.setS n x).flags = r.flags ∧ (r.setS n x).pc = r.pc)) ∧
  (∀ (r : Regs) (n : BitVec 3) (x : W32), (r.setK 0 x = r) ∧ r.getK 0 = 0xFFFFFFFF ∧ (n ≠ 0 → (r.setK n x).getK n = x) ∧
    (∀ m, m ≠ n → (r.setK n x).getK m = r.getK m)) ∧
  (∀ p ∈ intBinaryTable, ∀ w s, Ready (p.1 w) s → w.vDest = false → 16 ≤ w.d.toNat → exec (p.1 w) s = .next (wrote s s.me.regs)) ∧
  (∀ p ∈ loadTable, ∀ c s x sectors, Ready (p.1 c) s → 16 ≤ c.d.toNat → c.la = 0 →
    s.readElement (loadsAs p.2.1 p.2.2.1) 0 (s.loadAddress c p.2.1) = .val x sectors → inAperture (s.loadAddress c p.2.1) = false →
    exec (p.1 c) s = .next (after (reading s sectors) { (reading s sectors).me with
      regs := { s.me.regs with pc := s.bpc + 8 }, wait := .untilCycle (s.now + 6) } .goes))

/-- Every word, command and event takes the machine to a next state: no instruction faults the machine or is refused. -/
def Obligations.EveryInstructionAnswers : Prop := ∀ i s, ∃ t, exec i s = .next t

/-- R362: only a package that has removed its power stops; every other state has a next one, and no step is refused. -/
def Obligations.StopsOnlyWithoutPower : Prop :=
  ∀ s, (s.halted = true → step s = .fault .packageStopped) ∧ (s.halted = false → ∃ t, step s = .next t)

/-- R59, R178-R180, R183: a step runs the instruction that is due: the meaning of the event whose cycle has come, else of the bundle
that the core's arbitration picks, decoded from the words at its pc, else of a sampler's word or an engine's command; around the meaning
the step lands windows, holds the bundle's sources, counts its chunk, and puts what was sent on the agenda. A chunk of one bundle reads before its
commit (R158), a packet that its unit holds until it has switched to its edition waits (R294), and so does what commits at once on a core that has
still to switch. Events that follow all else of their cycle (R331, R377, R381) run once nothing else is to be done in it; then the cycle ends. -/
def Obligations.StepRunsDecodedInstruction : Prop :=
  ∀ s : State,
    (∀ x rest t, s.halted = false → s.agenda = x :: rest → x.1 ≤ s.now →
      (x.2.1 < State.lateRank ∨ (Quiescent s ∧ s.samplerDue = none ∧ s.acceptor = none ∧ s.issuer = none)) → let s1 := { s with agenda := rest }
      ∀ s2 s3, readAtCommit x.2.2 s1 = .next s2 → (s2.seeCounted x.2.2 = (s3, true) → step s = .next (s1.settleStep s3)) ∧
        (s2.seeCounted x.2.2 = (s3, false) → exec x.2.2.instr { s3 with ev := x.2.2 } = .next t → step s = .next (s1.settleStep t))) ∧
    (∀ e, (∀ r id, e ≠ .commitTakesEffect r id) → readAtCommit e s = .next s) ∧
    (∀ r u w0 w1, Turn s r u → Fetches u r w0 w1 →
      (∀ i t, decodeBundle w0 w1 = .ok (.single i) → let v := executes u r i.writes (.single i)
        exec i v = .next t → step s = .next (s.settleStep (issued u r v.ids t))) ∧
      (∀ c a, decodeBundle w0 w1 = .ok (.pair c a) → let v := executes u r (c.writes ++ a.writes) (.pair c a)
        (∀ t, c.wf = false → exec c v = .next t → step s = .next (s.settleStep (issued u r v.ids t))) ∧
        (∀ ta, c.wf = true → exec a v = .next ta →
          (ta.issue = .no → step s = .next (s.settleStep (issued u r v.ids ta))) ∧
          (∀ tc, ta.issue ≠ .no → exec c { ta.updMe (fun x => { x with received := v.me.received, doneLanes := v.me.doneLanes, vecBefore := v.me.vecBefore }) with
              issue := .no } = .next tc →
            (tc.issue ≠ .no → tc.me.frames.length = v.me.frames.length → step s = .next (s.settleStep (issued u r v.ids tc))) ∧
            (∀ t, tc.issue = .no ∨ tc.me.frames.length ≠ v.me.frames.length → exec c v = .next t → step s = .next (s.settleStep (issued u r v.ids t)))))) ∧
      (∀ e, decodeBundle w0 w1 = .error e → step s = .next (s.settleStep ((u.beginBundle r none).raise { code := e })))) ∧
    (∀ n r i t, Quiescent s → s.samplerDue = some (n, r) → r.pc < 2048 → decodeSampler (look 0 r.pc (s.sampler n).store) = some i →
      exec i { s with smp := n } = .next t → step s = .next (s.settleStep t)) ∧
    (∀ q g k c rest i t, Quiescent s → s.samplerDue = none → s.acceptor = some (q, g, k) → look [] k (s.engine q g).queues = c :: rest →
      commandEngine c.words = g → decodeCommand c.x c.words = some i → i.wf = true →
      exec i (s.updEngine q g fun e => { e with queues := put k rest e.queues, last := k }) = .next t → step s = .next (s.settleStep t)) ∧
    (∀ n, NoEvent s → s.lookup = some n → step s = .next (s.settleStep (s.acceptAll n))) ∧
    (∀ n, NoEvent s → s.lookup = none → s.injector = some n → step s = .next (s.settleStep (s.inject n))) ∧
    (∀ r t, NoEvent s → s.lookup = none → s.injector = none → s.completer = some r → issueStrand r s = .next t → step s = .next (s.settleStep t)) ∧
    (Quiescent s → s.samplerDue = none → s.acceptor = none → s.issuer = none → (∀ x rest, s.agenda = x :: rest → s.now < x.1) →
      step s = .next { s with now := s.now + 1 })

/-- R178, R183, R205: what a fetch finds before any word is decoded, in the order of the checks. -/
def Sys2Proof.Claims.FetchChecks : Prop :=
  ∀ (s : State) r, let t := s.strand r
    let pc := t.regs.pc.toNat
    let f (c : EventCode) : FaultInfo := { code := c, va := t.regs.pc, isFetch := true }
    let inside := t.code.toNat ≤ pc ∧ pc < t.code.toNat + t.codeLim.toNat
    (pc % 8 ≠ 0 → s.fetch r = .fault (f .misalignedFetch)) ∧
    (pc % 8 = 0 → ¬inside → s.fetch r = .fault (f .fetchLimit)) ∧
    (pc % 8 = 0 → inside → 2 ^ 57 ≤ pc → s.fetch r = .fault (f .notPresent)) ∧
    (pc % 8 = 0 → inside → pc < 2 ^ 57 → inAperture pc = true → s.fetch r = .fault (f .aperture)) ∧
    (∀ w0 w1, Fetches s r w0 w1 →
      (∀ b, decodeBundle w0 w1 = .ok b → s.fetch r = .bundle b) ∧ (∀ e, decodeBundle w0 w1 = .error e → s.fetch r = .fault { code := e }))

/-- R181, R182, and the order of R183: two words that write one register, and a second word that nothing takes, raise ILLEGAL_BUNDLE
once both opcodes are assigned; a register that is only read by the other word is no conflict; and the bundle that raises it issues
nothing: with its earlier chunks committed, the strand stands before its stop with its registers as they are. -/
def Sys2Proof.Claims.BundleForms : Prop :=
  (∀ w0 w1 : W32,
    (w0.extractLsb' 30 2 = 1 → decodeBundle w0 w1 = .error .illegalBundle) ∧
    (w0.extractLsb' 30 2 = 0 → w1.extractLsb' 30 2 ≠ 1 → decodeBundle w0 w1 = .error .illegalBundle) ∧
    (w0.extractLsb' 30 2 = 0 → w1.extractLsb' 30 2 = 1 →
      ((decodeC w0 .paired = none ∨ decodeA w1 .paired = none) → decodeBundle w0 w1 = .error .illegalOpcode) ∧
      (∀ c a kc ka, decodeC w0 .paired = some (c, kc) → decodeA w1 .paired = some (a, ka) →
        ((∃ d, d ∈ c.writes ∧ d ∈ a.writes) → decodeBundle w0 w1 = .error .illegalBundle) ∧
        ((∀ d, d ∈ c.writes → d ∉ a.writes) → decodeBundle w0 w1 = if kc && ka then .ok (.pair c a) else .error .reservedField))) ∧
    (∀ x : Option (Instr × Bool), (w0.extractLsb' 30 2 = 2 ∧ x = decodeC w0 (.lone w1)) ∨ (w0.extractLsb' 30 2 = 3 ∧ x = decodeA w0 (.lone w1)) →
      (x = none → decodeBundle w0 w1 = .error .illegalOpcode) ∧
      (∀ i known, x = some (i, known) → (w1 ≠ 0 → i.takesWord1 = false → decodeBundle w0 w1 = .error .illegalBundle) ∧
        ((w1 = 0 ∨ i.takesWord1 = true) → decodeBundle w0 w1 = if known then .ok (.single i) else .error .reservedField)))) ∧
  (∀ (s : State) r w0 w1 e, Fetches s r w0 w1 → decodeBundle w0 w1 = .error e → (s.strand r).windows = [] → s.occupied r = true →
    (s.strand r).closed = [] → (s.strand r).opened.count = 0 →
    ∃ t, issueStrand r s = .next t ∧ (t.strand r).fault = some { code := e } ∧ (t.strand r).wait = .faulting ∧
      (t.strand r).regs = (s.strand r).regs ∧ t.hbm = s.hbm ∧ t.l2 = s.l2)

/-- R178, R181-R183, R205: the checks of a fetch and of a bundle's form, in their order. -/
def Obligations.FetchAndForms : Prop := Claims.FetchChecks ∧ Claims.BundleForms

/-- R179, R184, R189, R193-R195, R257, R322: a few words, with their fields written out from the spec's tables. -/
def Obligations.DecodedWords : Prop :=
  decodeBundle 0x11995208 0x410D8530 = .ok (.pair
    (.ldD { ext := .paired, la := 3, d := 5, ta := .s, a := 4, b := 2, msk := 0 })
    (.add { ext := .paired, fzi := false, fzo := false, d := 6, tb := .lit, b := 1, ta := .s, a := 6, k := 0 })) ∧
  decodeBundle 0xD805801A 0x3FC00000 = .ok (.single
    (.fmul { ext := .lone 0x3FC00000, fzi := false, fzo := false, d := 2, tb := .lit, b := 0, ta := .v, a := 3, k := 2 })) ∧
  decodeBundle 0x94825100 0x00012340 = .ok (.single
    (.stW { ext := .lone 0x00012340, la := 0, d := 9, ta := .s, a := 2, b := 0, msk := 0 })) ∧
  decodeBundle 0x80000000 0 = .ok (.single (.nopC { ext := .lone 0, la := 0, d := 0, ta := .v, a := 0, b := 0, msk := 0 })) ∧
  decodeBundle 0x40000000 0 = .error .illegalBundle ∧
  decodeSampler 0x51000003 = some (.samplerLdr { d := 2, a := 0, b := 0, imm := 3 })

/-- R178-R195, R322, R257-R278: decoding what `encode` gives is the instruction: every field of every well-formed lone word, pair, sampler
word and engine command, at every value the encoding admits, is kept. -/
def Obligations.DecodeOfEncode : Prop :=
  (∀ i : Instr, i.wf = true → ∀ w1, ((∃ f c, i.cword = some (f, c) ∧ c.ext = .lone w1) ∨ (∃ f w, i.aword = some (f, w) ∧ w.ext = .lone w1)) →
    (w1 = 0 ∨ i.takesWord1 = true) → ∃ w0, encode i = [w0, w1] ∧ decodeBundle w0 w1 = .ok (.single i)) ∧
  (∀ i j : Instr, i.wf = true → j.wf = true → (∃ f c, i.cword = some (f, c) ∧ c.ext = .paired) → (∃ f w, j.aword = some (f, w) ∧ w.ext = .paired) →
    (∀ d, d ∈ i.writes → d ∉ j.writes) → ∃ w0 w1, encode i = [w0] ∧ encode j = [w1] ∧ decodeBundle w0 w1 = .ok (.pair i j)) ∧
  (∀ i : Instr, (∃ x, i.sword = some x) → ∃ w, encode i = [w] ∧ decodeSampler w = some i) ∧
  (∀ (i : Instr) x, commandCtx i = some x → NodeFits x → i.wf = true → (encode i).length = 16 ∧ decodeCommand x (encode i) = some i)

/-- An invariant of every step: the agenda stays in the order of its cycles and of R42, nothing in it is overdue, and between steps
nothing that was sent is left aside and no bundle holds its sources. -/
def Obligations.OrderlyKept : Prop := ∀ s t : State, s.orderly = true → step s = .next t → t.orderly = true

/-- The state after reset is orderly, and its memories are in their canonical form. -/
def Obligations.OrderlyAtReset : Prop :=
  State.reset.orderly = true ∧ State.reset.hbmWf = true ∧ ∀ n, Memory.wf (State.reset.core n).store = true
end

