-- ==== Sys2Proof/Laws/Dispatch.lean ====
section
/-! SUPPORT. What `exec` calls for each instruction: one lemma for every arm. -/

namespace Sys2Proof.Machine

variable (s : State)

theorem exec_nopC c : exec (.nopC c) s = execNopC c s := rfl
theorem exec_jmp c : exec (.jmp c) s = execJmp c s := rfl
theorem exec_jal c : exec (.jal c) s = execJal c s := rfl
theorem exec_jr c : exec (.jr c) s = execJr c s := rfl
theorem exec_bz c : exec (.bz c) s = execBz c s := rfl
theorem exec_bnz c : exec (.bnz c) s = execBnz c s := rfl
theorem exec_bkany c : exec (.bkany c) s = execBkany c s := rfl
theorem exec_bkall c : exec (.bkall c) s = execBkall c s := rfl
theorem exec_loop c : exec (.loop c) s = execLoop c s := rfl
theorem exec_endStrand c : exec (.endStrand c) s = execEndStrand c s := rfl
theorem exec_fork c : exec (.fork c) s = execFork c s := rfl
theorem exec_join c : exec (.join c) s = execJoin c s := rfl
theorem exec_jend c : exec (.jend c) s = execJend c s := rfl
theorem exec_migr c : exec (.migr c) s = execMigr c s := rfl
theorem exec_yield c : exec (.yield c) s = execYield c s := rfl
theorem exec_trap c : exec (.trap c) s = execTrap c s := rfl
theorem exec_send c : exec (.send c) s = execSend c s := rfl
theorem exec_spawn c : exec (.spawn c) s = execSpawn c s := rfl
theorem exec_bar c : exec (.bar c) s = execBar c s := rfl
theorem exec_mon c : exec (.mon c) s = execMon c s := rfl
theorem exec_waitm c : exec (.waitm c) s = execWaitm c s := rfl
theorem exec_snap c : exec (.snap c) s = execSnap c s := rfl
theorem exec_solicit c : exec (.solicit c) s = execSolicit c s := rfl
theorem exec_cwait c : exec (.cwait c) s = execCwait c s := rfl
theorem exec_catIns c : exec (.catIns c) s = execCatIns c s := rfl
theorem exec_catDel c : exec (.catDel c) s = execCatDel c s := rfl
theorem exec_catGive c : exec (.catGive c) s = execCatGive c s := rfl
theorem exec_replyCen c : exec (.replyCen c) s = execReplyCen c s := rfl
theorem exec_replyMsg c : exec (.replyMsg c) s = execReplyMsg c s := rfl
theorem exec_ldB c : exec (.ldB c) s = execLdB c s := rfl
theorem exec_ldH c : exec (.ldH c) s = execLdH c s := rfl
theorem exec_ldW c : exec (.ldW c) s = execLdW c s := rfl
theorem exec_ldD c : exec (.ldD c) s = execLdD c s := rfl
theorem exec_ldBu c : exec (.ldBu c) s = execLdBu c s := rfl
theorem exec_ldHu c : exec (.ldHu c) s = execLdHu c s := rfl
theorem exec_ldWu c : exec (.ldWu c) s = execLdWu c s := rfl
theorem exec_stB c : exec (.stB c) s = execStB c s := rfl
theorem exec_stH c : exec (.stH c) s = execStH c s := rfl
theorem exec_stW c : exec (.stW c) s = execStW c s := rfl
theorem exec_stD c : exec (.stD c) s = execStD c s := rfl
theorem exec_vldB c : exec (.vldB c) s = execVldB c s := rfl
theorem exec_vldH c : exec (.vldH c) s = execVldH c s := rfl
theorem exec_vldW c : exec (.vldW c) s = execVldW c s := rfl
theorem exec_vstB c : exec (.vstB c) s = execVstB c s := rfl
theorem exec_vstH c : exec (.vstH c) s = execVstH c s := rfl
theorem exec_vstW c : exec (.vstW c) s = execVstW c s := rfl
theorem exec_vgat c : exec (.vgat c) s = execVgat c s := rfl
theorem exec_vsca c : exec (.vsca c) s = execVsca c s := rfl
theorem exec_ldf c : exec (.ldf c) s = execLdf c s := rfl
theorem exec_ldfc c : exec (.ldfc c) s = execLdfc c s := rfl
theorem exec_stf c : exec (.stf c) s = execStf c s := rfl
theorem exec_stnt c : exec (.stnt c) s = execStnt c s := rfl
theorem exec_vstnt c : exec (.vstnt c) s = execVstnt c s := rfl
theorem exec_pref c : exec (.pref c) s = execPref c s := rfl
theorem exec_stmx c : exec (.stmx c) s = execStmx c s := rfl
theorem exec_atomAdd c : exec (.atomAdd c) s = execAtomAdd c s := rfl
theorem exec_atomAnd c : exec (.atomAnd c) s = execAtomAnd c s := rfl
theorem exec_atomOr c : exec (.atomOr c) s = execAtomOr c s := rfl
theorem exec_atomXor c : exec (.atomXor c) s = execAtomXor c s := rfl
theorem exec_atomMin c : exec (.atomMin c) s = execAtomMin c s := rfl
theorem exec_atomMax c : exec (.atomMax c) s = execAtomMax c s := rfl
theorem exec_atomMinu c : exec (.atomMinu c) s = execAtomMinu c s := rfl
theorem exec_atomMaxu c : exec (.atomMaxu c) s = execAtomMaxu c s := rfl
theorem exec_atomSwap c : exec (.atomSwap c) s = execAtomSwap c s := rfl
theorem exec_atomCas c : exec (.atomCas c) s = execAtomCas c s := rfl
theorem exec_atomFadd c : exec (.atomFadd c) s = execAtomFadd c s := rfl
theorem exec_vatomAdd c : exec (.vatomAdd c) s = execVatomAdd c s := rfl
theorem exec_vatomAnd c : exec (.vatomAnd c) s = execVatomAnd c s := rfl
theorem exec_vatomOr c : exec (.vatomOr c) s = execVatomOr c s := rfl
theorem exec_vatomXor c : exec (.vatomXor c) s = execVatomXor c s := rfl
theorem exec_vatomMin c : exec (.vatomMin c) s = execVatomMin c s := rfl
theorem exec_vatomMax c : exec (.vatomMax c) s = execVatomMax c s := rfl
theorem exec_vatomMinu c : exec (.vatomMinu c) s = execVatomMinu c s := rfl
theorem exec_vatomMaxu c : exec (.vatomMaxu c) s = execVatomMaxu c s := rfl
theorem exec_vatomSwap c : exec (.vatomSwap c) s = execVatomSwap c s := rfl
theorem exec_vatomFadd c : exec (.vatomFadd c) s = execVatomFadd c s := rfl
theorem exec_fence c : exec (.fence c) s = execFence c s := rfl
theorem exec_drain c : exec (.drain c) s = execDrain c s := rfl
theorem exec_wbr c : exec (.wbr c) s = execWbr c s := rfl
theorem exec_invL1 c : exec (.invL1 c) s = execInvL1 c s := rfl
theorem exec_invHome c : exec (.invHome c) s = execInvHome c s := rfl
theorem exec_wmaskSet c : exec (.wmaskSet c) s = execWmaskSet c s := rfl
theorem exec_wmaskClr c : exec (.wmaskClr c) s = execWmaskClr c s := rfl
theorem exec_wmaskPut c : exec (.wmaskPut c) s = execWmaskPut c s := rfl
theorem exec_cmd c : exec (.cmd c) s = execCmd c s := rfl
theorem exec_jwait c : exec (.jwait c) s = execJwait c s := rfl
theorem exec_jpoll c : exec (.jpoll c) s = execJpoll c s := rfl
theorem exec_topk c : exec (.topk c) s = execTopk c s := rfl
theorem exec_sfuRcp c : exec (.sfuRcp c) s = execSfuRcp c s := rfl
theorem exec_sfuSqrt c : exec (.sfuSqrt c) s = execSfuSqrt c s := rfl
theorem exec_sfuRsqrt c : exec (.sfuRsqrt c) s = execSfuRsqrt c s := rfl
theorem exec_sfuExp2 c : exec (.sfuExp2 c) s = execSfuExp2 c s := rfl
theorem exec_sfuLog2 c : exec (.sfuLog2 c) s = execSfuLog2 c s := rfl
theorem exec_sfuSinpi c : exec (.sfuSinpi c) s = execSfuSinpi c s := rfl
theorem exec_sfuCospi c : exec (.sfuCospi c) s = execSfuCospi c s := rfl
theorem exec_sfuTanh c : exec (.sfuTanh c) s = execSfuTanh c s := rfl
theorem exec_enc8 c : exec (.enc8 c) s = execEnc8 c s := rfl
theorem exec_ltab c : exec (.ltab c) s = execLtab c s := rfl
theorem exec_samp c : exec (.samp c) s = execSamp c s := rfl
theorem exec_csrr c : exec (.csrr c) s = execCsrr c s := rfl
theorem exec_csrw c : exec (.csrw c) s = execCsrw c s := rfl
theorem exec_resume c : exec (.resume c) s = execResume c s := rfl
theorem exec_tinvPage c : exec (.tinvPage c) s = execTinvPage c s := rfl
theorem exec_tinvCtx c : exec (.tinvCtx c) s = execTinvCtx c s := rfl
theorem exec_tinvPart c : exec (.tinvPart c) s = execTinvPart c s := rfl
theorem exec_ctxsw c : exec (.ctxsw c) s = execCtxsw c s := rfl
theorem exec_rollback c : exec (.rollback c) s = execRollback c s := rfl
theorem exec_hmset c : exec (.hmset c) s = execHmset c s := rfl
theorem exec_nopA w : exec (.nopA w) s = execNopA w s := rfl
theorem exec_add w : exec (.add w) s = execAdd w s := rfl
theorem exec_sub w : exec (.sub w) s = execSub w s := rfl
theorem exec_mul w : exec (.mul w) s = execMul w s := rfl
theorem exec_mulh w : exec (.mulh w) s = execMulh w s := rfl
theorem exec_mulhu w : exec (.mulhu w) s = execMulhu w s := rfl
theorem exec_mad w : exec (.mad w) s = execMad w s := rfl
theorem exec_min w : exec (.min w) s = execMin w s := rfl
theorem exec_max w : exec (.max w) s = execMax w s := rfl
theorem exec_minu w : exec (.minu w) s = execMinu w s := rfl
theorem exec_maxu w : exec (.maxu w) s = execMaxu w s := rfl
theorem exec_and w : exec (.and w) s = execAnd w s := rfl
theorem exec_or w : exec (.or w) s = execOr w s := rfl
theorem exec_xor w : exec (.xor w) s = execXor w s := rfl
theorem exec_andn w : exec (.andn w) s = execAndn w s := rfl
theorem exec_shl w : exec (.shl w) s = execShl w s := rfl
theorem exec_shr w : exec (.shr w) s = execShr w s := rfl
theorem exec_sar w : exec (.sar w) s = execSar w s := rfl
theorem exec_rot w : exec (.rot w) s = execRot w s := rfl
theorem exec_popc w : exec (.popc w) s = execPopc w s := rfl
theorem exec_clz w : exec (.clz w) s = execClz w s := rfl
theorem exec_ctz w : exec (.ctz w) s = execCtz w s := rfl
theorem exec_neg w : exec (.neg w) s = execNeg w s := rfl
theorem exec_not w : exec (.not w) s = execNot w s := rfl
theorem exec_abs w : exec (.abs w) s = execAbs w s := rfl
theorem exec_brev w : exec (.brev w) s = execBrev w s := rfl
theorem exec_lid w : exec (.lid w) s = execLid w s := rfl
theorem exec_cmp w : exec (.cmp w) s = execCmp w s := rfl
theorem exec_cmpu w : exec (.cmpu w) s = execCmpu w s := rfl
theorem exec_fadd w : exec (.fadd w) s = execFadd w s := rfl
theorem exec_fsub w : exec (.fsub w) s = execFsub w s := rfl
theorem exec_fmul w : exec (.fmul w) s = execFmul w s := rfl
theorem exec_ffma w : exec (.ffma w) s = execFfma w s := rfl
theorem exec_fmin w : exec (.fmin w) s = execFmin w s := rfl
theorem exec_fmax w : exec (.fmax w) s = execFmax w s := rfl
theorem exec_fneg w : exec (.fneg w) s = execFneg w s := rfl
theorem exec_fabs w : exec (.fabs w) s = execFabs w s := rfl
theorem exec_ffloor w : exec (.ffloor w) s = execFfloor w s := rfl
theorem exec_fceil w : exec (.fceil w) s = execFceil w s := rfl
theorem exec_ftrunc w : exec (.ftrunc w) s = execFtrunc w s := rfl
theorem exec_fround w : exec (.fround w) s = execFround w s := rfl
theorem exec_frint w : exec (.frint w) s = execFrint w s := rfl
theorem exec_fclass w : exec (.fclass w) s = execFclass w s := rfl
theorem exec_fsgn w : exec (.fsgn w) s = execFsgn w s := rfl
theorem exec_fcmp w : exec (.fcmp w) s = execFcmp w s := rfl
theorem exec_cvtFtoi w : exec (.cvtFtoi w) s = execCvtFtoi w s := rfl
theorem exec_cvtFtou w : exec (.cvtFtou w) s = execCvtFtou w s := rfl
theorem exec_cvtFtoiz w : exec (.cvtFtoiz w) s = execCvtFtoiz w s := rfl
theorem exec_cvtFtouz w : exec (.cvtFtouz w) s = execCvtFtouz w s := rfl
theorem exec_cvtItof w : exec (.cvtItof w) s = execCvtItof w s := rfl
theorem exec_cvtUtof w : exec (.cvtUtof w) s = execCvtUtof w s := rfl
theorem exec_cvtFtoh w : exec (.cvtFtoh w) s = execCvtFtoh w s := rfl
theorem exec_cvtFtob w : exec (.cvtFtob w) s = execCvtFtob w s := rfl
theorem exec_cvtHtof w : exec (.cvtHtof w) s = execCvtHtof w s := rfl
theorem exec_cvtBtof w : exec (.cvtBtof w) s = execCvtBtof w s := rfl
theorem exec_cvtFtol w : exec (.cvtFtol w) s = execCvtFtol w s := rfl
theorem exec_cvtLtof w : exec (.cvtLtof w) s = execCvtLtof w s := rfl
theorem exec_sel w : exec (.sel w) s = execSel w s := rfl
theorem exec_mov w : exec (.mov w) s = execMov w s := rfl
theorem exec_bcast w : exec (.bcast w) s = execBcast w s := rfl
theorem exec_shuf w : exec (.shuf w) s = execShuf w s := rfl
theorem exec_lrot w : exec (.lrot w) s = execLrot w s := rfl
theorem exec_redAdd w : exec (.redAdd w) s = execRedAdd w s := rfl
theorem exec_redAnd w : exec (.redAnd w) s = execRedAnd w s := rfl
theorem exec_redOr w : exec (.redOr w) s = execRedOr w s := rfl
theorem exec_redXor w : exec (.redXor w) s = execRedXor w s := rfl
theorem exec_redMin w : exec (.redMin w) s = execRedMin w s := rfl
theorem exec_redMax w : exec (.redMax w) s = execRedMax w s := rfl
theorem exec_redMinu w : exec (.redMinu w) s = execRedMinu w s := rfl
theorem exec_redMaxu w : exec (.redMaxu w) s = execRedMaxu w s := rfl
theorem exec_redFadd w : exec (.redFadd w) s = execRedFadd w s := rfl
theorem exec_redFmin w : exec (.redFmin w) s = execRedFmin w s := rfl
theorem exec_redFmax w : exec (.redFmax w) s = execRedFmax w s := rfl
theorem exec_scanAdd w : exec (.scanAdd w) s = execScanAdd w s := rfl
theorem exec_scanAnd w : exec (.scanAnd w) s = execScanAnd w s := rfl
theorem exec_scanOr w : exec (.scanOr w) s = execScanOr w s := rfl
theorem exec_scanXor w : exec (.scanXor w) s = execScanXor w s := rfl
theorem exec_scanMin w : exec (.scanMin w) s = execScanMin w s := rfl
theorem exec_scanMax w : exec (.scanMax w) s = execScanMax w s := rfl
theorem exec_scanMinu w : exec (.scanMinu w) s = execScanMinu w s := rfl
theorem exec_scanMaxu w : exec (.scanMaxu w) s = execScanMaxu w s := rfl
theorem exec_scanFadd w : exec (.scanFadd w) s = execScanFadd w s := rfl
theorem exec_scanFmin w : exec (.scanFmin w) s = execScanFmin w s := rfl
theorem exec_scanFmax w : exec (.scanFmax w) s = execScanFmax w s := rfl
theorem exec_kopAnd w : exec (.kopAnd w) s = execKopAnd w s := rfl
theorem exec_kopOr w : exec (.kopOr w) s = execKopOr w s := rfl
theorem exec_kopXor w : exec (.kopXor w) s = execKopXor w s := rfl
theorem exec_kopAndn w : exec (.kopAndn w) s = execKopAndn w s := rfl
theorem exec_kopNot w : exec (.kopNot w) s = execKopNot w s := rfl
theorem exec_kopMov w : exec (.kopMov w) s = execKopMov w s := rfl
theorem exec_kopLow w : exec (.kopLow w) s = execKopLow w s := rfl
theorem exec_addsat w : exec (.addsat w) s = execAddsat w s := rfl
theorem exec_subsat w : exec (.subsat w) s = execSubsat w s := rfl
theorem exec_dp4 w : exec (.dp4 w) s = execDp4 w s := rfl
theorem exec_fdp2 w : exec (.fdp2 w) s = execFdp2 w s := rfl
theorem exec_samplerHalt w : exec (.samplerHalt w) s = execSamplerHalt w s := rfl
theorem exec_samplerLdi w : exec (.samplerLdi w) s = execSamplerLdi w s := rfl
theorem exec_samplerAdd w : exec (.samplerAdd w) s = execSamplerAdd w s := rfl
theorem exec_samplerSub w : exec (.samplerSub w) s = execSamplerSub w s := rfl
theorem exec_samplerMulq w : exec (.samplerMulq w) s = execSamplerMulq w s := rfl
theorem exec_samplerXfer w : exec (.samplerXfer w) s = execSamplerXfer w s := rfl
theorem exec_samplerBz w : exec (.samplerBz w) s = execSamplerBz w s := rfl
theorem exec_samplerBnz w : exec (.samplerBnz w) s = execSamplerBnz w s := rfl
theorem exec_samplerLdc w : exec (.samplerLdc w) s = execSamplerLdc w s := rfl
theorem exec_samplerStc w : exec (.samplerStc w) s = execSamplerStc w s := rfl
theorem exec_samplerLdr w : exec (.samplerLdr w) s = execSamplerLdr w s := rfl
theorem exec_samplerLogit w : exec (.samplerLogit w) s = execSamplerLogit w s := rfl
theorem exec_samplerKeep w : exec (.samplerKeep w) s = execSamplerKeep w s := rfl
theorem exec_samplerGmask w : exec (.samplerGmask w) s = execSamplerGmask w s := rfl
theorem exec_samplerPen w : exec (.samplerPen w) s = execSamplerPen w s := rfl
theorem exec_samplerScale w : exec (.samplerScale w) s = execSamplerScale w s := rfl
theorem exec_samplerExpw w : exec (.samplerExpw w) s = execSamplerExpw w s := rfl
theorem exec_samplerNucl w : exec (.samplerNucl w) s = execSamplerNucl w s := rfl
theorem exec_samplerRand w : exec (.samplerRand w) s = execSamplerRand w s := rfl
theorem exec_samplerPick w : exec (.samplerPick w) s = execSamplerPick w s := rfl
theorem exec_samplerFind w : exec (.samplerFind w) s = execSamplerFind w s := rfl
theorem exec_samplerEmit w : exec (.samplerEmit w) s = execSamplerEmit w s := rfl
theorem exec_zcfg x tile val : exec (.zcfg x tile val) s = execZcfg x tile val s := rfl
theorem exec_zzero x tiles : exec (.zzero x tiles) s = execZzero x tiles s := rfl
theorem exec_mma x c : exec (.mma x c) s = execMma x c s := rfl
theorem exec_drainCommand x c : exec (.drainCommand x c) s = execDrainCommand x c s := rfl
theorem exec_merr x c : exec (.merr x c) s = execMerr x c s := rfl
theorem exec_copy1d x c : exec (.copy1d x c) s = execCopy1d x c s := rfl
theorem exec_copy2d x c : exec (.copy2d x c) s = execCopy2d x c s := rfl
theorem exec_fillCmd x c : exec (.fillCmd x c) s = execFillCmd x c s := rfl
theorem exec_gather2d x c : exec (.gather2d x c) s = execGather2d x c s := rfl
theorem exec_gatherCmd x c : exec (.gatherCmd x c) s = execGatherCmd x c s := rfl
theorem exec_decodeCmd x c : exec (.decodeCmd x c) s = execDecodeCmd x c s := rfl
theorem exec_engineCommandComplete : exec (.engineCommandComplete) s = execEngineCommandComplete s := rfl
theorem exec_engineWindowStore : exec (.engineWindowStore) s = execEngineWindowStore s := rfl
theorem exec_wemptyWrite : exec (.wemptyWrite) s = execWemptyWrite s := rfl
theorem exec_drainRowTakeout : exec (.drainRowTakeout) s = execDrainRowTakeout s := rfl
theorem exec_epilogueStart : exec (.epilogueStart) s = execEpilogueStart s := rfl
theorem exec_drainRowOutput : exec (.drainRowOutput) s = execDrainRowOutput s := rfl
theorem exec_folioDecodeComplete : exec (.folioDecodeComplete) s = execFolioDecodeComplete s := rfl
theorem exec_messageAccept : exec (.messageAccept) s = execMessageAccept s := rfl
theorem exec_bouncedMessage : exec (.bouncedMessage) s = execBouncedMessage s := rfl
theorem exec_entryFreeRound : exec (.entryFreeRound) s = execEntryFreeRound s := rfl
theorem exec_retireRequest : exec (.retireRequest) s = execRetireRequest s := rfl
theorem exec_activationOrder : exec (.activationOrder) s = execActivationOrder s := rfl
theorem exec_retirementWritebackDone : exec (.retirementWritebackDone) s = execRetirementWritebackDone s := rfl
theorem exec_slotFillDone : exec (.slotFillDone) s = execSlotFillDone s := rfl
theorem exec_ready : exec (.ready) s = execReady s := rfl
theorem exec_refused : exec (.refused) s = execRefused s := rfl
theorem exec_unfit : exec (.unfit) s = execUnfit s := rfl
theorem exec_retireNotice : exec (.retireNotice) s = execRetireNotice s := rfl
theorem exec_retired : exec (.retired) s = execRetired s := rfl
theorem exec_cancel : exec (.cancel) s = execCancel s := rfl
theorem exec_activationFault : exec (.activationFault) s = execActivationFault s := rfl
theorem exec_moveOrder : exec (.moveOrder) s = execMoveOrder s := rfl
theorem exec_moved : exec (.moved) s = execMoved s := rfl
theorem exec_messageAtCore : exec (.messageAtCore) s = execMessageAtCore s := rfl
theorem exec_heldMessageForward : exec (.heldMessageForward) s = execHeldMessageForward s := rfl
theorem exec_taskStart : exec (.taskStart) s = execTaskStart s := rfl
theorem exec_taskEnd : exec (.taskEnd) s = execTaskEnd s := rfl
theorem exec_portSlotWrite : exec (.portSlotWrite) s = execPortSlotWrite s := rfl
theorem exec_portLineCommit : exec (.portLineCommit) s = execPortLineCommit s := rfl
theorem exec_portbindWrite : exec (.portbindWrite) s = execPortbindWrite s := rfl
theorem exec_spawnRequest : exec (.spawnRequest) s = execSpawnRequest s := rfl
theorem exec_spawnAnswer : exec (.spawnAnswer) s = execSpawnAnswer s := rfl
theorem exec_spawnChildStart : exec (.spawnChildStart) s = execSpawnChildStart s := rfl
theorem exec_dequePop : exec (.dequePop) s = execDequePop s := rfl
theorem exec_steal : exec (.steal) s = execSteal s := rfl
theorem exec_migrArrival : exec (.migrArrival) s = execMigrArrival s := rfl
theorem exec_joinDecrementApplied : exec (.joinDecrementApplied) s = execJoinDecrementApplied s := rfl
theorem exec_joinWake : exec (.joinWake) s = execJoinWake s := rfl
theorem exec_budgetOverrun : exec (.budgetOverrun) s = execBudgetOverrun s := rfl
theorem exec_freeCountReport : exec (.freeCountReport) s = execFreeCountReport s := rfl
theorem exec_gkickWrite : exec (.gkickWrite) s = execGkickWrite s := rfl
theorem exec_nodeCompletion : exec (.nodeCompletion) s = execNodeCompletion s := rfl
theorem exec_silentContext : exec (.silentContext) s = execSilentContext s := rfl
theorem exec_powerManagerExamine : exec (.powerManagerExamine) s = execPowerManagerExamine s := rfl
theorem exec_thermalThrottle : exec (.thermalThrottle) s = execThermalThrottle s := rfl
theorem exec_thermalStop : exec (.thermalStop) s = execThermalStop s := rfl
theorem exec_commitGrant : exec (.commitGrant) s = execCommitGrant s := rfl
theorem exec_commitTakesEffect : exec (.commitTakesEffect) s = execCommitTakesEffect s := rfl
theorem exec_homeRequest : exec (.homeRequest) s = execHomeRequest s := rfl
theorem exec_cacheFillReturn : exec (.cacheFillReturn) s = execCacheFillReturn s := rfl
theorem exec_invalidationArrival : exec (.invalidationArrival) s = execInvalidationArrival s := rfl
theorem exec_peerOwnedRequest : exec (.peerOwnedRequest) s = execPeerOwnedRequest s := rfl
theorem exec_hmsetSliceAdopt : exec (.hmsetSliceAdopt) s = execHmsetSliceAdopt s := rfl
theorem exec_homeMoveStart : exec (.homeMoveStart) s = execHomeMoveStart s := rfl
theorem exec_moveLineAck : exec (.moveLineAck) s = execMoveLineAck s := rfl
theorem exec_remoteLoadAtTarget : exec (.remoteLoadAtTarget) s = execRemoteLoadAtTarget s := rfl
theorem exec_remoteAtomicAtTarget : exec (.remoteAtomicAtTarget) s = execRemoteAtomicAtTarget s := rfl
theorem exec_remoteResult : exec (.remoteResult) s = execRemoteResult s := rfl
theorem exec_postedStoreApply : exec (.postedStoreApply) s = execPostedStoreApply s := rfl
theorem exec_postedStoreAck : exec (.postedStoreAck) s = execPostedStoreAck s := rfl
theorem exec_remoteRefused : exec (.remoteRefused) s = execRemoteRefused s := rfl
theorem exec_ldfWake : exec (.ldfWake) s = execLdfWake s := rfl
theorem exec_waitmWake : exec (.waitmWake) s = execWaitmWake s := rfl
theorem exec_waitmLimit : exec (.waitmLimit) s = execWaitmLimit s := rfl
theorem exec_jwaitWake : exec (.jwaitWake) s = execJwaitWake s := rfl
theorem exec_barrierArrival : exec (.barrierArrival) s = execBarrierArrival s := rfl
theorem exec_barrierRelease : exec (.barrierRelease) s = execBarrierRelease s := rfl
theorem exec_barrierTimeout : exec (.barrierTimeout) s = execBarrierTimeout s := rfl
theorem exec_censusProcess : exec (.censusProcess) s = execCensusProcess s := rfl
theorem exec_censusDone : exec (.censusDone) s = execCensusDone s := rfl
theorem exec_censusComplete : exec (.censusComplete) s = execCensusComplete s := rfl
theorem exec_censusTimeout : exec (.censusTimeout) s = execCensusTimeout s := rfl
theorem exec_giveInstall : exec (.giveInstall) s = execGiveInstall s := rfl
theorem exec_giveAck : exec (.giveAck) s = execGiveAck s := rfl
theorem exec_closeRequest : exec (.closeRequest) s = execCloseRequest s := rfl
theorem exec_expcapWrite : exec (.expcapWrite) s = execExpcapWrite s := rfl
theorem exec_sampleRequestReserve : exec (.sampleRequestReserve) s = execSampleRequestReserve s := rfl
theorem exec_sampleAnswer : exec (.sampleAnswer) s = execSampleAnswer s := rfl
theorem exec_sampleRequestArrival : exec (.sampleRequestArrival) s = execSampleRequestArrival s := rfl
theorem exec_samplerRun : exec (.samplerRun) s = execSamplerRun s := rfl
theorem exec_samplerParkExamine : exec (.samplerParkExamine) s = execSamplerParkExamine s := rfl
theorem exec_samplerInstructionLimit : exec (.samplerInstructionLimit) s = execSamplerInstructionLimit s := rfl
theorem exec_editionMarker : exec (.editionMarker) s = execEditionMarker s := rfl
theorem exec_editionPacket : exec (.editionPacket) s = execEditionPacket s := rfl
theorem exec_coreSwitchTimeout : exec (.coreSwitchTimeout) s = execCoreSwitchTimeout s := rfl
theorem exec_homeSliceSwitch : exec (.homeSliceSwitch) s = execHomeSliceSwitch s := rfl
theorem exec_editionComplete : exec (.editionComplete) s = execEditionComplete s := rfl
theorem exec_cowCopy : exec (.cowCopy) s = execCowCopy s := rfl
theorem exec_cowPoolRetry : exec (.cowPoolRetry) s = execCowPoolRetry s := rfl
theorem exec_strandFaultReport : exec (.strandFaultReport) s = execStrandFaultReport s := rfl
theorem exec_upcallStart : exec (.upcallStart) s = execUpcallStart s := rfl
theorem exec_linkLost : exec (.linkLost) s = execLinkLost s := rfl
theorem exec_flitReplay : exec (.flitReplay) s = execFlitReplay s := rfl
theorem exec_quiesceCollective : exec (.quiesceCollective) s = execQuiesceCollective s := rfl
theorem exec_uncorrectable : exec (.uncorrectable) s = execUncorrectable s := rfl
theorem exec_registerParityError : exec (.registerParityError) s = execRegisterParityError s := rfl
theorem exec_correctedError : exec (.correctedError) s = execCorrectedError s := rfl
theorem exec_linkTraining : exec (.linkTraining) s = execLinkTraining s := rfl
theorem exec_powerGood : exec (.powerGood) s = execPowerGood s := rfl
theorem exec_partitionStart : exec (.partitionStart) s = execPartitionStart s := rfl
theorem exec_partitionStop : exec (.partitionStop) s = execPartitionStop s := rfl
theorem exec_partitionStopComplete : exec (.partitionStopComplete) s = execPartitionStopComplete s := rfl
theorem exec_quiesceWrite : exec (.quiesceWrite) s = execQuiesceWrite s := rfl
theorem exec_devenWrite : exec (.devenWrite) s = execDevenWrite s := rfl
theorem exec_pkgidWrite : exec (.pkgidWrite) s = execPkgidWrite s := rfl
theorem exec_waymaskWrite : exec (.waymaskWrite) s = execWaymaskWrite s := rfl
theorem exec_aslotWrite : exec (.aslotWrite) s = execAslotWrite s := rfl
theorem exec_cbselWrite : exec (.cbselWrite) s = execCbselWrite s := rfl
theorem exec_ctxreqWrite : exec (.ctxreqWrite) s = execCtxreqWrite s := rfl
theorem exec_coreschedWrite : exec (.coreschedWrite) s = execCoreschedWrite s := rfl
theorem exec_engflt1Write : exec (.engflt1Write) s = execEngflt1Write s := rfl
theorem exec_sampctlWrite : exec (.sampctlWrite) s = execSampctlWrite s := rfl
theorem exec_samplerStoreWrite : exec (.samplerStoreWrite) s = execSamplerStoreWrite s := rfl
theorem exec_ownershipWrite : exec (.ownershipWrite) s = execOwnershipWrite s := rfl
theorem exec_notifyPageStore : exec (.notifyPageStore) s = execNotifyPageStore s := rfl
theorem exec_hostWindowAccess : exec (.hostWindowAccess) s = execHostWindowAccess s := rfl
theorem exec_attestationRequest : exec (.attestationRequest) s = execAttestationRequest s := rfl
theorem exec_registerWrite : exec (.registerWrite) s = execRegisterWrite s := rfl
theorem exec_moveCopyComplete : exec (.moveCopyComplete) s = execMoveCopyComplete s := rfl
theorem exec_homeAcknowledgement : exec (.homeAcknowledgement) s = execHomeAcknowledgement s := rfl
theorem exec_giveRequest : exec (.giveRequest) s = execGiveRequest s := rfl
theorem exec_giveAnswer : exec (.giveAnswer) s = execGiveAnswer s := rfl
theorem exec_censusSlotRequest : exec (.censusSlotRequest) s = execCensusSlotRequest s := rfl
theorem exec_censusIdAnswer : exec (.censusIdAnswer) s = execCensusIdAnswer s := rfl
theorem exec_snapRequestArrival : exec (.snapRequestArrival) s = execSnapRequestArrival s := rfl
theorem exec_snapAnswer : exec (.snapAnswer) s = execSnapAnswer s := rfl

end Sys2Proof.Machine
end

