-- ==== Sys2Proof/Laws/Tables.lean ====
section
/-! SUPPORT. Reading a sparse table, a byte string or a set of numbers after it has been written. -/

namespace Sys2Proof

variable {α : Type}

@[simp] theorem look_put_same (d : α) (k : Nat) (v : α) (t : Table α) : look d k (put k v t) = v := by
  induction t with
  | nil => simp [put, look]
  | cons e t ih =>
    obtain ⟨j, w⟩ := e
    unfold put
    split
    · simp [look]
    · split
      · simp [look]
      · have hj : ¬ j = k := fun h => by simp_all
        simp [look, hj, ih]

theorem look_put_other (d : α) {k n : Nat} (h : n ≠ k) (v : α) (t : Table α) : look d n (put k v t) = look d n t := by
  induction t with
  | nil => simp [put, look, h.symm]
  | cons e t ih =>
    obtain ⟨j, w⟩ := e
    unfold put
    split
    · simp [look, h.symm]
    · split
      · next hk => subst hk; simp [look, h.symm]
      · simp [look, ih]

@[simp] theorem put_put (k : Nat) (v w : α) (t : Table α) : put k v (put k w t) = put k v t := by
  induction t with
  | nil => simp [put]
  | cons e t ih =>
    obtain ⟨j, x⟩ := e
    by_cases h1 : k < j
    · simp [put, h1]
    · by_cases h2 : k = j
      · simp [put, h2]
      · simp [put, h1, h2, ih]

@[simp] theorem has_put_same (k : Nat) (v : α) (t : Table α) : has k (put k v t) = true := by
  induction t with
  | nil => simp [put, has]
  | cons e t ih =>
    obtain ⟨j, w⟩ := e
    unfold put
    split
    · simp [has]
    · split
      · simp [has]
      · simp only [has, List.any_cons] at ih ⊢
        simp [ih]

theorem has_put_other {k n : Nat} (h : n ≠ k) (v : α) (t : Table α) : has n (put k v t) = has n t := by
  induction t with
  | nil => simp [put, has, h.symm]
  | cons e t ih =>
    obtain ⟨j, w⟩ := e
    unfold put
    split
    · simp [has, h.symm]
    · split
      · next hk => subst hk; simp [has]
      · simp only [has, List.any_cons] at ih ⊢
        simp [ih]

@[simp] theorem look_nil (d : α) (k : Nat) : look d k [] = d := rfl

theorem look_drop_same (d : α) (k : Nat) (t : Table α) : look d k (drop k t) = d := by
  induction t with
  | nil => rfl
  | cons e t ih =>
    obtain ⟨j, w⟩ := e
    unfold drop
    split
    · exact ih
    · next h => simp [look, h, ih]

theorem look_drop_other (d : α) {k n : Nat} (h : n ≠ k) (t : Table α) : look d n (drop k t) = look d n t := by
  induction t with
  | nil => rfl
  | cons e t ih =>
    obtain ⟨j, w⟩ := e
    unfold drop
    split
    · next hj => subst hj; simp [look, h.symm, ih]
    · simp [look, ih]

theorem has_drop_same (k : Nat) (t : Table α) : has k (drop k t) = false := by
  induction t with
  | nil => rfl
  | cons e t ih =>
    obtain ⟨j, w⟩ := e
    unfold drop
    split
    · exact ih
    · next h => simp only [has, List.any_cons] at ih ⊢; simp [h, ih]

/-- The bytes of a number are as many as were asked for. -/
@[simp] theorem Bytes.length_ofNat (n x : Nat) : (Bytes.ofNat n x).length = n := by
  induction n generalizing x with
  | zero => rfl
  | succ n ih => simp [Bytes.ofNat, ih]

/-- A byte string read back is the number modulo its width (R5). -/
theorem Bytes.toNat_ofNat (n x : Nat) : Bytes.toNat (Bytes.ofNat n x) = x % 256 ^ n := by
  induction n generalizing x with
  | zero => simp [Bytes.ofNat, Bytes.toNat, Nat.mod_one]
  | succ n ih =>
    simp only [Bytes.ofNat, Bytes.toNat, ih, BitVec.toNat_ofNat]
    exact (pow_succ' 256 n ▸ Nat.mod_mul (x := x) (a := 256) (b := 256 ^ n)).symm

end Sys2Proof
end

