-- ==== Sys2Proof/Laws/State.lean ====
section
/-! SUPPORT. What each named update of the state leaves alone: one lemma for every field and update, and what a reader of
the field that was written sees. -/

namespace Sys2Proof.Machine.State

variable (s : State)

@[simp] theorem setCore_quires (n : Nat) (c : Core) : (s.setCore n c).quires = s.quires := rfl
@[simp] theorem setCore_dies (n : Nat) (c : Core) : (s.setCore n c).dies = s.dies := rfl
@[simp] theorem setCore_hbm (n : Nat) (c : Core) : (s.setCore n c).hbm = s.hbm := rfl
@[simp] theorem setCore_l2 (n : Nat) (c : Core) : (s.setCore n c).l2 = s.l2 := rfl
@[simp] theorem setCore_contexts (n : Nat) (c : Core) : (s.setCore n c).contexts = s.contexts := rfl
@[simp] theorem setCore_partitions (n : Nat) (c : Core) : (s.setCore n c).partitions = s.partitions := rfl
@[simp] theorem setCore_samplers (n : Nat) (c : Core) : (s.setCore n c).samplers = s.samplers := rfl
@[simp] theorem setCore_decoders (n : Nat) (c : Core) : (s.setCore n c).decoders = s.decoders := rfl
@[simp] theorem setCore_slices (n : Nat) (c : Core) : (s.setCore n c).slices = s.slices := rfl
@[simp] theorem setCore_chseq (n : Nat) (c : Core) : (s.setCore n c).chseq = s.chseq := rfl
@[simp] theorem setCore_records (n : Nat) (c : Core) : (s.setCore n c).records = s.records := rfl
@[simp] theorem setCore_tasks (n : Nat) (c : Core) : (s.setCore n c).tasks = s.tasks := rfl
@[simp] theorem setCore_pkgid (n : Nat) (c : Core) : (s.setCore n c).pkgid = s.pkgid := rfl
@[simp] theorem setCore_barriers (n : Nat) (c : Core) : (s.setCore n c).barriers = s.barriers := rfl
@[simp] theorem setCore_ports (n : Nat) (c : Core) : (s.setCore n c).ports = s.ports := rfl
@[simp] theorem setCore_minthr (n : Nat) (c : Core) : (s.setCore n c).minthr = s.minthr := rfl
@[simp] theorem setCore_corrected (n : Nat) (c : Core) : (s.setCore n c).corrected = s.corrected := rfl
@[simp] theorem setCore_uncorrected (n : Nat) (c : Core) : (s.setCore n c).uncorrected = s.uncorrected := rfl
@[simp] theorem setCore_deven (n : Nat) (c : Core) : (s.setCore n c).deven = s.deven := rfl
@[simp] theorem setCore_started (n : Nat) (c : Core) : (s.setCore n c).started = s.started := rfl
@[simp] theorem setCore_mailbox (n : Nat) (c : Core) : (s.setCore n c).mailbox = s.mailbox := rfl
@[simp] theorem setCore_portsUp (n : Nat) (c : Core) : (s.setCore n c).portsUp = s.portsUp := rfl
@[simp] theorem setCore_lostLinks (n : Nat) (c : Core) : (s.setCore n c).lostLinks = s.lostLinks := rfl
@[simp] theorem setCore_portFlits (n : Nat) (c : Core) : (s.setCore n c).portFlits = s.portFlits := rfl
@[simp] theorem setCore_pathNext (n : Nat) (c : Core) : (s.setCore n c).pathNext = s.pathNext := rfl
@[simp] theorem setCore_moves (n : Nat) (c : Core) : (s.setCore n c).moves = s.moves := rfl
@[simp] theorem setCore_podDir (n : Nat) (c : Core) : (s.setCore n c).podDir = s.podDir := rfl
@[simp] theorem setCore_peerWait (n : Nat) (c : Core) : (s.setCore n c).peerWait = s.peerWait := rfl
@[simp] theorem setCore_cowQueue (n : Nat) (c : Core) : (s.setCore n c).cowQueue = s.cowQueue := rfl
@[simp] theorem setCore_migrants (n : Nat) (c : Core) : (s.setCore n c).migrants = s.migrants := rfl
@[simp] theorem setCore_cpBusy (n : Nat) (c : Core) : (s.setCore n c).cpBusy = s.cpBusy := rfl
@[simp] theorem setCore_capBusy (n : Nat) (c : Core) : (s.setCore n c).capBusy = s.capBusy := rfl
@[simp] theorem setCore_editions (n : Nat) (c : Core) : (s.setCore n c).editions = s.editions := rfl
@[simp] theorem setCore_hostReads (n : Nat) (c : Core) : (s.setCore n c).hostReads = s.hostReads := rfl
@[simp] theorem setCore_fabricOut (n : Nat) (c : Core) : (s.setCore n c).fabricOut = s.fabricOut := rfl
@[simp] theorem setCore_msix (n : Nat) (c : Core) : (s.setCore n c).msix = s.msix := rfl
@[simp] theorem setCore_halted (n : Nat) (c : Core) : (s.setCore n c).halted = s.halted := rfl
@[simp] theorem setCore_now (n : Nat) (c : Core) : (s.setCore n c).now = s.now := rfl
@[simp] theorem setCore_agenda (n : Nat) (c : Core) : (s.setCore n c).agenda = s.agenda := rfl
@[simp] theorem setCore_sent (n : Nat) (c : Core) : (s.setCore n c).sent = s.sent := rfl
@[simp] theorem setCore_flush (n : Nat) (c : Core) : (s.setCore n c).flush = s.flush := rfl
@[simp] theorem setCore_ev (n : Nat) (c : Core) : (s.setCore n c).ev = s.ev := rfl
@[simp] theorem setCore_cur (n : Nat) (c : Core) : (s.setCore n c).cur = s.cur := rfl
@[simp] theorem setCore_smp (n : Nat) (c : Core) : (s.setCore n c).smp = s.smp := rfl
@[simp] theorem setCore_latch (n : Nat) (c : Core) : (s.setCore n c).latch = s.latch := rfl
@[simp] theorem setCore_issue (n : Nat) (c : Core) : (s.setCore n c).issue = s.issue := rfl
@[simp] theorem setCore_channels (n : Nat) (c : Core) : (s.setCore n c).channels = s.channels := rfl
@[simp] theorem setCore_ids (n : Nat) (c : Core) : (s.setCore n c).ids = s.ids := rfl
@[simp] theorem setCore_free (n : Nat) (c : Core) : (s.setCore n c).free = s.free := rfl

@[simp] theorem setStrand_quires (r : Ref) (t : Strand) : (s.setStrand r t).quires = s.quires := rfl
@[simp] theorem setStrand_dies (r : Ref) (t : Strand) : (s.setStrand r t).dies = s.dies := rfl
@[simp] theorem setStrand_hbm (r : Ref) (t : Strand) : (s.setStrand r t).hbm = s.hbm := rfl
@[simp] theorem setStrand_l2 (r : Ref) (t : Strand) : (s.setStrand r t).l2 = s.l2 := rfl
@[simp] theorem setStrand_contexts (r : Ref) (t : Strand) : (s.setStrand r t).contexts = s.contexts := rfl
@[simp] theorem setStrand_partitions (r : Ref) (t : Strand) : (s.setStrand r t).partitions = s.partitions := rfl
@[simp] theorem setStrand_samplers (r : Ref) (t : Strand) : (s.setStrand r t).samplers = s.samplers := rfl
@[simp] theorem setStrand_decoders (r : Ref) (t : Strand) : (s.setStrand r t).decoders = s.decoders := rfl
@[simp] theorem setStrand_slices (r : Ref) (t : Strand) : (s.setStrand r t).slices = s.slices := rfl
@[simp] theorem setStrand_chseq (r : Ref) (t : Strand) : (s.setStrand r t).chseq = s.chseq := rfl
@[simp] theorem setStrand_records (r : Ref) (t : Strand) : (s.setStrand r t).records = s.records := rfl
@[simp] theorem setStrand_tasks (r : Ref) (t : Strand) : (s.setStrand r t).tasks = s.tasks := rfl
@[simp] theorem setStrand_pkgid (r : Ref) (t : Strand) : (s.setStrand r t).pkgid = s.pkgid := rfl
@[simp] theorem setStrand_barriers (r : Ref) (t : Strand) : (s.setStrand r t).barriers = s.barriers := rfl
@[simp] theorem setStrand_ports (r : Ref) (t : Strand) : (s.setStrand r t).ports = s.ports := rfl
@[simp] theorem setStrand_minthr (r : Ref) (t : Strand) : (s.setStrand r t).minthr = s.minthr := rfl
@[simp] theorem setStrand_corrected (r : Ref) (t : Strand) : (s.setStrand r t).corrected = s.corrected := rfl
@[simp] theorem setStrand_uncorrected (r : Ref) (t : Strand) : (s.setStrand r t).uncorrected = s.uncorrected := rfl
@[simp] theorem setStrand_deven (r : Ref) (t : Strand) : (s.setStrand r t).deven = s.deven := rfl
@[simp] theorem setStrand_started (r : Ref) (t : Strand) : (s.setStrand r t).started = s.started := rfl
@[simp] theorem setStrand_mailbox (r : Ref) (t : Strand) : (s.setStrand r t).mailbox = s.mailbox := rfl
@[simp] theorem setStrand_portsUp (r : Ref) (t : Strand) : (s.setStrand r t).portsUp = s.portsUp := rfl
@[simp] theorem setStrand_lostLinks (r : Ref) (t : Strand) : (s.setStrand r t).lostLinks = s.lostLinks := rfl
@[simp] theorem setStrand_portFlits (r : Ref) (t : Strand) : (s.setStrand r t).portFlits = s.portFlits := rfl
@[simp] theorem setStrand_pathNext (r : Ref) (t : Strand) : (s.setStrand r t).pathNext = s.pathNext := rfl
@[simp] theorem setStrand_moves (r : Ref) (t : Strand) : (s.setStrand r t).moves = s.moves := rfl
@[simp] theorem setStrand_podDir (r : Ref) (t : Strand) : (s.setStrand r t).podDir = s.podDir := rfl
@[simp] theorem setStrand_peerWait (r : Ref) (t : Strand) : (s.setStrand r t).peerWait = s.peerWait := rfl
@[simp] theorem setStrand_cowQueue (r : Ref) (t : Strand) : (s.setStrand r t).cowQueue = s.cowQueue := rfl
@[simp] theorem setStrand_migrants (r : Ref) (t : Strand) : (s.setStrand r t).migrants = s.migrants := rfl
@[simp] theorem setStrand_cpBusy (r : Ref) (t : Strand) : (s.setStrand r t).cpBusy = s.cpBusy := rfl
@[simp] theorem setStrand_capBusy (r : Ref) (t : Strand) : (s.setStrand r t).capBusy = s.capBusy := rfl
@[simp] theorem setStrand_editions (r : Ref) (t : Strand) : (s.setStrand r t).editions = s.editions := rfl
@[simp] theorem setStrand_hostReads (r : Ref) (t : Strand) : (s.setStrand r t).hostReads = s.hostReads := rfl
@[simp] theorem setStrand_fabricOut (r : Ref) (t : Strand) : (s.setStrand r t).fabricOut = s.fabricOut := rfl
@[simp] theorem setStrand_msix (r : Ref) (t : Strand) : (s.setStrand r t).msix = s.msix := rfl
@[simp] theorem setStrand_halted (r : Ref) (t : Strand) : (s.setStrand r t).halted = s.halted := rfl
@[simp] theorem setStrand_now (r : Ref) (t : Strand) : (s.setStrand r t).now = s.now := rfl
@[simp] theorem setStrand_agenda (r : Ref) (t : Strand) : (s.setStrand r t).agenda = s.agenda := rfl
@[simp] theorem setStrand_sent (r : Ref) (t : Strand) : (s.setStrand r t).sent = s.sent := rfl
@[simp] theorem setStrand_flush (r : Ref) (t : Strand) : (s.setStrand r t).flush = s.flush := rfl
@[simp] theorem setStrand_ev (r : Ref) (t : Strand) : (s.setStrand r t).ev = s.ev := rfl
@[simp] theorem setStrand_cur (r : Ref) (t : Strand) : (s.setStrand r t).cur = s.cur := rfl
@[simp] theorem setStrand_smp (r : Ref) (t : Strand) : (s.setStrand r t).smp = s.smp := rfl
@[simp] theorem setStrand_latch (r : Ref) (t : Strand) : (s.setStrand r t).latch = s.latch := rfl
@[simp] theorem setStrand_issue (r : Ref) (t : Strand) : (s.setStrand r t).issue = s.issue := rfl
@[simp] theorem setStrand_channels (r : Ref) (t : Strand) : (s.setStrand r t).channels = s.channels := rfl
@[simp] theorem setStrand_ids (r : Ref) (t : Strand) : (s.setStrand r t).ids = s.ids := rfl
@[simp] theorem setStrand_free (r : Ref) (t : Strand) : (s.setStrand r t).free = s.free := rfl

@[simp] theorem setMe_quires (t : Strand) : (s.setMe t).quires = s.quires := rfl
@[simp] theorem setMe_dies (t : Strand) : (s.setMe t).dies = s.dies := rfl
@[simp] theorem setMe_hbm (t : Strand) : (s.setMe t).hbm = s.hbm := rfl
@[simp] theorem setMe_l2 (t : Strand) : (s.setMe t).l2 = s.l2 := rfl
@[simp] theorem setMe_contexts (t : Strand) : (s.setMe t).contexts = s.contexts := rfl
@[simp] theorem setMe_partitions (t : Strand) : (s.setMe t).partitions = s.partitions := rfl
@[simp] theorem setMe_samplers (t : Strand) : (s.setMe t).samplers = s.samplers := rfl
@[simp] theorem setMe_decoders (t : Strand) : (s.setMe t).decoders = s.decoders := rfl
@[simp] theorem setMe_slices (t : Strand) : (s.setMe t).slices = s.slices := rfl
@[simp] theorem setMe_chseq (t : Strand) : (s.setMe t).chseq = s.chseq := rfl
@[simp] theorem setMe_records (t : Strand) : (s.setMe t).records = s.records := rfl
@[simp] theorem setMe_tasks (t : Strand) : (s.setMe t).tasks = s.tasks := rfl
@[simp] theorem setMe_pkgid (t : Strand) : (s.setMe t).pkgid = s.pkgid := rfl
@[simp] theorem setMe_barriers (t : Strand) : (s.setMe t).barriers = s.barriers := rfl
@[simp] theorem setMe_ports (t : Strand) : (s.setMe t).ports = s.ports := rfl
@[simp] theorem setMe_minthr (t : Strand) : (s.setMe t).minthr = s.minthr := rfl
@[simp] theorem setMe_corrected (t : Strand) : (s.setMe t).corrected = s.corrected := rfl
@[simp] theorem setMe_uncorrected (t : Strand) : (s.setMe t).uncorrected = s.uncorrected := rfl
@[simp] theorem setMe_deven (t : Strand) : (s.setMe t).deven = s.deven := rfl
@[simp] theorem setMe_started (t : Strand) : (s.setMe t).started = s.started := rfl
@[simp] theorem setMe_mailbox (t : Strand) : (s.setMe t).mailbox = s.mailbox := rfl
@[simp] theorem setMe_portsUp (t : Strand) : (s.setMe t).portsUp = s.portsUp := rfl
@[simp] theorem setMe_lostLinks (t : Strand) : (s.setMe t).lostLinks = s.lostLinks := rfl
@[simp] theorem setMe_portFlits (t : Strand) : (s.setMe t).portFlits = s.portFlits := rfl
@[simp] theorem setMe_pathNext (t : Strand) : (s.setMe t).pathNext = s.pathNext := rfl
@[simp] theorem setMe_moves (t : Strand) : (s.setMe t).moves = s.moves := rfl
@[simp] theorem setMe_podDir (t : Strand) : (s.setMe t).podDir = s.podDir := rfl
@[simp] theorem setMe_peerWait (t : Strand) : (s.setMe t).peerWait = s.peerWait := rfl
@[simp] theorem setMe_cowQueue (t : Strand) : (s.setMe t).cowQueue = s.cowQueue := rfl
@[simp] theorem setMe_migrants (t : Strand) : (s.setMe t).migrants = s.migrants := rfl
@[simp] theorem setMe_cpBusy (t : Strand) : (s.setMe t).cpBusy = s.cpBusy := rfl
@[simp] theorem setMe_capBusy (t : Strand) : (s.setMe t).capBusy = s.capBusy := rfl
@[simp] theorem setMe_editions (t : Strand) : (s.setMe t).editions = s.editions := rfl
@[simp] theorem setMe_hostReads (t : Strand) : (s.setMe t).hostReads = s.hostReads := rfl
@[simp] theorem setMe_fabricOut (t : Strand) : (s.setMe t).fabricOut = s.fabricOut := rfl
@[simp] theorem setMe_msix (t : Strand) : (s.setMe t).msix = s.msix := rfl
@[simp] theorem setMe_halted (t : Strand) : (s.setMe t).halted = s.halted := rfl
@[simp] theorem setMe_now (t : Strand) : (s.setMe t).now = s.now := rfl
@[simp] theorem setMe_agenda (t : Strand) : (s.setMe t).agenda = s.agenda := rfl
@[simp] theorem setMe_sent (t : Strand) : (s.setMe t).sent = s.sent := rfl
@[simp] theorem setMe_flush (t : Strand) : (s.setMe t).flush = s.flush := rfl
@[simp] theorem setMe_ev (t : Strand) : (s.setMe t).ev = s.ev := rfl
@[simp] theorem setMe_cur (t : Strand) : (s.setMe t).cur = s.cur := rfl
@[simp] theorem setMe_smp (t : Strand) : (s.setMe t).smp = s.smp := rfl
@[simp] theorem setMe_latch (t : Strand) : (s.setMe t).latch = s.latch := rfl
@[simp] theorem setMe_issue (t : Strand) : (s.setMe t).issue = s.issue := rfl
@[simp] theorem setMe_channels (t : Strand) : (s.setMe t).channels = s.channels := rfl
@[simp] theorem setMe_ids (t : Strand) : (s.setMe t).ids = s.ids := rfl
@[simp] theorem setMe_free (t : Strand) : (s.setMe t).free = s.free := rfl

@[simp] theorem setQuire_cores (n : Nat) (q : Quire) : (s.setQuire n q).cores = s.cores := rfl
@[simp] theorem setQuire_dies (n : Nat) (q : Quire) : (s.setQuire n q).dies = s.dies := rfl
@[simp] theorem setQuire_hbm (n : Nat) (q : Quire) : (s.setQuire n q).hbm = s.hbm := rfl
@[simp] theorem setQuire_l2 (n : Nat) (q : Quire) : (s.setQuire n q).l2 = s.l2 := rfl
@[simp] theorem setQuire_contexts (n : Nat) (q : Quire) : (s.setQuire n q).contexts = s.contexts := rfl
@[simp] theorem setQuire_partitions (n : Nat) (q : Quire) : (s.setQuire n q).partitions = s.partitions := rfl
@[simp] theorem setQuire_samplers (n : Nat) (q : Quire) : (s.setQuire n q).samplers = s.samplers := rfl
@[simp] theorem setQuire_decoders (n : Nat) (q : Quire) : (s.setQuire n q).decoders = s.decoders := rfl
@[simp] theorem setQuire_slices (n : Nat) (q : Quire) : (s.setQuire n q).slices = s.slices := rfl
@[simp] theorem setQuire_chseq (n : Nat) (q : Quire) : (s.setQuire n q).chseq = s.chseq := rfl
@[simp] theorem setQuire_records (n : Nat) (q : Quire) : (s.setQuire n q).records = s.records := rfl
@[simp] theorem setQuire_tasks (n : Nat) (q : Quire) : (s.setQuire n q).tasks = s.tasks := rfl
@[simp] theorem setQuire_pkgid (n : Nat) (q : Quire) : (s.setQuire n q).pkgid = s.pkgid := rfl
@[simp] theorem setQuire_barriers (n : Nat) (q : Quire) : (s.setQuire n q).barriers = s.barriers := rfl
@[simp] theorem setQuire_ports (n : Nat) (q : Quire) : (s.setQuire n q).ports = s.ports := rfl
@[simp] theorem setQuire_minthr (n : Nat) (q : Quire) : (s.setQuire n q).minthr = s.minthr := rfl
@[simp] theorem setQuire_corrected (n : Nat) (q : Quire) : (s.setQuire n q).corrected = s.corrected := rfl
@[simp] theorem setQuire_uncorrected (n : Nat) (q : Quire) : (s.setQuire n q).uncorrected = s.uncorrected := rfl
@[simp] theorem setQuire_deven (n : Nat) (q : Quire) : (s.setQuire n q).deven = s.deven := rfl
@[simp] theorem setQuire_started (n : Nat) (q : Quire) : (s.setQuire n q).started = s.started := rfl
@[simp] theorem setQuire_mailbox (n : Nat) (q : Quire) : (s.setQuire n q).mailbox = s.mailbox := rfl
@[simp] theorem setQuire_portsUp (n : Nat) (q : Quire) : (s.setQuire n q).portsUp = s.portsUp := rfl
@[simp] theorem setQuire_lostLinks (n : Nat) (q : Quire) : (s.setQuire n q).lostLinks = s.lostLinks := rfl
@[simp] theorem setQuire_portFlits (n : Nat) (q : Quire) : (s.setQuire n q).portFlits = s.portFlits := rfl
@[simp] theorem setQuire_pathNext (n : Nat) (q : Quire) : (s.setQuire n q).pathNext = s.pathNext := rfl
@[simp] theorem setQuire_moves (n : Nat) (q : Quire) : (s.setQuire n q).moves = s.moves := rfl
@[simp] theorem setQuire_podDir (n : Nat) (q : Quire) : (s.setQuire n q).podDir = s.podDir := rfl
@[simp] theorem setQuire_peerWait (n : Nat) (q : Quire) : (s.setQuire n q).peerWait = s.peerWait := rfl
@[simp] theorem setQuire_cowQueue (n : Nat) (q : Quire) : (s.setQuire n q).cowQueue = s.cowQueue := rfl
@[simp] theorem setQuire_migrants (n : Nat) (q : Quire) : (s.setQuire n q).migrants = s.migrants := rfl
@[simp] theorem setQuire_cpBusy (n : Nat) (q : Quire) : (s.setQuire n q).cpBusy = s.cpBusy := rfl
@[simp] theorem setQuire_capBusy (n : Nat) (q : Quire) : (s.setQuire n q).capBusy = s.capBusy := rfl
@[simp] theorem setQuire_editions (n : Nat) (q : Quire) : (s.setQuire n q).editions = s.editions := rfl
@[simp] theorem setQuire_hostReads (n : Nat) (q : Quire) : (s.setQuire n q).hostReads = s.hostReads := rfl
@[simp] theorem setQuire_fabricOut (n : Nat) (q : Quire) : (s.setQuire n q).fabricOut = s.fabricOut := rfl
@[simp] theorem setQuire_msix (n : Nat) (q : Quire) : (s.setQuire n q).msix = s.msix := rfl
@[simp] theorem setQuire_halted (n : Nat) (q : Quire) : (s.setQuire n q).halted = s.halted := rfl
@[simp] theorem setQuire_now (n : Nat) (q : Quire) : (s.setQuire n q).now = s.now := rfl
@[simp] theorem setQuire_agenda (n : Nat) (q : Quire) : (s.setQuire n q).agenda = s.agenda := rfl
@[simp] theorem setQuire_sent (n : Nat) (q : Quire) : (s.setQuire n q).sent = s.sent := rfl
@[simp] theorem setQuire_flush (n : Nat) (q : Quire) : (s.setQuire n q).flush = s.flush := rfl
@[simp] theorem setQuire_ev (n : Nat) (q : Quire) : (s.setQuire n q).ev = s.ev := rfl
@[simp] theorem setQuire_cur (n : Nat) (q : Quire) : (s.setQuire n q).cur = s.cur := rfl
@[simp] theorem setQuire_smp (n : Nat) (q : Quire) : (s.setQuire n q).smp = s.smp := rfl
@[simp] theorem setQuire_latch (n : Nat) (q : Quire) : (s.setQuire n q).latch = s.latch := rfl
@[simp] theorem setQuire_issue (n : Nat) (q : Quire) : (s.setQuire n q).issue = s.issue := rfl
@[simp] theorem setQuire_channels (n : Nat) (q : Quire) : (s.setQuire n q).channels = s.channels := rfl
@[simp] theorem setQuire_ids (n : Nat) (q : Quire) : (s.setQuire n q).ids = s.ids := rfl
@[simp] theorem setQuire_free (n : Nat) (q : Quire) : (s.setQuire n q).free = s.free := rfl

@[simp] theorem setDie_cores (n : Nat) (d : Die) : (s.setDie n d).cores = s.cores := rfl
@[simp] theorem setDie_quires (n : Nat) (d : Die) : (s.setDie n d).quires = s.quires := rfl
@[simp] theorem setDie_hbm (n : Nat) (d : Die) : (s.setDie n d).hbm = s.hbm := rfl
@[simp] theorem setDie_l2 (n : Nat) (d : Die) : (s.setDie n d).l2 = s.l2 := rfl
@[simp] theorem setDie_contexts (n : Nat) (d : Die) : (s.setDie n d).contexts = s.contexts := rfl
@[simp] theorem setDie_partitions (n : Nat) (d : Die) : (s.setDie n d).partitions = s.partitions := rfl
@[simp] theorem setDie_samplers (n : Nat) (d : Die) : (s.setDie n d).samplers = s.samplers := rfl
@[simp] theorem setDie_decoders (n : Nat) (d : Die) : (s.setDie n d).decoders = s.decoders := rfl
@[simp] theorem setDie_slices (n : Nat) (d : Die) : (s.setDie n d).slices = s.slices := rfl
@[simp] theorem setDie_chseq (n : Nat) (d : Die) : (s.setDie n d).chseq = s.chseq := rfl
@[simp] theorem setDie_records (n : Nat) (d : Die) : (s.setDie n d).records = s.records := rfl
@[simp] theorem setDie_tasks (n : Nat) (d : Die) : (s.setDie n d).tasks = s.tasks := rfl
@[simp] theorem setDie_pkgid (n : Nat) (d : Die) : (s.setDie n d).pkgid = s.pkgid := rfl
@[simp] theorem setDie_barriers (n : Nat) (d : Die) : (s.setDie n d).barriers = s.barriers := rfl
@[simp] theorem setDie_ports (n : Nat) (d : Die) : (s.setDie n d).ports = s.ports := rfl
@[simp] theorem setDie_minthr (n : Nat) (d : Die) : (s.setDie n d).minthr = s.minthr := rfl
@[simp] theorem setDie_corrected (n : Nat) (d : Die) : (s.setDie n d).corrected = s.corrected := rfl
@[simp] theorem setDie_uncorrected (n : Nat) (d : Die) : (s.setDie n d).uncorrected = s.uncorrected := rfl
@[simp] theorem setDie_deven (n : Nat) (d : Die) : (s.setDie n d).deven = s.deven := rfl
@[simp] theorem setDie_started (n : Nat) (d : Die) : (s.setDie n d).started = s.started := rfl
@[simp] theorem setDie_mailbox (n : Nat) (d : Die) : (s.setDie n d).mailbox = s.mailbox := rfl
@[simp] theorem setDie_portsUp (n : Nat) (d : Die) : (s.setDie n d).portsUp = s.portsUp := rfl
@[simp] theorem setDie_lostLinks (n : Nat) (d : Die) : (s.setDie n d).lostLinks = s.lostLinks := rfl
@[simp] theorem setDie_portFlits (n : Nat) (d : Die) : (s.setDie n d).portFlits = s.portFlits := rfl
@[simp] theorem setDie_pathNext (n : Nat) (d : Die) : (s.setDie n d).pathNext = s.pathNext := rfl
@[simp] theorem setDie_moves (n : Nat) (d : Die) : (s.setDie n d).moves = s.moves := rfl
@[simp] theorem setDie_podDir (n : Nat) (d : Die) : (s.setDie n d).podDir = s.podDir := rfl
@[simp] theorem setDie_peerWait (n : Nat) (d : Die) : (s.setDie n d).peerWait = s.peerWait := rfl
@[simp] theorem setDie_cowQueue (n : Nat) (d : Die) : (s.setDie n d).cowQueue = s.cowQueue := rfl
@[simp] theorem setDie_migrants (n : Nat) (d : Die) : (s.setDie n d).migrants = s.migrants := rfl
@[simp] theorem setDie_cpBusy (n : Nat) (d : Die) : (s.setDie n d).cpBusy = s.cpBusy := rfl
@[simp] theorem setDie_capBusy (n : Nat) (d : Die) : (s.setDie n d).capBusy = s.capBusy := rfl
@[simp] theorem setDie_editions (n : Nat) (d : Die) : (s.setDie n d).editions = s.editions := rfl
@[simp] theorem setDie_hostReads (n : Nat) (d : Die) : (s.setDie n d).hostReads = s.hostReads := rfl
@[simp] theorem setDie_fabricOut (n : Nat) (d : Die) : (s.setDie n d).fabricOut = s.fabricOut := rfl
@[simp] theorem setDie_msix (n : Nat) (d : Die) : (s.setDie n d).msix = s.msix := rfl
@[simp] theorem setDie_halted (n : Nat) (d : Die) : (s.setDie n d).halted = s.halted := rfl
@[simp] theorem setDie_now (n : Nat) (d : Die) : (s.setDie n d).now = s.now := rfl
@[simp] theorem setDie_agenda (n : Nat) (d : Die) : (s.setDie n d).agenda = s.agenda := rfl
@[simp] theorem setDie_sent (n : Nat) (d : Die) : (s.setDie n d).sent = s.sent := rfl
@[simp] theorem setDie_flush (n : Nat) (d : Die) : (s.setDie n d).flush = s.flush := rfl
@[simp] theorem setDie_ev (n : Nat) (d : Die) : (s.setDie n d).ev = s.ev := rfl
@[simp] theorem setDie_cur (n : Nat) (d : Die) : (s.setDie n d).cur = s.cur := rfl
@[simp] theorem setDie_smp (n : Nat) (d : Die) : (s.setDie n d).smp = s.smp := rfl
@[simp] theorem setDie_latch (n : Nat) (d : Die) : (s.setDie n d).latch = s.latch := rfl
@[simp] theorem setDie_issue (n : Nat) (d : Die) : (s.setDie n d).issue = s.issue := rfl
@[simp] theorem setDie_channels (n : Nat) (d : Die) : (s.setDie n d).channels = s.channels := rfl
@[simp] theorem setDie_ids (n : Nat) (d : Die) : (s.setDie n d).ids = s.ids := rfl
@[simp] theorem setDie_free (n : Nat) (d : Die) : (s.setDie n d).free = s.free := rfl

@[simp] theorem setPartition_cores (n : Nat) (p : Partition) : (s.setPartition n p).cores = s.cores := rfl
@[simp] theorem setPartition_quires (n : Nat) (p : Partition) : (s.setPartition n p).quires = s.quires := rfl
@[simp] theorem setPartition_dies (n : Nat) (p : Partition) : (s.setPartition n p).dies = s.dies := rfl
@[simp] theorem setPartition_hbm (n : Nat) (p : Partition) : (s.setPartition n p).hbm = s.hbm := rfl
@[simp] theorem setPartition_l2 (n : Nat) (p : Partition) : (s.setPartition n p).l2 = s.l2 := rfl
@[simp] theorem setPartition_contexts (n : Nat) (p : Partition) : (s.setPartition n p).contexts = s.contexts := rfl
@[simp] theorem setPartition_samplers (n : Nat) (p : Partition) : (s.setPartition n p).samplers = s.samplers := rfl
@[simp] theorem setPartition_decoders (n : Nat) (p : Partition) : (s.setPartition n p).decoders = s.decoders := rfl
@[simp] theorem setPartition_slices (n : Nat) (p : Partition) : (s.setPartition n p).slices = s.slices := rfl
@[simp] theorem setPartition_chseq (n : Nat) (p : Partition) : (s.setPartition n p).chseq = s.chseq := rfl
@[simp] theorem setPartition_records (n : Nat) (p : Partition) : (s.setPartition n p).records = s.records := rfl
@[simp] theorem setPartition_tasks (n : Nat) (p : Partition) : (s.setPartition n p).tasks = s.tasks := rfl
@[simp] theorem setPartition_pkgid (n : Nat) (p : Partition) : (s.setPartition n p).pkgid = s.pkgid := rfl
@[simp] theorem setPartition_barriers (n : Nat) (p : Partition) : (s.setPartition n p).barriers = s.barriers := rfl
@[simp] theorem setPartition_ports (n : Nat) (p : Partition) : (s.setPartition n p).ports = s.ports := rfl
@[simp] theorem setPartition_minthr (n : Nat) (p : Partition) : (s.setPartition n p).minthr = s.minthr := rfl
@[simp] theorem setPartition_corrected (n : Nat) (p : Partition) : (s.setPartition n p).corrected = s.corrected := rfl
@[simp] theorem setPartition_uncorrected (n : Nat) (p : Partition) : (s.setPartition n p).uncorrected = s.uncorrected := rfl
@[simp] theorem setPartition_deven (n : Nat) (p : Partition) : (s.setPartition n p).deven = s.deven := rfl
@[simp] theorem setPartition_started (n : Nat) (p : Partition) : (s.setPartition n p).started = s.started := rfl
@[simp] theorem setPartition_mailbox (n : Nat) (p : Partition) : (s.setPartition n p).mailbox = s.mailbox := rfl
@[simp] theorem setPartition_portsUp (n : Nat) (p : Partition) : (s.setPartition n p).portsUp = s.portsUp := rfl
@[simp] theorem setPartition_lostLinks (n : Nat) (p : Partition) : (s.setPartition n p).lostLinks = s.lostLinks := rfl
@[simp] theorem setPartition_portFlits (n : Nat) (p : Partition) : (s.setPartition n p).portFlits = s.portFlits := rfl
@[simp] theorem setPartition_pathNext (n : Nat) (p : Partition) : (s.setPartition n p).pathNext = s.pathNext := rfl
@[simp] theorem setPartition_moves (n : Nat) (p : Partition) : (s.setPartition n p).moves = s.moves := rfl
@[simp] theorem setPartition_podDir (n : Nat) (p : Partition) : (s.setPartition n p).podDir = s.podDir := rfl
@[simp] theorem setPartition_peerWait (n : Nat) (p : Partition) : (s.setPartition n p).peerWait = s.peerWait := rfl
@[simp] theorem setPartition_cowQueue (n : Nat) (p : Partition) : (s.setPartition n p).cowQueue = s.cowQueue := rfl
@[simp] theorem setPartition_migrants (n : Nat) (p : Partition) : (s.setPartition n p).migrants = s.migrants := rfl
@[simp] theorem setPartition_cpBusy (n : Nat) (p : Partition) : (s.setPartition n p).cpBusy = s.cpBusy := rfl
@[simp] theorem setPartition_capBusy (n : Nat) (p : Partition) : (s.setPartition n p).capBusy = s.capBusy := rfl
@[simp] theorem setPartition_editions (n : Nat) (p : Partition) : (s.setPartition n p).editions = s.editions := rfl
@[simp] theorem setPartition_hostReads (n : Nat) (p : Partition) : (s.setPartition n p).hostReads = s.hostReads := rfl
@[simp] theorem setPartition_fabricOut (n : Nat) (p : Partition) : (s.setPartition n p).fabricOut = s.fabricOut := rfl
@[simp] theorem setPartition_msix (n : Nat) (p : Partition) : (s.setPartition n p).msix = s.msix := rfl
@[simp] theorem setPartition_halted (n : Nat) (p : Partition) : (s.setPartition n p).halted = s.halted := rfl
@[simp] theorem setPartition_now (n : Nat) (p : Partition) : (s.setPartition n p).now = s.now := rfl
@[simp] theorem setPartition_agenda (n : Nat) (p : Partition) : (s.setPartition n p).agenda = s.agenda := rfl
@[simp] theorem setPartition_sent (n : Nat) (p : Partition) : (s.setPartition n p).sent = s.sent := rfl
@[simp] theorem setPartition_flush (n : Nat) (p : Partition) : (s.setPartition n p).flush = s.flush := rfl
@[simp] theorem setPartition_ev (n : Nat) (p : Partition) : (s.setPartition n p).ev = s.ev := rfl
@[simp] theorem setPartition_cur (n : Nat) (p : Partition) : (s.setPartition n p).cur = s.cur := rfl
@[simp] theorem setPartition_smp (n : Nat) (p : Partition) : (s.setPartition n p).smp = s.smp := rfl
@[simp] theorem setPartition_latch (n : Nat) (p : Partition) : (s.setPartition n p).latch = s.latch := rfl
@[simp] theorem setPartition_issue (n : Nat) (p : Partition) : (s.setPartition n p).issue = s.issue := rfl
@[simp] theorem setPartition_channels (n : Nat) (p : Partition) : (s.setPartition n p).channels = s.channels := rfl
@[simp] theorem setPartition_ids (n : Nat) (p : Partition) : (s.setPartition n p).ids = s.ids := rfl
@[simp] theorem setPartition_free (n : Nat) (p : Partition) : (s.setPartition n p).free = s.free := rfl

@[simp] theorem setContext_cores (p n : Nat) (c : Context) : (s.setContext p n c).cores = s.cores := rfl
@[simp] theorem setContext_quires (p n : Nat) (c : Context) : (s.setContext p n c).quires = s.quires := rfl
@[simp] theorem setContext_dies (p n : Nat) (c : Context) : (s.setContext p n c).dies = s.dies := rfl
@[simp] theorem setContext_hbm (p n : Nat) (c : Context) : (s.setContext p n c).hbm = s.hbm := rfl
@[simp] theorem setContext_l2 (p n : Nat) (c : Context) : (s.setContext p n c).l2 = s.l2 := rfl
@[simp] theorem setContext_partitions (p n : Nat) (c : Context) : (s.setContext p n c).partitions = s.partitions := rfl
@[simp] theorem setContext_samplers (p n : Nat) (c : Context) : (s.setContext p n c).samplers = s.samplers := rfl
@[simp] theorem setContext_decoders (p n : Nat) (c : Context) : (s.setContext p n c).decoders = s.decoders := rfl
@[simp] theorem setContext_slices (p n : Nat) (c : Context) : (s.setContext p n c).slices = s.slices := rfl
@[simp] theorem setContext_chseq (p n : Nat) (c : Context) : (s.setContext p n c).chseq = s.chseq := rfl
@[simp] theorem setContext_records (p n : Nat) (c : Context) : (s.setContext p n c).records = s.records := rfl
@[simp] theorem setContext_tasks (p n : Nat) (c : Context) : (s.setContext p n c).tasks = s.tasks := rfl
@[simp] theorem setContext_pkgid (p n : Nat) (c : Context) : (s.setContext p n c).pkgid = s.pkgid := rfl
@[simp] theorem setContext_barriers (p n : Nat) (c : Context) : (s.setContext p n c).barriers = s.barriers := rfl
@[simp] theorem setContext_ports (p n : Nat) (c : Context) : (s.setContext p n c).ports = s.ports := rfl
@[simp] theorem setContext_minthr (p n : Nat) (c : Context) : (s.setContext p n c).minthr = s.minthr := rfl
@[simp] theorem setContext_corrected (p n : Nat) (c : Context) : (s.setContext p n c).corrected = s.corrected := rfl
@[simp] theorem setContext_uncorrected (p n : Nat) (c : Context) : (s.setContext p n c).uncorrected = s.uncorrected := rfl
@[simp] theorem setContext_deven (p n : Nat) (c : Context) : (s.setContext p n c).deven = s.deven := rfl
@[simp] theorem setContext_started (p n : Nat) (c : Context) : (s.setContext p n c).started = s.started := rfl
@[simp] theorem setContext_mailbox (p n : Nat) (c : Context) : (s.setContext p n c).mailbox = s.mailbox := rfl
@[simp] theorem setContext_portsUp (p n : Nat) (c : Context) : (s.setContext p n c).portsUp = s.portsUp := rfl
@[simp] theorem setContext_lostLinks (p n : Nat) (c : Context) : (s.setContext p n c).lostLinks = s.lostLinks := rfl
@[simp] theorem setContext_portFlits (p n : Nat) (c : Context) : (s.setContext p n c).portFlits = s.portFlits := rfl
@[simp] theorem setContext_pathNext (p n : Nat) (c : Context) : (s.setContext p n c).pathNext = s.pathNext := rfl
@[simp] theorem setContext_moves (p n : Nat) (c : Context) : (s.setContext p n c).moves = s.moves := rfl
@[simp] theorem setContext_podDir (p n : Nat) (c : Context) : (s.setContext p n c).podDir = s.podDir := rfl
@[simp] theorem setContext_peerWait (p n : Nat) (c : Context) : (s.setContext p n c).peerWait = s.peerWait := rfl
@[simp] theorem setContext_cowQueue (p n : Nat) (c : Context) : (s.setContext p n c).cowQueue = s.cowQueue := rfl
@[simp] theorem setContext_migrants (p n : Nat) (c : Context) : (s.setContext p n c).migrants = s.migrants := rfl
@[simp] theorem setContext_cpBusy (p n : Nat) (c : Context) : (s.setContext p n c).cpBusy = s.cpBusy := rfl
@[simp] theorem setContext_capBusy (p n : Nat) (c : Context) : (s.setContext p n c).capBusy = s.capBusy := rfl
@[simp] theorem setContext_editions (p n : Nat) (c : Context) : (s.setContext p n c).editions = s.editions := rfl
@[simp] theorem setContext_hostReads (p n : Nat) (c : Context) : (s.setContext p n c).hostReads = s.hostReads := rfl
@[simp] theorem setContext_fabricOut (p n : Nat) (c : Context) : (s.setContext p n c).fabricOut = s.fabricOut := rfl
@[simp] theorem setContext_msix (p n : Nat) (c : Context) : (s.setContext p n c).msix = s.msix := rfl
@[simp] theorem setContext_halted (p n : Nat) (c : Context) : (s.setContext p n c).halted = s.halted := rfl
@[simp] theorem setContext_now (p n : Nat) (c : Context) : (s.setContext p n c).now = s.now := rfl
@[simp] theorem setContext_agenda (p n : Nat) (c : Context) : (s.setContext p n c).agenda = s.agenda := rfl
@[simp] theorem setContext_sent (p n : Nat) (c : Context) : (s.setContext p n c).sent = s.sent := rfl
@[simp] theorem setContext_flush (p n : Nat) (c : Context) : (s.setContext p n c).flush = s.flush := rfl
@[simp] theorem setContext_ev (p n : Nat) (c : Context) : (s.setContext p n c).ev = s.ev := rfl
@[simp] theorem setContext_cur (p n : Nat) (c : Context) : (s.setContext p n c).cur = s.cur := rfl
@[simp] theorem setContext_smp (p n : Nat) (c : Context) : (s.setContext p n c).smp = s.smp := rfl
@[simp] theorem setContext_latch (p n : Nat) (c : Context) : (s.setContext p n c).latch = s.latch := rfl
@[simp] theorem setContext_issue (p n : Nat) (c : Context) : (s.setContext p n c).issue = s.issue := rfl
@[simp] theorem setContext_channels (p n : Nat) (c : Context) : (s.setContext p n c).channels = s.channels := rfl
@[simp] theorem setContext_ids (p n : Nat) (c : Context) : (s.setContext p n c).ids = s.ids := rfl
@[simp] theorem setContext_free (p n : Nat) (c : Context) : (s.setContext p n c).free = s.free := rfl

@[simp] theorem updSampler_cores (n : Nat) (f : Sampler → Sampler) : (s.updSampler n f).cores = s.cores := rfl
@[simp] theorem updSampler_quires (n : Nat) (f : Sampler → Sampler) : (s.updSampler n f).quires = s.quires := rfl
@[simp] theorem updSampler_dies (n : Nat) (f : Sampler → Sampler) : (s.updSampler n f).dies = s.dies := rfl
@[simp] theorem updSampler_hbm (n : Nat) (f : Sampler → Sampler) : (s.updSampler n f).hbm = s.hbm := rfl
@[simp] theorem updSampler_l2 (n : Nat) (f : Sampler → Sampler) : (s.updSampler n f).l2 = s.l2 := rfl
@[simp] theorem updSampler_contexts (n : Nat) (f : Sampler → Sampler) : (s.updSampler n f).contexts = s.contexts := rfl
@[simp] theorem updSampler_partitions (n : Nat) (f : Sampler → Sampler) : (s.updSampler n f).partitions = s.partitions := rfl
@[simp] theorem updSampler_decoders (n : Nat) (f : Sampler → Sampler) : (s.updSampler n f).decoders = s.decoders := rfl
@[simp] theorem updSampler_slices (n : Nat) (f : Sampler → Sampler) : (s.updSampler n f).slices = s.slices := rfl
@[simp] theorem updSampler_chseq (n : Nat) (f : Sampler → Sampler) : (s.updSampler n f).chseq = s.chseq := rfl
@[simp] theorem updSampler_records (n : Nat) (f : Sampler → Sampler) : (s.updSampler n f).records = s.records := rfl
@[simp] theorem updSampler_tasks (n : Nat) (f : Sampler → Sampler) : (s.updSampler n f).tasks = s.tasks := rfl
@[simp] theorem updSampler_pkgid (n : Nat) (f : Sampler → Sampler) : (s.updSampler n f).pkgid = s.pkgid := rfl
@[simp] theorem updSampler_barriers (n : Nat) (f : Sampler → Sampler) : (s.updSampler n f).barriers = s.barriers := rfl
@[simp] theorem updSampler_ports (n : Nat) (f : Sampler → Sampler) : (s.updSampler n f).ports = s.ports := rfl
@[simp] theorem updSampler_minthr (n : Nat) (f : Sampler → Sampler) : (s.updSampler n f).minthr = s.minthr := rfl
@[simp] theorem updSampler_corrected (n : Nat) (f : Sampler → Sampler) : (s.updSampler n f).corrected = s.corrected := rfl
@[simp] theorem updSampler_uncorrected (n : Nat) (f : Sampler → Sampler) : (s.updSampler n f).uncorrected = s.uncorrected := rfl
@[simp] theorem updSampler_deven (n : Nat) (f : Sampler → Sampler) : (s.updSampler n f).deven = s.deven := rfl
@[simp] theorem updSampler_started (n : Nat) (f : Sampler → Sampler) : (s.updSampler n f).started = s.started := rfl
@[simp] theorem updSampler_mailbox (n : Nat) (f : Sampler → Sampler) : (s.updSampler n f).mailbox = s.mailbox := rfl
@[simp] theorem updSampler_portsUp (n : Nat) (f : Sampler → Sampler) : (s.updSampler n f).portsUp = s.portsUp := rfl
@[simp] theorem updSampler_lostLinks (n : Nat) (f : Sampler → Sampler) : (s.updSampler n f).lostLinks = s.lostLinks := rfl
@[simp] theorem updSampler_portFlits (n : Nat) (f : Sampler → Sampler) : (s.updSampler n f).portFlits = s.portFlits := rfl
@[simp] theorem updSampler_pathNext (n : Nat) (f : Sampler → Sampler) : (s.updSampler n f).pathNext = s.pathNext := rfl
@[simp] theorem updSampler_moves (n : Nat) (f : Sampler → Sampler) : (s.updSampler n f).moves = s.moves := rfl
@[simp] theorem updSampler_podDir (n : Nat) (f : Sampler → Sampler) : (s.updSampler n f).podDir = s.podDir := rfl
@[simp] theorem updSampler_peerWait (n : Nat) (f : Sampler → Sampler) : (s.updSampler n f).peerWait = s.peerWait := rfl
@[simp] theorem updSampler_cowQueue (n : Nat) (f : Sampler → Sampler) : (s.updSampler n f).cowQueue = s.cowQueue := rfl
@[simp] theorem updSampler_migrants (n : Nat) (f : Sampler → Sampler) : (s.updSampler n f).migrants = s.migrants := rfl
@[simp] theorem updSampler_cpBusy (n : Nat) (f : Sampler → Sampler) : (s.updSampler n f).cpBusy = s.cpBusy := rfl
@[simp] theorem updSampler_capBusy (n : Nat) (f : Sampler → Sampler) : (s.updSampler n f).capBusy = s.capBusy := rfl
@[simp] theorem updSampler_editions (n : Nat) (f : Sampler → Sampler) : (s.updSampler n f).editions = s.editions := rfl
@[simp] theorem updSampler_hostReads (n : Nat) (f : Sampler → Sampler) : (s.updSampler n f).hostReads = s.hostReads := rfl
@[simp] theorem updSampler_fabricOut (n : Nat) (f : Sampler → Sampler) : (s.updSampler n f).fabricOut = s.fabricOut := rfl
@[simp] theorem updSampler_msix (n : Nat) (f : Sampler → Sampler) : (s.updSampler n f).msix = s.msix := rfl
@[simp] theorem updSampler_halted (n : Nat) (f : Sampler → Sampler) : (s.updSampler n f).halted = s.halted := rfl
@[simp] theorem updSampler_now (n : Nat) (f : Sampler → Sampler) : (s.updSampler n f).now = s.now := rfl
@[simp] theorem updSampler_agenda (n : Nat) (f : Sampler → Sampler) : (s.updSampler n f).agenda = s.agenda := rfl
@[simp] theorem updSampler_sent (n : Nat) (f : Sampler → Sampler) : (s.updSampler n f).sent = s.sent := rfl
@[simp] theorem updSampler_flush (n : Nat) (f : Sampler → Sampler) : (s.updSampler n f).flush = s.flush := rfl
@[simp] theorem updSampler_ev (n : Nat) (f : Sampler → Sampler) : (s.updSampler n f).ev = s.ev := rfl
@[simp] theorem updSampler_cur (n : Nat) (f : Sampler → Sampler) : (s.updSampler n f).cur = s.cur := rfl
@[simp] theorem updSampler_smp (n : Nat) (f : Sampler → Sampler) : (s.updSampler n f).smp = s.smp := rfl
@[simp] theorem updSampler_latch (n : Nat) (f : Sampler → Sampler) : (s.updSampler n f).latch = s.latch := rfl
@[simp] theorem updSampler_issue (n : Nat) (f : Sampler → Sampler) : (s.updSampler n f).issue = s.issue := rfl
@[simp] theorem updSampler_channels (n : Nat) (f : Sampler → Sampler) : (s.updSampler n f).channels = s.channels := rfl
@[simp] theorem updSampler_ids (n : Nat) (f : Sampler → Sampler) : (s.updSampler n f).ids = s.ids := rfl
@[simp] theorem updSampler_free (n : Nat) (f : Sampler → Sampler) : (s.updSampler n f).free = s.free := rfl

@[simp] theorem updSlice_cores (n : Nat) (f : Slice → Slice) : (s.updSlice n f).cores = s.cores := rfl
@[simp] theorem updSlice_quires (n : Nat) (f : Slice → Slice) : (s.updSlice n f).quires = s.quires := rfl
@[simp] theorem updSlice_dies (n : Nat) (f : Slice → Slice) : (s.updSlice n f).dies = s.dies := rfl
@[simp] theorem updSlice_hbm (n : Nat) (f : Slice → Slice) : (s.updSlice n f).hbm = s.hbm := rfl
@[simp] theorem updSlice_l2 (n : Nat) (f : Slice → Slice) : (s.updSlice n f).l2 = s.l2 := rfl
@[simp] theorem updSlice_contexts (n : Nat) (f : Slice → Slice) : (s.updSlice n f).contexts = s.contexts := rfl
@[simp] theorem updSlice_partitions (n : Nat) (f : Slice → Slice) : (s.updSlice n f).partitions = s.partitions := rfl
@[simp] theorem updSlice_samplers (n : Nat) (f : Slice → Slice) : (s.updSlice n f).samplers = s.samplers := rfl
@[simp] theorem updSlice_decoders (n : Nat) (f : Slice → Slice) : (s.updSlice n f).decoders = s.decoders := rfl
@[simp] theorem updSlice_chseq (n : Nat) (f : Slice → Slice) : (s.updSlice n f).chseq = s.chseq := rfl
@[simp] theorem updSlice_records (n : Nat) (f : Slice → Slice) : (s.updSlice n f).records = s.records := rfl
@[simp] theorem updSlice_tasks (n : Nat) (f : Slice → Slice) : (s.updSlice n f).tasks = s.tasks := rfl
@[simp] theorem updSlice_pkgid (n : Nat) (f : Slice → Slice) : (s.updSlice n f).pkgid = s.pkgid := rfl
@[simp] theorem updSlice_barriers (n : Nat) (f : Slice → Slice) : (s.updSlice n f).barriers = s.barriers := rfl
@[simp] theorem updSlice_ports (n : Nat) (f : Slice → Slice) : (s.updSlice n f).ports = s.ports := rfl
@[simp] theorem updSlice_minthr (n : Nat) (f : Slice → Slice) : (s.updSlice n f).minthr = s.minthr := rfl
@[simp] theorem updSlice_corrected (n : Nat) (f : Slice → Slice) : (s.updSlice n f).corrected = s.corrected := rfl
@[simp] theorem updSlice_uncorrected (n : Nat) (f : Slice → Slice) : (s.updSlice n f).uncorrected = s.uncorrected := rfl
@[simp] theorem updSlice_deven (n : Nat) (f : Slice → Slice) : (s.updSlice n f).deven = s.deven := rfl
@[simp] theorem updSlice_started (n : Nat) (f : Slice → Slice) : (s.updSlice n f).started = s.started := rfl
@[simp] theorem updSlice_mailbox (n : Nat) (f : Slice → Slice) : (s.updSlice n f).mailbox = s.mailbox := rfl
@[simp] theorem updSlice_portsUp (n : Nat) (f : Slice → Slice) : (s.updSlice n f).portsUp = s.portsUp := rfl
@[simp] theorem updSlice_lostLinks (n : Nat) (f : Slice → Slice) : (s.updSlice n f).lostLinks = s.lostLinks := rfl
@[simp] theorem updSlice_portFlits (n : Nat) (f : Slice → Slice) : (s.updSlice n f).portFlits = s.portFlits := rfl
@[simp] theorem updSlice_pathNext (n : Nat) (f : Slice → Slice) : (s.updSlice n f).pathNext = s.pathNext := rfl
@[simp] theorem updSlice_moves (n : Nat) (f : Slice → Slice) : (s.updSlice n f).moves = s.moves := rfl
@[simp] theorem updSlice_podDir (n : Nat) (f : Slice → Slice) : (s.updSlice n f).podDir = s.podDir := rfl
@[simp] theorem updSlice_peerWait (n : Nat) (f : Slice → Slice) : (s.updSlice n f).peerWait = s.peerWait := rfl
@[simp] theorem updSlice_cowQueue (n : Nat) (f : Slice → Slice) : (s.updSlice n f).cowQueue = s.cowQueue := rfl
@[simp] theorem updSlice_migrants (n : Nat) (f : Slice → Slice) : (s.updSlice n f).migrants = s.migrants := rfl
@[simp] theorem updSlice_cpBusy (n : Nat) (f : Slice → Slice) : (s.updSlice n f).cpBusy = s.cpBusy := rfl
@[simp] theorem updSlice_capBusy (n : Nat) (f : Slice → Slice) : (s.updSlice n f).capBusy = s.capBusy := rfl
@[simp] theorem updSlice_editions (n : Nat) (f : Slice → Slice) : (s.updSlice n f).editions = s.editions := rfl
@[simp] theorem updSlice_hostReads (n : Nat) (f : Slice → Slice) : (s.updSlice n f).hostReads = s.hostReads := rfl
@[simp] theorem updSlice_fabricOut (n : Nat) (f : Slice → Slice) : (s.updSlice n f).fabricOut = s.fabricOut := rfl
@[simp] theorem updSlice_msix (n : Nat) (f : Slice → Slice) : (s.updSlice n f).msix = s.msix := rfl
@[simp] theorem updSlice_halted (n : Nat) (f : Slice → Slice) : (s.updSlice n f).halted = s.halted := rfl
@[simp] theorem updSlice_now (n : Nat) (f : Slice → Slice) : (s.updSlice n f).now = s.now := rfl
@[simp] theorem updSlice_agenda (n : Nat) (f : Slice → Slice) : (s.updSlice n f).agenda = s.agenda := rfl
@[simp] theorem updSlice_sent (n : Nat) (f : Slice → Slice) : (s.updSlice n f).sent = s.sent := rfl
@[simp] theorem updSlice_flush (n : Nat) (f : Slice → Slice) : (s.updSlice n f).flush = s.flush := rfl
@[simp] theorem updSlice_ev (n : Nat) (f : Slice → Slice) : (s.updSlice n f).ev = s.ev := rfl
@[simp] theorem updSlice_cur (n : Nat) (f : Slice → Slice) : (s.updSlice n f).cur = s.cur := rfl
@[simp] theorem updSlice_smp (n : Nat) (f : Slice → Slice) : (s.updSlice n f).smp = s.smp := rfl
@[simp] theorem updSlice_latch (n : Nat) (f : Slice → Slice) : (s.updSlice n f).latch = s.latch := rfl
@[simp] theorem updSlice_issue (n : Nat) (f : Slice → Slice) : (s.updSlice n f).issue = s.issue := rfl
@[simp] theorem updSlice_channels (n : Nat) (f : Slice → Slice) : (s.updSlice n f).channels = s.channels := rfl
@[simp] theorem updSlice_ids (n : Nat) (f : Slice → Slice) : (s.updSlice n f).ids = s.ids := rfl
@[simp] theorem updSlice_free (n : Nat) (f : Slice → Slice) : (s.updSlice n f).free = s.free := rfl

@[simp] theorem setDecoder_cores (n : Nat) (q : List DecodeJob) : (s.setDecoder n q).cores = s.cores := rfl
@[simp] theorem setDecoder_quires (n : Nat) (q : List DecodeJob) : (s.setDecoder n q).quires = s.quires := rfl
@[simp] theorem setDecoder_dies (n : Nat) (q : List DecodeJob) : (s.setDecoder n q).dies = s.dies := rfl
@[simp] theorem setDecoder_hbm (n : Nat) (q : List DecodeJob) : (s.setDecoder n q).hbm = s.hbm := rfl
@[simp] theorem setDecoder_l2 (n : Nat) (q : List DecodeJob) : (s.setDecoder n q).l2 = s.l2 := rfl
@[simp] theorem setDecoder_contexts (n : Nat) (q : List DecodeJob) : (s.setDecoder n q).contexts = s.contexts := rfl
@[simp] theorem setDecoder_partitions (n : Nat) (q : List DecodeJob) : (s.setDecoder n q).partitions = s.partitions := rfl
@[simp] theorem setDecoder_samplers (n : Nat) (q : List DecodeJob) : (s.setDecoder n q).samplers = s.samplers := rfl
@[simp] theorem setDecoder_slices (n : Nat) (q : List DecodeJob) : (s.setDecoder n q).slices = s.slices := rfl
@[simp] theorem setDecoder_chseq (n : Nat) (q : List DecodeJob) : (s.setDecoder n q).chseq = s.chseq := rfl
@[simp] theorem setDecoder_records (n : Nat) (q : List DecodeJob) : (s.setDecoder n q).records = s.records := rfl
@[simp] theorem setDecoder_tasks (n : Nat) (q : List DecodeJob) : (s.setDecoder n q).tasks = s.tasks := rfl
@[simp] theorem setDecoder_pkgid (n : Nat) (q : List DecodeJob) : (s.setDecoder n q).pkgid = s.pkgid := rfl
@[simp] theorem setDecoder_barriers (n : Nat) (q : List DecodeJob) : (s.setDecoder n q).barriers = s.barriers := rfl
@[simp] theorem setDecoder_ports (n : Nat) (q : List DecodeJob) : (s.setDecoder n q).ports = s.ports := rfl
@[simp] theorem setDecoder_minthr (n : Nat) (q : List DecodeJob) : (s.setDecoder n q).minthr = s.minthr := rfl
@[simp] theorem setDecoder_corrected (n : Nat) (q : List DecodeJob) : (s.setDecoder n q).corrected = s.corrected := rfl
@[simp] theorem setDecoder_uncorrected (n : Nat) (q : List DecodeJob) : (s.setDecoder n q).uncorrected = s.uncorrected := rfl
@[simp] theorem setDecoder_deven (n : Nat) (q : List DecodeJob) : (s.setDecoder n q).deven = s.deven := rfl
@[simp] theorem setDecoder_started (n : Nat) (q : List DecodeJob) : (s.setDecoder n q).started = s.started := rfl
@[simp] theorem setDecoder_mailbox (n : Nat) (q : List DecodeJob) : (s.setDecoder n q).mailbox = s.mailbox := rfl
@[simp] theorem setDecoder_portsUp (n : Nat) (q : List DecodeJob) : (s.setDecoder n q).portsUp = s.portsUp := rfl
@[simp] theorem setDecoder_lostLinks (n : Nat) (q : List DecodeJob) : (s.setDecoder n q).lostLinks = s.lostLinks := rfl
@[simp] theorem setDecoder_portFlits (n : Nat) (q : List DecodeJob) : (s.setDecoder n q).portFlits = s.portFlits := rfl
@[simp] theorem setDecoder_pathNext (n : Nat) (q : List DecodeJob) : (s.setDecoder n q).pathNext = s.pathNext := rfl
@[simp] theorem setDecoder_moves (n : Nat) (q : List DecodeJob) : (s.setDecoder n q).moves = s.moves := rfl
@[simp] theorem setDecoder_podDir (n : Nat) (q : List DecodeJob) : (s.setDecoder n q).podDir = s.podDir := rfl
@[simp] theorem setDecoder_peerWait (n : Nat) (q : List DecodeJob) : (s.setDecoder n q).peerWait = s.peerWait := rfl
@[simp] theorem setDecoder_cowQueue (n : Nat) (q : List DecodeJob) : (s.setDecoder n q).cowQueue = s.cowQueue := rfl
@[simp] theorem setDecoder_migrants (n : Nat) (q : List DecodeJob) : (s.setDecoder n q).migrants = s.migrants := rfl
@[simp] theorem setDecoder_cpBusy (n : Nat) (q : List DecodeJob) : (s.setDecoder n q).cpBusy = s.cpBusy := rfl
@[simp] theorem setDecoder_capBusy (n : Nat) (q : List DecodeJob) : (s.setDecoder n q).capBusy = s.capBusy := rfl
@[simp] theorem setDecoder_editions (n : Nat) (q : List DecodeJob) : (s.setDecoder n q).editions = s.editions := rfl
@[simp] theorem setDecoder_hostReads (n : Nat) (q : List DecodeJob) : (s.setDecoder n q).hostReads = s.hostReads := rfl
@[simp] theorem setDecoder_fabricOut (n : Nat) (q : List DecodeJob) : (s.setDecoder n q).fabricOut = s.fabricOut := rfl
@[simp] theorem setDecoder_msix (n : Nat) (q : List DecodeJob) : (s.setDecoder n q).msix = s.msix := rfl
@[simp] theorem setDecoder_halted (n : Nat) (q : List DecodeJob) : (s.setDecoder n q).halted = s.halted := rfl
@[simp] theorem setDecoder_now (n : Nat) (q : List DecodeJob) : (s.setDecoder n q).now = s.now := rfl
@[simp] theorem setDecoder_agenda (n : Nat) (q : List DecodeJob) : (s.setDecoder n q).agenda = s.agenda := rfl
@[simp] theorem setDecoder_sent (n : Nat) (q : List DecodeJob) : (s.setDecoder n q).sent = s.sent := rfl
@[simp] theorem setDecoder_flush (n : Nat) (q : List DecodeJob) : (s.setDecoder n q).flush = s.flush := rfl
@[simp] theorem setDecoder_ev (n : Nat) (q : List DecodeJob) : (s.setDecoder n q).ev = s.ev := rfl
@[simp] theorem setDecoder_cur (n : Nat) (q : List DecodeJob) : (s.setDecoder n q).cur = s.cur := rfl
@[simp] theorem setDecoder_smp (n : Nat) (q : List DecodeJob) : (s.setDecoder n q).smp = s.smp := rfl
@[simp] theorem setDecoder_latch (n : Nat) (q : List DecodeJob) : (s.setDecoder n q).latch = s.latch := rfl
@[simp] theorem setDecoder_issue (n : Nat) (q : List DecodeJob) : (s.setDecoder n q).issue = s.issue := rfl
@[simp] theorem setDecoder_channels (n : Nat) (q : List DecodeJob) : (s.setDecoder n q).channels = s.channels := rfl
@[simp] theorem setDecoder_ids (n : Nat) (q : List DecodeJob) : (s.setDecoder n q).ids = s.ids := rfl
@[simp] theorem setDecoder_free (n : Nat) (q : List DecodeJob) : (s.setDecoder n q).free = s.free := rfl

@[simp] theorem emit_cores (d : Nat) (e : Event) : (s.emit d e).cores = s.cores := rfl
@[simp] theorem emit_quires (d : Nat) (e : Event) : (s.emit d e).quires = s.quires := rfl
@[simp] theorem emit_dies (d : Nat) (e : Event) : (s.emit d e).dies = s.dies := rfl
@[simp] theorem emit_hbm (d : Nat) (e : Event) : (s.emit d e).hbm = s.hbm := rfl
@[simp] theorem emit_l2 (d : Nat) (e : Event) : (s.emit d e).l2 = s.l2 := rfl
@[simp] theorem emit_contexts (d : Nat) (e : Event) : (s.emit d e).contexts = s.contexts := rfl
@[simp] theorem emit_partitions (d : Nat) (e : Event) : (s.emit d e).partitions = s.partitions := rfl
@[simp] theorem emit_samplers (d : Nat) (e : Event) : (s.emit d e).samplers = s.samplers := rfl
@[simp] theorem emit_decoders (d : Nat) (e : Event) : (s.emit d e).decoders = s.decoders := rfl
@[simp] theorem emit_slices (d : Nat) (e : Event) : (s.emit d e).slices = s.slices := rfl
@[simp] theorem emit_chseq (d : Nat) (e : Event) : (s.emit d e).chseq = s.chseq := rfl
@[simp] theorem emit_records (d : Nat) (e : Event) : (s.emit d e).records = s.records := rfl
@[simp] theorem emit_tasks (d : Nat) (e : Event) : (s.emit d e).tasks = s.tasks := rfl
@[simp] theorem emit_pkgid (d : Nat) (e : Event) : (s.emit d e).pkgid = s.pkgid := rfl
@[simp] theorem emit_barriers (d : Nat) (e : Event) : (s.emit d e).barriers = s.barriers := rfl
@[simp] theorem emit_ports (d : Nat) (e : Event) : (s.emit d e).ports = s.ports := rfl
@[simp] theorem emit_minthr (d : Nat) (e : Event) : (s.emit d e).minthr = s.minthr := rfl
@[simp] theorem emit_corrected (d : Nat) (e : Event) : (s.emit d e).corrected = s.corrected := rfl
@[simp] theorem emit_uncorrected (d : Nat) (e : Event) : (s.emit d e).uncorrected = s.uncorrected := rfl
@[simp] theorem emit_deven (d : Nat) (e : Event) : (s.emit d e).deven = s.deven := rfl
@[simp] theorem emit_started (d : Nat) (e : Event) : (s.emit d e).started = s.started := rfl
@[simp] theorem emit_mailbox (d : Nat) (e : Event) : (s.emit d e).mailbox = s.mailbox := rfl
@[simp] theorem emit_portsUp (d : Nat) (e : Event) : (s.emit d e).portsUp = s.portsUp := rfl
@[simp] theorem emit_lostLinks (d : Nat) (e : Event) : (s.emit d e).lostLinks = s.lostLinks := rfl
@[simp] theorem emit_portFlits (d : Nat) (e : Event) : (s.emit d e).portFlits = s.portFlits := rfl
@[simp] theorem emit_pathNext (d : Nat) (e : Event) : (s.emit d e).pathNext = s.pathNext := rfl
@[simp] theorem emit_moves (d : Nat) (e : Event) : (s.emit d e).moves = s.moves := rfl
@[simp] theorem emit_podDir (d : Nat) (e : Event) : (s.emit d e).podDir = s.podDir := rfl
@[simp] theorem emit_peerWait (d : Nat) (e : Event) : (s.emit d e).peerWait = s.peerWait := rfl
@[simp] theorem emit_cowQueue (d : Nat) (e : Event) : (s.emit d e).cowQueue = s.cowQueue := rfl
@[simp] theorem emit_migrants (d : Nat) (e : Event) : (s.emit d e).migrants = s.migrants := rfl
@[simp] theorem emit_cpBusy (d : Nat) (e : Event) : (s.emit d e).cpBusy = s.cpBusy := rfl
@[simp] theorem emit_capBusy (d : Nat) (e : Event) : (s.emit d e).capBusy = s.capBusy := rfl
@[simp] theorem emit_editions (d : Nat) (e : Event) : (s.emit d e).editions = s.editions := rfl
@[simp] theorem emit_hostReads (d : Nat) (e : Event) : (s.emit d e).hostReads = s.hostReads := rfl
@[simp] theorem emit_fabricOut (d : Nat) (e : Event) : (s.emit d e).fabricOut = s.fabricOut := rfl
@[simp] theorem emit_msix (d : Nat) (e : Event) : (s.emit d e).msix = s.msix := rfl
@[simp] theorem emit_halted (d : Nat) (e : Event) : (s.emit d e).halted = s.halted := rfl
@[simp] theorem emit_now (d : Nat) (e : Event) : (s.emit d e).now = s.now := rfl
@[simp] theorem emit_agenda (d : Nat) (e : Event) : (s.emit d e).agenda = s.agenda := rfl
@[simp] theorem emit_flush (d : Nat) (e : Event) : (s.emit d e).flush = s.flush := rfl
@[simp] theorem emit_ev (d : Nat) (e : Event) : (s.emit d e).ev = s.ev := rfl
@[simp] theorem emit_cur (d : Nat) (e : Event) : (s.emit d e).cur = s.cur := rfl
@[simp] theorem emit_smp (d : Nat) (e : Event) : (s.emit d e).smp = s.smp := rfl
@[simp] theorem emit_latch (d : Nat) (e : Event) : (s.emit d e).latch = s.latch := rfl
@[simp] theorem emit_issue (d : Nat) (e : Event) : (s.emit d e).issue = s.issue := rfl
@[simp] theorem emit_channels (d : Nat) (e : Event) : (s.emit d e).channels = s.channels := rfl
@[simp] theorem emit_ids (d : Nat) (e : Event) : (s.emit d e).ids = s.ids := rfl
@[simp] theorem emit_free (d : Nat) (e : Event) : (s.emit d e).free = s.free := rfl

@[simp] theorem drawn_cores : (s.drawn).cores = s.cores := rfl
@[simp] theorem drawn_quires : (s.drawn).quires = s.quires := rfl
@[simp] theorem drawn_dies : (s.drawn).dies = s.dies := rfl
@[simp] theorem drawn_hbm : (s.drawn).hbm = s.hbm := rfl
@[simp] theorem drawn_l2 : (s.drawn).l2 = s.l2 := rfl
@[simp] theorem drawn_contexts : (s.drawn).contexts = s.contexts := rfl
@[simp] theorem drawn_partitions : (s.drawn).partitions = s.partitions := rfl
@[simp] theorem drawn_samplers : (s.drawn).samplers = s.samplers := rfl
@[simp] theorem drawn_decoders : (s.drawn).decoders = s.decoders := rfl
@[simp] theorem drawn_slices : (s.drawn).slices = s.slices := rfl
@[simp] theorem drawn_chseq : (s.drawn).chseq = s.chseq := rfl
@[simp] theorem drawn_records : (s.drawn).records = s.records := rfl
@[simp] theorem drawn_tasks : (s.drawn).tasks = s.tasks := rfl
@[simp] theorem drawn_pkgid : (s.drawn).pkgid = s.pkgid := rfl
@[simp] theorem drawn_barriers : (s.drawn).barriers = s.barriers := rfl
@[simp] theorem drawn_ports : (s.drawn).ports = s.ports := rfl
@[simp] theorem drawn_minthr : (s.drawn).minthr = s.minthr := rfl
@[simp] theorem drawn_corrected : (s.drawn).corrected = s.corrected := rfl
@[simp] theorem drawn_uncorrected : (s.drawn).uncorrected = s.uncorrected := rfl
@[simp] theorem drawn_deven : (s.drawn).deven = s.deven := rfl
@[simp] theorem drawn_started : (s.drawn).started = s.started := rfl
@[simp] theorem drawn_mailbox : (s.drawn).mailbox = s.mailbox := rfl
@[simp] theorem drawn_portsUp : (s.drawn).portsUp = s.portsUp := rfl
@[simp] theorem drawn_lostLinks : (s.drawn).lostLinks = s.lostLinks := rfl
@[simp] theorem drawn_portFlits : (s.drawn).portFlits = s.portFlits := rfl
@[simp] theorem drawn_pathNext : (s.drawn).pathNext = s.pathNext := rfl
@[simp] theorem drawn_moves : (s.drawn).moves = s.moves := rfl
@[simp] theorem drawn_podDir : (s.drawn).podDir = s.podDir := rfl
@[simp] theorem drawn_peerWait : (s.drawn).peerWait = s.peerWait := rfl
@[simp] theorem drawn_cowQueue : (s.drawn).cowQueue = s.cowQueue := rfl
@[simp] theorem drawn_migrants : (s.drawn).migrants = s.migrants := rfl
@[simp] theorem drawn_cpBusy : (s.drawn).cpBusy = s.cpBusy := rfl
@[simp] theorem drawn_capBusy : (s.drawn).capBusy = s.capBusy := rfl
@[simp] theorem drawn_editions : (s.drawn).editions = s.editions := rfl
@[simp] theorem drawn_hostReads : (s.drawn).hostReads = s.hostReads := rfl
@[simp] theorem drawn_fabricOut : (s.drawn).fabricOut = s.fabricOut := rfl
@[simp] theorem drawn_msix : (s.drawn).msix = s.msix := rfl
@[simp] theorem drawn_halted : (s.drawn).halted = s.halted := rfl
@[simp] theorem drawn_now : (s.drawn).now = s.now := rfl
@[simp] theorem drawn_agenda : (s.drawn).agenda = s.agenda := rfl
@[simp] theorem drawn_sent : (s.drawn).sent = s.sent := rfl
@[simp] theorem drawn_flush : (s.drawn).flush = s.flush := rfl
@[simp] theorem drawn_ev : (s.drawn).ev = s.ev := rfl
@[simp] theorem drawn_cur : (s.drawn).cur = s.cur := rfl
@[simp] theorem drawn_smp : (s.drawn).smp = s.smp := rfl
@[simp] theorem drawn_latch : (s.drawn).latch = s.latch := rfl
@[simp] theorem drawn_issue : (s.drawn).issue = s.issue := rfl
@[simp] theorem drawn_channels : (s.drawn).channels = s.channels := rfl
@[simp] theorem drawn_ids : (s.drawn).ids = s.ids := rfl

@[simp] theorem fresh_cores : (s.fresh).cores = s.cores := rfl
@[simp] theorem fresh_quires : (s.fresh).quires = s.quires := rfl
@[simp] theorem fresh_dies : (s.fresh).dies = s.dies := rfl
@[simp] theorem fresh_hbm : (s.fresh).hbm = s.hbm := rfl
@[simp] theorem fresh_l2 : (s.fresh).l2 = s.l2 := rfl
@[simp] theorem fresh_contexts : (s.fresh).contexts = s.contexts := rfl
@[simp] theorem fresh_partitions : (s.fresh).partitions = s.partitions := rfl
@[simp] theorem fresh_samplers : (s.fresh).samplers = s.samplers := rfl
@[simp] theorem fresh_decoders : (s.fresh).decoders = s.decoders := rfl
@[simp] theorem fresh_slices : (s.fresh).slices = s.slices := rfl
@[simp] theorem fresh_chseq : (s.fresh).chseq = s.chseq := rfl
@[simp] theorem fresh_records : (s.fresh).records = s.records := rfl
@[simp] theorem fresh_tasks : (s.fresh).tasks = s.tasks := rfl
@[simp] theorem fresh_pkgid : (s.fresh).pkgid = s.pkgid := rfl
@[simp] theorem fresh_barriers : (s.fresh).barriers = s.barriers := rfl
@[simp] theorem fresh_ports : (s.fresh).ports = s.ports := rfl
@[simp] theorem fresh_minthr : (s.fresh).minthr = s.minthr := rfl
@[simp] theorem fresh_corrected : (s.fresh).corrected = s.corrected := rfl
@[simp] theorem fresh_uncorrected : (s.fresh).uncorrected = s.uncorrected := rfl
@[simp] theorem fresh_deven : (s.fresh).deven = s.deven := rfl
@[simp] theorem fresh_started : (s.fresh).started = s.started := rfl
@[simp] theorem fresh_mailbox : (s.fresh).mailbox = s.mailbox := rfl
@[simp] theorem fresh_portsUp : (s.fresh).portsUp = s.portsUp := rfl
@[simp] theorem fresh_lostLinks : (s.fresh).lostLinks = s.lostLinks := rfl
@[simp] theorem fresh_portFlits : (s.fresh).portFlits = s.portFlits := rfl
@[simp] theorem fresh_pathNext : (s.fresh).pathNext = s.pathNext := rfl
@[simp] theorem fresh_moves : (s.fresh).moves = s.moves := rfl
@[simp] theorem fresh_podDir : (s.fresh).podDir = s.podDir := rfl
@[simp] theorem fresh_peerWait : (s.fresh).peerWait = s.peerWait := rfl
@[simp] theorem fresh_cowQueue : (s.fresh).cowQueue = s.cowQueue := rfl
@[simp] theorem fresh_migrants : (s.fresh).migrants = s.migrants := rfl
@[simp] theorem fresh_cpBusy : (s.fresh).cpBusy = s.cpBusy := rfl
@[simp] theorem fresh_capBusy : (s.fresh).capBusy = s.capBusy := rfl
@[simp] theorem fresh_editions : (s.fresh).editions = s.editions := rfl
@[simp] theorem fresh_hostReads : (s.fresh).hostReads = s.hostReads := rfl
@[simp] theorem fresh_fabricOut : (s.fresh).fabricOut = s.fabricOut := rfl
@[simp] theorem fresh_msix : (s.fresh).msix = s.msix := rfl
@[simp] theorem fresh_halted : (s.fresh).halted = s.halted := rfl
@[simp] theorem fresh_now : (s.fresh).now = s.now := rfl
@[simp] theorem fresh_agenda : (s.fresh).agenda = s.agenda := rfl
@[simp] theorem fresh_sent : (s.fresh).sent = s.sent := rfl
@[simp] theorem fresh_flush : (s.fresh).flush = s.flush := rfl
@[simp] theorem fresh_ev : (s.fresh).ev = s.ev := rfl
@[simp] theorem fresh_cur : (s.fresh).cur = s.cur := rfl
@[simp] theorem fresh_smp : (s.fresh).smp = s.smp := rfl
@[simp] theorem fresh_latch : (s.fresh).latch = s.latch := rfl
@[simp] theorem fresh_issue : (s.fresh).issue = s.issue := rfl
@[simp] theorem fresh_channels : (s.fresh).channels = s.channels := rfl
@[simp] theorem fresh_free : (s.fresh).free = s.free := rfl

@[simp] theorem drawn_free : s.drawn.free = s.free + 1 := rfl
@[simp] theorem fresh_ids : s.fresh.ids = s.ids + 1 := rfl
@[simp] theorem emit_sent (d : Nat) (e : Event) : (s.emit d e).sent = s.sent ++ [(s.now + d, e)] := rfl

/-! ## Reading what has been written -/

@[simp] theorem core_setCore (n : Nat) (c : Core) : (s.setCore n c).core n = c := look_put_same _ _ _ _
theorem core_setCore_other {n k : Nat} (h : k ≠ n) (c : Core) : (s.setCore n c).core k = s.core k :=
  look_put_other _ h _ _
@[simp] theorem core_setStrand (r : Ref) (t : Strand) :
    (s.setStrand r t).core r.core = { s.core r.core with slots := put r.slot t (s.core r.core).slots } :=
  core_setCore _ _ _
@[simp] theorem strand_setStrand (r : Ref) (t : Strand) : (s.setStrand r t).strand r = t := by
  simp [strand]
theorem strand_setStrand_other {r q : Ref} (h : q ≠ r) (t : Strand) : (s.setStrand r t).strand q = s.strand q := by
  by_cases hc : q.core = r.core
  · have hs : q.slot ≠ r.slot := fun e => h (by cases q; cases r; simp_all)
    simp [strand, hc, look_put_other _ hs]
  · simp [strand, setStrand, updCore, core_setCore_other s hc]
@[simp] theorem me_setMe (t : Strand) : (s.setMe t).me = t := by simp [me, setMe]
@[simp] theorem setCore_setCore (n : Nat) (c d : Core) : (s.setCore n c).setCore n d = s.setCore n d := by
  simp [setCore]
@[simp] theorem setStrand_setStrand (r : Ref) (t u : Strand) : (s.setStrand r t).setStrand r u = s.setStrand r u := by
  simp [setStrand, updCore]
@[simp] theorem setMe_setMe (t u : Strand) : (s.setMe t).setMe u = s.setMe u := by simp [setMe]
@[simp] theorem occupied_setStrand (r : Ref) (t : Strand) : (s.setStrand r t).occupied r = true := by simp [occupied]
@[simp] theorem quire_setQuire (n : Nat) (q : Quire) : (s.setQuire n q).quire n = q := look_put_same _ _ _ _
@[simp] theorem die_setDie (n : Nat) (d : Die) : (s.setDie n d).die n = d := look_put_same _ _ _ _
@[simp] theorem partition_setPartition (n : Nat) (p : Partition) : (s.setPartition n p).partition n = p := look_put_same _ _ _ _
@[simp] theorem context_setContext (p n : Nat) (c : Context) : (s.setContext p n c).context p n = c := look_put_same _ _ _ _
@[simp] theorem sampler_updSampler (n : Nat) (f : Sampler → Sampler) : (s.updSampler n f).sampler n = f (s.sampler n) :=
  look_put_same _ _ _ _
@[simp] theorem slice_updSlice (n : Nat) (f : Slice → Slice) : (s.updSlice n f).slice n = f (s.slice n) := look_put_same _ _ _ _
@[simp] theorem decoder_setDecoder (n : Nat) (q : List DecodeJob) : (s.setDecoder n q).decoder n = q := look_put_same _ _ _ _

end Sys2Proof.Machine.State
end

