-- ==== Sys2Proof/Laws/Memory.lean ====
section
/-! SUPPORT. Byte storage: what a write leaves readable, and that every operation keeps the canonical form. -/

namespace Sys2Proof.Machine

@[simp] theorem memGet_memSet_same (m : Mem) (a : Nat) (b : Byte) (h : Memory.wf m) : memGet (memSet m a b) a = b := by
  induction m with
  | nil => unfold memSet; split <;> simp_all [memGet, look]
  | cons e r ih =>
    obtain ⟨k, v⟩ := e
    have hr : Memory.wf r := by
      cases r with
      | nil => rfl
      | cons f q => simp [Memory.wf] at h; exact h.2
    have hlow : ∀ n, n ≤ k → look (0 : Byte) n r = 0 := by
      intro n hn
      clear ih
      induction r generalizing k v with
      | nil => rfl
      | cons f q ihq =>
        obtain ⟨j, w⟩ := f
        simp [Memory.wf] at h
        have hj : ¬ j = n := by omega
        simp only [look, hj, if_false]
        exact ihq j w (by simpa [Memory.wf] using h.2) (by
          cases q with
          | nil => rfl
          | cons g p => simp [Memory.wf] at hr; exact hr.2) (by omega)
    unfold memSet
    split
    · next hlt =>
      split
      · next hb => subst hb; have : ¬ k = a := by omega
                   rw [memGet, look, if_neg this]; exact hlow a (by omega)
      · simp [memGet, look]
    · split
      · next heq =>
        subst heq
        split
        · next hb => subst hb; exact hlow _ (Nat.le_refl _)
        · simp [memGet, look]
      · next hne =>
        have : ¬ k = a := fun e => hne e.symm
        simpa [memGet, look, this] using ih hr

theorem memGet_memSet_other (m : Mem) {a n : Nat} (b : Byte) (h : n ≠ a) : memGet (memSet m a b) n = memGet m n := by
  induction m with
  | nil => unfold memSet; split <;> simp [memGet, look, h.symm]
  | cons e r ih =>
    obtain ⟨k, v⟩ := e
    unfold memSet
    split
    · split
      · rfl
      · simp [memGet, look, h.symm]
    · split
      · next heq =>
        subst heq
        split <;> simp [memGet, look, h.symm]
      · by_cases hk : k = n
        · simp [memGet, look, hk]
        · simpa [memGet, look, hk] using ih

/-- A canonical list's cells lie above what stands before it. -/
def Memory.above (k : Nat) : Mem → Bool
  | [] => true
  | (j, _) :: _ => decide (k < j)

theorem Memory.wf_cons (k : Nat) (v : Byte) (r : Mem) :
    Memory.wf ((k, v) :: r) = (v != 0 && Memory.above k r && Memory.wf r) := by
  cases r with
  | nil => simp [Memory.wf, Memory.above]
  | cons f q => obtain ⟨j, w⟩ := f; simp [Memory.wf, Memory.above]

theorem Memory.above_memSet {k a : Nat} (h : k < a) (b : Byte) {m : Mem} (hm : Memory.above k m) (hw : Memory.wf m) :
    Memory.above k (memSet m a b) := by
  cases m with
  | nil => unfold memSet; split <;> simp [Memory.above, h]
  | cons e r =>
    obtain ⟨j, v⟩ := e
    simp only [Memory.above, decide_eq_true_eq] at hm
    unfold memSet
    split
    · split <;> simp [Memory.above, h, hm]
    · split
      · split
        · cases r with
          | nil => rfl
          | cons f q =>
            obtain ⟨i, w⟩ := f
            simp [Memory.wf] at hw
            simp [Memory.above]; omega
        · simp [Memory.above, hm]
      · simp [Memory.above, hm]

theorem Memory.wf_memSet {m : Mem} (a : Nat) (b : Byte) (h : Memory.wf m) : Memory.wf (memSet m a b) := by
  induction m with
  | nil => unfold memSet; split <;> simp_all [Memory.wf]
  | cons e r ih =>
    obtain ⟨k, v⟩ := e
    rw [Memory.wf_cons] at h
    simp only [Bool.and_eq_true] at h
    obtain ⟨⟨hv, ha⟩, hr⟩ := h
    unfold memSet
    split
    · split
      · simp only [Memory.wf_cons, hv, ha, hr, Bool.and_self]
      · next hlt hb =>
        have hb' : (b != 0) = true := by simpa using hb
        have hk : Memory.above a ((k, v) :: r) = true := decide_eq_true hlt
        simp only [Memory.wf_cons a, Memory.wf_cons k, hv, ha, hr, hb', hk, Bool.and_self]
    · split
      · split
        · exact hr
        · next hb =>
          have hb' : (b != 0) = true := by simpa using hb
          simp only [Memory.wf_cons, ha, hr, hb', Bool.and_self]
      · simp only [Memory.wf_cons, Bool.and_eq_true]
        exact ⟨⟨hv, Memory.above_memSet (by omega) b ha hr⟩, ih hr⟩

theorem Memory.wf_memStore {m : Mem} (a : Nat) (data : List Byte) (h : Memory.wf m) : Memory.wf (memStore m a data) := by
  induction data generalizing m a with
  | nil => exact h
  | cons b r ih => exact ih _ (Memory.wf_memSet a b h)

theorem Memory.wf_memZero {m : Mem} (a n : Nat) (h : Memory.wf m) : Memory.wf (memZero m a n) := by
  induction m with
  | nil => rfl
  | cons e r ih =>
    obtain ⟨k, v⟩ := e
    rw [Memory.wf_cons] at h
    simp only [Bool.and_eq_true] at h
    obtain ⟨⟨hv, ha⟩, hr⟩ := h
    have habove : ∀ q : Mem, Memory.above k q → Memory.wf q → Memory.above k (memZero q a n) := by
      intro q
      induction q with
      | nil => intros; rfl
      | cons f q ihq =>
        obtain ⟨j, w⟩ := f
        intro h1 h2
        rw [Memory.wf_cons] at h2
        simp only [Bool.and_eq_true] at h2
        simp only [memZero, List.filter_cons]
        split
        · exact h1
        · refine ihq ?_ h2.2
          cases q with
          | nil => rfl
          | cons g p =>
            obtain ⟨i, x⟩ := g
            have := h2.1.2
            simp only [Memory.above, decide_eq_true_eq] at this h1 ⊢
            omega
    simp only [memZero, List.filter_cons]
    split
    · rw [Memory.wf_cons]
      simp only [Bool.and_eq_true]
      exact ⟨⟨hv, habove r ha hr⟩, ih hr⟩
    · exact ih hr

theorem Memory.wf_memAdd {m : Mem} (a : Nat) (d : Word) (h : Memory.wf m) : Memory.wf (memAdd m a d) :=
  Memory.wf_memStore a _ h

/-- A stored byte is read back; the others are as before. -/
theorem memGet_memStore (m : Mem) (a : Nat) (data : List Byte) (h : Memory.wf m) (n : Nat) :
    memGet (memStore m a data) n =
      if a ≤ n ∧ n < a + data.length then data.getD (n - a) 0 else memGet m n := by
  induction data generalizing m a with
  | nil => simp [memStore]
  | cons b r ih =>
    rw [memStore, ih _ _ (Memory.wf_memSet a b h)]
    by_cases hn : n = a
    · subst hn; simp [memGet_memSet_same _ _ _ h]
    · rw [memGet_memSet_other _ _ hn]
      by_cases h1 : a + 1 ≤ n ∧ n < a + 1 + r.length
      · have h2 : a ≤ n ∧ n < a + (b :: r).length := by simp; omega
        rw [if_pos h1, if_pos h2]
        obtain ⟨j, rfl⟩ : ∃ j, n = a + 1 + j := ⟨n - (a + 1), by omega⟩
        have e1 : a + 1 + j - (a + 1) = j := by omega
        have e2 : a + 1 + j - a = j + 1 := by omega
        rw [e1, e2, List.getD_cons_succ]
      · have h2 : ¬ (a ≤ n ∧ n < a + (b :: r).length) := by simp; omega
        rw [if_neg h1, if_neg h2]

/-- What has been stored is loaded. -/
theorem memLoad_memStore (m : Mem) (a : Nat) (data : List Byte) (h : Memory.wf m) :
    memLoad (memStore m a data) a data.length = data := by
  apply List.ext_getElem
  · simp [memLoad]
  · intro i h1 h2
    simp [memLoad, memGet_memStore m a data h, h2]

/-- A store beside a range leaves the range as it was. -/
theorem memLoad_memStore_apart (m : Mem) (a : Nat) (data : List Byte) (h : Memory.wf m) (b n : Nat)
    (hd : b + n ≤ a ∨ a + data.length ≤ b) : memLoad (memStore m a data) b n = memLoad m b n := by
  apply List.map_congr_left
  intro i hi
  have := List.mem_range.mp hi
  rw [memGet_memStore m a data h, if_neg (by omega)]

namespace State

theorem wf_hbmWrite (s : State) (pa : Nat) (data : List Byte) (h : Memory.wf s.hbm) : Memory.wf (s.hbmWrite pa data).hbm := by
  unfold hbmWrite
  split
  · exact Memory.wf_memStore pa data h
  · exact h

theorem wf_reset : Memory.wf State.reset.hbm := rfl

end State

end Sys2Proof.Machine
end

