-- ==== Sys2Proof/Laws/Ops.lean ====
section
/-! SUPPORT. What each shared operation does, said once: the checks before an effect, register writes, the ways a bundle
issues or waits, the taking of a fault. -/

namespace Sys2Proof.Machine

/-- A bundle word that passes its checks has its effect. -/
theorem checked_next {i : Instr} {s : State} {k : State → State} (hw : i.wf = true)
    (hc : readsCb i = true → s.me.copy = .present) : checked i s k = .next (k s) := by
  unfold checked
  simp only [hw, Bool.not_true, Bool.false_eq_true, if_false]
  split
  · next h => rw [hc h]
  · rfl

/-- An ill-formed bundle word raises RESERVED_FIELD. -/
theorem checked_illFormed {i : Instr} {s : State} {k : State → State} (hw : i.wf = false) :
    checked i s k = .next (s.raiseCode .reservedField) := by
  unfold checked; simp [hw]

/-- Every way a checked word ends. -/
theorem checked_cases (i : Instr) (s : State) (k : State → State) :
    (i.wf = false ∧ checked i s k = .next (s.raiseCode .reservedField)) ∨
    (i.wf = true ∧ readsCb i = true ∧ (s.me.copy = .wanted ∨ s.me.copy = .asked ∨ ∃ got, s.me.copy = .remote got) ∧
      checked i s k = .next (s.stall .ready)) ∨
    (i.wf = true ∧ readsCb i = true ∧ ∃ f, s.me.copy = .faulted f ∧ checked i s k = .next (s.raise f)) ∨
    (i.wf = true ∧ (readsCb i = true → s.me.copy = .present) ∧ checked i s k = .next (k s)) := by
  cases hw : i.wf with
  | false => exact .inl ⟨rfl, checked_illFormed hw⟩
  | true =>
    cases hr : readsCb i with
    | false =>
      have hc : readsCb i = true → s.me.copy = .present := fun h => absurd (hr.symm.trans h) Bool.false_ne_true
      exact .inr (.inr (.inr ⟨rfl, fun h => absurd h Bool.false_ne_true, checked_next hw hc⟩))
    | true =>
      unfold checked
      cases hc : s.me.copy <;> simp [hw, hr]

theorem privileged_super {i : Instr} {s : State} {k : State → State} (hw : i.wf = true)
    (hc : readsCb i = true → s.me.copy = .present) (hp : privOf s.pre.flags = true) : privileged i s k = .next (k s) := by
  simp [privileged, hp, checked_next hw hc]

/-- A privileged instruction with PRIV = 0 raises PERMISSION, whatever its constant buffer. -/
theorem privileged_user {i : Instr} {s : State} {k : State → State} (hw : i.wf = true) (hp : privOf s.pre.flags = false) :
    privileged i s k = .next (s.raiseCode .permission) := by
  simp [privileged, hw, hp]

namespace State

variable (s : State)

/-! ## Register writes -/

theorem updMe_eq (f : Strand → Strand) : s.updMe f = s.setMe (f s.me) := rfl
@[simp] theorem me_updMe (f : Strand → Strand) : (s.updMe f).me = f s.me := me_setMe s _
@[simp] theorem setMe_updMe (f : Strand → Strand) (t : Strand) : (s.updMe f).setMe t = s.setMe t := setMe_setMe s _ t
@[simp] theorem updMe_updMe (f g : Strand → Strand) : (s.updMe f).updMe g = s.updMe fun t => g (f t) := by
  simp [updMe]

@[simp] theorem me_writeReg (w : RegWrite) : (s.writeReg w).me = { s.me with regs := s.me.regs.apply w } := me_updMe s _

theorem pre_of_latch {s : State} (h : s.latch.isSome) (u : State) (hu : u.latch = s.latch) : u.pre = s.pre := by
  unfold pre
  rw [hu]
  cases hl : s.latch with
  | none => simp [hl] at h
  | some r => rfl

/-- A register write leaves the address of the executing bundle alone. -/
@[simp] theorem bpc_writeReg (w : RegWrite) : (s.writeReg w).bpc = s.bpc := by
  unfold bpc pre writeReg
  simp only [updMe, setMe_latch, me_setMe]
  cases s.latch with
  | none =>
    cases w with
    | s n x => simp only [Regs.apply, Regs.setS]; split <;> rfl
    | v n x m => rfl
    | sticky f => rfl
  | some r => rfl

@[simp] theorem bpc_writeS (n : BitVec 5) (x : Word) : (s.writeS n x).bpc = s.bpc := bpc_writeReg s _
@[simp] theorem bpc_writeV (n : BitVec 5) (x : VReg) (m : W32) : (s.writeV n x m).bpc = s.bpc := bpc_writeReg s _
@[simp] theorem bpc_orSticky (f : Sticky) : (s.orSticky f).bpc = s.bpc := bpc_writeReg s _
@[simp] theorem bpc_writeK (n : BitVec 3) (x : W32) : (s.writeK n x).bpc = s.bpc := by
  unfold bpc pre writeK
  simp only [updMe, setMe_latch, me_setMe]
  cases s.latch with
  | none => simp only [Regs.setK]; split <;> rfl
  | some r => rfl

/-! ## How a bundle issues or waits -/

/-- The registers with which a strand goes on and what its bundle had received. -/
theorem retire_eq (pc : Word) : s.retire pc =
    { s.setMe { s.me with regs := { s.me.regs with pc := pc }, received := [], doneLanes := 0, vecBefore := none } with issue := .goes } := by
  unfold retire setPc
  simp [updMe]

theorem retire_setMe (t : Strand) (pc : Word) : (s.setMe t).retire pc =
    { s.setMe { t with regs := { t.regs with pc := pc }, received := [], doneLanes := 0, vecBefore := none } with issue := .goes } := by
  rw [retire_eq]; simp

theorem advance_eq : s.advance =
    { s.setMe { s.me with regs := { s.me.regs with pc := s.bpc + 8 }, received := [], doneLanes := 0, vecBefore := none } with issue := .goes } :=
  retire_eq s _

@[simp] theorem retire_issue (pc : Word) : (s.retire pc).issue = .goes := rfl
@[simp] theorem retire_me (pc : Word) : (s.retire pc).me =
    { s.me with regs := { s.me.regs with pc := pc }, received := [], doneLanes := 0, vecBefore := none } := by
  rw [retire_eq]; exact me_setMe s _
@[simp] theorem stall_issue (w : Wait) : (s.stall w).issue = .no := rfl
theorem stall_eq (w : Wait) : s.stall w = { s.setMe { s.me with wait := w } with issue := .no } := rfl
@[simp] theorem stall_me (w : Wait) : (s.stall w).me = { s.me with wait := w } := by
  rw [stall_eq]; exact me_setMe s _

end State

end Sys2Proof.Machine
end

