-- ==== Sys2Proof/Tests/Slice0.lean ====
section
/-! SUPPORT. Tests of the model: well-formedness, words of the spec's own examples, single steps, and for each statement a state and
operands that meet its hypotheses. -/

namespace Sys2Proof.Tests

open Sys2Proof.Machine Sys2Proof.Claims

/-! ## A small machine -/

/-- A strand of context 0 at 0x1000. -/
def strand0 : Strand :=
  { Strand.none with regs := { Regs.zero with pc := 0x1000, flags := 0x10000 }, codeLim := 0x100000, cbuf := List.replicate 32 0 }

/-- A quire of partition 0, and the partition running with a share. -/
def partition0 : Partition := { Partition.reset with pctl := 1, phbm := 0x8000000300000000 }

/-- Core 0 with one strand in slot 0, and a change of it. -/
def machine (f : Strand → Strand) (g : Core → Core) : State :=
  { State.reset with
    cores := [(0, g { Core.reset with slots := [(0, f strand0)] })]
    quires := [(0, { Quire.reset with own := 0x80 })]
    partitions := [(0, partition0)]
    started := true
    agenda := [] }

def plain : State := machine id id

/-- The plain machine with general registers. -/
def withS (l : List (BitVec 5 × Word)) : State :=
  machine (fun t => { t with regs := l.foldl (fun r x => r.setS x.1 x.2) t.regs }) id

/-! ## Words -/

def lone (w1 : W32) : CWord := { ext := .lone w1, la := 0, d := 0, ta := .v, a := 0, b := 0, msk := 0 }
def aword : AWord := { ext := .lone 0, fzi := false, fzo := false, d := 1, tb := .s, b := 3, ta := .s, a := 2, k := 0 }

/-! ## Ways to say it -/

/-- What a check finds of the next state. -/
def next (x : Result) (p : State → Bool) : Bool := match x with | .next t => p t | _ => false

/-- `Ready`, decided. -/
def ready (i : Instr) (s : State) : Bool := i.wf && (!readsCb i || s.me.copy == .present)

theorem ready_iff {i : Instr} {s : State} (h : ready i s = true) : Ready i s := by
  unfold ready at h
  rw [Bool.and_eq_true, Bool.or_eq_true] at h
  refine ⟨h.1, fun hc => ?_⟩
  rcases h.2 with h | h
  · rw [hc] at h; exact absurd h (by decide)
  · exact eq_of_beq h

theorem ready_all {α : Type} {l : List α} {f : α → Instr} {s : State} (h : l.all (fun p => ready (f p) s) = true) :
    ∀ p ∈ l, Ready (f p) s := fun p hp => ready_iff (List.all_eq_true.mp h p hp)

theorem own {s : State} {acc : Access} {off n : Nat} (h : (decide (16384 % n = 0) && decide (off % n = 0) && decide (off < 262144) &&
    s.myCore.wayMask.getLsbD (off / 16384) && s.ownProtection acc off n) = true) : OwnBytes s acc off n := by
  simp only [Bool.and_eq_true, decide_eq_true_eq] at h
  exact ⟨h.1.1.1.1, h.1.1.1.2, h.1.1.2, h.1.2, h.2⟩

theorem found {s : State} {va n : Nat} {acc : Access} {b : List Byte} {g : Grant}
    (h : (decide (va < 2 ^ 57) && !inAperture va && decide (va % n = 0) && !s.homeMoved s.me.part va &&
      decide (s.lookCached va n acc = .held b g)) = true) : CachedBytes s va n acc b g := by
  simp only [Bool.and_eq_true, decide_eq_true_eq, Bool.not_eq_true'] at h
  exact ⟨h.1.1.1.1, h.1.1.1.2, h.1.1.2, h.1.2, h.2⟩

theorem storable {s : State} {va n : Nat} {g : Grant} (b : List Byte)
    (h : (decide (va < 2 ^ 57) && !inAperture va && decide (va % n = 0) && !s.homeMoved s.me.part va &&
      decide (s.lookStore va = .held b g)) = true) : StorableBytes s va n g := by
  simp only [Bool.and_eq_true, decide_eq_true_eq, Bool.not_eq_true'] at h
  exact ⟨h.1.1.1.1, h.1.1.1.2, h.1.1.2, h.1.2, b, h.2⟩

/-! ## The A slot: hypotheses met -/

/-- A scalar form, and a vector form under k1. -/
def vword : AWord := { aword with tb := .v, ta := .v, k := 1 }
/-- One operand: its function code is in B. -/
def uword (code : BitVec 5) : AWord := { aword with tb := .v, b := code }
/-- One operand in the lanes of a v register. -/
def uvword (code : BitVec 5) : AWord := { vword with b := code }

theorem wit_binary : (∀ p ∈ intBinaryTable, Ready (p.1 aword) plain) ∧ ∀ p ∈ intBinaryTable, Ready (p.1 vword) plain :=
  ⟨ready_all (by decide), ready_all (by decide)⟩

theorem wit_accumulate : (∀ p ∈ accTable, Ready (p.1 aword) plain) ∧ ∀ p ∈ accTable, Ready (p.1 vword) plain :=
  ⟨ready_all (by decide), ready_all (by decide)⟩

/-- The operations of one operand with their codes; `mov` has none. -/
theorem wit_unary : (∀ p ∈ unaryTable.zip [0, 1, 2, 3, 4, 5, 6, 7, 0], Ready (p.1.1 (uword p.2)) plain) ∧
    ∀ p ∈ unaryTable.zip [0, 1, 2, 3, 4, 5, 6, 7, 0], Ready (p.1.1 (uvword p.2)) plain :=
  ⟨ready_all (by decide), ready_all (by decide)⟩

/-- The last condition that is one, and the first that is none. -/
theorem wit_compare : Ready (.cmp { aword with d := 7, k := 5 }) plain ∧ Ready (.cmpu { vword with d := 7, k := 5 }) plain :=
  ⟨ready_iff (by decide), ready_iff (by decide)⟩

theorem wit_lanes : Ready (.sel { vword with k := 3 }) plain ∧ Ready (.sel { aword with k := 3 }) plain ∧ Ready (.bcast { uword 0 with k := 1 }) plain ∧
    Ready (.shuf vword) plain ∧ Ready (.lrot { vword with tb := .s }) plain :=
  ⟨ready_iff (by decide), ready_iff (by decide), ready_iff (by decide), ready_iff (by decide), ready_iff (by decide)⟩

theorem wit_masks : ∀ p ∈ maskTable.zip [0, 1, 2, 3, 4, 5, 6], Ready (p.1.1 { vword with d := 7, a := 7, b := p.2 }) plain :=
  ready_all (by decide)

def nopWord : AWord := { aword with d := 0, tb := .v, b := 0, ta := .v, a := 0 }

theorem wit_nops : Ready (.nopC { lone 0 with la := 15 }) plain ∧ Ready (.nopA nopWord) plain ∧ Ready (.yield (lone 0)) plain :=
  ⟨ready_iff (by decide), ready_iff (by decide), ready_iff (by decide)⟩

theorem wit_float : (∀ p ∈ floatBinaryTable, Ready (p.1 aword) plain) ∧ (∀ p ∈ floatAccTable, Ready (p.1 vword) plain) ∧
    ∀ p ∈ floatUnaryTable.zip [0, 1, 2, 3, 4, 5, 6, 7, 8, 6, 7], Ready (p.1.1 (uword p.2)) plain :=
  ⟨ready_all (by decide), ready_all (by decide),
    ready_all (by decide)⟩

theorem wit_conversions : (∀ p ∈ toIntTable.zip [0, 1, 2, 3, 10], Ready (p.1.1 (uword p.2)) plain) ∧
    (∀ p ∈ fromIntTable.zip [4, 5, 11], Ready (p.1.1 (uword p.2)) plain) ∧
    (∀ p ∈ widenTable.zip [8, 9], Ready (p.1.1 (uvword p.2)) plain) ∧
    (∀ p ∈ widenTable.zip [8, 9], Ready (p.1.1 { uword p.2 with ta := .lit, a := 0 }) plain) :=
  ⟨ready_all (by decide), ready_all (by decide),
    ready_all (by decide),
    ready_all (by decide)⟩

theorem wit_fcmp : Ready (.fcmp { vword with d := 7, k := 7 }) plain ∧ Ready (.fcmp { aword with d := 0, k := 7 }) plain :=
  ⟨ready_iff (by decide), ready_iff (by decide)⟩

theorem wit_reductions : (∀ p ∈ reduceTable.zip [0, 1, 2, 3, 4, 5, 6, 7, 8, 9, 10], Ready (p.1.1 (uvword p.2)) plain) ∧
    (∀ p ∈ scanTable.zip [0, 1, 2, 3, 4, 5, 6, 7, 8, 9, 10], Ready (p.1.1 (uvword p.2)) plain) :=
  ⟨ready_all (by decide), ready_all (by decide)⟩

theorem wit_functions : (∀ p ∈ sfuTable, Ready (p.1 { lone 0 with d := 1, a := 2, b := BitVec.ofNat 5 p.2, msk := 1 }) plain) ∧
    (∀ p ∈ sfuTable, Ready (p.1 { lone 0x3F800000 with d := 1, ta := .lit, b := BitVec.ofNat 5 p.2 }) plain) ∧
    Ready (.enc8 { lone 0 with d := 1, a := 2, b := 1, la := 15 }) plain :=
  ⟨ready_all (by decide), ready_all (by decide), ready_iff (by decide)⟩

/-! ## Branches, loads and stores: hypotheses met -/

/-- A C-word with an s operand. -/
def cword : CWord := { lone 0 with d := 1, ta := .s, a := 2 }

theorem wit_branches : Ready (.jmp (lone 0xFFFFFFFE)) plain ∧ Ready (.jal { lone 4 with d := 31 }) plain ∧ Ready (.bz { cword with d := 0 }) plain ∧
    Ready (.bnz { cword with d := 0 }) plain ∧ Ready (.bkany { lone 4 with d := 7 }) plain ∧ Ready (.bkall { lone 4 with d := 0 }) plain ∧
    Ready (.loop { lone 4 with d := 16 }) plain :=
  ⟨ready_iff (by decide), ready_iff (by decide), ready_iff (by decide), ready_iff (by decide), ready_iff (by decide), ready_iff (by decide),
    ready_iff (by decide)⟩

/-- An aligned target, and the nearest that is not; no window is open. -/
theorem wit_jr : (Ready (.jr cword) plain ∧ (plain.opA cword).toNat % 8 = 0) ∧
    (Ready (.jr cword) (withS [(2, 1)]) ∧ ((withS [(2, 1)]).opA cword).toNat % 8 ≠ 0) ∧ (withS [(2, 1)]).me.windows = [] :=
  ⟨⟨ready_iff (by decide), by decide⟩, ⟨ready_iff (by decide), by decide⟩, by decide⟩

/-- A base at an offset of the own store, in s2 for loads and in s1 for stores. -/
def base (off : Nat) : State := withS [(1, BitVec.ofNat 64 (ownVa off)), (2, BitVec.ofNat 64 (ownVa off))]

/-- The scratch ways begin at 0x20000; the last bytes of the store are scratch too. -/
def first : Nat := 0x20000
def lastBut (n : Nat) : Nat := 262144 - n

/-- What a leaf with all of X, R and W for a user says of a page in the frame `pa`; the second has O = 1. -/
def leaf (pa : Nat) : Grant := { rights := 0x0F, frame := pa, size := 4096 }
def strongLeaf (pa : Nat) : Grant := { leaf pa with rights := 0x27 }

/-- A line of `0x3000` that the core holds. -/
def line : L1Line :=
  { part := 0, line := 0x30, way := 0, data := [(0, 0x11), (1, 0x22), (7, 0x80)], valid := List.range 8, g := leaf 0x7000, pending := false }

/-- A machine that holds the line, with its address in s1 and s2. -/
def cached (va : Word) : State :=
  machine (fun t => { t with regs := (t.regs.setS 1 va).setS 2 va }) fun c => { c with l1 := [line] }

/-- A strand with nothing of a page but its answer, a leaf with O = 1. -/
def strong (frame : Nat) (va : Word) : State :=
  machine (fun t => { t with regs := (t.regs.setS 1 va).setS 2 va, received := [.line va [] (strongLeaf frame)] }) id

/-- The bits that two checks find. -/
def readsVal (s : State) (f : Form) (va : Nat) : Bool := match s.readElement f 0 va with | .val _ _ => true | _ => false

theorem wit_loads : (∀ p ∈ loadTable, Ready (p.1 cword) (base first)) ∧
    (∀ p ∈ loadTable, readsVal (base first) (loadsAs p.2.1 p.2.2.1) ((base first).loadAddress cword p.2.1) = true) ∧
    (∀ p ∈ loadTable, readsVal (base (lastBut p.2.1)) (loadsAs p.2.1 p.2.2.1) ((base (lastBut p.2.1)).loadAddress cword p.2.1) = true) ∧
    (∀ p ∈ loadTable, readsVal (cached 0x3000) (loadsAs p.2.1 p.2.2.1) ((cached 0x3000).loadAddress cword p.2.1) = true) :=
  ⟨ready_all (by decide), by decide, by decide, by decide⟩

/-- A base in the store of core 4, of another quire of the partition, with a doubleword that has come back, or nothing. -/
def remote (r : List Received) : State :=
  { machine (fun t => { t with regs := (t.regs.setS 1 0x01FFFFF000420000).setS 2 0x01FFFFF000420000, received := r }) id with
    quires := [(0, { Quire.reset with own := 0x80 }), (1, { Quire.reset with own := 0x80 })] }

theorem wit_loads_elsewhere :
    ((remote [.element 0 0x01FFFFF000420000 5]).readElement (loadsAs 8 false) 0 0x01FFFFF000420000 = .val 5 [] ∧
      inAperture 0x01FFFFF000420000 = true ∧ apSel 0x01FFFFF000420000 ≠ 0xFFF) ∧
    ((withS [(2, 1)]).readElement (loadsAs 2 false) 0 1 = .fault { code := .misalignedData, va := 1, info := 2 }) ∧
    ((withS [(2, 0x3000)]).readElement (loadsAs 8 false) 0 0x3000 = .need) ∧
    ((remote []).readElement (loadsAs 8 false) 0 0x01FFFFF000420000 = .remote 4 ∧ (remote []).aloneNow = true) ∧
    ((strong 0x7000 0x3000).readElement (loadsAs 8 false) 0 0x3000 = .strong (strongLeaf 0x7000) ∧ (strong 0x7000 0x3000).aloneNow = true ∧
      0x7000 + 0x3000 % 256 < Config.engineFrame ∧ ∀ l ∈ (strong 0x7000 0x3000).l2, l.g.frame = 0x7000 → l.dirty = []) := by
  refine ⟨?_, ?_, ?_, ?_, ?_⟩ <;> decide

theorem wit_loaded_bytes :
    OwnBytes plain .load first 8 ∧ OwnBytes plain .load (lastBut 8) 8 ∧ OwnBytes plain .load (lastBut 1) 1 ∧
    CachedBytes (cached 0x3000) 0x3000 8 .load [0x11, 0x22, 0, 0, 0, 0, 0, 0x80] (leaf 0x7000) ∧
    CachedBytes (cached 0x3000) 0x30FF 1 .load [0] (leaf 0x7000) :=
  ⟨own (by decide), own (by decide), own (by decide), found (by decide), found (by decide)⟩

theorem wit_stores : (∀ p ∈ storeTable, Ready (p.1 cword) (base first)) ∧
    (storeTable.all fun p => (base first).storeAddress cword p.2 == ownVa first) = true ∧
    (storeTable.all fun p => (base (lastBut p.2)).storeAddress cword p.2 == ownVa (lastBut p.2)) = true ∧
    (storeTable.all fun p => (cached 0x3000).storeAddress cword p.2 == 0x3000) = true ∧
    OwnBytes (base first) .store first 8 ∧ OwnBytes (base (lastBut 8)) .store (lastBut 8) 8 ∧
    StorableBytes (cached 0x3000) 0x3000 8 (leaf 0x7000) ∧ StorableBytes (cached 0x30FF) 0x30FF 1 (leaf 0x7000) :=
  ⟨ready_all (by decide), by decide, by decide, by decide, own (by decide), own (by decide), storable [] (by decide), storable [] (by decide)⟩

/-- A strand whose bundle has found a page with O = 1 that it may write. -/
def strongPage (frame : Nat) (va : Word) : State :=
  machine (fun t => { t with regs := (t.regs.setS 1 va).setS 2 va, known := [.line va [] (strongLeaf frame)] }) id

/-- A journal with no free entry. -/
def journalFull (s : State) : State :=
  s.updCore 0 fun c => { c with journal := (List.range 64).map fun j => (j, { slot := 0, va := 0, width := 8, chunk := 0, startedAt := 0, task := 0, refused := false }) }

theorem wit_stores_elsewhere :
    ((remote []).place (storesAs 8) 0x01FFFFF000420000 = .ok (.remote 4) ∧ State.journalFree (remote []).myCore = some 0) ∧
    State.journalFree (journalFull (remote [])).myCore = none ∧ (journalFull (remote [])).place (storesAs 8) 0x01FFFFF000420000 = .ok (.remote 4) ∧
    (withS [(1, 1)]).place (storesAs 2) 1 = .error { code := .misalignedData, va := 1, isWrite := true, info := 2 } ∧
    ((withS [(1, 0x3000)]).place (storesAs 8) 0x3000 = .ok .cached ∧ (withS [(1, 0x3000)]).lookStore 0x3000 = .miss) ∧
    (∀ f ∈ [0x7000, Config.engineFrame, Config.notifyPage],
      (strongPage f 0x3000).place (storesAs 8) 0x3000 = .ok .cached ∧ (strongPage f 0x3000).lookStore 0x3000 = .strong (strongLeaf f) ∧
      (strongPage f 0x3000).aloneNow = true) ∧
    (engineFrameQuire 0x7000 = none ∧ notifyPartition 0x7000 = none ∧ engineFrameQuire Config.engineFrame = some 0 ∧
      notifyPartition Config.notifyPage = some 0) := by
  refine ⟨?_, ?_, ?_, ?_, ?_, ?_, ?_⟩ <;> decide

/-- The own store with sector `n` full. -/
def baseFull (off n : Nat) : State := (base off).updCore 0 fun c => { c with full := [n] }

theorem wit_full_bits : (Ready (.stf cword) (base (lastBut 8)) ∧ (base (lastBut 8)).storeAddress cword 8 = ownVa (lastBut 8) ∧
      OwnBytes (base (lastBut 8)) .store (lastBut 8) 8) ∧
    (Ready (.ldf cword) (base first) ∧ Ready (.ldfc cword) (base first) ∧ (base first).loadAddress cword 8 = ownVa first ∧
      OwnBytes (base first) .load first 8) ∧
    ((baseFull first (first / 32)).sectorFull (first / 32) = true ∧ (base first).sectorFull (first / 32) = false) ∧
    (Ready (.wmaskSet cword) (base first) ∧ Ready (.wmaskClr { cword with b := 1 }) (base first) ∧ Ready (.wmaskPut { cword with b := 2 }) (base first) ∧
      (base first).maskBase ((base first).readS 1).toNat [0, 31] = .ok first) := by
  refine ⟨⟨ready_iff ?_, ?_, own ?_⟩, ⟨ready_iff ?_, ready_iff ?_, ?_, own ?_⟩, ⟨?_, ?_⟩, ready_iff ?_, ready_iff ?_, ready_iff ?_, ?_⟩ <;>
    decide

/-! ## Vector memory -/

/-- A vector load or store under k0, its base in s2 or s1. -/
def vcword : CWord := cword
/-- The same with its data in a v register. -/
def vsword : CWord := { lone 0 with d := 1, a := 2 }

/-- A gather of bytes, its index in v3 of zeros, word 1 saying bytes and no shift. -/
def gathers : CWord := { lone 0 with d := 1, ta := .s, a := 2, b := 3 }
def scatters : CWord := { lone 0 with d := 1, a := 2, b := 3 }

theorem wit_vector_loads :
    (Ready (.vldB vcword) (base first) ∧ Ready (.vldH vcword) (base first) ∧ Ready (.vldW vcword) (base first) ∧ Ready (.vgat gathers) (base first)) ∧
    ((vectorLoads (base first) vcword).take 3).all (fun a => (vectorCheck (base first).myCore a.v (a.lanes (base first) vcword)).isNone) = true ∧
    ((vectorLoads (base first) vcword).take 3).all (fun a => (a.lanes (base first) vcword).all fun l => readsVal (base first) a.v.f l.2) = true ∧
    ((vectorLoads (base first) gathers).drop 3).all (fun a => (a.lanes (base first) gathers).all fun l => readsVal (base first) a.v.f l.2) = true ∧
    ((vectorLoads (base 0) vcword).take 3).all (fun a => (vectorCheck (base 0).myCore a.v (a.lanes (base 0) vcword)).isSome) = true := by
  refine ⟨⟨ready_iff ?_, ready_iff ?_, ready_iff ?_, ready_iff ?_⟩, ?_, ?_, ?_, ?_⟩ <;> decide

theorem wit_vector_stores :
    (Ready (.vstB vsword) (base first) ∧ Ready (.vstH vsword) (base first) ∧ Ready (.vstW vsword) (base first) ∧ Ready (.vsca scatters) (base first)) ∧
    ((vectorStores (base first) vsword).take 3).all (fun a => (vectorCheck (base first).myCore a.v (a.lanes (base first) vsword)).isNone) = true ∧
    ((vectorStores (base first) vsword).take 3).all (fun a => (a.lanes (base first) vsword).all fun l => l.2 == ownVa (apOff l.2)) = true ∧
    OwnBytes (base first) .store (first + 124) 4 ∧
    ((vectorStores (cached 0x3000) vsword).take 3).all (fun a => (a.lanes (cached 0x3000) vsword).all fun l =>
      match (cached 0x3000).lookStore l.2 with | .held _ _ => true | _ => false) = true ∧
    ((vectorStores (base 0) vsword).take 3).all (fun a => (vectorCheck (base 0).myCore a.v (a.lanes (base 0) vsword)).isSome) = true := by
  refine ⟨⟨ready_iff ?_, ready_iff ?_, ready_iff ?_, ready_iff ?_⟩, ?_, ?_, own ?_, ?_, ?_⟩ <;> decide

theorem wit_nontemporal :
    (Ready (.stnt cword) (cached 0x3000) ∧ (cached 0x3000).storeAddress cword 8 = 0x3000) ∧
    (Ready (.stnt cword) (base first) ∧ (base first).storeAddress cword 8 < 2 ^ 57 ∧ (base first).storeAddress cword 8 % 8 = 0 ∧
      inAperture ((base first).storeAddress cword 8) = true) ∧
    (Ready (.vstnt vsword) (cached 0x3000) ∧ inAperture ((cached 0x3000).storeAddress vsword 128) = false ∧
      (laneAddresses (mask (cached 0x3000) vsword) fun i => ((cached 0x3000).storeAddress vsword 128 + 4 * i) % 2 ^ 64).all (fun l =>
        match (cached 0x3000).lookStore l.2 with | .held _ _ => true | _ => false) = true) ∧
    (Ready (.pref { cword with d := 0 }) (cached 0x3000) ∧ Ready (.pref { cword with d := 0 }) (base first) ∧
      inAperture ((base first).loadAddress { cword with d := 0 } 256) = true) ∧
    ((withS [(2, 0x3000)]).lookLine 0x3000 = .miss ∧ (withS [(2, 0x3000)]).homeMoved 0 0x3000 = false) := by
  refine ⟨⟨ready_iff ?_, ?_⟩, ⟨ready_iff ?_, ?_, ?_, ?_⟩, ⟨ready_iff ?_, ?_, ?_⟩, ⟨ready_iff ?_, ready_iff ?_, ?_⟩, ⟨?_, ?_⟩⟩ <;> decide

/-! ## Units, atomics and synchronization: hypotheses met -/

/-- A block's four groups in s4 to s7: FIXED at scale 0, room for one entry; two lanes hold a number that no code holds. -/
def blockRegs (r : Regs) : Regs :=
  let r1 := (r.setS 4 (BitVec.ofNat 64 (ownVa 0x20000))).setS 5 (BitVec.ofNat 64 (ownVa 0x20100))
  let r2 := (r1.setS 6 (BitVec.ofNat 64 (ownVa 0x20200))).setS 7 0x10000000000
  r2.setV 2 (lanes fun i => if i = 3 ∨ i = 31 then 0x7149F2CA else 0) 0xFFFFFFFF

def blockState : State := machine (fun t => { t with regs := blockRegs t.regs }) id

def blockWord : CWord := { lone 0 with d := 4, a := 2, b := 4 }

/-- The stores of the block and of the one entry there is room for. -/
theorem wit_stmx : Ready (.stmx blockWord) blockState ∧ ((blockState.readS 7).toNat / 2 ^ 40 = 1) ∧
    (blockState.readS 4).toNat = ownVa 0x20000 ∧ (blockState.readS 5).toNat = ownVa 0x20100 ∧ (blockState.readS 6).toNat = ownVa 0x20200 ∧
    OwnBytes blockState .store 0x20000 32 ∧ OwnBytes blockState .store 0x20100 1 ∧ OwnBytes blockState .store 0x20200 8 :=
  ⟨ready_iff (by decide), by decide, by decide, by decide, by decide, own (by decide), own (by decide), own (by decide)⟩

theorem wit_ltab : Ready (.ltab { cword with d := 0 }) (base (lastBut 1024)) ∧
    ((base (lastBut 1024)).opA { cword with d := 0 }).toNat = ownVa (lastBut 1024) ∧
    ∀ j < 4, OwnBytes (base (lastBut 1024)) .load (lastBut 1024 + 256 * j) 256 :=
  ⟨ready_iff (by decide), by decide, fun j h => own (by
    have : j = 0 ∨ j = 1 ∨ j = 2 ∨ j = 3 := by omega
    rcases this with rfl | rfl | rfl | rfl <;> decide)⟩

/-- A core with three tables read, of which it has switched to two by cycle 4. -/
def switching : Core :=
  { Core.reset with table := [0], tables := [{ due := 4, chunk := 1, entries := [2] }, { due := 3, chunk := 0, entries := [1] }, { due := 5, chunk := 2, entries := [3] }] }

theorem wit_table_switch : (∀ x ∈ switching.tables, 0 < x.due) ∧ (⟨4, 1, [2]⟩ : TableSwitch) ∈ switching.tables ∧
    (∀ y ∈ switching.tables, y ≠ ⟨4, 1, [2]⟩ → y.due ≤ 4 → y.due < 4) ∧ switching.tableAt 2 = [0] ∧ switching.tableAt 4 = [2] := by decide

/-- Two rows of four scores, two picks, and a mask of dead experts that names three. -/
def scores (dead : Word) : State :=
  machine (fun t => { t with regs := (((t.regs.setS 4 (BitVec.ofNat 64 (ownVa 0x20000))).setS 5 (BitVec.ofNat 64 (ownVa 0x20800))).setS 6 0x2203).setS 7 dead })
    fun c => { c with store := [(0x20004, 0xFF), (0x20005, 0x3C), (0x20A00, 0x0D)] }

def topkWord : CWord := { lone 0 with d := 1, ta := .s, a := 4 }
def deadAt : Word := BitVec.ofNat 64 (ownVa 0x20A00)

theorem wit_topk : (topkShape 0x2203).gl = 0 ∧ Ready (.topk topkWord) (scores 0) ∧ topkWord.a.toNat ≤ 12 ∧ (scores 0).aloneNow = true ∧
    topkOk ((scores 0).readS 6) (topkShape ((scores 0).readS 6)) = true ∧
    (match (scores 0).scratchRange .load ((scores 0).readS 4).toNat 64 32 with | .ok x => x == 0x20000 | .error _ => false) = true ∧
    (match (scores 0).scratchRange .store ((scores 0).readS 5).toNat 128 32 with | .ok x => x == 0x20800 | .error _ => false) = true ∧
    (match (scores deadAt).scratchRange .load ((scores deadAt).readS 7).toNat 32 32 with | .ok x => x == 0x20A00 | .error _ => false) = true := by
  refine ⟨?_, ready_iff ?_, ?_, ?_, ?_, ?_, ?_, ?_⟩ <;> decide

/-- A scalar atomic of 4 bytes, or of 8, with a literal value, on the address in s2. -/
def atomWord (w1 : W32) (code : Nat) : CWord := { lone w1 with d := 1, ta := .s, a := 2, b := BitVec.ofNat 5 code }
def atoms : List ((CWord → Instr) × AtomFn × Nat) := atomTable.zipIdx.map fun e => (e.1.1, e.1.2, e.2)

theorem wit_atom : (∀ e ∈ atoms, Ready (e.1 (atomWord 0x00500060 e.2.2)) (base (lastBut 4))) ∧
    (∀ e ∈ atoms.take 10, Ready (e.1 (atomWord 0x00500068 e.2.2)) (base (lastBut 8))) ∧
    AtomReady (base (lastBut 4)) (atomWord 0x00500060 0) ∧ AtomReady (base (lastBut 8)) { atomWord 0x00500068 0 with msk := 3 } ∧
    ((base (lastBut 4)).opA (atomWord 0x00500060 0)).toNat = ownVa (lastBut 4) ∧ ((base (lastBut 8)).opA (atomWord 0x00500068 0)).toNat = ownVa (lastBut 8) ∧
    OwnBytes (base (lastBut 4)) .atomic (lastBut 4) 4 ∧ OwnBytes (base (lastBut 8)) .atomic (lastBut 8) 8 :=
  ⟨ready_all (by decide), ready_all (by decide), ⟨by decide, by decide, by decide⟩, ⟨by decide, by decide, by decide⟩, by decide, by decide,
    own (by decide), own (by decide)⟩

/-- A vector atomic on the base in s2, its index in v3 of zeros, with a literal value. -/
def vatomWord (code : Nat) : CWord := { lone 0x00502060 with d := 1, a := 3, b := BitVec.ofNat 5 code }
def vatoms : List ((CWord → Instr) × AtomFn × Nat) := (vatomTable.zip [0, 1, 2, 3, 4, 5, 6, 7, 8, 10]).map fun e => (e.1.1, e.1.2, e.2)

theorem wit_vatom : (∀ e ∈ vatoms, Ready (e.1 (vatomWord e.2.2)) (base first)) ∧ AtomReady (base first) (vatomWord 0) ∧
    (laneList.all fun j => (base first).indexAddress ((base first).readS 2) 3 2 j == ownVa first) = true ∧ OwnBytes (base first) .atomic first 4 :=
  ⟨ready_all (by decide), ⟨by decide, by decide, by decide⟩, by decide, own (by decide)⟩

theorem wit_fences :
    (∀ m ∈ [1, 2, 3], Ready (.fence { lone 0 with d := 4, msk := m }) plain) ∧ Ready (.drain { lone 0 with d := 4 }) plain ∧
    (∀ i ∈ ([.wbr cword, .invL1 cword, .invHome { cword with b := 1 }] : List Instr), Ready i (withS [(1, 256), (2, 0x3000)])) ∧
    ((withS [(1, 256), (2, 0x3000)]).opA cword).toNat < 2 ^ 57 ∧ ((withS [(1, 256), (2, 0x3000)]).readS 1).toNat < 2 ^ 31 ∧
    inAperture ((withS [(1, 256), (2, 0x3000)]).opA cword).toNat = false ∧
    2 ^ 57 ≤ ((withS [(2, 0x0200000000000000)]).opA cword).toNat ∧
    ((withS [(1, 1), (2, 0x01FFFFFF00000000)]).readS 1 ≠ 0 ∧ inAperture ((withS [(1, 1), (2, 0x01FFFFFF00000000)]).opA cword).toNat = true) :=
  ⟨ready_all (f := fun m => .fence { lone 0 with d := 4, msk := m }) (by decide), ready_iff (by decide), ready_all (f := id) (by decide), by decide, by decide, by decide,
    by decide, by decide, by decide⟩

theorem wit_endings : Ready (.endStrand (lone 0)) plain ∧ Ready (.jend (lone 0)) plain ∧ Ready (.migr { cword with d := 0 }) plain ∧
    Ready (.trap { lone 0 with b := 31 }) plain :=
  ⟨ready_iff (by decide), ready_iff (by decide), ready_iff (by decide), ready_iff (by decide)⟩

/-- A counter that reads 1, with a child of the strand on the deque, or none. -/
def counting (deque : List Desc) : State :=
  (base first).updCore 0 fun c => { c with store := [(first, 1)], deque := deque }

def childDesc : Desc := (base first).descriptor 0x2000 first

theorem wit_forks :
    (Ready (.fork cword) (base first) ∧ ((base first).opA cword).toNat = ownVa first ∧ OwnBytes (base first) .load first 8 ∧
      (base first).ownProtection .atomic first 8 = true ∧ (base first).me.kind ≠ .epilogue ∧ (base first).me.kind ≠ .checkpoint) ∧
    (Ready (.join { cword with d := 0 }) (counting []) ∧ Bytes.toNat ((base first).scratchBytes first 8) = 0 ∧ Bytes.toNat ((counting []).scratchBytes first 8) ≠ 0 ∧
      (counting []).aloneNow = true ∧ (counting []).myCore.deque = []) ∧
    ((counting [childDesc]).myCore.deque.getLast? = some childDesc ∧ childDesc.counter = ((counting [childDesc]).cur.core, first) ∧
      (counting [childDesc]).me.frames.length < 4) ∧
    ((counting []).setMe { (counting []).me with opened := { (counting []).me.opened with count := 1 } }).aloneNow = false :=
  ⟨⟨ready_iff (by decide), by decide, own (by decide), by decide, by decide, by decide⟩, ⟨ready_iff (by decide), by decide, by decide, by decide, by decide⟩,
    ⟨by decide, by decide, by decide⟩, by decide⟩

/-- No outbound entry is free. -/
def sending (o : Table Outbound) (plen : Byte) : State :=
  (base first).updCore 0 fun c => { c with outbound := o, store := if plen = 0 then [] else [(first + 23, plen)] }

theorem wit_sends :
    (Ready (.send { cword with d := 0 }) (sending [] 28) ∧ ((sending [] 28).opA { cword with d := 0 }).toNat = ownVa first ∧
      OwnBytes (sending [] 28) .load first 256 ∧ ((sending [] 28).scratchBytes (first + 23) 1).headD 0 = 28 ∧
      ((sending [] 28).scratchBytes (first + 3) 1).headD 0 = 0 ∧ freeEntry 8 (sending [] 28).myCore.outbound = some 0) ∧
    freeEntry 8 (sending ((List.range 8).map fun j => (j, { fill := 0, ready := none })) 0).myCore.outbound = none ∧
    ((sending [] 29).scratchBytes (first + 23) 1).headD 0 = 29 :=
  ⟨⟨ready_iff (by decide), by decide, own (by decide), by decide, by decide, by decide⟩, by decide, by decide⟩

/-- A catalogue with one entry of context 0. -/
def entry0 : CatEntry := { ctx := 0, key := 5, addr := 6, tag := 7, ans := [] }
def catalogued : State := (base first).updCore 0 fun c => { c with catalogue := [(0, entry0)] }
/-- What a descriptor of zeros asks of a sampler, and of the cores. -/
def zeroSample : SampReq :=
  { who := ⟨0, 0⟩, start := 0, task := 0, part := 0, ctx := 0, ctxId := 0, sampler := 0, rtype := 0, v := 1, fmt := 0, arg := 0, logits := 0, rcls := 0, rkey := 0 }
def zeroSolicit : Solicit := { key := 0, mask := 0, cls := 0, type := 0, op := 0, scope := 0, arg := 0, ctx := 0, asker := 0 }

theorem wit_questions :
    (Ready (.spawn cword) plain ∧ Ready (.spawn cword) (withS [(2, 4096)])) ∧
    (Ready (.samp cword) (base first) ∧ ((base first).opA cword).toNat = ownVa first ∧ OwnBytes (base first) .load first 64 ∧
      sampRequest (base first) ((base first).scratchBytes first 64) = some zeroSample) ∧
    (Ready (.solicit cword) (base first) ∧ solicitOf (base first) ((base first).scratchBytes first 64) = some zeroSolicit) ∧
    (Ready (.catGive { cword with b := 2 }) catalogued ∧ (catalogued.opA { cword with b := 2 }).toNat = ownVa first ∧ OwnBytes catalogued .load first 32 ∧
      (∀ f ∈ [(24, 1), (25, 1), (26, 2), (28, 4)], lineNat (catalogued.scratchBytes first 32) f.1 f.2 = 0) ∧ catalogued.owner (quireOf 0) = some catalogued.me.part ∧
      catalogued.catView.find? (fun e => e.1 == 0) = some (0, entry0) ∧ entry0.ctx = catalogued.me.ctx) ∧
    (Ready (.catIns cword) catalogued ∧ Ready (.catDel { cword with b := 1 }) catalogued) :=
  ⟨⟨ready_iff (by decide), ready_iff (by decide)⟩, ⟨ready_iff (by decide), by decide, own (by decide), by decide⟩, ⟨ready_iff (by decide), by decide⟩,
    ⟨ready_iff (by decide), by decide, own (by decide), by decide, by decide, by decide, by decide⟩, ready_iff (by decide), ready_iff (by decide)⟩

/-- A queue that another eight commands have filled. -/
def queued : State := plain.updEngine 0 3 fun g => { g with reserved := [(0, 8)] }

theorem wit_jobs : (Ready (.cmd { lone 0 with d := 1, a := 2, b := 3 }) plain ∧ plain.queueFree 0 3 0 = true) ∧
    (Ready (.cmd { lone 0 with d := 1, a := 2, b := 3 }) queued ∧ queued.queueFree 0 3 0 = false) ∧ Ready (.jwait cword) plain ∧ Ready (.jpoll cword) plain :=
  ⟨⟨ready_iff (by decide), by decide⟩, ⟨ready_iff (by decide), by decide⟩, ready_iff (by decide), ready_iff (by decide)⟩

def bars : CWord := { lone 0 with d := 1, ta := .s, a := 2 }
/-- A descriptor with one arrival of one strand a quire. -/
def barred : State := withS [(2, 1)]

/-- A strand with a monitor that has latched event 2. -/
def monitored (events : List Nat) (first : Option Nat) : State :=
  machine (fun t => { t with monitor := some { va := 0x3000, onScratch := false, events := events, first := first, id := 1 } }) id

/-- A cached line that the core holds, as `mon` finds it. -/
theorem wit_monitors :
    (Ready (.bar bars) barred ∧ barred.barOk 1 (barred.opA bars) = true ∧ (barred.barOk 1 0 = false)) ∧
    (Ready (.mon { cword with d := 0 }) (base (lastBut 8)) ∧ ((base (lastBut 8)).opA { cword with d := 0 }).toNat = ownVa (lastBut 8) ∧
      OwnBytes (base (lastBut 8)) .load (lastBut 8) 8) ∧
    (Ready (.mon { cword with d := 0 }) (cached 0x3000) ∧ ((cached 0x3000).opA { cword with d := 0 }).toNat = 0x3000 ∧ (cached 0x3000).me.received = [] ∧
      (match (cached 0x3000).lookCached 0x3000 8 .load with | .held _ _ => true | _ => false) = true ∧
      (((cached 0x3000).freshen 0x3000).monLine 0x3000).isSome = true) ∧
    ((withS [(2, 0x3000)]).lookCached 0x3000 8 .load = .miss ∧ ((withS [(2, 0x3000)]).freshen 0x3000).monLine 0x3000 = none) ∧
    Ready (.waitm cword) (monitored [2] none) :=
  ⟨⟨ready_iff (by decide), by decide, by decide⟩, ⟨ready_iff (by decide), by decide, own (by decide)⟩,
    ⟨ready_iff (by decide), by decide, by decide, by decide, by decide⟩, ⟨by decide, by decide⟩, ready_iff (by decide)⟩

/-- A census in slot 0, complete with no answer, of which w is the id 1. -/
def collecting : State :=
  (withS [(2, 1)]).updCensus 0 0 fun x => { x with seq := 1, open_ := true, complete := true, q := some zeroSolicit }

/-- A task that answers census 1 of slot 0. -/
def answering : State :=
  { machine (fun t => { t with task := 1 }) id with tasks := [(1, { Task.none with census := some (⟨0, 0, 1⟩, 0), live := 1 })] }

/-- A message from slot `sstrand` of core 0 that asks for a reply, and a strand of the task it started, with a line of zeros. -/
def asker (sstrand : Byte) : Msg :=
  { cls := 0, type := 0, flags := 8, key := 0, score := 0, sstrand := sstrand, plen := 0, chseq := 0, edition := 0, pcx := 0, payload := [], node := 0 }
def replying (sstrand : Byte) : State :=
  { machine (fun t => { t with task := 1, regs := t.regs.setS 2 (BitVec.ofNat 64 (ownVa first)) }) id with
    tasks := [(1, { Task.none with start := some (asker sstrand), live := 1 })] }

theorem wit_replies :
    (Ready (.cwait { cword with d := 14 }) collecting ∧ (collecting.partition collecting.me.part).checkpoint = false ∧ (collecting.census 0 0).open_ = true ∧
      (collecting.census 0 0).seq = 1 ∧ (collecting.census 0 0).complete = true ∧ (collecting.census 0 0).timedOut = false ∧
      (collecting.census 0 0).q = some zeroSolicit ∧ (collecting.opA { cword with d := 14 }).toNat % 65536 = 1) ∧
    (Ready (.replyCen { cword with d := 0 }) answering ∧ (answering.task answering.me.task).census = some (⟨0, 0, 1⟩, 0) ∧
      (answering.task answering.me.task).answer = none ∧
      answering.strandsWhere (fun _ t => t.task == answering.me.task && (match t.wait with | .release _ (.answer _ _) => true | _ => false)) = []) ∧
    (∀ n ∈ [15, 16], Ready (.replyMsg { cword with d := 0, b := 1 }) (replying n) ∧ ((replying n).opA { cword with d := 0, b := 1 }).toNat = ownVa first ∧
      OwnBytes (replying n) .load first 256 ∧ ((replying n).task (replying n).me.task).start = some (asker n) ∧ (asker n).wantsReply = true ∧
      ((replying n).task (replying n).me.task).replied = false ∧ State.journalFree (replying n).myCore = some 0) := by
  refine ⟨⟨ready_iff ?_, ?_, ?_, ?_, ?_, ?_, ?_, ?_⟩, ⟨ready_iff ?_, ?_, ?_, ?_⟩, fun n h => ?_⟩
  all_goals try decide
  rcases List.mem_cons.mp h with rfl | h
  · exact ⟨ready_iff (by decide), by decide, own (by decide), by decide, by decide, by decide, by decide⟩
  · rw [List.mem_singleton] at h
    subst h
    exact ⟨ready_iff (by decide), by decide, own (by decide), by decide, by decide, by decide, by decide⟩

/-! ## Control registers and privilege: hypotheses met -/

/-- The selector `n` in A, B and MK. -/
def csr (n : Nat) : CWord :=
  { lone 0 with d := 1, ta := .s, a := BitVec.ofNat 5 (n / 128), b := BitVec.ofNat 5 (n / 4 % 32), msk := BitVec.ofNat 2 (n % 4) }
def csrR (n : Nat) : CWord := { csr n with ta := .v }

/-- The strand of another context. -/
def user : State := machine (fun t => { t with ctx := 1, regs := { t.regs with flags := 0 } }) id

theorem wit_csr : (∀ n ∈ [0x001, 0x011, 0x020, 0x10F], Ready (.csrr (csrR n)) plain) ∧
    (∀ n ∈ [0x001, 0x002, 0x003, 0x010, 0x012, 0x013, 0x020], Ready (.csrw (csr n)) plain) ∧
    (∀ n ∈ [0x001, 0x002, 0x003, 0x010, 0x012, 0x013], plain.csrFault n true = none) ∧
    (Ready (.csrw (csr 0x013)) user ∧ user.csrFault 0x013 true = some .permission) :=
  ⟨ready_all (by decide), ready_all (by decide), by decide, ready_iff (by decide), by decide⟩

/-- The selector spans A, B and MK (R224), so those of ZP0-ZP15 need a non-zero A. -/
theorem test_selector : (csr 0x10F).selector = 0x10F ∧ (csr 0x10F).a = 2 := by decide

/-- The privileged words. -/
def privWord (i : CWord → Instr) (d b : BitVec 5) (ta : Kind) : Instr := i { lone 0 with d := d, ta := ta, a := if ta = .v then 0 else 2, b := b }
def privWords : List Instr :=
  [privWord .ctxsw 3 0 .s, privWord .tinvPage 0 0 .s, privWord .tinvCtx 0 1 .v, privWord .tinvPart 0 2 .v, privWord .hmset 0 0 .s,
   privWord .rollback 0 0 .s, privWord .snap 1 0 .s]

theorem wit_privilege : (∀ i ∈ privWords, Ready i user ∧ Ready i plain) ∧ user.pre.flags.getLsbD 16 = false ∧ plain.pre.flags.getLsbD 16 = true ∧
    plain.aloneNow = true :=
  ⟨fun i h => ⟨ready_all (f := id) (by decide) i h, ready_all (f := id) (by decide) i h⟩, by decide, by decide, by decide⟩

/-- A strand that an upcall stopped in slot 3, and another that may resume it. -/
def stoppedStrand : Strand := { strand0 with wait := .stopped, fault := some { code := .trap 3, info := 3 }, byUpcall := true }
def resuming : State := (withS [(2, 3)]).updCore 0 fun c => { c with slots := put 3 stoppedStrand c.slots }
/-- A complete edition 0 and an open one of that partition are not needed: one complete edition stands. -/
def edition0 : Edition :=
  { part := 0, n := 0, header := 0x3000, ctx := 0, state := 1, records := [], left := [], marked := [], channel := [], pages := [], hmask := 0xFFFF, plimit := 0xB0008 }
def complete : State := { plain with editions := [edition0] }

theorem wit_privileged_effects :
    (Ready (.resume { cword with d := 0 }) resuming ∧ (resuming.opA { cword with d := 0 }).toNat < 16 ∧ resuming.occupied ⟨0, 3⟩ = true ∧ (⟨0, 3⟩ : Ref) ≠ resuming.cur ∧
      (resuming.strand ⟨0, 3⟩).byUpcall = true ∧ (resuming.strand ⟨0, 3⟩).fault ≠ none ∧ (resuming.strand ⟨0, 3⟩).part = resuming.me.part ∧
      (resuming.strand ⟨0, 3⟩).ctx = resuming.me.ctx) ∧
    ((plain.partition 0).hmsets = [] ∧ plain.homeList 0 ≠ []) ∧
    (complete.lastComplete 0 = some edition0 ∧ complete.opA { cword with d := 0 } = 0 ∧ complete.aloneNow = true ∧ (complete.packages 0).all complete.reachable = true) ∧
    (Ready (.snap cword) (cached 0x3000) ∧ CachedBytes (cached 0x3000) 0x3000 8 .load [0x11, 0x22, 0, 0, 0, 0, 0, 0x80] (leaf 0x7000)) ∧
    (plain.tinvWaits (State.tinvPage 0 0 0) = false ∧ plain.tinvWaits (State.tinvCtx 0 0) = false ∧ plain.tinvWaits (State.tinvPart 0) = false ∧
      inAperture (plain.opA { cword with d := 0 }).toNat = false) ∧
    (Ready (.tinvPage { cword with d := 0 }) (base first) ∧ inAperture ((base first).opA { cword with d := 0 }).toNat = true) := by
  refine ⟨⟨ready_iff ?_, ?_, ?_, ?_, ?_, ?_, ?_, ?_⟩, ⟨?_, ?_⟩, ⟨?_, ?_, ?_, ?_⟩, ⟨ready_iff ?_, found ?_⟩, ⟨?_, ?_, ?_, ?_⟩, ready_iff ?_, ?_⟩ <;> decide

/-! ## Samplers: hypotheses met -/

/-- A request over three logits at 0x3000, and a run of it with two registers. -/
def request0 : SampReq := { zeroSample with v := 3, logits := 0x3000 }
def run0 (g1 g2 : Word) : Run :=
  { req := request0, order := 0, pc := 4, g := ((Vector.replicate 16 0).set 1 g1).set 2 g2, count := 0, emitted := [], due := 0 }

/-- A line that its home holds: 1.0, 2.0 and a NaN, a mask slot for position 0 at 0x3040 and its mask, token 1 alone, at 0x3080. -/
def homeLine0 : L2Line :=
  { part := 0, line := 0x30, data := [(2, 0x80), (3, 0x3F), (7, 0x40), (10, 0xC0), (11, 0x7F), (0x80, 2)], valid := List.range 8, dirty := [],
    g := leaf 0x7000, entryPa := some 0x6000, peer := none }

/-- Sampler 0 runs `r` with an image and a list. -/
def sampling (r : Run) (img : Table Word) (cs : List Cand) : State :=
  { plain with
    smp := 0
    samplers := [(0, { Sampler.reset with running := some r, hold := false, images := [(0, img)], lists := [(0, cs)] })]
    l2 := [homeLine0, { homeLine0 with line := 0x31, data := [], g := leaf 0x7100 }, { homeLine0 with line := 0x32, data := [], g := leaf 0x7200 }] }

def sword (d a b : BitVec 4) (imm : BitVec 15) : SWord := { d := d, a := a, b := b, imm := imm }

theorem runs {i : Instr} {s : State} {r : Run} (h : (i.wf && decide ((s.sampler s.smp).running = some r)) = true) : Runs i s r := by
  rw [Bool.and_eq_true, decide_eq_true_eq] at h
  exact h

theorem runs_all {l : List Instr} {s : State} {r : Run} (h : (l.all fun i => i.wf && decide ((s.sampler s.smp).running = some r)) = true) :
    ∀ i ∈ l, Runs i s r := fun i hi => runs (List.all_eq_true.mp h i hi)

/-- The greatest position and a draw counter that wraps. -/
def samplingValues : State := sampling (run0 0x8000000000000000 0x8000000000000000) [(1, 0xFFFFFFFF), (2, 5), (3, 0xFFFFFFFFFFFFFFFF), (63, 9)] []

theorem wit_sampler_values : ∀ i ∈ ([.samplerLdi (sword 3 0 0 0x4000), .samplerAdd (sword 3 1 2 0), .samplerSub (sword 3 1 2 0),
    .samplerMulq (sword 3 1 2 0), .samplerLdc (sword 3 0 0 63), .samplerStc (sword 0 1 0 63), .samplerLdr (sword 3 0 0 4), .samplerRand (sword 3 0 0 0)] : List Instr),
    Runs i samplingValues (run0 0x8000000000000000 0x8000000000000000) := runs_all (by decide)

/-- A token of 32 bits, one beyond, and a run that has emitted sixteen. -/
def tokenRun (n : Nat) (g : Word) : Run := { run0 g 0 with emitted := List.replicate n 7, count := 65534 }

theorem wit_sampler_control :
    (∀ i ∈ ([.samplerHalt (sword 0 0 0 0), .samplerBz (sword 0 1 0 0x7FFB), .samplerBnz (sword 0 1 0 0x7FFC), .samplerEmit (sword 0 1 0 0)] : List Instr),
      Runs i (sampling (tokenRun 15 0xFFFFFFFF) [(1, 0xFFFFFFFF)] []) (tokenRun 15 0xFFFFFFFF)) ∧
    (State.greg (tokenRun 15 0xFFFFFFFF) 1).toNat < 2 ^ 32 ∧ (tokenRun 15 0xFFFFFFFF).emitted.length < 16 ∧
    (Runs (.samplerEmit (sword 0 1 0 0)) (sampling (tokenRun 0 0x100000000) [] []) (tokenRun 0 0x100000000) ∧ 2 ^ 32 ≤ (State.greg (tokenRun 0 0x100000000) 1).toNat) ∧
    (Runs (.samplerEmit (sword 0 1 0 0)) (sampling (tokenRun 16 0) [] []) (tokenRun 16 0) ∧ 16 ≤ (tokenRun 16 0).emitted.length) ∧
    ((Instr.samplerHalt (sword 1 0 0 0)).wf = false ∧ ((sampling (tokenRun 0 0) [] []).sampler 0).running = some (tokenRun 0 0)) :=
  ⟨runs_all (by decide), by decide, by decide, ⟨runs (by decide), by decide⟩, ⟨runs (by decide), by decide⟩, by decide, by decide⟩

/-- Two candidates of weights 3 and 1, of which the second lies in the window of the last tokens. -/
def twoCands : List Cand := [{ token := 0, value := 0x100000000, weight := 3 }, { token := 1, value := -0x100000000, weight := 1 }]
/-- The nucleus's share of the first entry exactly, or an hair more; a draw in the second entry; no weight at all. -/
def samplingLists (g1 g2 : Word) : State := sampling (run0 g1 g2) [(6, 0x100000000), (13, 0x7)] twoCands

theorem wit_sampler_lists :
    (∀ i ∈ ([.samplerPen (sword 0 1 0 0), .samplerScale (sword 0 1 0 0), .samplerExpw (sword 3 0 0 0), .samplerNucl (sword 3 1 2 0),
      .samplerPick (sword 3 1 2 0), .samplerFind (sword 3 1 0 0)] : List Instr), Runs i (samplingLists 0xC0000000 4) (run0 0xC0000000 4)) ∧
    ((State.greg (run0 0xC0000000 4) 1).toNat < 2 ^ 32 ∧ (samplingLists 0xC0000000 4).cands 0 0 ≠ []) ∧
    (Runs (.samplerNucl (sword 3 1 2 0)) (samplingLists 0x100000000 4) (run0 0x100000000 4) ∧ 2 ^ 32 ≤ (State.greg (run0 0x100000000 4) 1).toNat) ∧
    (Runs (.samplerPick (sword 3 1 2 0)) (samplingLists 0xC000000000000000 4) (run0 0xC000000000000000 4) ∧
      0xC000000000000000 * 4 / 2 ^ 64 = ((twoCands.take 1).map (·.weight)).sum ∧ ((twoCands.take 1).map (·.weight)).sum < ((twoCands.take 2).map (·.weight)).sum) ∧
    (Runs (.samplerPick (sword 3 1 2 0)) (samplingLists 1 0) (run0 1 0) ∧ (State.greg (run0 1 0) 2).toNat = 0) :=
  ⟨runs_all (by decide), ⟨by decide, by decide⟩, ⟨runs (by decide), by decide⟩, ⟨runs (by decide), by decide, by decide⟩, runs (by decide), by decide⟩

/-- A context whose masks stand at 0x3040, 64 bytes apart, at a position. -/
def masked (pos : Word) : State := sampling (run0 0x3000 0) [(1, pos), (4, 0x3040), (5, 64)] twoCands

set_option maxRecDepth 4096 in
theorem wit_sampler_memory :
    (∀ g ∈ [2, 3], Runs (.samplerLogit (sword 3 1 2 0)) (sampling (run0 g 0) [] []) (run0 g 0)) ∧
    (State.greg (run0 2 0) 1).toNat < request0.v ∧ request0.v ≤ (State.greg (run0 3 0) 1).toNat ∧
    ((sampling (run0 2 0) [] []).readLogit request0 0 2 = (sampling (run0 2 0) [] [], some none)) ∧
    (∀ g ∈ [0, 1, 512, 513], Runs (.samplerKeep (sword 0 1 2 0)) (sampling (run0 g 0) [] []) (run0 g 0)) ∧
    (∀ i < 3, (sampling (run0 1 0) [] []).readLogit request0 0 i =
      (sampling (run0 1 0) [] [], some (if i = 0 then some 0x100000000 else if i = 1 then some 0x200000000 else none))) ∧
    (∀ p ∈ [0, 16], Runs (.samplerGmask (sword 0 0 0 0)) (masked p) (run0 0x3000 0)) ∧
    Runs (.samplerGmask (sword 0 0 0 0)) (sampling (run0 0 0) [] twoCands) (run0 0 0) ∧
    (masked 0).image 0 0 4 ≠ 0 ∧ (masked 0).maskReady 0 request0 = (masked 0, some true) ∧ (masked 16).maskReady 0 request0 = (masked 16, some false) ∧
    (∀ c ∈ (masked 0).cands 0 0, (masked 0).samplerRead request0 (0x3040 + 64 + c.token / 8) 1 = (masked 0, some [2])) ∧
    (Runs (.samplerXfer (sword 0 1 0 0)) (masked 0) (run0 0x3000 0) ∧ Runs (.samplerXfer (sword 0 1 0 1)) (masked 0) (run0 0x3000 0)) ∧
    (∃ b, (masked 0).samplerRead request0 0x3000 512 = (masked 0, some b)) ∧ (∃ s1, (masked 0).unitWrite 0 0 0x3000 (List.replicate 512 1) = (s1, .ok ())) ∧
    (Runs (.samplerXfer (sword 0 1 0 0)) (sampling (run0 32 0) [] []) (run0 32 0) ∧ (State.greg (run0 32 0) 1).toNat % 64 ≠ 0) := by
  refine ⟨fun g h => ?_, by decide, by decide, by decide, fun g h => ?_, by decide, fun p h => ?_, runs (by decide), by decide, by decide, by decide, by decide,
    ⟨runs (by decide), runs (by decide)⟩, ⟨_, rfl⟩, ⟨_, rfl⟩, runs (by decide), by decide⟩
  · simp only [List.mem_cons, List.not_mem_nil, or_false] at h
    rcases h with rfl | rfl <;> exact runs (by decide)
  · simp only [List.mem_cons, List.not_mem_nil, or_false] at h
    rcases h with rfl | rfl | rfl | rfl <;> exact runs (by decide)
  · simp only [List.mem_cons, List.not_mem_nil, or_false] at h
    rcases h with rfl | rfl <;> exact runs (by decide)

/-! ## Engine commands: hypotheses met -/

/-- A command of core 0's strand in slot 0, and one of the command processor. -/
def cctx : CmdCtx :=
  { quire := 0, core := some 0, slot := 0, start := 0, task := 0, job := 5, part := 0, ctx := 0, priv := true, clsType := 0xFF, code := 0x1000,
    codeLim := 0x100000, cbank := 0, cbsel := 0, rm := 0, edition := 0, budget := BitVec.allOnes 64, fence := false, wempty := false, node := 0 }
def backed : State := sampling (run0 0 0) [] []

def mmaCmd (start : Nat) (esza : BitVec 2) (b : Word) : MmaCmd :=
  { n := 0, m := 1, nn := 1, esza := esza, eszb := 0, start := start, k := 1, a := 0x3002, astr := 0, b := b, bstr := 0, asc := 0, ascstr := 0, bsc := 0, bscstr := 0 }

theorem wit_mma : mmaOk backed cctx (mmaCmd 0 3 0x3003) (precision 0) = false ∧
    mmaOk backed cctx (mmaCmd 0 0 0x9000) (precision 0) = true ∧ mmaOk backed cctx (mmaCmd 0 0 0x3003) (precision 0) = true ∧
    (mmaOk backed cctx (mmaCmd 1 0 0x3003) (precision 0) = true ∧ (mmaCmd 1 0 0x3003).m ≤ (mmaCmd 1 0 0x3003).start) ∧
    (∃ t f, State.loadRows cctx [] { f := 0, w := 1, c := 8, base := 0x9000, stride := 0, scale := 0, scaleStride := 0 } 1 1 backed = (t, .error f)) ∧
    (∃ t b, State.loadRows cctx [] { f := 0, w := 1, c := 8, base := 0x3003, stride := 0, scale := 0, scaleStride := 0 } 1 1 backed = (t, .ok b)) :=
  ⟨by decide, by decide, by decide, ⟨by decide, by decide⟩, ⟨_, _, rfl⟩, ⟨_, _, rfl⟩⟩

def drainCmd (r0 : Nat) : DrainCmd := { n := 0, r0 := r0, rows := 1, raw := false, clr := true, entry := 0, dst := 0x3000, dstr := 0, arg := 0 }
def merrCmd (list : Word) : MerrCmd := { n := 0, count := 2, list := list, base := 0x3F800000 }

/-- The last row of a tile, and one past it. -/
theorem wit_drain : ¬(32 < (drainCmd 31).r0 + (drainCmd 31).rows) ∧ 32 < (drainCmd 32).r0 + (drainCmd 32).rows := by decide

theorem wit_merr : (merrCmd 4).list.toNat % 8 ≠ 0 ∧ badAddress cctx (merrCmd 0x3000).list = false ∧
    (∃ t f, State.engineBytes cctx 0x9000 16 (started backed cctx 0 32) = (t, .error f)) ∧
    (∃ t b, State.engineBytes cctx 0x3000 16 (started backed cctx 0 32) = (t, .ok b)) :=
  ⟨by decide, by decide, ⟨_, _, rfl⟩, ⟨_, _, rfl⟩⟩

/-- A row of one column, and one of two tiles' width. -/
theorem wit_row : (List.replicate 1 ([] : List (Int × List (Option Int)))).length = (mmaCmd 0 0 0).nn ∧
    (List.replicate 33 ([] : List (Int × List (Option Int)))).length = ({ mmaCmd 0 0 0 with nn := 33 } : MmaCmd).nn := by decide

def gather2d (esz : BitVec 2) (list : Word) : Gather2DCmd :=
  { pw := 2, ph := 1, esz := esz, count := 1, image := 0x3002, ipitch := 0, dst := 0x3200, tstr := 2, iw := 1, ih := 1, list := list, pad := 0x99 }

/-- Patches that may be gathered: an element of three bytes is none (R276). -/
theorem wit_gather2d : (gather2d 3 0x3100).esz = 3 ∧
    ¬((gather2d 0 0x3100).esz = 3 ∨ (gather2d 0 0x3100).tstr.toNat < 2 ∨ (gather2d 0 0x3100).list.toNat % 4 ≠ 0 ∨ badAddress cctx (gather2d 0 0x3100).image = true ∨
      badAddress cctx (gather2d 0 0x3100).dst = true ∨ badAddress cctx (gather2d 0 0x3100).list = true ∨ rangesMeet 0x3002 0 0x3200 2 = true ∨
      rangesMeet 0x3100 4 0x3200 2 = true) ∧
    (∃ t f, State.engineBytes cctx 0x9000 4 backed = (t, .error f)) ∧ (∃ t b, State.engineBytes cctx 0x3100 4 backed = (t, .ok b)) :=
  ⟨by decide, by decide, ⟨_, _, rfl⟩, ⟨_, _, rfl⟩⟩

def gather (idx dst : Word) : GatherCmd := { esz := 0, shift := 0, lmask := 0x80000001, base := 0x3002, idx := idx, dst := dst }

set_option maxRecDepth 4096 in
theorem wit_gather : apSel (gather 0x3100 (BitVec.ofNat 64 (ownVa first) - 0x100000)).dst.toNat ≠ 0xFFF ∧
    (badAddress cctx 0x3100 || inAperture 0x3002 || 0x3100 % 4 != 0 || !inAperture (ownVa first) || apWindow (ownVa first) != 0 || apSel (ownVa first) != 0xFFF ||
      (ownVa first).testBit 19 || apNib (ownVa first) != 0 || ownVa first % 32 != 0 || cctx.core.isNone) = false ∧
    (∃ t f, State.engineBytes cctx 0x9000 128 (started backed cctx 2 8) = (t, .error f)) ∧
    State.engineBytes cctx 0x3100 128 (started backed cctx 2 8) = (started backed cctx 2 8, .ok (List.replicate 128 0)) ∧
    (backed.engine 0 2).waiting = [] ∧
    (∀ i ∈ [0, 31], (gather 0 0).lmask.getLsbD i = true ∧ gatherAddress (gather 0 0) (List.replicate 128 0) i = 0x3002) ∧
    State.engineBytes cctx 0x3002 1 (started backed cctx 2 8) = (started backed cctx 2 8, .ok [0x80]) ∧
    (∀ j < 32, (started backed cctx 2 8).engineRefused cctx (ownVa first + j) true = none) ∧ cctx.wempty = false :=
  ⟨by decide, by decide, ⟨_, _, rfl⟩, rfl, by decide, by decide, rfl, by decide, by decide⟩

def decodeCommand0 (budget : BitVec 16) : DecodeCmd :=
  { ofmt := 1, input := 0x3000, inLen := 64, out := 0x3200, outCap := 4, budget := budget, rtype := 0, rcls := 0, rkey := 0 }

theorem wit_decode : ¬(2 ≤ (decodeCommand0 1).ofmt.toNat ∨ (decodeCommand0 1).budget = 0 ∨ badAddress cctx (decodeCommand0 1).input = true ∨
    badAddress cctx (decodeCommand0 1).out = true) ∧ (decodeCommand0 0).budget = 0 := by decide

/-! ## Events of engines: hypotheses met -/

/-- The event at hand. -/
def on (e : Event) (s : State) : State := { s with ev := e }

/-- Engine 0 of quire 0 runs a command of core 0, and the strand in slot 3 sleeps on its job. -/
def engineRuns : State :=
  ((plain.updEngine 0 0 fun g => { g with running := some cctx }).updCore 0 fun c =>
    { c with slots := put 3 { strand0 with wait := .asleep (.job 5), jobWait := some (5, 7) } c.slots })

/-- How the job ends: well, refused, or with a fault. -/
def jobEnd (fault : Option JobFault) (rejected : Bool) : JobEnd := { x := cctx, engine := 0, prog := 3, fault := fault, rejected := rejected }

theorem wit_completion : (∀ e ∈ [jobEnd none false, jobEnd none true, jobEnd (some (.aperture, 0x3000, 2)) false],
      (engineRuns.engine e.x.quire e.engine).running = some e.x ∧ e.x.core = some 0) ∧ engineRuns.cowQueue = [] ∧
    (engineRuns.occupied ⟨0, 3⟩ = true ∧ quireOf 0 = 0 ∧ (engineRuns.strand ⟨0, 3⟩).wait = .asleep (.job 5)) ∧
    (engineRuns.strand ⟨0, 3⟩).jobWait = some (5, 7) := by decide

/-- The window of engine 3: a last byte that submits, and bytes that do not; a queue with room and one without. -/
theorem wit_window : 252 % 256 % 64 + 4 = 64 ∧ 248 % 256 % 64 + 4 ≠ 64 ∧ plain.queueFree (quireOf 0) 3 0 = true ∧ queued.queueFree (quireOf 0) 3 0 = false := by decide

/-- A write of engine 2 that waits for the last sector of the store. -/
def waitingWrite (full : List Nat) : State :=
  (plain.updCore 0 fun c => { c with full := full }).updEngine 0 2 fun g =>
    { g with running := some cctx, waiting := [{ core := 0, off := lastBut 32, data := [(0, 9)], va := 0 }], ends := some (jobEnd none false, 20) }

theorem wit_sector : inScratch ((waitingWrite [8191]).core 0) (32 * 8191) 32 = true ∧ ((waitingWrite [8191]).core 0).full.contains 8191 = true ∧
    ((waitingWrite []).core 0).full.contains 8191 = false ∧ (waitingWrite []).quires.map (·.1) = [0] ∧ ((waitingWrite []).quire 0).engines.map (·.1) = [2] ∧
    (∃ w, ((waitingWrite []).engine 0 2).waiting = [w] ∧ w.core = 0 ∧ w.off / 32 = 8191) ∧ ((waitingWrite []).engine 0 2).ends = some (jobEnd none false, 20) :=
  ⟨by decide, by decide, by decide, by decide, by decide, ⟨_, rfl, by decide, by decide⟩, by decide⟩

/-- A DRAIN with rows so far. -/
def draining (c : DrainCmd) (rows : List DrainRow) : State :=
  backed.updEngine 0 0 fun g => { g with running := some cctx, drain := some { x := cctx, c := c, et := 0, sat := false, rows := rows, lastTake := none, ackDue := 0, fault := none } }

def zeroV : VReg := lanes fun _ => 0
def row0 (p : RowPhase) : DrainRow := { taken := 0, regs := [(31, zeroV)], phase := p, task := 0 }
def twoRows : DrainCmd := { drainCmd 30 with rows := 2 }
def fourRows : DrainCmd := { drainCmd 28 with rows := 4 }

theorem wit_rows :
    (∀ c ∈ [twoRows, { twoRows with raw := true, dst := 0 }, { twoRows with clr := false }], ∃ d, ((draining c [row0 (.ended zeroV)]).engine 0 0).drain = some d ∧
      d.fault = none ∧ d.rows.length < d.c.rows ∧ d.lastTake ≠ some (draining c [row0 (.ended zeroV)]).now ∧ (∀ r ∈ d.rows, r.phase ≠ .waiting ∧ r.phase ≠ .running) ∧
      d.x.quire = 0) ∧
    (∃ d, ((draining fourRows [row0 .running, row0 .waiting, row0 .waiting]).engine 0 0).drain = some d ∧ d.fault = none ∧ d.rows.length < d.c.rows ∧
      d.rows.length = min 4 (Bits.get ((draining fourRows []).core 0).coresched.toNat 10 8) + 1) ∧
    (∃ d, ((draining twoRows [row0 .landed, row0 .waiting]).engine 0 0).drain = some d ∧ d.rows[1]? = some (row0 .waiting) ∧
      (∀ k r, d.rows[k]? = some r → r.phase = .waiting → 1 ≤ k) ∧
      Sys2Proof.Machine.epilogueStart ((draining twoRows [row0 .landed, row0 .waiting]).core (d.x.core.getD 0)) = some 11) ∧
    (∀ c ∈ [twoRows, { twoRows with dst := 0 }], ∃ d, ((draining c [row0 .landed, row0 (.ended zeroV)]).engine 0 0).drain = some d ∧ d.fault = none ∧
      d.ackDue ≤ (draining c [row0 .landed, row0 (.ended zeroV)]).now ∧
      (phases (draining c [row0 .landed, row0 (.ended zeroV)]) 0)[1]? = some (RowPhase.ended zeroV) ∧
      (phases (draining c [row0 .landed, row0 (.ended zeroV)]) 0)[0]? = some RowPhase.landed) ∧
    (∃ d, ((draining twoRows [row0 .landed, row0 .landed]).engine 0 0).drain = some d ∧ d.rows.length = d.c.rows ∧
      (∀ p ∈ phases (draining twoRows [row0 .landed, row0 .landed]) 0, p = .landed) ∧ d.x.node = 0) ∧
    (draining twoRows []).rowUnacked (row0 (.ended zeroV)) = false := by
  refine ⟨fun c h => ⟨_, rfl, ?_⟩, ⟨_, rfl, rfl, by decide, by decide⟩, ⟨_, rfl, rfl, fun k r h hp => ?_, by decide⟩, fun c h => ⟨_, rfl, ?_⟩, ⟨_, rfl, by decide, by decide, by decide⟩, by decide⟩
  · simp only [List.mem_cons, List.not_mem_nil, or_false] at h
    rcases h with rfl | rfl | rfl <;> decide
  · rcases k with _ | k
    · simp only [List.getElem?_cons_zero, Option.some.injEq] at h
      rw [← h] at hp
      exact absurd hp (by decide)
    · omega
  · simp only [List.mem_cons, List.not_mem_nil, or_false] at h
    rcases h with rfl | rfl <;> decide

/-- The bytes of an ended row move, into a line that its home holds. -/
theorem wit_row_moves : ∃ u, (draining twoRows [row0 .landed, row0 (.ended zeroV)]).moveBytes cctx 0 [(0x3000, .inr 0), (0x3001, .inr 7)] = (u, none) ∧
    (u.engine 0 0).waiting = [] := ⟨_, rfl, by decide⟩

/-- A decoder whose first command has a result, with another behind it. -/
def decoding : State :=
  { plain with decoders := [(0, [{ x := cctx, c := decodeCommand0 1, due := 0, result := some (none, 0, 1, 192) }, { x := cctx, c := decodeCommand0 2, due := 9, result := none }])] }

theorem wit_folio : (∃ j rest, decoding.decoder 0 = j :: rest ∧ j.result = some (none, 0, 1, 192) ∧ j.due ≤ decoding.now ∧ (decoding.engine j.x.quire 3).waiting = []) :=
  ⟨_, _, rfl, rfl, by decide, by decide⟩

/-! ## Homes and actor slots: hypotheses met -/

def homeLineAt (n : Nat) (data : Mem) : L2Line := { homeLine0 with line := n, data := data, g := leaf (0x7000 + 0x100 * n) }

/-- Class 0 of context 0 at 0x3000: two types, of which type 1 has no handler; a directory of 16 entries at 0x3100, whose first holds the actor of
key 7 with its record at 0x3400; a pool with one free record at 0x3500. -/
def classed : State :=
  ({ plain with
    l2 := [homeLineAt 0x30 [(1, 0x10), (9, 1), (12, 2), (14, 1), (24, 0x80), (25, 0x30), (33, 0x31), (41, 0x33), (52, 4), (0x80, 2), (0x84, 32)],
      homeLineAt 0x31 [(0, 7), (17, 0x34), (24, 1)], homeLineAt 0x32 [], homeLineAt 0x33 [(0, 1), (8, 0x80), (9, 0x33), (0x81, 0x35)],
      homeLineAt 0x34 [(3, 0xAB)], homeLineAt 0x35 []] }).updContext 0 0 fun x => { x with clsTab := 0x3000, clsNum := 1 }

def msgOf (type flags : Byte) (key : BitVec 128) (chseq : W32) : Msg :=
  { cls := 0, type := type, flags := flags, key := key, score := 0, sstrand := 0xFF, plen := 0, chseq := chseq, edition := 0, pcx := 0, payload := [], node := 0 }
def packetOf (m : Msg) : Packet := { msg := m, sender := .core 4, part := 0, ctx := 0, edition := 0, out := none }
def actor (key : BitVec 128) : ActorId := ⟨0, 0, 0, key⟩
def entryOf (phase : EphPhase) (pend : List Msg) : Eph :=
  { actor := actor 7, phase := phase, core := 0, index := 0, pend := pend, heads := 0, ranking := [], fallback := false, refused := [], unfit := [], liveAt := 0 }

/-- The entry as it is read. -/
def class0 : ClassEntry :=
  { code := 0x1000, codeLim := 0x100, nTypes := 2, stLines := 1, attr := 0, pinCore := 0, ctor := 0, hTab := 0x3080, recDir := 0x3100, recPool := 0x3300, budget := 0,
    dirLog := 4, cbank := 0, resZero := true }

def homing (l : List Eph) : State := classed.updSlice 0 fun x => { x with ephs := l }
/-- No room for a low message at core 0. -/
def crowded (s : State) : State := s.updCore 0 fun c => { c with lowSent := 32 }
def p0 : Packet := packetOf (msgOf 0 0 7 0)
/-- The home holds a message for the actor's core. -/
def holding0 (s : State) : State := s.updSlice 0 fun x => { x with forwards := [{ core := 0, actor := actor 7, msg := msgOf 0 0 7 0 }] }

theorem wit_accept :
    ((classed.slice 0).arrived = [] ∧ (msgOf 0 0 7 1).chseq.toNat ≠ State.nextOf (classed.slice 0) (.core 4)) ∧
    (Idle classed 0 ∧ p0.msg.chseq.toNat = State.nextOf (classed.slice 0) p0.sender ∧ classed.needsEntry 0 p0 = false ∧ State.storeLines (classed.slice 0) < 256 ∧
      (classed.context 0 0).expert = none) ∧
    (∃ v, (taken classed 0 (packetOf (msgOf 1 0 7 0))).judge 0 0 (msgOf 1 0 7 0) = (v, .error (3, 0)) ∧ Idle v 0 ∧ (msgOf 1 0 7 0).node = 0) ∧
    (∃ v, (taken classed 0 p0).judge 0 0 p0.msg = (v, .ok (class0, 0x1010)) ∧ Idle v 0 ∧ (v.context 0 0).expert = none ∧ v.eph 0 (actorOf p0) = none ∧
      v.rankingOf 0 (actorOf p0) class0 = .ok ([0, 1, 2, 3], false) ∧ firstCore v class0 [0, 1, 2, 3] false = some 0) ∧
    (∀ p ∈ [EphPhase.activating, .retiring, .moving, .live], ∃ v x, (taken (homing [entryOf p [msgOf 0 0 7 0]]) 0 p0).judge 0 0 p0.msg = (v, .ok (class0, 0x1010)) ∧
      v.eph 0 (actorOf p0) = some x ∧ x.phase = p ∧ State.coreRoom (v.core x.core) false = true ∧ holdsFor v 0 0 (actorOf p0) false = false) ∧
    State.coreRoom ((crowded (homing [entryOf .live []])).core 0) false = false ∧ holdsFor (holding0 (homing [entryOf .live []])) 0 0 (actorOf p0) false = true ∧
    (holdsFor (holding0 classed) 0 0 (actor 8) false = true ∧ holdsFor (holding0 classed) 0 0 (actor 8) true = false) := by
  refine ⟨by decide, ⟨⟨rfl, rfl⟩, by decide, by decide, by decide, by decide⟩, ⟨_, rfl, ⟨rfl, rfl⟩, rfl⟩, ⟨_, rfl, ⟨rfl, rfl⟩, rfl, rfl, rfl, rfl⟩, fun p h => ?_, by decide, by decide, by decide⟩
  simp only [List.mem_cons, List.not_mem_nil, or_false] at h
  rcases h with rfl | rfl | rfl | rfl <;> exact ⟨_, _, rfl, rfl, rfl, rfl, rfl⟩

/-- A home that has made this cycle's lookup; a packet from this package, and one from another, whose partition takes none here or does. -/
def lookedNow : State := classed.updSlice 0 fun x => { x with lookedAt := some classed.now }
def foreign0 : Packet := { p0 with sender := .far 3 0 4 }
def foreignPod : State := classed.updPartition 0 fun x => { x with podN := 1 }

theorem wit_lookup : TakesFrom classed p0 ∧ (classed.slice 0).lookedAt ≠ some classed.now ∧ (lookedNow.slice 0).lookedAt = some lookedNow.now ∧
    lookedNow.needsEntry 0 p0 = false ∧ foreign0.sender = .far 3 0 4 ∧ (foreignPod.updPartition 0 fun x => { x with podHome := [(0, 5)] }).takesPackets 0 = false ∧
    foreignPod.takesPackets 0 = true :=
  ⟨fun _ _ _ h => (by cases h), by decide, by decide, by decide, rfl, by decide, by decide⟩

/-- A home of the open edition 1 that has not switched. -/
def unswitched (on : Bool) : State :=
  ({ classed with editions := [{ edition0 with n := 1, state := 0, left := [.slice 0] }] }).updSlice 0 fun x => { x with switching := on }

theorem wit_switch : ((unswitched true).slice 0).switching = true ∧ ((unswitched true).slice 0).arrived = [] ∧
    (unswitched true).eph 0 (actorOf p0) = none := by decide

/-- A message that has come back, at an entry of each phase. -/
theorem wit_bounced : (∀ p ∈ [EphPhase.retiring, .moving, .activating, .live],
      (homing [entryOf p [msgOf 0 0 7 0, msgOf 0 2 7 0]]).eph 0 (actorOf (packetOf (msgOf 0 2 7 0))) = some (entryOf p [msgOf 0 0 7 0, msgOf 0 2 7 0])) ∧
    State.coreRoom ((homing [entryOf .live []]).core 0) false = true ∧ holdsFor (homing [entryOf .live []]) 0 0 (actorOf p0) false = false ∧
    (∃ u, classed.judgeClass 0 0 0 false = (u, .ok class0) ∧ u.rankingOf 0 (actor 7) class0 = .ok ([0, 1, 2, 3], false) ∧
      firstCore u class0 [0, 1, 2, 3] false = some 0) ∧
    classed.eph 0 (actorOf p0) = none ∧ (classed.slice 0).switching = false :=
  ⟨by decide, by decide, by decide, ⟨_, rfl, rfl, rfl⟩, by decide, by decide⟩

/-- An Ephemeris without a free entry: one live actor without messages, the others retiring. -/
def fullHome : State := classed.updSlice 0 fun x =>
  { x with ephs := { entryOf .live [] with actor := actor 1 } :: List.replicate 2047 { entryOf .retiring [] with actor := actor 2 }, arrived := [p0],
              roundAt := some 0 }

theorem wit_round : (fullHome.slice 0).arrived = [p0] ∧ (fullHome.slice 0).asking = false ∧ (fullHome.slice 0).switching = false ∧ (fullHome.slice 0).roundAt = some fullHome.now ∧ p0.msg.chseq.toNat = State.nextOf (fullHome.slice 0) p0.sender ∧
    fullHome.needsEntry 0 p0 = true ∧ { entryOf .live [] with actor := actor 1 } ∈ (fullHome.slice 0).ephs ∧
    State.nothingPending (fullHome.slice 0) { entryOf .live [] with actor := actor 1 } = true ∧
    ∀ g ∈ (fullHome.slice 0).ephs, g.phase = .live → State.nothingPending (fullHome.slice 0) g = true → g ≠ { entryOf .live [] with actor := actor 1 } → 0 < g.liveAt := by
  have he : (fullHome.slice 0).ephs = { entryOf .live [] with actor := actor 1 } :: List.replicate 2047 { entryOf .retiring [] with actor := actor 2 } := rfl
  refine ⟨rfl, rfl, rfl, rfl, rfl, ?_, ?_, rfl, ?_⟩
  · unfold State.needsEntry State.eph
    rw [he, List.find?_cons_of_neg (by decide), List.find?_replicate_of_neg (by decide), List.length_cons, List.length_replicate]
    rfl
  · rw [he]; exact List.mem_cons_self
  · rw [he]
    intro g hg hl _ hn
    rcases List.mem_cons.mp hg with rfl | hg
    · exact absurd rfl hn
    · rw [List.mem_replicate] at hg
      rw [hg.2] at hl
      exact absurd hl (by decide)

def held0 : State := holding0 classed

theorem wit_held : Idle held0 0 ∧ (held0.slice 0).forwards = [{ core := 0, actor := actor 7, msg := msgOf 0 0 7 0 }] ∧ (msgOf 0 0 7 0).high = false ∧
    State.coreRoom (held0.core 0) false = true := ⟨⟨rfl, rfl⟩, rfl, rfl, rfl⟩

/-- A round at a home that has asked nobody whose answer is missing, with one live entry left. -/
def asking0 : State := (homing [entryOf .retiring [], { entryOf .live [] with actor := actor 1 }]).updSlice 0 fun x => { x with asking := true }

/-- The reports: the entry stands at its home, with no message, one or two. -/
theorem wit_reports : (∀ p ∈ [[], [msgOf 0 0 7 0], [msgOf 0 0 7 0, msgOf 0 0 7 1]],
      (homing [entryOf .activating p]).eph 0 (actor 7) = some (entryOf .activating p) ∧ (entryOf .activating p).actor = actor 7 ∧ ∀ m ∈ p, m.node = 0) ∧
    Idle (homing [entryOf .activating []]) 0 ∧ Idle (homing [entryOf .activating [msgOf 0 0 7 0]]) 0 ∧
    ((homing [entryOf .live []]).eph 0 (actor 7) = some (entryOf .live []) ∧ Idle (homing [entryOf .live []]) 0) ∧
    ((homing [entryOf .activating [msgOf 0 0 7 0, msgOf 0 0 7 1]]).slice 0).forwards = [] ∧
    State.coreRoom ((homing [entryOf .activating []]).core 0) false = true ∧
    (∃ u, (homing [entryOf .retiring [msgOf 0 0 7 0]]).judgeClass 0 0 0 false = (u, .ok class0) ∧ u.rankingOf 0 (actor 7) class0 = .ok ([0, 1, 2, 3], false) ∧
      firstCore u class0 [0, 1, 2, 3] false = some 0) ∧
    (∃ u, (homing [entryOf .activating [msgOf 0 0 7 0]]).classEntry 0 0 0 = (u, .ok class0) ∧
      nextCore u 0 { entryOf .activating [msgOf 0 0 7 0] with refused := [0] } class0 = some 1 ∧
      nextCore u 0 { entryOf .activating [msgOf 0 0 7 0] with unfit := [0, 1, 2] } class0 = some 3 ∧
      nextCore u 0 { entryOf .activating [msgOf 0 0 7 0] with refused := [3, 2, 1, 0] } class0 = some 0) ∧
    ((asking0.slice 0).asking = true ∧ asking0.eph 0 (actor 7) = some (entryOf .retiring []) ∧ Idle asking0 0 ∧
      State.nothingPending (asking0.slice 0) { entryOf .live [] with actor := actor 1 } = true ∧
      ∀ g ∈ (asking0.slice 0).ephs, g.phase = .live → g = { entryOf .live [] with actor := actor 1 }) :=
  ⟨by decide, ⟨rfl, rfl⟩, ⟨rfl, rfl⟩, ⟨by decide, rfl, rfl⟩, by decide, by decide, ⟨_, rfl, rfl, rfl⟩, ⟨_, rfl, rfl, rfl, rfl⟩,
    ⟨rfl, by decide, ⟨rfl, rfl⟩, by decide, by decide⟩⟩

/-- Actor slots at core 0: one slot of a line at 0x20000, and the message lines behind it. -/
def slots0 (aslot : Word) (actors : Table ActorSlot) : State :=
  (classed.updCore 0 fun c => { c with aslot := aslot, aslotWritten := true, actors := actors }).updCore 4 fun c => { c with aslot := aslot, aslotWritten := true }
/-- COUNT 1, SIZE 1, BASE 0x20000, MSG 0x21000. -/
def oneSlot : Word := 0x21000 <<< 32 ||| 1 <<< 26 ||| 1 <<< 18 ||| 0x20000
def slotOf (phase : SlotPhase) (key : BitVec 128) : ActorSlot :=
  { actor := actor key, phase := phase, entry := class0, slice := 0, dirIndex := 0, lastUse := 0, head := none, next := none, noticed := false }
def order0 (attr : Byte) : ActOrder := { slice := 0, actor := actor 7, entry := { class0 with attr := attr }, dirIndex := 0, msg := msgOf 0 0 7 0 }
def running7 : State := (slots0 oneSlot [(0, slotOf .filling 7)])

theorem wit_orders : ((classed.core 0).orderedAt ≠ some classed.now ∧ ((classed.ordered 0).core 0).orderedAt = some classed.now) ∧ ((classed.core 0).aslotWritten = false) ∧
    State.aslotSize oneSlot < ({ class0 with stLines := 2 } : ClassEntry).stLines.toNat ∧
    (((slots0 oneSlot []).core 0).aslotWritten = true ∧ State.aslotCount ((slots0 oneSlot []).core 0).aslot ≠ 0 ∧
      (order0 0).entry.stLines.toNat ≤ State.aslotSize ((slots0 oneSlot []).core 0).aslot ∧ ((slots0 oneSlot []).core 0).aslotTo = none ∧
      State.freeActorSlot ((slots0 oneSlot []).core 0) = some 0) ∧
    (((slots0 oneSlot []).updCore 0 fun c => { c with aslotTo := some 0 }).core 0).aslotTo ≠ none ∧
    (State.freeActorSlot (running7.core 0) = none ∧ running7.idleVictim 0 = none ∧ (order0 2).entry.attr.toNat % 4 = 2) := by decide

set_option maxRecDepth 4096 in
theorem wit_retirement : (actorAt (slots0 oneSlot [(0, slotOf .live 7)]) 0 (actor 7) = some (0, slotOf .live 7) ∧
      slotAt (slots0 oneSlot [(0, slotOf .live 7)]) 0 0 = some (slotOf .live 7) ∧ (slots0 oneSlot [(0, slotOf .live 7)]).actorIdle 0 0 (slotOf .live 7) = true ∧ (slotOf .live 7).noticed = false) ∧
    (running7.actorIdle 0 0 (slotOf .filling 7) = false ∧ actorAt running7 0 (actor 7) = some (0, slotOf .filling 7)) ∧
    (∃ u, (slots0 oneSlot [(0, slotOf .retiring 7)]).writeRecord 0 (actor 7) class0 0 (List.replicate 256 0) = (u, none) ∧ Quiet u 0) ∧
    (∃ u f, (slots0 oneSlot [(0, slotOf .retiring 7)]).writeRecord 0 (actor 7) { class0 with recDir := 0x9000 } 0 (List.replicate 256 0) = (u, some f) ∧ Quiet u 0) ∧
    ((slots0 oneSlot [(0, slotOf .retiring 7)]).core 0).actors = [(0, slotOf .retiring 7)] :=
  ⟨by decide, by decide, ⟨_, rfl, rfl, rfl⟩, ⟨_, _, rfl, rfl, rfl⟩, rfl⟩

/-- A slot that is being filled for an actor of a class with a constructor. -/
def constructing : ActorSlot := { slotOf .filling 8 with entry := { class0 with attr := 8, ctor := 4 }, head := some (msgOf 0 0 8 0) }

set_option maxRecDepth 4096 in
theorem wit_fill : (∃ u v b, running7.findRecord (actor 7) class0 0 = (u, .ok (.hit 0x3400)) ∧ u.unitRead 0 0 0x3400 256 = (v, .ok b)) ∧
    (∃ u, (slots0 oneSlot [(0, slotOf .filling 8)]).findRecord (actor 8) class0 0 = (u, .ok (.free 1))) ∧ class0.attr.getLsbD 3 = false ∧
    (running7.core 0).actors = [(0, slotOf .filling 7)] ∧
    (∃ u, (slots0 oneSlot [(0, constructing)]).findRecord (actor 8) constructing.entry 0 = (u, .ok (.free 1)) ∧ lowStart (u.core 0) = some 1 ∧
      State.admitted (u.core 0) 0 = true) ∧
    (constructing.entry.attr.getLsbD 3 = true ∧ constructing.head = some (msgOf 0 0 8 0) ∧ (msgOf 0 0 8 0).high = false) :=
  ⟨⟨_, _, _, rfl, rfl⟩, ⟨_, rfl⟩, rfl, rfl, ⟨_, rfl, rfl, rfl⟩, rfl, rfl, rfl⟩

/-- The quire of core 4 belongs to the partition too. -/
def moving (p : SlotPhase) : State :=
  ({ slots0 oneSlot [(0, slotOf p 7)] with quires := [(0, { Quire.reset with own := 0x80 }), (1, { Quire.reset with own := 0x80 })] }).updSlice 0 fun x =>
    { x with ephs := [entryOf .live []] }

theorem wit_moves : ((moving .live).eph 0 (actor 7) = some (entryOf .live []) ∧ actorAt (moving .live) 0 (actor 7) = some (0, slotOf .live 7) ∧
      State.freeActorSlot ((moving .live).core 4) = some 0 ∧ (moving .live).actorIdle 0 0 (slotOf .live 7) = true ∧
      (slotOf .live 7).entry.stLines.toNat ≤ State.aslotSize ((moving .live).core 4).aslot ∧ ((moving .live).core 4).aslotTo = none ∧
      (moving .live).owner (quireOf 4) = some (actor 7).part ∧ ((moving .live).slice 0).switching = false) ∧
    (((moving .moving).core 0).actors = [(0, slotOf .moving 7)] ∧ Quiet (moving .moving) 0) ∧
    actorAt (moving .live) 0 (actor 8) = none := ⟨by decide, ⟨by decide, by decide, by decide⟩, by decide⟩

/-- The expert capacity: a header at 0x2001FF800 names class 5 and fallback 6, and all its records stand in lines of the home. -/
def expcap0 : Word := 0x8000000000000000 ||| 0x100
def headed : State := { plain with l2 := [homeLineAt ((0x100 * 2 ^ 21 + 0x1FF800) / 256) [(0, 5), (2, 6)]] }

theorem wit_capacity : (0x7FFFFFFFFFFFFFFF : Word).getLsbD 63 = false ∧ expcap0.getLsbD 63 = true ∧
    (∃ u, (headed.updContext 0 0 fun x => { x with expcap := expcap0 &&& 0x9FFFFFFFFFFFFFFF }).unitWord 0 0 (expcap0.toNat % 2 ^ 36 * 2 ^ 21 + 0x1FF800) 4 = (u, .ok 0x60005)) ∧
    ({ headed with capBusy := 1 } : State).now < 1 ∧ headed.capBusy ≤ headed.now :=
  ⟨by decide, by decide, ⟨_, rfl⟩, by decide, by decide⟩

/-! ## Tasks, strands, faults and commits: hypotheses met -/

def launch0 : Launch := { (State.childLaunch childDesc 0 false) with kind := .spawn, counter := none, ctx := 0 }
/-- A core whose own deque and queues are as named, which does not steal. -/
def coreWith (f : Core → Core) : State := plain.updCore 0 fun c => f { c with coresched := 0x240 }
/-- All slots of a core in use. -/
def fullSlots (s : State) (core : Nat) : State := s.updCore core fun c => { c with slots := (List.range 16).map fun j => (j, strand0) }

def queued7 : Arrival := { number := 0, actor := actor 7, slot := 0, msg := { msgOf 0 0 7 0 with pc := 0x1010 }, entry := class0 }
def live7 : State :=
  (slots0 oneSlot [(0, slotOf .live 7)]).updCore 0 fun c => { c with coresched := 0x240, lowQ := [queued7] }

theorem wit_task_start : ((coreWith fun c => { c with starts := [launch0] }).core 0).aslotWritten = false ∧ (coreWith fun c => { c with starts := [launch0] }).migrants = [] ∧
    ((coreWith fun c => { c with starts := [launch0] }).core 0).deque = [] ∧ ((coreWith fun c => { c with starts := [launch0] }).core 0).coresched.getLsbD 16 = false ∧
    ((coreWith fun c => { c with starts := [launch0] }).core 0).upcalls = [] ∧ State.admitted ((coreWith id).core 0) launch0.ctx = true ∧
    lowStart ((coreWith fun c => { c with starts := [launch0] }).core 0) = some 1 := by decide

theorem wit_message_start : (live7.core 0).upcalls = [] ∧ live7.migrants = [] ∧ (live7.core 0).deque = [] ∧ (live7.core 0).coresched.getLsbD 16 = false ∧
    (live7.core 0).starts = [] ∧ (live7.core 0).aslotWritten = true ∧ (live7.core 0).lowQ = [queued7] ∧ (live7.core 0).highQ = [] ∧
    (live7.core 0).actors = [(0, slotOf .live 7)] ∧ (slotOf .live 7).actor = queued7.actor ∧ (slotOf .live 7).head = none ∧ queued7.msg.high = false ∧
    State.admitted (live7.core 0) 0 = true ∧ live7.actorRuns 0 0 = false ∧ live7.messageSlot 0 false = some 1 ∧ (slotOf .live 7).phase = .live := by decide

/-- Core 1 is full, with a descriptor that core 0 may take. -/
def stealing : State := fullSlots (plain.updCore 1 fun c => { c with deque := [childDesc, { childDesc with pc := 0x3000 }] }) 1
def fourFull : State := fullSlots (fullSlots (fullSlots (fullSlots plain 0) 1) 2) 3

theorem wit_other_starts :
    ((coreWith fun c => { c with deque := [{ childDesc with pc := 0x3000 }, childDesc] }).core 0).deque = [{ childDesc with pc := 0x3000 }] ++ [childDesc] ∧
    (stealing.stealFrom 0 = some 1 ∧ (stealing.core 1).deque = childDesc :: [{ childDesc with pc := 0x3000 }] ∧ lowStart (stealing.core 0) = some 1) ∧
    ((lowFree (plain.core 0)).head? = some 1 ∧ lowFree (fourFull.core 0) = []) ∧
    ((∀ k < 4, k ≠ 0 → lowFree ((fullSlots (fullSlots (fullSlots plain 1) 2) 3).core (4 * 0 + k)) = []) ∧
      lowStart ((fullSlots (fullSlots (fullSlots plain 1) 2) 3).core 0) = some 1) ∧
    State.admitted (plain.core 0) launch0.ctx = true ∧
    (launch0.high = false ∧ ∀ k < 4, lowFree (fourFull.core (4 * 0 + k)) = []) := by decide

def task0 : Task := { Task.none with live := 0, node := 3, ended := false }
def tasked : State := { plain with tasks := [(9, task0)] }
/-- A window of a `spawn`, over or with bundles to go. -/
def spawning (left : Nat) : State :=
  plain.setMe { plain.me with windows := [{ tag := 6, chunk := 0, dests := [.s 4], left := left, due := 0, writes := none }] }
/-- A budget of 5 cycles that runs, and one that has run out. -/
def budgeted (b : Word) : State := plain.setMe { plain.me with counted := true, budget := b, budgetStart := 5 }
def waiting (w : Wait) : State := plain.setMe { plain.me with wait := w }

theorem wit_tasks :
    (has 9 tasked.tasks = true ∧ (tasked.task 9).live = 0 ∧ (tasked.task 9).ended = false ∧ tasked.taskUnacked 9 = false ∧ (tasked.task 9).actor = none ∧
      (tasked.task 9).census = none ∧ tasked.checkpointing (tasked.task 9).part = false ∧ (tasked.task 9).node ≠ 0) ∧
    (∀ n ∈ [0, 1], (spawning n).occupied ⟨0, 0⟩ = true ∧ ∃ w, ((spawning n).strand ⟨0, 0⟩).windows = [w] ∧ w.tag = 6 ∧ w.dests = [.s 4] ∧ w.left = n) ∧
    (∀ w ∈ ((spawning 0).strand ⟨0, 0⟩).windows, w.tag ≠ 7) ∧
    (inScratch (plain.core 0) first 8 = true ∧ inScratch (plain.core 0) 0 8 = false) ∧
    ((waiting (.asleep (.counter first))).occupied ⟨0, 0⟩ = true ∧ ((waiting (.asleep (.counter first))).strand ⟨0, 0⟩).wait = .asleep (.counter first)) ∧
    (((budgeted 5).strand ⟨0, 0⟩).counted = true ∧ ((budgeted 5).strand ⟨0, 0⟩).spent = false ∧ ((budgeted 5).strand ⟨0, 0⟩).wait = .ready ∧
      ((budgeted 5).strand ⟨0, 0⟩).budgetNow 0 ≠ 0 ∧ ((budgeted 0).strand ⟨0, 0⟩).budgetNow 0 = 0 ∧ ((budgeted 0).strand ⟨0, 0⟩).monitor = none ∧
      lastIssued ((budgeted 0).strand ⟨0, 0⟩) = false ∧ ((budgeted 0).strand ⟨0, 0⟩).asyncFaults = []) := by
  refine ⟨by decide, fun n h => ?_, by decide, by decide, by decide, by decide⟩
  simp only [List.mem_cons, List.not_mem_nil, or_false] at h
  rcases h with rfl | rfl <;> exact ⟨by decide, _, rfl, rfl, rfl, rfl⟩

/-- A strand with a fault in slot 3, its record area at `area`, and an upcall handler of class 0. -/
def faulted (kind : StartKind) (area : Word) : State :=
  (classed.updContext 0 0 fun x => { x with upcall := 2 }).updCore 0 fun c =>
    { c with slots := put 3 { strand0 with wait := .faulting, kind := kind, fault := some { code := .trap 3, info := 3 } } c.slots, frecBase := area, coresched := 0x240 }

/-- The upcall of slot 3, whose first bundle may issue from cycle 12. -/
def upcall3 : Upcall := { slot := 3, due := 12, launch := launch0 }
def upcalling : State := (faulted .message 0x20000).updCore 0 fun c => { c with upcalls := [upcall3] }

theorem wit_faults :
    (((faulted .message 0x3F800).core 0).wayMask.getLsbD (((faulted .message 0x3F800).core 0).frecBase.toNat / 2 ^ 11 % 2 ^ 7 * 2048 / 16384) = true) ∧
    ((faulted .message 0).core 0).wayMask.getLsbD 0 = false ∧ (faulted .message 0x20000).occupied ⟨0, 3⟩ = true ∧
    ((faulted .message 0).occupied ⟨0, 3⟩ = true ∧ ((faulted .message 0).strand ⟨0, 3⟩).fault = some { code := .trap 3, info := 3 } ∧
      ((faulted .message 0).strand ⟨0, 3⟩).wait = .faulting ∧ ((faulted .message 0).strand ⟨0, 3⟩).closed = []) ∧
    (((faulted .message 0x20000).context 0 0).upcall.toNat / 2 ^ 32 % 2 ^ 16 < ((faulted .message 0x20000).context 0 0).clsNum.toNat ∧
      (∃ v, (faulted .message 0x20000).classEntry 0 0 0 = (v, .ok class0)) ∧ 8 * 2 < class0.codeLim.toNat) ∧
    ((faulted .upcall 0x20000).strand ⟨0, 3⟩).kind = .upcall ∧
    (Still upcalling 0 ∧ (upcalling.core 0).upcalls = [upcall3] ∧ (upcalling.core 0).starts = [] ∧ State.upcallSlot (upcalling.core 0) 3 = some 1) :=
  ⟨by decide, by decide, by decide, by decide, ⟨by decide, ⟨_, rfl⟩, by decide⟩, rfl, ⟨rfl, rfl, rfl, rfl⟩, rfl, rfl, rfl⟩

/-- A closed chunk with an effect, granted for now or not, and a request for it. -/
def closedWith (h : List Held) (granted : Option Nat) : State :=
  let s := plain.setMe { plain.me with closed := [{ Chunk.empty 5 Regs.zero 0 with held := h, granted := granted }] }
  { s with dies := [(0, { s.die 0 with requests := [{ who := ⟨0, 0⟩, chunk := 5, since := 0 }] })] }

theorem wit_commits :
    ((closedWith [] none).die 0).requests = [{ who := ⟨0, 0⟩, chunk := 5, since := 0 }] ∧ ((closedWith [] none).die 0).lastGrant ≠ some (closedWith [] none).now ∧
    (closedWith [] none).occupied ⟨0, 0⟩ = true ∧ ((closedWith [] none).strand ⟨0, 0⟩).windows = [] ∧
    (∀ h ∈ [[Held.scratch first [1] false, .scratch (lastBut 1) [2] false], [.store 0x3000 [1] (some (leaf 0x7000))], [.endStrand], [.csr 0x021 0x3000]],
      ∃ c, ((closedWith h (some 0)).strand ⟨0, 0⟩).closed = [c] ∧ c.id = 5 ∧ c.granted = some (closedWith h (some 0)).now ∧ c.held = h) ∧
    (∀ va b, Held.store va b none ∉ ([] : List Held) ∧ Held.nontemporal va b none ∉ ([] : List Held)) ∧
    (plain.core 0).trigger = none ∧ (leaf 0x7000).rights.getLsbD 6 = false ∧ (leaf 0x7000).rights.getLsbD 4 = false ∧ plain.homeOf 0 0x3000 / 256 = dieOf 0 ∧ plain.homePackage 0 0x3000 = plain.pkgid ∧ plain.podEntry 0 (0x3000 / 256) = none ∧ plain.lockedLine 0 0x3000 = false ∧ plain.lineWaits 0 (0x3000 / 256) = false ∧
    plain.me.row = none ∧ plain.csrEvent ⟨0, 0⟩ 0x021 0x3000 = some (.registerWrite (.clsTab 0 0) 0x3000) :=
  ⟨by decide, by decide, by decide, by decide, fun h _ => ⟨_, rfl, rfl, rfl, rfl⟩, by simp, by decide, by decide, by decide, by decide, by decide, by decide, by decide, by decide, by decide⟩

/-! ## Homes, cores and pages: hypotheses met -/

/-- A request of core 0's strand for the line at 0x3000. -/
def reqOf (op : HomeOp) : HomeReq :=
  { who := ⟨0, 0⟩, part := 0, ctx := 0, priv := true, die := 0, va := 0x3000, op := op, edition := 0, task := 0, start := 0 }
/-- A granule in motion, and one whose home is another package. -/
def granule (l : Word) (m : List HomeMove) : State := { (backed.updPartition 0 fun p => { p with hmapL := [(0, l)] }) with moves := m }

/-- Three levels of tables that map the first gigabyte to frame 0 with all rights. -/
def mapped (f : Partition → Partition) (l : List Edition) : State :=
  (({ plain with
    hbm := [(0x10000, 0x03), (0x10001, 0x10), (0x10002, 0x01), (0x11000, 0x03), (0x11001, 0x20), (0x11002, 0x01), (0x12000, 0x3D)]
    editions := l } : State).updContext 0 0 fun x => { x with ttroot := 0x10000 }).updPartition 0 f

/-- The mapped machine in a partition that lists this package. -/
def listed0 : State := mapped (fun p => { p with podN := 1 }) []

/-- A line of another package's that this package's slice holds SHARED. -/
def peerLine : L2Line := { part := 0, line := 0x30, data := [], valid := List.range 8, dirty := [], g := leaf 0x7000, entryPa := some 0, peer := some false }

theorem served (op : HomeOp) : ServedHere backed (reqOf op) :=
  ⟨fun h => h.elim (absurd · (show ¬ backed.lineWaits 0 ((0x3000 : Word).toNat / 256) = true by decide))
    (absurd · (show ¬ backed.lockedLine 0 (0x3000 : Word).toNat = true by decide)), rfl,
    show backed.homePackage 0 (0x3000 : Word).toNat = backed.pkgid by decide, show backed.podEntry 0 ((0x3000 : Word).toNat / 256) = none by decide⟩

/-- Four levels, that map the first 2 MiB, in edition 1. -/
def mapped2 : State :=
  { mapped (fun p => { p with edition := 1 }) [{ edition0 with n := 1 }] with
    hbm := [(0x10000, 0x03), (0x10001, 0x10), (0x10002, 0x01), (0x11000, 0x03), (0x11001, 0x20), (0x11002, 0x01), (0x12000, 0x03), (0x12001, 0x30), (0x12002, 0x01), (0x13000, 0x3D)] }

theorem wit_home_requests :
    (listed0.takesPackets 0 = true ∧ ∀ op, Accepts plain (reqOf op)) ∧
    (∀ op, WaitsThere (granule 0xC000000000000000 [{ part := 0, n := 0, base := 0, index := 0x30 }]) (reqOf op)) ∧
    (∀ op, ¬ WaitsThere (granule 0x8004000000000000 []) (reqOf op) ∧ (reqOf op).pkg = none) ∧
    (granule 0x8004000000000000 []).homePackage 0 0x3000 ≠ (granule 0x8004000000000000 []).pkgid ∧
    plain.l2Find 0 0x30 = none ∧ plain.peerWait = [] ∧
    (({ granule 0x8004000000000000 [] with l2 := [peerLine] } : State).l2Find 0 0x30 = some peerLine ∧ rightsOk .load true peerLine.g.rights = true ∧
      NoneOnTheWay { granule 0x8004000000000000 [] with l2 := [peerLine] } 0 ∧ peerLine.peer ≠ some true) ∧
    (∃ u n f, plain.homeLine { part := 0, ctx := 0, va := 0x3000, acc := .load, priv := true } = (u, n, .error f)) ∧
    (∃ b, backed.homeLine { part := 0, ctx := 0, va := 0x3000, acc := .load, priv := true } = (backed, 0, .ok (b, leaf 0x7000)) ∧ b ≠ [] ∧ NoneOnTheWay backed 0) ∧
    (∃ b, backed.homeLine { part := 0, ctx := 0, va := 0x3000, acc := .atomic, priv := true } = (backed, 0, .ok (b, leaf 0x7000))) ∧
    (leaf 0x7000).rights.getLsbD 6 = false ∧ (leaf 0x7000).rights.getLsbD 4 = false :=
  ⟨⟨by decide, fun _ => .inl rfl⟩, fun _ => .inr (show (granule 0xC000000000000000 [{ part := 0, n := 0, base := 0, index := 0x30 }]).lockedLine 0 (0x3000 : Word).toNat = true by decide),
    fun _ => ⟨fun h => h.elim (absurd · (show ¬ (granule 0x8004000000000000 []).lineWaits 0 ((0x3000 : Word).toNat / 256) = true by decide))
      (absurd · (show ¬ (granule 0x8004000000000000 []).lockedLine 0 (0x3000 : Word).toNat = true by decide)), rfl⟩, by decide, by decide, rfl,
    ⟨by decide, by decide, ⟨rfl, rfl, rfl⟩, by decide⟩, ⟨_, _, _, rfl⟩, ⟨_, rfl, by decide, rfl, rfl, rfl⟩, ⟨_, rfl⟩, by decide, by decide⟩

/-- A leaf with O = 1 answers no bytes: the table's last entry with O. -/
theorem wit_strong_line : ∃ u n, ({ mapped id [] with hbm := [(0x10000, 0x03), (0x10001, 0x10), (0x10002, 0x01), (0x11000, 0x03), (0x11001, 0x20), (0x11002, 0x01), (0x12000, 0x7D)] } : State).homeLine
    { part := 0, ctx := 0, va := 0x3000, acc := .load, priv := true } = (u, n, .ok ([], { rights := 0x1F, frame := 0x3000, size := 2 ^ 30 })) := ⟨_, _, rfl⟩

def filling : State := waiting (.asleep (.fill 0x30))
/-- The same, with the line at its home. -/
def filled : State := { filling with l2 := [homeLine0] }
/-- A line in each of the first eight ways of the set of 0x3000, of which the core has no more. -/
def setLines (n : Nat) : List L1Line := (List.range n).map fun j => { line with line := 0x70 + 64 * j, way := j }
def fullSet : State := filled.updCore 0 fun c => { c with wayMask := 0xFF00, l1 := setLines 7 ++ [{ line with line := 0x230, way := 7 }] }

theorem wit_full_set : (∀ e ∈ (fullSet.core 0).slots, ∀ k ∈ e.2.closed ++ [e.2.opened], k.held = []) ∧
    (fullSet.core 0).l1 = setLines 7 ++ [{ line with line := 0x230, way := 7 }] ∧
    (∀ l ∈ setLines 7 ++ [{ line with line := 0x230, way := 7 }], l.line % 64 = 0x3000 / 256 % 64 ∧ (l.part, l.line) ≠ (0, 0x3000 / 256)) ∧
    (∀ j < 16, (fullSet.core 0).wayMask.getLsbD j = false → ∃ l ∈ setLines 7 ++ [{ line with line := 0x230, way := 7 }], l.way = j) ∧
    ((setLines 7 ++ [{ line with line := 0x230, way := 7 }]).map fun l : L1Line => l.way).Nodup ∧
    (fullSet.core 0).wayMask &&& 0xFFFF ≠ 0xFFFF ∧ fullSet.l2Find 0 (0x3000 / 256) = some homeLine0 ∧ homeLine0.g.frame = (leaf 0x7000).frame := by decide
/-- A core of one L1 way whose waiting strand has stored to a line of the set of 0x3000. -/
def dirtied (w : Wait) : State :=
  machine (fun t => { t with wait := w, opened := { t.opened with count := 1, held := [.store 0x7000 [1] none] } })
    fun c => { c with wayMask := 0xFFFE }

theorem not_dirty (x : State) (hx : x = plain ∨ x = filling) (l : Nat) : ¬ DirtyLine (x.core 0) 0 l := by
  rintro ⟨e, he, -, k, hk, va, data, g, hm, -⟩
  rcases hx with rfl | rfl <;>
    · obtain rfl : e = _ := List.mem_singleton.mp he
      obtain rfl : k = _ := List.mem_singleton.mp hk
      cases hm

theorem wit_clean_set : (¬ DirtySet plain.myCore 0 (0x3000 / 256) ∧ ¬ DirtySet (filling.core 0) 0 (0x3000 / 256)) ∧
    ¬ DirtyLine (filling.core 0) 0 (0x3000 / 256) := by
  have h (x : State) (hx : x = plain ∨ x = filling) : ¬ DirtySet (x.core 0) 0 (0x3000 / 256) := by
    rintro ⟨-, h0, ls, -, hl, hx'⟩
    rcases ls with _ | ⟨a, ls⟩
    · exact absurd hl (Nat.not_le.mpr h0)
    · obtain ⟨-, e, he, -, k, hk, va, data, g, hm, -⟩ := hx' a (.head _)
      rcases hx with rfl | rfl <;>
        · obtain rfl : e = _ := List.mem_singleton.mp he
          obtain rfl : k = _ := List.mem_singleton.mp hk
          cases hm
  exact ⟨⟨h _ (.inl rfl), h _ (.inr rfl)⟩, not_dirty _ (.inr rfl) _⟩

theorem wit_dirty_set (w : Wait) : DirtySet ((dirtied w).core 0) 0 (0x3000 / 256) := by
  have hw : ((dirtied w).core 0).wayMask = 0xFFFE := rfl
  refine ⟨?_, by rw [hw]; decide, [(0, 0x70)], by decide, by rw [hw]; decide, ?_⟩
  · rintro ⟨e, he, -, k, hk, va, data, g, hm, h, -⟩
    obtain rfl : e = _ := List.mem_singleton.mp he
    obtain rfl : k = _ := List.mem_singleton.mp hk
    obtain ⟨rfl, -⟩ : va = 0x7000 ∧ _ := by simpa [dirtied] using List.mem_singleton.mp hm
    exact absurd h (by decide)
  · intro x hx
    obtain rfl := List.mem_singleton.mp hx
    exact ⟨by decide, _, .head _, rfl, _, .head _, 0x7000, [1], none, .head _, by decide, by decide⟩
/-- An own journal's entry 3, of the strand in slot 0 or of one that has gone. -/
def posted (slot : Nat) : State :=
  plain.updCore 0 fun c => { c with journal := [(3, { slot := slot, va := 0x01FFFFF000420000, width := 8, chunk := 0, startedAt := 0, task := 0, refused := false })] }
/-- Loads of an element of core 4's store, and of its window 7. -/
def remoteLoad (wait : Bool) (win off : Nat) : RemoteLoad :=
  { who := ⟨0, 0⟩, part := 0, target := 4, elems := [(2, BitVec.ofNat 64 (0x01FFFFF000400000 + win * 2 ^ 18 + off))], size := 4, scaleOff := 0, wait := wait }
def remoteAtomic (off : Nat) : RemoteAtomic :=
  { who := ⟨0, 0⟩, part := 0, target := 4, va := BitVec.ofNat 64 (0x01FFFFF000400000 + off), size := 4, lane := 0, fn := .add, val := 3, cmp := 0 }
def asking : State := plain.setMe { plain.me with wait := .asleep .remote, received := [.asked 0 0x01FFFFF000420000] }
def postedStore (off : Nat) : PostedStore :=
  { src := 0, idx := some 3, part := 0, target := 4, data := [(off, 1), (off + 1, 2)], setFull := true, reply := none, edition := 0 }

theorem wit_core_events :
    (filling.occupied ⟨0, 0⟩ = true ∧ (filling.strand ⟨0, 0⟩).wait = .asleep (.fill 0x30) ∧ (filling.strand ⟨0, 0⟩).monitor = none ∧ (filling.strand ⟨0, 0⟩).part = 0 ∧ (filling.strand ⟨0, 0⟩).copy ≠ .asked ∧
      (filling.strand ⟨0, 0⟩).pending = [] ∧ filling.l2Find 0 0x30 = none ∧ (filled.l2Find 0 0x30 = some homeLine0 ∧ (filled.die (dieOf 0)).spine = [] ∧ filled.cowQueue = [] ∧ filled.peerWait = []) ∧ (filling.core 0).wayMask &&& 0xFFFF ≠ 0xFFFF ∧ (filling.core 0).l1 = []) ∧
    (∀ c ∈ plain.cores, ∀ x ∈ c.2.slots, x.2.monitor = none) ∧
    ((remote []).targetRefuses 4 0 [0x20000, 0x20001, 0x20002, 0x20003] true false = none ∧ (remote []).targetRefuses 4 0 [0, 1, 2, 3] true false ≠ none) ∧
    ((remote []).targetRefuses 4 0 [0x20000, 0x20001, 0x20002, 0x20003] true true = none ∧ (remote []).targetRefuses 4 0 [0, 1, 2, 3] true true ≠ none) ∧
    (asking.occupied ⟨0, 0⟩ = true ∧ (asking.strand ⟨0, 0⟩).received = [.asked 0 0x01FFFFF000420000] ∧ (asking.strand ⟨0, 0⟩).wait = .asleep .remote) ∧
    ((postedStore 0x20000).reply = none ∧ (remote []).targetRefuses 4 0 [0x20000, 0x20001] false true = none ∧
      ((postedStore 0x20000).data.map (·.1)).Nodup ∧ (postedStore 0x20000).idx = some 3 ∧ (remote []).targetRefuses 4 0 [0, 1] false true ≠ none) ∧
    ((∃ e, ((posted 0).core 0).journal.find? (fun x => x.1 == 3) = some (3, e) ∧ (posted 0).occupied ⟨0, e.slot⟩ = true ∧ ((posted 0).strand ⟨0, e.slot⟩).startedAt = e.startedAt) ∧
      (posted 5).owner (quireOf 0) = some 0 ∧ (posted 5).occupied ⟨0, 5⟩ = false) ∧
    ((waiting (.asleep (.sector 8191))).strand ⟨0, 0⟩).wait = .asleep (.sector 8191) ∧ has 0 plain.tasks = false :=
  ⟨by decide, by decide, by decide, by decide, by decide, by decide, ⟨⟨_, rfl, by decide, rfl⟩, by decide, by decide⟩, by decide, by decide⟩

/-- A partition that adopts a new HMASK in one slice or in two, and a granule in motion. -/
def adopting (l : List Nat) : State := plain.updPartition 0 fun p => { p with adoptLeft := l, hmsets := [(⟨0, 0⟩, 0xFF)] }
def inMotion (i : Nat) : State :=
  { (plain.updPartition 0 fun p => { p with hmapL := [(2, 0xC000000000000000)] }) with moves := [{ part := 0, n := 2, base := 0, index := i }] }
def cowWrite (ed : W32) : CowWrite := { who := ⟨0, 0⟩, task := 0, start := 0, part := 0, ctx := 0, va := 0x3000, data := [7], edition := ed, kind := .write, g := { leaf 0x3000 with rights := 0x4F } }

theorem wit_pod_directory :
    (listed0.takesPackets 0 = true ∧ (mapped id []).takesPackets 0 = false ∧ (listed0.updPartition 0 fun p => { p with restoring := some 3 }).takesPackets 0 = false) ∧
    ( listed0.homePackage 0 (0x30 * 256) = listed0.pkgid ∧
      listed0.lockedLine 0 (0x30 * 256) = false ∧ listed0.lineWaits 0 0x30 = false) ∧
    (listed0.podEntry 0 0x30 = none ∧ listed0.l2 = [] ∧ ∃ l, listed0.lineLeaf 0 (0x30 * 256) = some l) ∧
    (({ plain with podDir := [{ part := 0, line := 0x30, holders := [5, 6], owned := false, acks := 0 }] } : State).podEntry 0 0x30 =
      some { part := 0, line := 0x30, holders := [5, 6], owned := false, acks := 0 }) ∧
    (({ plain with podDir := [{ part := 0, line := 0x30, holders := [5], owned := true, acks := 0 }] } : State).podEntry 0 0x30 =
      some { part := 0, line := 0x30, holders := [5], owned := true, acks := 0 } ∧ [5] ≠ [] ∧ [5] ≠ [6]) ∧
    ((cowWrite 0).kind ≠ .unit ∧ (cowWrite 0).g.rights.getLsbD 6 = true ∧ ({ plain with cowQueue := [cowWrite 0] } : State).cowQueue = [cowWrite 0]) ∧
    ((plain.setMe { plain.me with ntOut := [(4, 0x3000, [1])] }).strand ⟨0, 0⟩).ntOut = [] ++ (4, 0x3000, [1]) :: [] :=
  ⟨by decide, by decide, ⟨by decide, rfl, _, rfl⟩, rfl, ⟨rfl, by decide, by decide⟩, by decide, rfl⟩

set_option maxRecDepth 4096 in
theorem wit_home_moves :
    plain.l2 = [] ∧ (plain.partition 0).hmsets = [] ∧ ((adopting [3, 4]).partition 0).adoptLeft = 3 :: 4 :: [] ∧ ((adopting [3]).partition 0).adoptLeft = [3] ∧
    ((adopting [3]).partition 0).hmsets = [(⟨0, 0⟩, 0xFF)] ∧
    ((0x4000000000000000 : Word).toNat / 2 ^ 38 % 2 ^ 10 = plain.pkgid ∧
      (8190 + 1 < ((look 0 2 ((inMotion 8190).partition 0).hmapL).toNat % 2 ^ 36 + 1 - 0) * 8192) ∧
      (((look 0 2 ((inMotion 8191).partition 0).hmapL).toNat % 2 ^ 36 + 1 - 0) * 8192 ≤ 8191 + 1) ∧ ((inMotion 8191).context 0 0).clsNum = 0) ∧
    plain.pageLeaf 0 0 0x3000 = none ∧
    (∃ l pte, (mapped id []).pageLeaf 0 0 0x3000 = some (l, pte) ∧ l.rights.getLsbD 6 = false ∧ l.rights.getLsbD 4 = false ∧
      pte.toNat / 2 ^ 52 % 256 = ((mapped id []).partition 0).edition.toNat % 256) ∧
    (∃ l pte u, mapped2.pageLeaf 0 0 0x3000 = some (l, pte) ∧
      pte.toNat / 2 ^ 52 % 256 ≠ 1 ∧ l.size < 2 ^ 30 ∧
      (mapped2.editionOf 0 1).isSome = true ∧ mapped2.copyPage 0 0 0x3000 l pte = (u, false)) :=
  ⟨by decide, by decide, by decide, by decide, by decide, by decide, by decide, ⟨_, _, rfl, by decide, by decide, by decide⟩, ⟨_, _, _, rfl, by decide, by decide, by decide, rfl⟩⟩

/-! ## Barriers, censuses, samplers and editions: hypotheses met -/

def bar0 : BarKey := { scope := 1, part := 0, place := 0, id := 3 }
/-- A barrier with one arrival of quire 0 under descriptor 2, whose strand sleeps in slot 3. -/
def barrierWith (releasing : Bool) : State :=
  { plain.updCore 0 fun c => { c with slots := put 3 { strand0 with wait := .asleep (.barrier bar0 0) } c.slots } with
    barriers := [{ key := bar0, phase := 0, counts := [{ phase := 0, quire := 0, desc := 2, n := 1 }], releasing := releasing }] }
def timed : State := plain.updPartition 0 fun p => { p with coltmo := 7 }

theorem wit_barriers :
    (bar0.scope = 1 ∧ bar0.place = quireOf 0 ∧ (timed.barrier bar0).counts = [] ∧ (timed.barrier bar0).releasing = false ∧ timed.occupied ⟨0, 0⟩ = true ∧
      (timed.partition 0).coltmo.toNat % 2 ^ 32 ≠ 0) ∧
    ((barrierWith false).barrier bar0).count (((barrierWith false).barrier bar0).openPhase (quireOf 0)) (quireOf 0) = some { phase := 0, quire := 0, desc := 2, n := 1 } ∧
    (((barrierWith true).barrier bar0).releasing = true ∧ ((barrierWith false).barrier bar0).releasing = false ∧ (barrierWith true).occupied ⟨0, 3⟩ = true ∧
      ((barrierWith true).strand ⟨0, 3⟩).wait = .asleep (.barrier bar0 0)) ∧ ((barrierWith true).barrier bar0).phase ≠ 1 := by decide

def monitor0 : Monitor := { va := 0x3000, onScratch := false, events := [], first := none, id := 4 }
def watching : State := plain.setMe { plain.me with wait := .asleep .monitor, monitor := some monitor0 }

theorem wit_monitor : watching.occupied ⟨0, 0⟩ = true ∧ (watching.strand ⟨0, 0⟩).wait = .asleep .monitor ∧ (watching.strand ⟨0, 0⟩).monitor = some monitor0 := by decide

/-- Census 2 of the partition is open, with core 0 to come and a strand that sleeps on it. -/
def census0 : CensusId := ⟨0, 2, 5⟩
def question : Solicit := zeroSolicit
def asked (s : State) : State :=
  (s.updCensus 0 2 fun x => { x with open_ := true, seq := 5, q := some question, left := [0] }).updCore 0 fun c =>
    { c with slots := put 3 { strand0 with wait := .asleep (.census census0) } c.slots }
def allOpen : State := plain.updPartition 0 fun p => { p with census := (List.range 8).map fun j => (j, { Census.reset with open_ := true }) }
/-- A core that has begun the census and waits for a GIVE's acknowledgement. -/
def beginning : State := (asked plain).updCore 0 fun c => { c with cens := [{ id := census0, live := 0, gives := [8], answers := [], sent := false }], givesOut := [8] }

theorem wit_open : Open (asked plain) census0 question ∧ Open (asked classed) census0 question := ⟨⟨rfl, rfl, rfl, rfl⟩, rfl, rfl, rfl, rfl⟩
theorem wit_matches : Matches census0 question entry0 ∧ ¬Matches census0 { question with mask := 2, key := 2 } entry0 :=
  ⟨⟨rfl, by decide, by decide⟩, fun h => absurd h.2.1 (by decide)⟩

theorem wit_censuses :
    ((2 < 8 ∧ ((allOpen.updCensus 0 2 fun x => { x with open_ := false }).census 0 2).open_ = false ∧
      ∀ k < 2, ((allOpen.updCensus 0 2 fun x => { x with open_ := false }).census 0 k).open_ = true) ∧ ∀ k < 8, (allOpen.census 0 k).open_ = true) ∧
    ((asked plain).core 0).givesOut = [] ∧ (∀ e ∈ ((asked plain).core 0).catalogue, ¬Matches census0 question e.2) ∧
    (∃ u v, let s := (asked classed).updCore 0 fun c => { c with catalogue := [(9, entry0)] }
      (s.updCore 0 (begun census0 question)).classEntry 0 0 0 = (u, .ok class0) ∧ u.handlerPc 0 0 class0 0 = (v, .ok (some 0x1010))) ∧
    (0 ∈ ((asked plain).census 0 2).left ∧ ((asked plain).census 0 2).left = [0] ∧ question.scope ≤ 3 ∧ ((asked plain).census 0 2).left ≠ []) ∧
    ((asked plain).occupied ⟨0, 3⟩ = true ∧ ((asked plain).strand ⟨0, 3⟩).wait = .asleep (.census census0)) ∧
    ((beginning.core 0).cens = [{ id := census0, live := 0, gives := [8], answers := [], sent := false }] ∧ (beginning.core 0).givesOut = [8]) :=
  ⟨by decide, rfl, fun _ h => absurd h List.not_mem_nil, ⟨_, _, rfl, rfl⟩, by decide, by decide, by decide⟩

/-- Core 4's catalogue lacks entry 2 alone, and has none free. -/
def catalogueAt4 (l : List Nat) : State := plain.updCore 4 fun c => { c with catalogue := l.map fun j => (j, entry0) }
def give0 : Give := { tag := 6, src := 0, dst := 4, part := 0, srcIndex := 0, index := 2, entry := entry0, view := [], edition := 0 }

theorem wit_gives : ((!has 2 ((catalogueAt4 [0, 1]).core 4).catalogue && !((catalogueAt4 [0, 1]).core 4).catReserved.contains 2) = true ∧
      ∀ k < 2, (!has k ((catalogueAt4 [0, 1]).core 4).catalogue && !((catalogueAt4 [0, 1]).core 4).catReserved.contains k) = false) ∧
    (∀ k < 64, (!has k ((catalogueAt4 (List.range 64)).core 4).catalogue && !((catalogueAt4 (List.range 64)).core 4).catReserved.contains k) = false) ∧
    ((catalogueAt4 []).core 4).seen = [] := ⟨by decide, by decide +kernel, rfl⟩

/-- A sampler with a queue; its contexts 0 and 1 belong to partition 0. -/
def samplerWith (l : List Waiting) (hold : Bool) : State :=
  { backed with samplers := [(0, { Sampler.reset with queue := l, hold := hold, own := [(0, 0x80)], images := [(0, [(0, 0x7FF), (4, 0x3040), (5, 64)])] })] }
def fresh0 : Waiting := { req := request0, order := 0, parked := none, ready := false }
def parked0 : Waiting := { req := request0, order := 0, parked := some (run0 0 0), ready := false }
/-- The slot of the context's position 0 holds another number. -/
def notYet : State := (samplerWith [parked0] false).setImage 0 0 1 16

theorem wit_samplers :
    ((samplerWith (List.replicate 63 fresh0) false).sampler 0).queue.length = 63 ∧ ((samplerWith (List.replicate 64 fresh0) false).sampler 0).queue.length = 64 ∧
    (((samplerWith [fresh0] false).sampler 0).hold = false ∧ ((samplerWith [fresh0] false).sampler 0).running = none ∧ ((samplerWith [fresh0] false).sampler 0).queue = [fresh0] ∧
      (look 0 0 ((samplerWith [fresh0] false).sampler 0).own).toNat = 0x80 + 0) ∧
    ((samplerWith [] true).sampler 0).hold = true ∧ ((samplerWith [parked0] false).sampler 0).queue = [parked0] ∧
    (samplerWith [parked0] false).maskReady 0 request0 = (samplerWith [parked0] false, some true) ∧ notYet.maskReady 0 request0 = (notYet, some false) ∧
    ((sampling (tokenRun 3 0) [] []).sampler 0).running = some (tokenRun 3 0) :=
  ⟨by decide, by decide, by decide, by decide, by decide, rfl, rfl, by decide⟩

/-- An open edition 1 that waits for one unit, or for none. -/
def edition1 (left : List UnitId) : Edition := { edition0 with n := 1, state := 0, left := left }
def opened (left : List UnitId) (f : Core → Core) : State :=
  ({ plain.updPartition 0 fun p => { p with edition := 1 } with editions := [edition1 left] } : State).updCore 0 f
def edPacket (n : W32) : EdPacket := { kind := 1, link := 0, va := 0, edition := n, len := 0, content := [] }

/-- Edition 0 is complete, and the slice it still names may switch; one with a retiring entry may not. -/
def late : State := { plain with editions := [{ edition0 with left := [.slice 0] }] }
def restless : State := (opened [.slice 0] id).updSlice 0 fun x => { x with ephs := [entryOf .retiring []] }

/-- A home that waits to switch, with a live actor. -/
def waitingHome : State := (opened [.slice 0] id).updSlice 0 fun x => { x with ephs := [entryOf .live []], switching := true }

theorem wit_editions :
    ((opened [.core 0] id).openEdition 0 = some (edition1 [.core 0]) ∧ plain.openEdition 0 = none ∧ complete.openEdition 0 = none) ∧
    ((opened [.core 0] id).editionOf 0 1 = some (edition1 [.core 0]) ∧ (edition1 [.core 0]).left.contains (.core 0) = true ∧ (edition1 [.core 0]).left.contains .baseDie = false ∧
      (edition1 [.slice 0]).left.contains (.slice 0) = true) ∧
    ((∀ x ∈ ((opened [.slice 0] id).slice 0).ephs, x.phase = .live) ∧ (late.slice 0).arrived = []) ∧
    ((waitingHome.editionOf 0 1 = some (edition1 [.slice 0]) ∧ waitingHome.eph 0 (actor 7) = some (entryOf .live []) ∧ (waitingHome.slice 0).switching = true)) ∧
    (((opened [.core 0] fun c => { c with trigger := some 1 }).core 0).trigger = some 1 ∧ ((opened [.core 0] id).core 0).trigger ≠ some 1) ∧
    ((edPacket 1).edition = (edition1 [.engines 0]).n ∧ (edition1 [.engines 0]).left.contains (.engines 0) = true ∧
      ((opened [.engines 0] id).updEngine 0 0 fun g => { g with running := some cctx }).mayStep (.engines 0) = false) ∧
    (late.editionOf 0 0 = some { edition0 with left := [.slice 0] } ∧ late.openEdition 0 = none) ∧ (entryOf .retiring [] ∈ (restless.slice 0).ephs ∧ (entryOf .retiring []).phase ≠ .live) ∧
    ((opened [] id).editionDone (edition1 []) = true ∧ (opened [.core 0] id).editionDone (edition1 [.core 0]) = false) := by decide

/-! ## Ports, graphs, registers and recovery: hypotheses met -/

/-- Port 2 of partition 0: class 9, key mode `m`, enabled or not, with lines posted and accepted. -/
def ported (m : Word) (en : Bool) (posted accepted : Nat) (check : Bool) : State :=
  (plain.updPort 2 fun _ => { Port.reset with own := 0x80, bind := (if en then 0x80000 else 0) ||| m <<< 16 ||| 9, posted := posted, accepted := accepted }).updPartition 0
    fun p => { p with checkpoint := check }

theorem wit_ports :
    (((ported 2 true 14 0 false).port 2).owner = some 0 ∧ ((ported 2 true 14 0 false).port 2).bind.getLsbD 19 = true ∧
      ((ported 2 true 14 0 false).port 2).posted % 15 = 14 ∧ ((ported 2 true 14 0 false).port 2).posted - ((ported 2 true 14 0 false).port 2).accepted < 15) ∧
    (ported 0 true 14 0 false).running 0 = true ∧ (ported 0 true 14 0 false).checkpointing 0 = false ∧ (ported 0 true 14 0 true).checkpointing 0 = true ∧
    (14 * 256 + 223) / 256 < 15 ∧ (14 * 256 + 223) % 256 + 1 ≤ 224 ∧ 224 < (14 * 256 + 224) % 256 + 32 ∧ (14 * 256 + 224) % 256 + 32 = 256 ∧
    ((ported 0 false 0 0 false).port 2).bind.getLsbD 19 = false ∧ (plain.port 2).owner ≠ some 0 ∧
    15 ≤ ((ported 0 true 15 0 false).port 2).posted - ((ported 0 true 15 0 false).port 2).accepted ∧ ((ported 0 true 14 0 false).port 2).posted % 15 ≠ 13 ∧
    (0x2FFFF : Word).toNat / 2 ^ 16 % 4 ≠ 3 := by decide

/-- A table of nodes at 0x3000: node 1 of a kind, with its argument at 0x3100 and a list of one successor, node 2, that waits for `c`. -/
def graph (kind c : Byte) : State :=
  ({ plain with
    l2 := [homeLineAt 0x30 ((if kind = 0 then [] else [(0x40, kind)]) ++ [(0x41, 1), (0x49, 0x31), (0x59, 0x32)] ++ (if c = 0 then [] else [(0x84, c)])),
      homeLineAt 0x31 [], homeLineAt 0x32 [(0, 0x48), (1, 6), (6, 0x40), (0x40, 2)], homeLineAt 0x33 [(1, 0x10), (9, 1), (12, 2), (14, 1), (52, 4)]] }).updContext 0 0 fun x =>
    { x with graphBase := 0x3000, clsTab := 0x3300, clsNum := 1 }

def node1 (kind : Nat) : GraphNode := { kind := kind, reload := false, nsucc := 1, init := 0, target := 0, arg := 0x3100, cls := 0, succ := 0x3200 }
def nodeClass : ClassEntry :=
  { code := 0x1000, codeLim := 0x100, nTypes := 2, stLines := 1, attr := 0, pinCore := 0, ctor := 0, hTab := 0, recDir := 0, recPool := 0, budget := 0, dirLog := 4, cbank := 0, resZero := true }

set_option maxRecDepth 4096 in
theorem wit_graphs :
    (plain.running 0 = true ∧ plain.running 1 = false ∧ (∃ u f, plain.readNode 0 0 1 = (u, .error f))) ∧
    (graph 0 2).readNode 0 0 1 = (graph 0 2, .ok (node1 0)) ∧ (graph 1 2).readNode 0 0 1 = (graph 1 2, .ok (node1 1)) ∧
    (graph 2 2).readNode 0 0 1 = (graph 2 2, .ok (node1 2)) ∧ (graph 3 2).readNode 0 0 1 = (graph 3 2, .ok (node1 3)) ∧
    (graph 4 2).readNode 0 0 1 = (graph 4 2, .ok (node1 4)) ∧
    (∃ v b, ((graph 1 2).pulse 0 0).unitRead 0 0 0x3100 256 = (v, .ok b)) ∧
    ((graph 2 2).owner (quireOf 0) = some 0 ∧ (∃ v b, ((graph 2 2).pulse 0 0).unitRead 0 0 0x3100 128 = (v, .ok b)) ∧
      ∃ v, ((graph 2 2).pulse 0 0).classEntry 0 0 0 = (v, .ok nodeClass)) ∧
    (∃ v b, ((graph 3 2).pulse 0 0).unitRead 0 0 0x3100 64 = (v, .ok b) ∧ v.owner 0 = some 0 ∧ Bytes.toNat (b.take 4) / 2 ^ 20 % 16 < 4) ∧
    (∃ v x, ((graph 4 2).pulse 0 0).unitWord 0 0 0x3100 8 = (v, .ok x)) ∧
    ((graph 0 2).successors 0 0 (node1 0) 0 = (graph 0 2, .ok [2]) ∧ (graph 0 2).successors 0 0 { node1 0 with nsucc := 0 } 0 = (graph 0 2, .ok [])) ∧
    (∃ a, (graph 0 1).unitWord 0 0 ((graph 0 1).nodeVa 0 0 2 + 4) 2 = (a, .ok 1) ∧ ∃ b, a.unitWrite 0 0 (a.nodeVa 0 0 2 + 4) (Bytes.ofNat 2 0) = (b, .ok ())) :=
  ⟨⟨by decide, by decide, _, _, rfl⟩, rfl, rfl, rfl, rfl, rfl, ⟨_, _, rfl⟩, ⟨by decide, ⟨_, _, rfl⟩, _, rfl⟩, ⟨_, _, rfl, by decide, by decide⟩, ⟨_, _, rfl⟩, ⟨rfl, rfl⟩,
    ⟨_, rfl, _, rfl⟩⟩

/-- A context with a watchdog of one unit. -/
def watched (w : Word) (last : Nat) (silent : Bool) : State := plain.updContext 0 0 fun x => { x with wdogWin := w, lastPulse := last, silent := silent }

theorem wit_watchdog : ((watched 0 0 false).context 0 0).wdogWin.toNat * 1024 = 0 ∧ ((watched 1 0 false).context 0 0).wdogWin.toNat * 1024 ≠ 0 ∧
    (watched 1 0 false).running 0 = true ∧ (watched 1 0 false).checkpointing 0 = false ∧ ((watched 1 5 false).context 0 0).lastPulse ≠ 0 ∧
    ((watched 1 0 true).context 0 0).silent = true ∧ has 0 plain.cores = true := by decide

/-- No partition runs. -/
def unstarted : State := { plain with partitions := [], started := false }
/-- The strand copies its window at CBANK, which lies in the own store at `off`, or beyond the addresses. -/
def copying (bank : Word) : State := plain.setMe { plain.me with copy := .wanted, cbank := bank }

theorem wit_registers :
    (∀ p < 24, (unstarted.partition p).pctl = 0) ∧ (∃ p < 24, (plain.partition p).pctl ≠ 0) ∧ (unstarted.started = false ∧ (992 : Word).toNat % 1024 < 993) ∧
    (plain.wayMaskOk ((plain.owner (quireOf 0)).getD 0) (State.aslotSet (plain.core 0)) (State.frecSet (plain.core 0)) 0xFF00 = true ∧
      plain.wayMaskOk ((plain.owner (quireOf 0)).getD 0) (State.aslotSet (plain.core 0)) (State.frecSet (plain.core 0)) 0xFFFF = false) ∧
    (State.aslotOk (plain.core 0).wayMask (oneSlot &&& 0x3FFFFFFFFFFFF) = true ∧ State.aslotOk (plain.core 0).wayMask 1 = false ∧ (plain.core 0).actors = [] ∧
      (plain.core 0).lowQ = [] ∧ (plain.core 0).highQ = []) ∧
    ((slots0 oneSlot [(0, slotOf .live 7)]).core 0).actors = [(0, slotOf .live 7)] ∧ (slots0 oneSlot [(0, slotOf .live 7)]).actorRuns 0 0 = false ∧
    ((copying (ownVa first)).occupied ⟨0, 0⟩ = true ∧ ((copying (ownVa first)).strand ⟨0, 0⟩).copy = .wanted ∧
      cbselOf ((copying (ownVa first)).strand ⟨0, 0⟩).regs.flags = (0 : Word).setWidth 16 ∧ inScratch ((copying (ownVa first)).core 0) first 256 = true ∧
      (∀ a ∈ sectorsOf first 256, protectionOk ((copying (ownVa first)).core 0) (some 0) 0 (a / 32) false true false = true)) ∧
    (2 ^ 57 ≤ (0x0200000000000000 : Word).toNat ∧ (plain.strand ⟨0, 0⟩).copy ≠ .wanted) ∧
    ((plain.core 4).slots = [] ∧ (plain.core 4).deque = [] ∧ (∃ e ∈ (plain.core 0).slots, ((plain.core 0).ctxRun &&& ~~~(0 : Word)).getLsbD e.2.ctx = true)) := by decide

theorem wit_owners : (∀ p, (none : Option Nat) = some p → (plain.partition p).pctl = 0) ∧ (∀ p, (plain.quire 5).owner = some p → (plain.partition p).pctl = 0) ∧
    ¬(∀ p, (plain.quire 0).owner = some p → (plain.partition p).pctl = 0) ∧ ¬(∀ p, some 0 = some p → (plain.partition p).pctl = 0) :=
  ⟨fun _ h => (nomatch h), fun _ h => (nomatch h), fun h => absurd (h 0 rfl) (by decide), fun h => absurd (h 0 rfl) (by decide)⟩

theorem wit_host_window : (plain.inShare 0 (((plain.partition 0).phbm.toNat % 1024 + (plain.partition 0).hwinBase.toNat) * 2 ^ 30 + (2 ^ 32 - 8)) 8 = true) ∧
    (plain.inShare 1 (((plain.partition 1).phbm.toNat % 1024 + (plain.partition 1).hwinBase.toNat) * 2 ^ 30) 8 = false) ∧
    (plain.partition 1).pctl = 0 ∧ (plain.partition 0).pctl ≠ 0 ∧ (2 ^ 32 - 8) + 8 ≤ 2 ^ 36 ∧ 2 ^ 32 ≤ Config.hbmBytes := by decide

def stopping : State := plain.updPartition 0 fun p => { p with pctl := 2 }
def checked0 : State := plain.updPartition 0 fun p => { p with checkpoint := true }

theorem wit_recovery : ((plain.partition 1).pctl = 0 ∧ (plain.partition 0).pctl ≠ 0) ∧ (stopping.partition 0).pctl = 2 ∧
    (∀ p < 24, unstarted.running p = false) ∧ (checked0.running 0 = true ∧ checked0.checkpointing 0 = true ∧ checked0.foreign 0 = false) ∧
    (∀ p < 24, (2 : Word).getLsbD p = true → plain.running p = false) ∧ (1 : Word) = 1 <<< 0 ∧
    ({ structureCode := 11, unit := 0, part := some 0, addr := 0 } : ErrorSite).structureCode ≠ 12 ∧ plain.occupied ⟨0, 0⟩ = true := by decide

/-! ## The machine's step, fetch and forms: hypotheses met -/

/-- Loads into a register that discards, and the last that does not. -/
theorem wit_discards : (∀ p ∈ intBinaryTable, Ready (p.1 { aword with d := 31 }) plain ∧ ({ aword with d := 16 } : AWord).vDest = false) ∧
    (∀ p ∈ loadTable, Ready (p.1 { cword with d := 16 }) (cached 0x3000)) ∧
    (∀ p ∈ loadTable, readsVal (cached 0x3000) (loadsAs p.2.1 p.2.2.1) ((cached 0x3000).loadAddress { cword with d := 16 } p.2.1) = true ∧
      inAperture ((cached 0x3000).loadAddress { cword with d := 16 } p.2.1) = false) ∧
    16 ≤ (16 : BitVec 5).toNat ∧ (15 : BitVec 5).toNat < 16 ∧ (7 : BitVec 3) ≠ 0 :=
  ⟨fun p hp => ⟨ready_all (f := fun p => p.1 { aword with d := 31 }) (by decide) p hp, by decide⟩, ready_all (by decide), by decide, by decide, by decide, by decide⟩

theorem wit_power : ({ plain with halted := true } : State).halted = true ∧ plain.halted = false := by decide

/-- The part about to issue these two words, and a wait for nothing. -/
def coded (w0 w1 : W32) : State := placeBundle plain (w0, w1)

/-- The arbitration's record. -/
def picked (s : State) : State := (s.issuer.getD (⟨0, 0⟩, s)).2

theorem fetches {s : State} {r : Ref} {w0 w1 : W32} {b : List Byte} {g : Grant}
    (h : (let t := s.strand r
      let pc := t.regs.pc.toNat
      decide (pc % 8 = 0) && decide (t.code.toNat ≤ pc) && decide (pc < t.code.toNat + t.codeLim.toNat) && decide (pc < 2 ^ 57) && !inAperture pc &&
        !s.homeMoved t.part pc && decide (({ s with cur := r, latch := none } : State).lookCached pc 8 .fetch = .held b g) &&
        decide (b.take 4 = Bytes.ofNat 4 w0.toNat) && decide ((b.drop 4).take 4 = Bytes.ofNat 4 w1.toNat)) = true) : Fetches s r w0 w1 := by
  simp only [Bool.and_eq_true, decide_eq_true_eq, Bool.not_eq_true'] at h
  exact ⟨h.1.1.1.1.1.1.1.1, h.1.1.1.1.1.1.1.2, h.1.1.1.1.1.1.2, h.1.1.1.1.1.2, h.1.1.1.1.2, h.1.1.1.2, b, g, h.1.1.2, h.1.2, h.2⟩

theorem quiescent {s : State} (h : (!s.halted && s.agenda.all (fun x => decide (s.now < x.1)) && s.lookup.isNone && s.injector.isNone && s.completer.isNone && s.resumer.isNone &&
    s.waiter.isNone && s.copier.isNone && s.fetcher.isNone) = true) : Quiescent s := by
  simp only [Bool.and_eq_true, Bool.not_eq_true', Option.isNone_iff_eq_none, List.all_eq_true, decide_eq_true_eq] at h
  exact ⟨⟨h.1.1.1.1.1.1.1.1, fun x _ e => .inl (h.1.1.1.1.1.1.1.2 x (e ▸ List.mem_cons_self))⟩, h.1.1.1.1.1.1.2, h.1.1.1.1.1.2, h.1.1.1.1.2, h.1.1.1.2, h.1.1.2, h.1.2, h.2⟩

/-- The bytes that a fetch of the words finds. -/
def bytesOf (w0 w1 : W32) : List Byte := Bytes.ofNat 4 w0.toNat ++ Bytes.ofNat 4 w1.toNat

/-- An `ld.d` beside an `add`. -/
def paired : State := coded 0x11995208 0x410D8530
/-- A `nop`. -/
def idles : State := coded 0x80000000 0
/-- An A-word first. -/
def badForm : State := coded 0x40000000 0

theorem wit_turn : Turn paired ⟨0, 0⟩ (picked paired) ∧ Turn idles ⟨0, 0⟩ (picked idles) ∧ Turn badForm ⟨0, 0⟩ (picked badForm) :=
  ⟨⟨quiescent (by decide), by decide, by decide, rfl⟩, ⟨quiescent (by decide), by decide, by decide, rfl⟩, quiescent (by decide), by decide, by decide, rfl⟩

theorem wit_fetch : Fetches (picked paired) ⟨0, 0⟩ 0x11995208 0x410D8530 ∧ Fetches (picked idles) ⟨0, 0⟩ 0x80000000 0 ∧ Fetches (picked badForm) ⟨0, 0⟩ 0x40000000 0 :=
  ⟨fetches (b := bytesOf 0x11995208 0x410D8530) (g := leaf 0x1000) (by decide), fetches (b := bytesOf 0x80000000 0) (g := leaf 0x1000) (by decide),
    fetches (b := bytesOf 0x40000000 0) (g := leaf 0x1000) (by decide)⟩

theorem wit_bundle : decodeBundle 0x80000000 0 = .ok (.single (.nopC (lone 0))) ∧ (∃ c a, decodeBundle 0x11995208 0x410D8530 = .ok (.pair c a) ∧ c.wf = true) ∧
    decodeBundle 0x40000000 0 = .error .illegalBundle ∧ (∃ c a, decodeBundle 0x10000800 0x410D8530 = .ok (.pair c a) ∧ c.wf = false) :=
  ⟨by decide, ⟨_, _, rfl, by decide⟩, by decide, _, _, rfl, by decide⟩

/-- A machine with nothing to do but an event that follows all else of its cycle. -/
def lateEvent : State := { quietened unstarted with agenda := [(0, State.lateRank, .commitGrant 0)] }

theorem wit_late_event : Quiescent lateEvent ∧ lateEvent.samplerDue = none ∧ lateEvent.acceptor = none ∧ lateEvent.issuer = none ∧
    lateEvent.agenda = (0, State.lateRank, .commitGrant 0) :: [] ∧ 0 ≤ lateEvent.now :=
  ⟨⟨⟨rfl, fun x _ e => .inr (by obtain ⟨rfl, -⟩ := List.cons.inj e; decide)⟩, by decide, by decide, by decide, by decide, by decide, by decide, by decide⟩, by decide, by decide, rfl,
    rfl, by decide⟩

/-- An event that is due, and a machine with nothing to do. -/
theorem wit_event : ({ plain with agenda := [(0, 0, .thermalStop)] } : State).agenda = (0, 0, .thermalStop) :: [] ∧
    0 ≤ ({ plain with agenda := [(0, 0, .thermalStop)] } : State).now ∧ 0 < State.lateRank ∧
    (Quiescent (quietened unstarted) ∧ (quietened unstarted).samplerDue = none ∧ (quietened unstarted).acceptor = none ∧ (quietened unstarted).issuer = none) :=
  ⟨rfl, by decide, by decide, quiescent (by decide), by decide, by decide, rfl⟩

/-- A home with a packet that has arrived, and a strand whose bundle ends its sleep now. -/
def ending0 : State := idles.updStrand ⟨0, 0⟩ fun t => { t with wait := .waking }
def looking : State := classed.updSlice 0 fun x => { x with arrived := [p0] }

theorem wit_cycle : (NoEvent looking ∧ looking.lookup = some 0) ∧
    (NoEvent ending0 ∧ ending0.lookup = none ∧ ending0.injector = none ∧ ending0.completer = some ⟨0, 0⟩ ∧
      ∃ t, issueStrand ⟨0, 0⟩ ending0 = .next t) :=
  ⟨⟨⟨rfl, fun _ _ e => (by cases e)⟩, by decide⟩, ⟨rfl, fun _ _ e => (by cases e)⟩, by decide, by decide, by decide, _, rfl⟩

def sampled : State := placeSamplerWord plain 0x51000003

theorem wit_sampler_due : Quiescent sampled ∧ (∃ r, sampled.samplerDue = some (0, r) ∧ r.pc < 2048 ∧
    decodeSampler (look 0 r.pc (sampled.sampler 0).store) = some (.samplerLdr { d := 2, a := 0, b := 0, imm := 3 })) :=
  ⟨quiescent (by decide), _, rfl, by decide, by decide⟩

/-- Engine 2 of quire 0 has a GATHER in queue 4. -/
def accepts : State := (quietened plain).updEngine 0 2 fun e => { e with queues := [(4, [⟨encode (.gatherCmd cctx (gather 0x3100 0x3200)), cctx, 0⟩])] }

theorem wit_acceptor : Quiescent accepts ∧ accepts.samplerDue = none ∧ accepts.acceptor = some (0, 2, 4) ∧
    commandEngine (encode (.gatherCmd cctx (gather 0x3100 0x3200))) = 2 ∧
    decodeCommand cctx (encode (.gatherCmd cctx (gather 0x3100 0x3200))) = some (.gatherCmd cctx (gather 0x3100 0x3200)) ∧
    Instr.wf (.gatherCmd cctx (gather 0x3100 0x3200)) = true :=
  ⟨quiescent (by decide), by decide, by decide, by decide, by decide, by decide⟩

/-- A strand at `pc` in code from `code` on. -/
def fetching (pc code limit : Word) : State := machine (fun t => { t with regs := { t.regs with pc := pc }, code := code, codeLim := limit }) id

/-- The program counter of the last clause's first two checks, at the edges of the code. -/
theorem wit_fetch_checks : (((fetching 0x1001 0x1000 8).strand ⟨0, 0⟩).regs.pc.toNat % 8 ≠ 0) ∧
    (¬(((fetching 0x1008 0x1000 8).strand ⟨0, 0⟩).regs.pc.toNat < 0x1008) ∧ 0x1008 % 8 = 0) ∧ ¬(0x1000 ≤ 0xFF8) ∧ (0xFFF < 0x1000 + 8) ∧
    (2 ^ 57 ≤ ((fetching 0x0200000000000000 0 0x0200000000000001).strand ⟨0, 0⟩).regs.pc.toNat ∧ 2 ^ 57 % 8 = 0 ∧ 2 ^ 57 < 0x0200000000000001) ∧
    (inAperture (ownVa first) = true ∧ ownVa first % 8 = 0 ∧ ownVa first < 2 ^ 57) := by decide

theorem wit_forms : (0x40000000 : W32).extractLsb' 30 2 = 1 ∧ ((0 : W32).extractLsb' 30 2 = 0 ∧ (0 : W32).extractLsb' 30 2 ≠ 1) ∧
    ((0x3F800000 : W32).extractLsb' 30 2 = 0 ∧ decodeC 0x3F800000 .paired = none ∧ (0x410D8530 : W32).extractLsb' 30 2 = 1) ∧
    (∃ c a, decodeC 0x11995208 .paired = some (c, true) ∧ decodeA 0x410D8530 .paired = some (a, true) ∧ ∀ d, d ∈ c.writes → d ∉ a.writes) ∧
    (∃ c a k, decodeC 0x11995208 .paired = some (c, true) ∧ decodeA 0x410B8530 .paired = some (a, k) ∧ ∃ d, d ∈ c.writes ∧ d ∈ a.writes) ∧
    ((0x80000000 : W32).extractLsb' 30 2 = 2 ∧ ∃ i, decodeC 0x80000000 (.lone 1) = some (i, true) ∧ i.takesWord1 = false) ∧
    ((0x94825100 : W32).extractLsb' 30 2 = 2 ∧ ∃ i, decodeC 0x94825100 (.lone 1) = some (i, true) ∧ i.takesWord1 = true) ∧
    ((0xC0000000 : W32).extractLsb' 30 2 = 3 ∧ ∃ i, decodeA 0xC0000000 (.lone 0) = some i) ∧ ((0xFFFFFFFF : W32).extractLsb' 30 2 = 3 ∧ decodeA 0xFFFFFFFF (.lone 0) = none) :=
  ⟨by decide, by decide, by decide, ⟨_, _, rfl, rfl, by decide⟩, ⟨_, _, _, rfl, rfl, .s 5, by decide⟩, ⟨by decide, _, rfl, by decide⟩, ⟨by decide, _, rfl, by decide⟩,
    ⟨by decide, _, rfl⟩, by decide⟩

theorem wit_bad_form : Fetches badForm ⟨0, 0⟩ 0x40000000 0 ∧ (badForm.strand ⟨0, 0⟩).windows = [] ∧ badForm.occupied ⟨0, 0⟩ = true ∧
    (badForm.strand ⟨0, 0⟩).closed = [] ∧ (badForm.strand ⟨0, 0⟩).opened.count = 0 :=
  ⟨fetches (b := bytesOf 0x40000000 0) (g := leaf 0x1000) (by decide), by decide, by decide, by decide, by decide⟩

/-- An A-word with a literal, a store with its offset, a pair, a sampler's word, a command. -/
theorem wit_encoded : (Instr.wf (.add { aword with ext := .lone 0xFFFFFFFF, tb := .lit, b := 0 }) = true ∧ Instr.takesWord1 (.add { aword with ext := .lone 0xFFFFFFFF, tb := .lit, b := 0 }) = true) ∧
    (Instr.wf (.stD { lone 0xFFFFFFFF with ta := .s, a := 31 }) = true ∧ Instr.takesWord1 (.stD { lone 0xFFFFFFFF with ta := .s, a := 31 }) = true) ∧
    (Instr.wf (.ldD { cword with ext := .paired, d := 5 }) = true ∧ Instr.wf (.add { aword with ext := .paired, d := 6 }) = true ∧
      ∀ d, d ∈ Instr.writes (.ldD { cword with ext := .paired, d := 5 }) → d ∉ Instr.writes (.add { aword with ext := .paired, d := 6 })) ∧
    (∃ x, Instr.sword (.samplerLdi (sword 15 15 15 32767)) = some x) ∧
    (commandCtx (.gatherCmd cctx (gather 0x3100 0x3200)) = some cctx ∧ NodeFits cctx ∧ Instr.wf (.gatherCmd cctx (gather 0x3100 0x3200)) = true) :=
  ⟨by decide, by decide, by decide, ⟨_, rfl⟩, by decide, by unfold NodeFits; decide, by decide⟩

theorem wit_orderly : plain.orderly = true ∧ ∃ t, step plain = .next t := ⟨by decide, _, rfl⟩

/-! ## Words of the spec's examples and tables, one or more of each family (R184, R189, R322) -/

/-- The word's bundle, by what it is. -/
def decodes (w0 w1 : W32) (i : Instr) : Bool := decodeBundle w0 w1 == .ok (.single i)

/-- `ld.d s5, [s4 + 16]` beside `add s6, s6, 1`. -/
theorem test_decode_pair : decodeBundle 0x11995208 0x410D8530 = .ok (.pair (.ldD { ext := .paired, la := 3, d := 5, ta := .s, a := 4, b := 2, msk := 0 })
    (.add { ext := .paired, fzi := false, fzo := false, d := 6, tb := .lit, b := 1, ta := .s, a := 6, k := 0 })) := by decide

/-- `st.w [s9 + 74560], s2` keeps its offset in word 1, and `?k2 fmul v2, v3, #1.5` its literal. -/
theorem test_decode_word1 : decodes 0x94825100 0x00012340 (.stW { lone 0x00012340 with d := 9, ta := .s, a := 2 }) = true ∧
    decodes 0xD805801A 0x3FC00000 (.fmul { ext := .lone 0x3FC00000, fzi := false, fzo := false, d := 2, tb := .lit, b := 0, ta := .v, a := 3, k := 2 }) = true := by decide

/-- `loop s3, -4`, and `spawn.la6 s9, s3, worker`. -/
theorem test_decode_control : decodes 0x8400C000 0xFFFFFFFC (.loop { lone 0xFFFFFFFC with d := 3 }) = true ∧
    decodes 0x88B25180 0x0000000C (.spawn { lone 12 with la := 6, d := 9, ta := .s, a := 3 }) = true := by decide

/-- `vld.w.la4 v7, [s4 + 256]` beside `ffma v1, v2, v3`. -/
theorem test_decode_vector : decodeBundle 0x16A1D208 0x59020C10 = .ok (.pair (.vldW { ext := .paired, la := 4, d := 7, ta := .s, a := 4, b := 2, msk := 0 })
    (.ffma { ext := .paired, fzi := false, fzo := false, d := 1, tb := .v, b := 3, ta := .v, a := 2, k := 0 })) := by decide

/-- `atom.swap.acq.pkg s5, [s4], #1`, `fence.rel.pkg`, and `stmx.mxint8.fixed [s8], v2`. -/
theorem test_decode_memory : decodes 0xA0015221 0x0010006B (.atomSwap { lone 0x0010006B with d := 5, ta := .s, a := 4, b := 8, msk := 1 }) = true ∧
    decodes 0xA100C002 0 (.fence { lone 0 with d := 3, msk := 2 }) = true ∧ decodes 0x9C820110 0 (.stmx { lone 0 with d := 8, a := 2, b := 4 }) = true := by decide

/-- `cmd.la2 s7, v12, #0`, `csrr s4, FPCTL` and `csrw FPCTL, s4`. -/
theorem test_decode_system : decodes 0xA811C600 0 (.cmd { lone 0 with la := 2, d := 7, a := 12 }) = true ∧
    decodes 0xB0010001 0 (.csrr { lone 0 with d := 4, msk := 1 }) = true ∧ decodes 0xB0811001 0 (.csrw { lone 0 with d := 4, ta := .s, msk := 1 }) = true := by decide

/-- `bar.die #3, s6`, `snap s4, s6`, `solicit s7, s12`, `reply.cen s5`, `cwait s8, s7` and `cat.give s9, s12`. -/
theorem test_decode_sync : decodes 0x8900930C 0 (.bar { lone 0 with d := 2, ta := .s, a := 6, b := 3 }) = true ∧
    decodes 0x8A811300 0 (.snap { lone 0 with d := 4, ta := .s, a := 6 }) = true ∧ decodes 0x8B01D600 0 (.solicit { lone 0 with d := 7, ta := .s, a := 12 }) = true ∧
    decodes 0x8C801280 0 (.replyCen { lone 0 with ta := .s, a := 5 }) = true ∧ decodes 0x8B821380 0 (.cwait { lone 0 with d := 8, ta := .s, a := 7 }) = true ∧
    decodes 0x8C025608 0 (.catGive { lone 0 with d := 9, ta := .s, a := 12, b := 2 }) = true := by decide

/-- Bundle 2 of the convolution, `cmd s5, v1, #1` beside `lrot v2, v1, #-16`; `cmp.lt k3, v4, #0` after a `nop`; `dp4 v8, v9, v10`. -/
theorem test_decode_lanes : decodeBundle 0x28014084 0x6305C008 = .ok (.pair (.cmd { ext := .paired, la := 0, d := 5, ta := .v, a := 1, b := 1, msk := 0 })
      (.lrot { ext := .paired, fzi := false, fzo := false, d := 2, tb := .lit, b := 16, ta := .v, a := 1, k := 0 })) ∧
    decodeBundle 0 0x54078022 = .ok (.pair (.nopC { lone 0 with ext := .paired })
      (.cmp { ext := .paired, fzi := false, fzo := false, d := 3, tb := .lit, b := 0, ta := .v, a := 4, k := 2 })) ∧
    decodes 0xE9102848 0 (.dp4 { ext := .lone 0, fzi := false, fzo := false, d := 8, tb := .v, b := 10, ta := .v, a := 9, k := 0 }) = true := by decide

/-- `ldr g2, #3`, `ldc g3, #15`, `keep g3, g2`, `nucl g6, g7, g6`, `pick g1, g8, g6`, `emit g1` and `halt`. -/
theorem test_decode_sampler : [0x51000003, 0x4180000F, 0x60190000, 0x8B3B0000, 0x98C30000, 0xA8080000, 0x00000000].map decodeSampler =
    [some (.samplerLdr (sword 2 0 0 3)), some (.samplerLdc (sword 3 0 0 15)), some (.samplerKeep (sword 0 3 2 0)), some (.samplerNucl (sword 6 7 6 0)),
      some (.samplerPick (sword 1 8 6 0)), some (.samplerEmit (sword 0 1 0 0)), some (.samplerHalt (sword 0 0 0 0))] := by decide

/-- The MMA of 32 × 32 × 128 into z3. -/
theorem test_decode_mma : decodeCommand cctx ([0x03000000, 0x0000F9F3, 0x0000007F, 0x00100000, 0x40, 0x80, 0x00110000, 0x40, 0x80] ++ List.replicate 7 0) =
    some (.mma cctx { n := 3, m := 32, nn := 32, esza := 0, eszb := 0, start := 0, k := 128, a := 0x4000100000, astr := 128, b := 0x4000110000, bstr := 128,
                      asc := 0, ascstr := 0, bsc := 0, bscstr := 0 }) := by decide

/-- The ZCFG and the ZZERO of the convolution. -/
theorem test_decode_tiles : decodeCommand cctx ([0x01000000, 0, 0x00002277] ++ List.replicate 13 0) = some (.zcfg cctx 0 0x2277) ∧
    decodeCommand cctx ([0x02000000, 1] ++ List.replicate 14 0) = some (.zzero cctx 1) := by decide

/-! ## Terms that are ill formed, one for each check -/

def refused (l : List Instr) : Bool := l.all fun i => !i.wf

theorem test_wf_destination : refused [.jmp { lone 0 with d := 1 }, .bkany { lone 0 with d := 8 }, .fence { lone 0 with d := 5, msk := 1 },
    .bar { lone 0 with d := 0, ta := .s }, .bar { lone 0 with d := 5, ta := .s }, .ctxsw { lone 0 with d := 4, ta := .s }, .cwait { lone 0 with d := 15, ta := .s },
    .stmx { lone 0 with d := 13 }, .cmp { aword with d := 8, k := 0 }, .kopAnd { vword with d := 8, a := 0, b := 0 }] = true := by decide

theorem test_wf_kind : refused [.nopC { lone 0 with ta := .s }, .nopC { lone 0 with a := 1 }, .jr (lone 0), .jr { lone 0 with ta := .lit }, .jwait (lone 0), .vstW { lone 0 with ta := .s },
    .bar { lone 0 with ext := .paired, d := 1, ta := .lit }, .topk { lone 0 with ta := .s, a := 13 }, .csrw { lone 0 with ext := .paired, ta := .lit, msk := 1 },
    .bcast { uword 0 with ta := .v }, .cvtFtol (uvword 10), .shuf { vword with ta := .s }, .lrot vword, .redAdd { uvword 0 with tb := .s },
    .popc { uword 0 with tb := .s }, .mov { uword 0 with tb := .s }] = true := by decide

theorem test_wf_code : refused [.join { cword with d := 0, b := 1 }, .catDel { cword with b := 0 }, .cmd { lone 0 with b := 4 }, .stmx { lone 0 with b := 8 }, .popc (uword 1),
    .kopLow { vword with d := 0, a := 0, b := 5 }, .kopAnd { vword with d := 0, a := 8, b := 0 }, .cmp { aword with d := 0, k := 6 }, .mov (uword 1), .bcast (uword 1)] = true := by decide

theorem test_wf_mask : refused [.jmp { lone 0 with msk := 1 }, .fence { lone 0 with d := 1 }, .sfuRcp { cword with msk := 1, b := 0 }, .add { aword with k := 1 }, .popc { uword 0 with k := 1 }] = true := by decide

theorem test_wf_word1 : refused [.ldD { cword with b := 1 }, .stW { cword with b := 1 }, .jwait { lone 5 with ta := .lit, a := 1 }, .add { aword with tb := .lit, b := 1 },
    .add { aword with ta := .lit, a := 1 }, .vgat { cword with ext := .lone 3 }, .vgat { cword with ext := .lone 16 }, .csrr (lone 0), .csrr { lone 0 with msk := 1, b := 1 },
    .csrw { lone 0 with ta := .lit, d := 1, msk := 1 }] = true := by decide

/-- Word 1 of `atom`: no reserved bit, a register only for `cas`, a value's kind, a field of the other kind, a width, a scope; and it is lone. -/
theorem test_wf_atom : Instr.wf (.atomAdd { cword with ext := .lone 0x0010006B }) = true ∧
    refused [.atomAdd { cword with ext := .lone 0x0012006B }, .atomAdd { cword with ext := .lone 0x0010106B }, .atomAdd { cword with ext := .lone 0x0010000B },
      .atomAdd { cword with ext := .lone 0x001000EB }, .atomAdd { cword with ext := .lone 0x0010002B }, .atomAdd { cword with ext := .lone 0x00100073 },
      .atomFadd { cword with ext := .lone 0x0010006B, b := 10 }, .atomAdd { cword with ext := .lone 0x0010006D }, .atomAdd { cword with ext := .paired },
      .vatomAdd { lone 0x0010006B with d := 1 }, .vatomAdd { lone 0x00100065 with d := 1 }] = true := by decide

theorem test_wf_nop : refused [.nopA { nopWord with fzi := true }, .nopA { nopWord with fzo := true }, .nopA { nopWord with d := 1 }, .nopA { nopWord with k := 1 },
    .nopA { nopWord with b := 1 }, .nopA { nopWord with a := 1 }, .nopA { nopWord with ta := .s }, .nopA { nopWord with tb := .s }] = true := by decide

theorem test_wf_sampler : refused [.samplerHalt (sword 1 0 0 0), .samplerKeep (sword 0 1 1 1), .samplerLdi (sword 1 1 0 0), .samplerBz (sword 0 1 1 0), .samplerLdc (sword 1 0 0 64),
    .samplerStc (sword 0 1 0 64), .samplerLdr (sword 1 0 0 5), .samplerXfer (sword 0 1 0 2)] = true := by decide

def mmaBig : MmaCmd := mmaCmd 0 0 0
theorem test_wf_command : refused [.mma cctx { mmaBig with n := 16 }, .mma cctx { mmaBig with m := 129 }, .mma cctx { mmaBig with nn := 0 }, .mma cctx { mmaBig with start := 128 },
    .mma cctx { mmaBig with k := 0 }, .drainCommand cctx { drainCmd 0 with n := 16 }, .drainCommand cctx (drainCmd 32), .drainCommand cctx { drainCmd 0 with rows := 33 },
    .merr cctx { merrCmd 0 with n := 16 }, .gather2d cctx { gather2d 0 0 with pw := 129 }, .gather2d cctx { gather2d 0 0 with ph := 0 }] = true := by decide

/-! ## Values that the spec works out -/

/-- v9, v10 and v8 of the example of R223. -/
def bytesRegs (r : Regs) : Regs :=
  ((r.setV 9 (lanes fun _ => 0x02FF7F80) 0xFFFFFFFF).setV 10 (lanes fun _ => 0x03010101) 0xFFFFFFFF).setV 8 (lanes fun _ => 10) 0xFFFFFFFF

/-- A lane of `dp4` (R223): 0x02FF7F80 by 0x03010101 on 10 gives 14. -/
theorem test_dp4 : next (exec (.dp4 { aword with d := 8, tb := .v, b := 10, ta := .v, a := 9 }) (machine (fun t => { t with regs := bytesRegs t.regs }) id))
    (fun t => (t.me.regs.getV 8)[31] == 14) = true := by decide

/-- 64 bits wrap, and s16 discards. -/
theorem test_add_wraps : next (exec (.add { aword with d := 1 }) (withS [(2, 0xFFFFFFFFFFFFFFFF), (3, 2)])) (fun t => t.me.regs.s[1] == 1) = true ∧
    next (exec (.add { aword with d := 16 }) (withS [(2, 5), (3, 2)])) (fun t => t.me.regs.s == (withS [(2, 5), (3, 2)]).me.regs.s) = true := by decide

/-- ∞ − ∞ is the canonical NaN (R94). -/
theorem test_fadd_nan : next (exec (.fadd { aword with d := 1 }) (withS [(2, 0x7F800000), (3, 0xFF800000)])) (fun t => t.me.regs.s[1] == 0x7FC00000) = true := by decide

/-- The worked accumulation: −588·2^45 on the grid 2^−56 drains to 0xBE930000 (R107-R110). -/
theorem test_drain : ((Elem.zero.update (-300 * 2 ^ 45) false).update (-18 * 2 ^ 49) false).drain 0 false 0 = 0xBE930000 := by decide

/-- A block in FIXED mode with scale 0x7F: the fifth lane is out of range (R115). -/
theorem test_narrow_fixed : (narrowBlock 0 false 0x7F ([0x3F000000, 0x3FFE0000, 0xC0000000, 0x3CC00000, 0x40400000] ++ List.replicate 27 0)).2.take 5 =
    [some 0x20, some 0x7F, some 0x80, some 0x02, none] := by decide

/-- The same block in AUTO mode has scale 0x80, and lanes 3 and 4 become 1 and 96. -/
theorem test_narrow_auto : let r := narrowBlock 0 true 0 ([0x3F000000, 0x3FFE0000, 0xC0000000, 0x3CC00000, 0x40400000] ++ List.replicate 27 0)
    r.1 = 0x80 ∧ (r.2.drop 3).take 2 = [some 1, some 96] := by decide

/-- The entry of 1.125 (R99). -/
theorem test_e8m10 : e8m10Widen 0x1FC80 = 0x3F900000 := by decide

/-- The fold of an address's line (R135). -/
theorem test_fold : State.fold16 0x0000004001234500 = 0x6344 := by decide

/-- Quires 32-39 and 48-55 of die 1. -/
def rows23 : State := { plain with quires := (List.range 8).map (fun j => (288 + j, { Quire.reset with own := 0x80 })) ++ (List.range 8).map (fun j => (304 + j, { Quire.reset with own := 0x80 })) }

/-- The worked domain split (R135): quire 38 under the old mask, 35 in domain 0 and 51 in domain 1 under the new. -/
theorem test_home : rows23.homeUnder 0 0x4001234500 0xC = 256 + 38 ∧ rows23.homeUnder 0 0x4001234500 0x80004 = 256 + 35 ∧
    (rows23.updPartition 0 fun p => { p with hmapL := [(5, 0x9001000FFFFFFFFF)] }).homeUnder 0 0x4001234500 0x80004 = 256 + 51 := by decide

/-! ## Further hypotheses met: one for each clause that no theorem above has -/

/-- A core of one way whose strand has stored to a line of the set of the address in s1. -/
def dirtyStore : State :=
  machine (fun t => { t with regs := t.regs.setS 1 0x3000, opened := { t.opened with held := [.store 0x7000 [1] none] } }) fun c => { c with wayMask := 0xFFFE }

theorem wit_store_misses :
    (DirtySet dirtyStore.myCore dirtyStore.me.part (0x3000 / 256) ∧ dirtyStore.place (storesAs 8) 0x3000 = .ok .cached ∧ dirtyStore.lookStore 0x3000 = .miss) ∧
    ¬ DirtySet (withS [(1, 0x3000)]).myCore 0 (0x3000 / 256) ∧
    (∃ k ∈ dirtyStore.me.closed ++ [dirtyStore.me.opened], ∃ a d, (Held.store a d none ∈ k.held ∨ Held.nontemporal a d none ∈ k.held) ∧ a.toNat / 256 = 0x70) ∧
    ∀ k ∈ plain.me.closed ++ [plain.me.opened], ∀ a d, (Held.store a d none ∈ k.held ∨ Held.nontemporal a d none ∈ k.held) → a.toNat / 256 ≠ 0x70 := by
  have hw : dirtyStore.myCore.wayMask = 0xFFFE := rfl
  have hd {l : Nat} : DirtyLine dirtyStore.myCore 0 l → l = 0x70 := by
    rintro ⟨e, he, -, k, hk, va, data, g, hm, h, h'⟩
    obtain rfl : e = _ := List.mem_singleton.mp he
    obtain rfl : k = _ := List.mem_singleton.mp hk
    obtain ⟨rfl, rfl, -⟩ := Held.store.inj (List.mem_singleton.mp hm)
    simp at h h'
    omega
  refine ⟨⟨⟨fun h => absurd (hd h) (by decide), by rw [hw]; decide, [(0, 0x70)], by decide, by rw [hw]; decide, fun x hx => ?_⟩, by decide, by decide⟩, ?_,
    ⟨_, .head _, 0x7000, [1], .inl (.head _), by decide⟩, ?_⟩
  · obtain rfl := List.mem_singleton.mp hx
    exact ⟨by decide, _, .head _, rfl, _, .head _, 0x7000, [1], none, .head _, by decide, by decide⟩
  · rintro ⟨-, h0, ls, -, hl, hx'⟩
    rcases ls with _ | ⟨a, ls⟩
    · exact absurd hl (Nat.not_le.mpr h0)
    · obtain ⟨-, e, he, -, k, hk, va, data, g, hm, -⟩ := hx' a (.head _)
      obtain rfl : e = _ := List.mem_singleton.mp he
      obtain rfl : k = _ := List.mem_singleton.mp hk
      cases hm
  · intro k hk a d h
    obtain rfl : k = _ := List.mem_singleton.mp hk
    rcases h with h | h <;> cases h

/-- A live actor that is to go, and one whose task runs. -/
def noticed0 : State := slots0 oneSlot [(0, { slotOf .live 7 with noticed := true })]
def runningActor : State := { slots0 oneSlot [(0, slotOf .live 7)] with tasks := [(9, { Task.none with actor := some (0, 0) })] }

theorem wit_notices :
    ((noticed0.core 0).actors = [(0, { slotOf .live 7 with noticed := true })] ∧ ({ slotOf .live 7 with noticed := true } : ActorSlot).noticed = true) ∧
    ((holding0 (homing [entryOf .live []])).eph 0 (actor 7) = some (entryOf .live []) ∧ (holding0 (homing [entryOf .live []])).slice 0 ≠ Slice.reset ∧
      Idle (holding0 (homing [entryOf .live []])) 0) ∧
    ((runningActor.core 0).actors = [(0, slotOf .live 7)] ∧ runningActor.actorRuns 0 0 = true ∧ (slotOf .live 7).noticed = false) :=
  ⟨⟨rfl, rfl⟩, ⟨by decide, by decide, rfl, rfl⟩, rfl, by decide, rfl⟩

theorem wit_port_order : 15 ≤ 0xF00 / 256 ∧ ((ported 2 true 14 0 false).port 2).posted % 15 ≠ 13 ∧ 0xF00 ≤ 0xF08 := by decide

/-- Half of the participants of two quires have arrived at a barrier of die 0, and three of four at one of quire 0. -/
def halfway : State :=
  { plain with barriers := [{ key := { scope := 2, part := 0, place := 0, id := 3 }, phase := 0, counts := [{ phase := 0, quire := 0, desc := 0x10004, n := 4 }], releasing := false }] }
def nearly : Barrier := { key := bar0, phase := 0, counts := [{ phase := 0, quire := 0, desc := 4, n := 3 }], releasing := false }

theorem wit_laggards :
    (∃ x c, halfway.barriers = [x] ∧ x.key.scope = 2 ∧ x.counts = [c] ∧ c.phase = x.phase ∧
      4 * min c.n (barShape c.desc).nq < 3 * ((barShape c.desc).nq * (halfway.barMembers x.key c.desc).length)) ∧
    ∃ c, nearly.counts = [c] ∧ c.phase = nearly.phase ∧
      3 * ((barShape c.desc).nq * (halfway.barMembers nearly.key c.desc).length) ≤ 4 * min c.n (barShape c.desc).nq :=
  ⟨⟨_, _, rfl, rfl, rfl, rfl, by decide⟩, _, rfl, rfl, by decide⟩

/-- A header whose limit leaves room. -/
def recording : State :=
  ({ plain.updPartition 0 fun p => { p with edition := 1 } with editions := [edition1 []], l2 := [homeLineAt 0x30 [(64, 4)]] } : State)
theorem wit_recorded : recording.openEdition 0 = some (edition1 []) ∧ ((edPacket 0).edition.setWidth 16 : BitVec 16) ≠ (edition1 []).n.setWidth 16 ∧
    (edition1 []).left.contains (.core 0) = false ∧ recording.headerWord (edition1 []) 68 4 < recording.headerWord (edition1 []) 64 4 := by decide

theorem wit_sampler_start : (samplerWith [fresh0] false).samplerHeld 0 = false ∧ (samplerWith [fresh0] false).writesOut fresh0.req.who fresh0.req.start fresh0.req.task = false ∧
    (barrierWith true).aheadOf 0 (.core 0) 0 = false := by decide

/-- A unit of edition 0 meets a packet of edition 1, or of its own. -/
def answersAhead (n : W32) : State × Bool := (opened [.core 0] id).seeCounted (.censusIdAnswer ⟨0, 0⟩ 0 0 n)
theorem wit_counted : (answersAhead 1).2 = true ∧ (answersAhead 0).2 = false ∧ (plain.seeCounted .thermalStop).2 = false ∧
    readAtCommit .thermalStop plain = .next plain := ⟨by decide, by decide, by decide, rfl⟩

/-- A core with a message to inject. -/
def injecting : State := plain.updCore 0 fun c => { c with outbound := [(2, { fill := 0, ready := some { pkg := 0, home := 0, packet := p0 } })] }
theorem wit_injector : injecting.halted = false ∧ injecting.agenda = [] ∧ injecting.lookup = none ∧ injecting.injector = some 0 := by decide

/-- Port 1 of package 0 is up. -/
def linked : State := { plain with portsUp := [1] }
/-- A partition whose packets this package takes, and one that is being rolled back. -/
def listed1 : State := plain.updPartition 0 fun p => { p with podN := 1 }
def restoring0 : State := checked0.updPartition 0 fun p => { p with restoring := some 1 }

theorem wit_fabric :
    Reaches linked 3 ∧ 7 ≠ plain.pkgid ∧ (plain.takesPackets 1 = false ∧ listed1.takesPackets 0 = true ∧ listed1.checkpointing 0 = false ∧
      (checked0.updPartition 0 fun p => { p with podN := 1 }).takesPackets 0 = true) ∧
    ((restoring0.partition 0).restoring ≠ none ∧ restoring0.running 0 = true ∧ restoring0.checkpointing 0 = true ∧
      ({ structureCode := 7, unit := 0, part := some 0, addr := 0 } : ErrorSite).structureCode ≠ 12) ∧
    (plain.port 7).owner ≠ some 1 ∧ ([1, 2, 3, 4, 5, 6, 7, 8] : List Byte).length = 8 :=
  ⟨by unfold Reaches; decide, by decide, by decide, by decide, by decide, rfl⟩

/-- A strand with a bundle in its open chunk. -/
def bundled : State := plain.setMe { plain.me with opened := { plain.me.opened with count := 1 } }

theorem wit_parity : (plain.strand ⟨0, 0⟩).opened.count = 0 ∧ (plain.strand ⟨0, 0⟩).closed = [] ∧
    bundled.occupied ⟨0, 0⟩ = true ∧ (bundled.strand ⟨0, 0⟩).opened.count ≠ 0 := by decide

theorem wit_loads_behind : (1 : BitVec 4) ≠ 0 ∧ (withS [(1, 0x3000)]).me.opened.inOrder = false ∧ (withS [(1, 0x3000)]).me.doneLanes = 0 ∧
    ((strong Config.notifyPage 0x3000).readElement (loadsAs 8 false) 0 0x3000 = .strong (strongLeaf Config.notifyPage) ∧
      (strong Config.notifyPage 0x3000).aloneNow = true ∧ (strong Config.notifyPage 0x3000).homePackage 0 0x3000 = (strong Config.notifyPage 0x3000).pkgid ∧
      Config.notifyPage ≤ Config.notifyPage + 0x3000 % 256 ∧ (notifyPartition (Config.notifyPage + 0x3000 % 256)).isSome = true) ∧
    ((strong 0x7000 0x3000).homePackage 0 0x3000 = (strong 0x7000 0x3000).pkgid ∧ (strong 0x7000 0x3000).lockedLine 0 0x3000 = false) := by
  refine ⟨by decide, by decide, by decide, ⟨?_, ?_, ?_, ?_, ?_⟩, ?_, ?_⟩ <;> decide

end Sys2Proof.Tests
end

section
/-! SUPPORT. The agenda's order (R42, R331): what an event's joining, a flush and the end of a step keep of it, and that
every step leaves the part orderly. -/

namespace Sys2Proof.Machine

/-- An agenda in the order of its cycles and ranks, with nothing due before `now`. -/
def Timely (now : Nat) (agenda : List (Nat × Nat × Event)) : Prop :=
  agenda.Pairwise (State.agendaLe · ·) ∧ ∀ x ∈ agenda, now ≤ x.1

namespace State

/-! ## The order of two events -/

theorem agendaLe_iff {a b : Nat × Nat × Event} : agendaLe a b = true ↔ a.1 < b.1 ∨ a.1 = b.1 ∧ a.2.1 ≤ b.2.1 := by
  simp [agendaLe]

theorem agendaLe_trans {a b c : Nat × Nat × Event} (hab : agendaLe a b) (hbc : agendaLe b c) : agendaLe a c := by
  rw [agendaLe_iff] at *
  omega

theorem agendaLe_of_not {a b : Nat × Nat × Event} (h : ¬ agendaLe a b) : agendaLe b a := by
  rw [agendaLe_iff] at *
  omega

theorem due_le_of_agendaLe {a b : Nat × Nat × Event} (h : agendaLe a b) : a.1 ≤ b.1 := by
  rw [agendaLe_iff] at h
  omega

/-! ## Events that join the agenda -/

@[simp] theorem mem_insertEvent {x y : Nat × Nat × Event} {l : List (Nat × Nat × Event)} :
    y ∈ insertEvent x l ↔ y = x ∨ y ∈ l := by
  induction l with
  | nil => simp [insertEvent]
  | cons z r ih =>
    unfold insertEvent
    split
    · rw [List.mem_cons, ih, List.mem_cons, or_left_comm]
    · exact List.mem_cons

theorem pairwise_insertEvent (x : Nat × Nat × Event) {l : List (Nat × Nat × Event)} (h : l.Pairwise (agendaLe · ·)) :
    (insertEvent x l).Pairwise (agendaLe · ·) := by
  induction l with
  | nil => exact List.pairwise_singleton _ _
  | cons y r ih =>
    obtain ⟨hy, hr⟩ := List.pairwise_cons.1 h
    unfold insertEvent
    split
    case isTrue hyx =>
      refine List.pairwise_cons.2 ⟨fun z hz => ?_, ih hr⟩
      obtain rfl | hz := mem_insertEvent.1 hz
      · exact hyx
      · exact hy z hz
    case isFalse hyx =>
      have hxy := agendaLe_of_not hyx
      refine List.pairwise_cons.2 ⟨fun z hz => ?_, h⟩
      obtain rfl | hz := List.mem_cons.1 hz
      · exact hxy
      · exact agendaLe_trans hxy (hy z hz)

theorem timely_insertEvent {now : Nat} {x : Nat × Nat × Event} {l : List (Nat × Nat × Event)} (h : Timely now l)
    (hx : now ≤ x.1) : Timely now (insertEvent x l) := by
  obtain ⟨hsorted, hdue⟩ := h
  refine ⟨pairwise_insertEvent x hsorted, fun y hy => ?_⟩
  obtain rfl | hy := mem_insertEvent.1 hy
  · exact hx
  · exact hdue y hy

theorem timely_schedule {now : Nat} (sent : List (Nat × Event)) {agenda : List (Nat × Nat × Event)} (h : Timely now agenda) :
    Timely now (schedule now sent agenda) := by
  induction sent generalizing agenda with
  | nil => exact h
  | cons e r ih => exact ih (timely_insertEvent h (Nat.le_max_left now e.1))

/-! ## Events that leave it -/

theorem kept_sublist (s : State) (f : Flush) (agenda : List (Nat × Nat × Event)) : (s.kept f agenda).Sublist agenda := by
  cases f with
  | keep => exact List.Sublist.refl _
  | all => exact List.nil_sublist _
  | part p => exact List.filter_sublist
  | drop es => exact List.filter_sublist

end State

theorem Timely.nil (now : Nat) : Timely now [] := ⟨List.Pairwise.nil, fun _ hx => absurd hx List.not_mem_nil⟩

theorem Timely.sublist {now : Nat} {l m : List (Nat × Nat × Event)} (h : Timely now m) (hl : l.Sublist m) : Timely now l :=
  ⟨h.1.sublist hl, fun x hx => h.2 x (hl.subset hx)⟩

theorem Timely.tail {now : Nat} {x : Nat × Nat × Event} {rest : List (Nat × Nat × Event)} (h : Timely now (x :: rest)) :
    Timely now rest := h.sublist (List.sublist_cons_self x rest)

/-- Where the first event is not due yet, none is, and a cycle may pass. -/
theorem Timely.succ {now : Nat} {agenda : List (Nat × Nat × Event)} (h : Timely now agenda)
    (hlater : ∀ x ∈ agenda.head?, now < x.1) : Timely (now + 1) agenda := by
  cases agenda with
  | nil => exact Timely.nil _
  | cons x rest =>
    obtain ⟨hsorted, -⟩ := h
    have hx : now < x.1 := hlater x rfl
    refine ⟨hsorted, fun y hy => ?_⟩
    obtain rfl | hy := List.mem_cons.1 hy
    · exact hx
    · exact hx.trans_le (State.due_le_of_agendaLe (List.rel_of_pairwise_cons hsorted hy))

/-! ## Orderly states -/

theorem agendaSorted_iff_pairwise {l : List (Nat × Nat × Event)} : agendaSorted l = true ↔ l.Pairwise (State.agendaLe · ·) := by
  induction l with
  | nil => simp [agendaSorted]
  | cons x r ih =>
    cases r with
    | nil => simp [agendaSorted]
    | cons y q =>
      rw [agendaSorted, Bool.and_eq_true, ih]
      refine ⟨fun ⟨hxy, hr⟩ => List.pairwise_cons.2 ⟨fun z hz => ?_, hr⟩, fun h => ?_⟩
      · obtain rfl | hz := List.mem_cons.1 hz
        · exact hxy
        · exact State.agendaLe_trans hxy (List.rel_of_pairwise_cons hr hz)
      · exact ⟨List.rel_of_pairwise_cons h List.mem_cons_self, h.of_cons⟩

theorem orderly_iff {s : State} :
    s.orderly = true ↔ Timely s.now s.agenda ∧ s.sent = [] ∧ s.flush = .keep ∧ s.latch = none := by
  simp [State.orderly, agendaSorted_iff_pairwise, Timely, and_assoc]

/-- A step that ends from a timely agenda leaves an orderly state, whatever was sent and flushed in it. Only a flush of
everything may set the clock, and then nothing of the old agenda is left to be overdue. -/
theorem settleStep_orderly {pre : State} (h : Timely pre.now pre.agenda) (t : State) : (pre.settleStep t).orderly = true := by
  refine orderly_iff.2 ⟨?_, rfl, rfl, rfl⟩
  by_cases hf : t.flush = .all
  · simpa [State.settleStep, hf, State.kept] using State.timely_schedule t.sent (Timely.nil t.now)
  · simpa [State.settleStep, hf] using State.timely_schedule t.sent (h.sublist (State.kept_sublist pre t.flush pre.agenda))

/-! ## What a step can do to the agenda -/

theorem ending_next {pre t : State} {x : Result} (h : ending pre x = .next t) : ∃ u, t = pre.settleStep u := by
  cases x with
  | next u => exact ⟨u, (Host.Outcome.next.inj h).symm⟩
  | fault e => cases h
  | refused e => cases h

/-- Every way a step ends: settled with the whole agenda before it, settled with the first event taken out because it was
due, or, with no event due, by the end of the cycle. -/
inductive StepEnds (s : State) : State → Prop where
  | settled (u : State) : StepEnds s (s.settleStep u)
  | event {x rest} (u : State) : s.agenda = x :: rest → x.1 ≤ s.now → StepEnds s (State.settleStep { s with agenda := rest } u)
  | cycle : (∀ x ∈ s.agenda.head?, s.now < x.1) → StepEnds s { s with now := s.now + 1 }

theorem StepEnds.of_ending {s t : State} {x : Result} (h : ending s x = .next t) : StepEnds s t := by
  obtain ⟨u, rfl⟩ := ending_next h
  exact .settled u

theorem StepEnds.of_event {s t : State} {x : Nat × Nat × Event} {rest : List (Nat × Nat × Event)} {y : Result}
    (ha : s.agenda = x :: rest) (hx : x.1 ≤ s.now) (h : ending { s with agenda := rest } y = .next t) : StepEnds s t := by
  obtain ⟨u, rfl⟩ := ending_next h
  exact .event u ha hx

theorem runCycle_ends {s t : State} (h : runCycle s = .next t) : StepEnds s t := by
  unfold runCycle at h
  split at h
  -- a lookup, an injection, a completion or a load whose line has come
  iterate 4 exact .of_ending h
  split at h
  -- a wait, a copy, a fetch, a sampler word, an acceptance or a bundle
  iterate 6 exact .of_ending h
  -- nothing else is left to do in the cycle
  split at h
  · next x rest ha =>
    split at h
    · next hx => exact .of_event ha hx h
    · next hx =>
      obtain rfl := Host.Outcome.next.inj h
      exact .cycle (by simpa [ha] using hx)
  · next ha =>
    obtain rfl := Host.Outcome.next.inj h
    exact .cycle (by simp [ha])

theorem step_ends {s t : State} (h : step s = .next t) : StepEnds s t := by
  unfold step at h
  split at h
  · cases h
  split at h
  · exact runCycle_ends h
  · next x rest ha =>
    split at h
    · next hx =>
      obtain ⟨hdue, -⟩ := Bool.and_eq_true_iff.1 hx
      exact .of_event ha (of_decide_eq_true hdue) h
    · exact runCycle_ends h

theorem StepEnds.orderly {s t : State} (h : StepEnds s t) (hs : s.orderly = true) : t.orderly = true := by
  obtain ⟨htimely, hsent, hflush, hlatch⟩ := orderly_iff.1 hs
  cases h with
  | settled u => exact settleStep_orderly htimely u
  | event u ha hx => exact settleStep_orderly (Timely.tail (ha ▸ htimely)) u
  | cycle hlater => exact orderly_iff.2 ⟨htimely.succ hlater, hsent, hflush, hlatch⟩

end Sys2Proof.Machine

namespace Sys2Proof.Proofs

open Sys2Proof.Machine

/-- Settles O59: every step ends in one of three ways (`step_ends`), and each leaves the agenda timely. -/
theorem orderlyKept : Obligations.OrderlyKept :=
  fun _ _ hs hstep => (step_ends hstep).orderly hs

end Sys2Proof.Proofs
end

section
/-! SUPPORT. What reset leaves: every table is empty, so each of its readers answers the entry that stands for reset. -/

namespace Sys2Proof.Machine

@[simp] theorem ownerOf_zero : ownerOf 0 = none := rfl

namespace State

@[simp] theorem core_reset (n : Nat) : reset.core n = Core.reset := look_nil _ n
@[simp] theorem strand_reset (r : Ref) : reset.strand r = Strand.none := look_nil _ r.slot
@[simp] theorem partition_reset (p : Nat) : reset.partition p = Partition.reset := look_nil _ p
@[simp] theorem context_reset (p c : Nat) : reset.context p c = Context.reset := look_nil _ _
@[simp] theorem sampler_reset (n : Nat) : reset.sampler n = Sampler.reset := look_nil _ n
@[simp] theorem port_reset (n : Nat) : reset.port n = Port.reset := look_nil _ n
@[simp] theorem quire_reset (q : Nat) : reset.quire q = Quire.reset := look_nil _ q

end State

end Sys2Proof.Machine

namespace Sys2Proof.Proofs

open Sys2Proof.Machine

/-- Settles O51: every reader finds its table empty and answers its reset entry, whose fields the conjuncts list. -/
theorem resetValues : Obligations.ResetValues := by
  refine ⟨fun n => ?cores, fun p => ?partitions, fun p c => ?contexts, ?package, ?unlisted⟩
  case cores =>
    rw [State.core_reset]
    exact ⟨rfl, rfl, rfl, rfl, rfl, rfl, rfl, rfl, fun j => look_nil 0 j, rfl, rfl, rfl⟩
  case partitions =>
    rw [State.partition_reset]
    exact ⟨rfl, rfl, fun j => ⟨look_nil 0 j, look_nil 0 j⟩, rfl, fun j => look_nil 0 j, rfl, rfl, rfl, rfl, rfl, rfl⟩
  case contexts =>
    rw [State.context_reset]
    exact ⟨rfl, rfl, rfl, rfl, rfl, rfl, rfl⟩
  case package =>
    refine ⟨fun i => look_nil 0 i, rfl, rfl, fun n => ?_, fun n => ?_, fun q => ⟨?_, fun n => ?_⟩, rfl, rfl⟩
    · rw [State.sampler_reset]; rfl
    · rw [State.port_reset]; exact ⟨rfl, rfl, rfl, ownerOf_zero⟩
    · rw [State.quire_reset]; exact ownerOf_zero
    · rw [State.zpOf, State.quire_reset]; rfl
  case unlisted =>
    refine ⟨fun a => ⟨look_nil 0 a, fun n => ?_⟩, fun r => ⟨?_, ?_, rfl⟩, fun q n r c => ?_, rfl, rfl⟩
    · rw [State.core_reset]; rfl
    · rw [State.strand_reset]; rfl
    · rw [State.strand_reset]; rfl
    · rw [State.tileElem, State.quire_reset]; rfl

end Sys2Proof.Proofs
end

section
/-! SUPPORT. What the operations behind the register writes of the host and of cores leave: bit fields, byte strings of a
register, zeroed ways, and updates that change nothing of a core but its strands. -/

namespace Sys2Proof

theorem Bits.get_low (x n : Nat) : Bits.get x n 0 = x % 2 ^ (n + 1) := rfl

/-- Byte `j` of a number (R5). -/
theorem Bytes.ofNat_eq_map (n x : Nat) : Bytes.ofNat n x = (List.range n).map fun j => BitVec.ofNat 8 (x / 2 ^ (8 * j)) := by
  induction n generalizing x with
  | zero => rfl
  | succ n ih =>
    rw [Bytes.ofNat, ih, List.range_succ_eq_map, List.map_cons, List.map_map]
    congr 1
    · simp
    · refine List.map_congr_left fun j _ => ?_
      rw [Function.comp_apply, Nat.div_div_eq_div_mul, Nat.mul_succ, pow_add, Nat.mul_comm]
      rfl

namespace Machine

theorem look_filter (d : Byte) (p : Nat → Bool) (m : Mem) (a : Nat) :
    look d a (m.filter fun c => p c.1) = if p a then look d a m else d := by
  induction m with
  | nil => simp [look]
  | cons e r ih =>
    obtain ⟨k, v⟩ := e
    by_cases hk : k = a
    · subst hk
      cases hp : p k <;> simp_all [look]
    · cases hp : p k <;> simp_all [look]

theorem memGet_memZero (m : Mem) (a n x : Nat) : memGet (memZero m a n) x = if a ≤ x ∧ x < a + n then 0 else memGet m x := by
  unfold memGet memZero
  rw [look_filter 0 (fun k => !(a ≤ k && k < a + n))]
  by_cases h : a ≤ x ∧ x < a + n
  · simp [h]
  · rw [if_neg h, if_pos (by simpa [imp_iff_not_or] using h)]

/-! ## Ways (R123) -/

theorem mem_waysLeaving {a b : Word} {w : Nat} : w ∈ waysLeaving a b ↔ w < 16 ∧ a.getLsbD w = true ∧ b.getLsbD w = false := by
  simp [waysLeaving]

/-- Bit `w` of WAYMASK's 16 bits. -/
theorem getLsbD_low16 (v : Word) (w : Nat) : (v &&& 0xFFFF).getLsbD w = (decide (w < 16) && v.getLsbD w) := by
  have hmask : (0xFFFF : Word) = (BitVec.allOnes 16).setWidth 64 := rfl
  rw [hmask, BitVec.getLsbD_and, BitVec.getLsbD_setWidth, BitVec.getLsbD_allOnes]
  by_cases hw : w < 16
  · have hword : w < 64 := by omega
    simp [hw, hword]
  · simp [hw]

/-- A way that does not enter scratch was there before, or is not there under the new mask. -/
theorem of_not_mem_waysLeaving_low16 {v a : Word} {w : Nat} (h : w ∉ waysLeaving (v &&& 0xFFFF) a) :
    a.getLsbD w = true ∨ (v &&& 0xFFFF).getLsbD w = false := by
  rw [mem_waysLeaving, getLsbD_low16] at h
  rw [getLsbD_low16]
  cases ha : a.getLsbD w <;> simp_all

namespace State

/-- Clearing ways changes a core's store and full bits only. -/
theorem foldl_clearWay (ws : List Nat) (c : Core) :
    ws.foldl clearWay c = { c with store := (ws.foldl clearWay c).store, full := (ws.foldl clearWay c).full } := by
  induction ws generalizing c with
  | nil => rfl
  | cons w ws ih => exact ih (clearWay c w)

theorem memGet_clearWay (c : Core) (w a : Nat) :
    memGet (clearWay c w).store a = if a / 16384 = w then 0 else memGet c.store a := by
  simp only [clearWay, memGet_memZero]
  exact if_congr (by omega) rfl rfl

theorem memGet_foldl_clearWay (ws : List Nat) (c : Core) (a : Nat) :
    memGet (ws.foldl clearWay c).store a = if a / 16384 ∈ ws then 0 else memGet c.store a := by
  induction ws generalizing c with
  | nil => simp
  | cons w ws ih =>
    rw [List.foldl_cons, ih, memGet_clearWay]
    by_cases hmem : a / 16384 ∈ ws <;> by_cases hw : a / 16384 = w <;> simp [hmem, hw]

theorem switchWays_l1 (c : Core) (mask : Word) : (switchWays c mask).l1 = c.l1 := by
  rw [switchWays, foldl_clearWay]

theorem switchWays_maskBy (c : Core) (mask : Word) : (switchWays c mask).maskBy = c.maskBy := by
  rw [switchWays, foldl_clearWay]

/-- A core without the strands in its slots. -/
def bare (c : Core) : Core := { c with slots := [] }

theorem bare_switchWays (c : Core) (mask : Word) : bare (switchWays c mask) = switchWays (bare c) mask := by
  simp only [switchWays, List.foldl_hom bare (g₁ := clearWay) (g₂ := clearWay) fun _ _ => rfl]
  rfl

/-- A way whose role stays keeps its bytes, one whose role changes reads zero (R123). -/
theorem memGet_switchWays (c : Core) (mask : Word) {a : Nat} (ha : a / 16384 < 16) :
    memGet (switchWays c mask).store a =
      if c.wayMask.getLsbD (a / 16384) = mask.getLsbD (a / 16384) then memGet c.store a else 0 := by
  simp only [switchWays, memGet_foldl_clearWay, List.mem_append, mem_waysLeaving, ha, true_and]
  cases c.wayMask.getLsbD (a / 16384) <;> cases mask.getLsbD (a / 16384) <;> rfl

/-- What a core `c` holds that is, but for its strands, as `d` after the switch to a mask. -/
theorem fields_of_bare_switchWays {c d : Core} {mask : Word} (h : bare c = bare (switchWays d mask)) :
    c.wayMask = mask ∧ c.maskBy = d.maskBy ∧ c.l1 = d.l1 ∧ ∀ a, a / 16384 < 16 →
      memGet c.store a = if d.wayMask.getLsbD (a / 16384) = mask.getLsbD (a / 16384) then memGet d.store a else 0 :=
  ⟨(congrArg Core.wayMask h :), (congrArg Core.maskBy h :).trans (switchWays_maskBy d mask),
    (congrArg Core.l1 h :).trans (switchWays_l1 d mask),
    fun a ha => (congrArg (fun c : Core => memGet c.store a) h :).trans (memGet_switchWays d mask ha)⟩

/-! ## Updates that change nothing of a core but its strands -/

/-- Every core of `t` is as in `s` but for the strands in its slots. -/
def SlotsOnly (s t : State) : Prop := ∀ k, bare (t.core k) = bare (s.core k)

theorem SlotsOnly.refl (s : State) : SlotsOnly s s := fun _ => rfl

theorem SlotsOnly.trans {s t u : State} (hst : SlotsOnly s t) (htu : SlotsOnly t u) : SlotsOnly s u :=
  fun k => (htu k).trans (hst k)

theorem SlotsOnly.of_cores {s t : State} (h : t.cores = s.cores) : SlotsOnly s t := fun k => by simp only [core, h]

theorem SlotsOnly.foldl {α : Type} {f : State → α → State} (hf : ∀ s x, SlotsOnly s (f s x)) (l : List α) (s : State) :
    SlotsOnly s (l.foldl f s) := by
  induction l generalizing s with
  | nil => exact .refl s
  | cons x l ih => exact (hf s x).trans (ih _)

variable (s : State)

theorem slotsOnly_setStrand (r : Ref) (t : Strand) : SlotsOnly s (s.setStrand r t) := fun k => by
  by_cases hk : k = r.core
  · rw [hk, core_setStrand]
    rfl
  · rw [setStrand, updCore, core_setCore_other s hk]

theorem slotsOnly_updStrand (r : Ref) (f : Strand → Strand) : SlotsOnly s (s.updStrand r f) := by
  unfold updStrand
  split
  · exact slotsOnly_setStrand s r _
  · exact .refl s

theorem slotsOnly_wake (r : Ref) (d : Nat) : SlotsOnly s (s.wake r d) := slotsOnly_updStrand s r _

theorem slotsOnly_latchMonitor (r : Ref) (code : Nat) : SlotsOnly s (s.latchMonitor r code) := by
  dsimp only [latchMonitor]
  split
  · exact .refl s
  · split
    · exact (slotsOnly_updStrand s r _).trans (.of_cores (emit_cores ..))
    · exact slotsOnly_updStrand s r _

theorem slotsOnly_leaveL1 (n : Nat) (f : L1Line → Bool) :
    SlotsOnly (s.updCore n fun c => { c with l1 := c.l1.filter fun l => !f l }) (s.leaveL1 n f) :=
  .foldl (fun s r => slotsOnly_latchMonitor s r 1) _ _

theorem slotsOnly_dropL1 (n : Nat) : SlotsOnly (s.updCore n fun c => { c with l1 := [] }) (s.dropL1 n) :=
  .foldl (fun s r => slotsOnly_latchMonitor s r 1) _ _

theorem slotsOnly_leaveWays (n : Nat) (ways : List Nat) : SlotsOnly s (s.leaveWays n ways) :=
  (SlotsOnly.foldl (fun s r => slotsOnly_wake s r 0) _ s).trans (.foldl (fun s _ => .of_cores (emit_cores s _ _)) _ _)

@[simp] theorem core_updCore (n : Nat) (f : Core → Core) : (s.updCore n f).core n = f (s.core n) := core_setCore s n _

@[simp] theorem updCore_updCore (n : Nat) (f g : Core → Core) : (s.updCore n f).updCore n g = s.updCore n fun c => g (f c) := by
  simp [updCore]

end State
end Machine
end Sys2Proof
end

section
/-! SUPPORT. What a write of ASLOT does (R33): to a core without live actors, and to a core with one. -/

namespace Sys2Proof.Machine

theorem foldl_eq_self {α β : Type} {f : β → α → β} {l : List α} {b : β} (h : ∀ a ∈ l, f b a = b) : l.foldl f b = b := by
  induction l with
  | nil => rfl
  | cons a l ih =>
    obtain ⟨ha, hl⟩ := List.forall_mem_cons.1 h
    rw [List.foldl_cons, ha, ih hl]

namespace State
variable {s : State}

/-! ## Actor slots (R33) -/

@[simp] theorem core_emitOrdered (s : State) (k : Channel) (d : Nat) (e : Event) (n : Nat) : (s.emitOrdered k d e).core n = s.core n := rfl
@[simp] theorem core_emit (s : State) (d : Nat) (e : Event) (n : Nat) : (s.emit d e).core n = s.core n := rfl

theorem actorRuns_congr {t : State} (h : t.tasks = s.tasks) (core j : Nat) : t.actorRuns core j = s.actorRuns core j := by
  rw [actorRuns, actorRuns, h]

/-- With its queues empty and no message at the head of a noticed actor's slot, a core has none to send back. -/
theorem returnMessages_empty {core : Nat} (hlow : (s.core core).lowQ = []) (hhigh : (s.core core).highQ = [])
    (hhead : ∀ e ∈ (s.core core).actors, e.2.head = none) : s.returnMessages core = s.setCore core (s.core core) := by
  have hqueues : { s.core core with lowQ := [], highQ := [] } = s.core core := by
    generalize s.core core = c at hlow hhigh
    cases c
    simp_all
  simp only [returnMessages, hlow, hhigh, List.append_nil, List.filter_nil, byNumber, List.foldr_nil, List.foldl_nil]
  rw [foldl_eq_self fun e he => by rw [hhead e (List.mem_of_mem_filter he)]]
  simp only [updCore, hlow, hhigh, List.filter_nil, hqueues]

end State

/-- An ASLOT that is not valid changes nothing (R33). -/
theorem exec_aslotWrite_invalid {s : State} {core who : Nat} {val : Word} (he : s.ev = .aslotWrite core who val)
    (hok : State.aslotOk (s.core core).wayMask (val &&& csrMask 0x012) = false) : exec .aslotWrite s = .next s := by
  simp [exec_aslotWrite, execAslotWrite, he, hok]

namespace State
variable {s : State} {core : Nat}

/-- A write under way completes once every actor left is live and has had no notice. -/
theorem aslotCheck_of_settled {v : Word} (hto : (s.core core).aslotTo = some v)
    (hall : ∀ e ∈ (s.core core).actors, e.2.phase = .live ∧ e.2.noticed = false) :
    s.aslotCheck core = (s.updCore core fun c => { c with aslot := v, aslotWritten := true, aslotTo := none, aslotBy := [] }).offer core := by
  simp only [aslotCheck, hto]
  rw [if_pos]
  simpa using fun a b h => hall (a, b) h

/-- It does not while a noticed actor is left. -/
theorem aslotCheck_of_noticed {j : Nat} {x : ActorSlot} (hmem : (j, x) ∈ (s.core core).actors) (hx : x.noticed = true) :
    s.aslotCheck core = s := by
  unfold aslotCheck
  split
  · rw [if_neg]
    simpa using ⟨j, x, hmem, fun _ => hx⟩
  · rfl

end State

/-- Without live actors ASLOT takes its value at once (R33). -/
theorem exec_aslotWrite_empty {s : State} {core who : Nat} {val : Word} (he : s.ev = .aslotWrite core who val)
    (hok : State.aslotOk (s.core core).wayMask (val &&& csrMask 0x012) = true) (hactors : (s.core core).actors = [])
    (hlow : (s.core core).lowQ = []) (hhigh : (s.core core).highQ = []) :
    exec .aslotWrite s = .next ((s.updCore core fun c =>
      { c with aslot := val &&& csrMask 0x012, aslotWritten := true, aslotTo := none, aslotBy := [] }).offer core) := by
  simp only [exec_aslotWrite, execAslotWrite, he, hok, hactors, Bool.not_true, Bool.false_eq_true, if_false, List.filter_nil,
    List.foldl_nil]
  rw [State.returnMessages_empty (by simpa using hlow) (by simpa using hhigh) (by simp [hactors])]
  rw [State.aslotRetire, State.core_setCore, State.core_updCore]
  simp only [hactors, List.filter_nil, List.foldl_nil]
  rw [State.aslotCheck_of_settled (v := val &&& csrMask 0x012) (by simp) (by simp)]
  simp [State.updCore, hactors]

namespace State
variable (s : State) {core : Nat}

theorem setCore_emitOrdered (n : Nat) (c : Core) (k : Channel) (d : Nat) (e : Event) :
    (s.emitOrdered k d e).setCore n c = (s.setCore n c).emitOrdered k d e := rfl

/-- The state after an ASLOT write for a core with the one actor `x`: the write is under way and the actor's home is told (R33). -/
def aslotNotice (core who : Nat) (v : Word) (j : Nat) (x : ActorSlot) : State :=
  (s.updCore core fun c =>
    { c with aslotTo := some v, aslotBy := who :: c.aslotBy, actors := [(j, { x with noticed := true })] }).toHome core x.slice x.actor
      (.retireNotice x.slice x.actor core)

theorem core_aslotNotice (core who : Nat) (v : Word) (j : Nat) (x : ActorSlot) : (s.aslotNotice core who v j x).core core =
    { s.core core with aslotTo := some v, aslotBy := who :: (s.core core).aslotBy, actors := [(j, { x with noticed := true })] } := by
  rw [aslotNotice, toHome, core_emitOrdered, core_updCore]

theorem setCore_aslotNotice (core who : Nat) (v : Word) (j : Nat) (x : ActorSlot) :
    (s.aslotNotice core who v j x).setCore core ((s.aslotNotice core who v j x).core core) = s.aslotNotice core who v j x := by
  rw [core_aslotNotice, aslotNotice, toHome, setCore_emitOrdered, updCore, setCore_setCore]

theorem actorRuns_aslotNotice (core who : Nat) (v : Word) (j : Nat) (x : ActorSlot) (i : Nat) :
    (s.aslotNotice core who v j x).actorRuns core i = s.actorRuns core i := actorRuns_congr rfl core i

/-- An actor with no message waiting is idle exactly when its task does not run (R38). -/
theorem actorIdle_of_empty {j : Nat} {x : ActorSlot} (hlive : x.phase = .live) (hhead : x.head = none)
    (hlow : (s.core core).lowQ = []) (hhigh : (s.core core).highQ = []) : s.actorIdle core j x = !s.actorRuns core j := by
  simp [actorIdle, actorQueued, hlive, hhead, hlow, hhigh]

section
variable {who j : Nat} {v : Word} {x : ActorSlot} (hlive : x.phase = .live) (hhead : x.head = none)
  (hlow : (s.core core).lowQ = []) (hhigh : (s.core core).highQ = [])
include hlive hhead hlow hhigh

theorem actorIdle_aslotNotice :
    (s.aslotNotice core who v j x).actorIdle core j { x with noticed := true } = !s.actorRuns core j := by
  rw [actorIdle_of_empty (x := { x with noticed := true }) _ hlive hhead (by rw [core_aslotNotice]; exact hlow)
    (by rw [core_aslotNotice]; exact hhigh), actorRuns_aslotNotice]

/-- An actor whose task runs stays until the task ends (R33). -/
theorem aslotRetire_running (hruns : s.actorRuns core j = true) :
    (s.aslotNotice core who v j x).aslotRetire core = s.aslotNotice core who v j x := by
  have hidle := actorIdle_aslotNotice s hlive hhead hlow hhigh (who := who) (v := v) (j := j)
  simp [aslotRetire, core_aslotNotice, hidle, hruns]

/-- An idle actor is written back at once (R33, R38). -/
theorem aslotRetire_idle (hidle : s.actorRuns core j = false) : (s.aslotNotice core who v j x).aslotRetire core =
    ((s.aslotNotice core who v j x).updActor core j fun x => { x with phase := .retiring, next := none }).emit
      (32 + 8 * x.entry.stLines.toNat) (.retirementWritebackDone core j) := by
  have hidle' := actorIdle_aslotNotice s hlive hhead hlow hhigh (who := who) (v := v) (j := j)
  simp [aslotRetire, core_aslotNotice, hidle', hidle, retire_]

end

end State

section
variable {s : State} {core who j : Nat} {val : Word} {x : ActorSlot} (he : s.ev = .aslotWrite core who val)
  (hok : State.aslotOk (s.core core).wayMask (val &&& csrMask 0x012) = true) (hactors : (s.core core).actors = [(j, x)])
  (hlive : x.phase = .live) (hhead : x.head = none) (hnoticed : x.noticed = false)
  (hlow : (s.core core).lowQ = []) (hhigh : (s.core core).highQ = [])
include he hok hactors hlive hhead hnoticed hlow hhigh

/-- With one live actor the write is under way: the actor's home is told, and what retires is asked to (R33). -/
theorem exec_aslotWrite_live : exec .aslotWrite s =
    .next (((s.aslotNotice core who (val &&& csrMask 0x012) j x).aslotRetire core).aslotCheck core) := by
  simp only [exec_aslotWrite, execAslotWrite, he, hok, hactors, hlive, hnoticed, Bool.not_true, Bool.not_false, Bool.false_eq_true, if_false,
    beq_self_eq_true, Bool.and_self, List.filter_cons_of_pos, List.filter_nil, List.foldl_cons, List.foldl_nil]
  have hnotice : ((s.updCore core fun c => { c with aslotTo := some (val &&& csrMask 0x012), aslotBy := who :: c.aslotBy }).updActor core j
      fun x => { x with noticed := true }).toHome core x.slice x.actor (.retireNotice x.slice x.actor core) =
      s.aslotNotice core who (val &&& csrMask 0x012) j x := by
    simp [State.aslotNotice, State.updActor, State.updCore, hactors]
  rw [hnotice]
  rw [State.returnMessages_empty (by simpa [State.core_aslotNotice] using hlow) (by simpa [State.core_aslotNotice] using hhigh)
    (by simp [State.core_aslotNotice, hhead]), State.setCore_aslotNotice]

theorem exec_aslotWrite_running (hruns : s.actorRuns core j = true) :
    exec .aslotWrite s = .next (s.aslotNotice core who (val &&& csrMask 0x012) j x) := by
  rw [exec_aslotWrite_live he hok hactors hlive hhead hnoticed hlow hhigh, State.aslotRetire_running s hlive hhead hlow hhigh hruns,
    State.aslotCheck_of_noticed (j := j) (x := { x with noticed := true }) (by simp [State.core_aslotNotice]) rfl]

theorem exec_aslotWrite_idle (hidle : s.actorRuns core j = false) : exec .aslotWrite s =
    .next (((s.aslotNotice core who (val &&& csrMask 0x012) j x).updActor core j fun x => { x with phase := .retiring, next := none }).emit
      (32 + 8 * x.entry.stLines.toNat) (.retirementWritebackDone core j)) := by
  rw [exec_aslotWrite_live he hok hactors hlive hhead hnoticed hlow hhigh, State.aslotRetire_idle s hlive hhead hlow hhigh hidle,
    State.aslotCheck_of_noticed (j := j) (x := { x with noticed := true, phase := .retiring, next := none })
      (by simp [State.updActor, State.core_aslotNotice]) rfl]

end

end Sys2Proof.Machine
end

section
/-! SUPPORT. Own addresses (R118), the copy of a constant window (R81) and context switches (R63). -/

namespace Sys2Proof.Machine

open Sys2Proof.Claims

/-! ## Own addresses (R118) -/

section
variable {va off : Nat} (hva : va = Claims.ownVa off) (hoff : off < 2 ^ 18)
include hva hoff

theorem inAperture_of_own : inAperture va = true := by
  simp only [inAperture, Bits.get, Claims.ownVa, beq_iff_eq, Nat.shiftRight_eq_div_pow] at *
  omega

theorem apWindow_of_own : apWindow va = 0 := by
  simp only [apWindow, Bits.get, Claims.ownVa, Nat.shiftRight_eq_div_pow] at *
  omega

theorem apSel_of_own : apSel va = 0xFFF := by
  simp only [apSel, Bits.get, Claims.ownVa, Nat.shiftRight_eq_div_pow] at *
  omega

theorem apNib_of_own : apNib va = 0 := by
  simp only [apNib, Bits.get, Claims.ownVa, Nat.shiftRight_eq_div_pow] at *
  omega

theorem apOff_of_own : apOff va = off := by
  simp only [apOff, Bits.get, Claims.ownVa, Nat.shiftRight_eq_div_pow] at *
  omega

theorem testBit19_of_own : va.testBit 19 = false := by
  simp only [Nat.testBit_eq_decide_div_mod_eq, Claims.ownVa, decide_eq_false_iff_not] at *
  omega

end

theorem inScratch_bound {c : Core} {off n : Nat} (h : inScratch c off n = true) (hn : 0 < n) : off < 2 ^ 18 := by
  simp only [inScratch, Bool.and_eq_true, decide_eq_true_eq] at h
  omega

/-! ## The constant buffer (R81) -/

namespace State
variable {s : State} {r : Ref}

theorem updStrand_of_occupied (hocc : s.occupied r = true) (f : Strand → Strand) : s.updStrand r f = s.setStrand r (f (s.strand r)) :=
  if_pos hocc

/-- A window beyond the address space faults the copy. -/
theorem copyStart_beyond (h : 2 ^ 57 ≤ windowVa (s.strand r)) : s.copyStart r = s.copyFault r .notPresent (windowVa (s.strand r)) := by
  have hne : windowVa (s.strand r) / 2 ^ 57 ≠ 0 := by omega
  simp only [copyStart, if_pos hne]

/-- A readable window in the own store is copied at once, as the strand's chunk sees it. -/
theorem copyStart_own {off : Nat} (hva : windowVa (s.strand r) = Claims.ownVa off) (halign : off % 256 = 0)
    (hin : inScratch (s.core r.core) off 256 = true)
    (hprot : ∀ a ∈ sectorsOf off 256, protectionOk (s.core r.core) (some (s.strand r).part) (s.strand r).part (a / 32) false true false = true) :
    s.copyStart r = s.copied r (memLoad (s.storeView r) off 256) := by
  have hoff := inScratch_bound hin (by omega)
  have hsmall : ¬ windowVa (s.strand r) / 2 ^ 57 ≠ 0 := by rw [hva, Claims.ownVa]; omega
  have haligned : ¬ windowVa (s.strand r) % 256 ≠ 0 := by rw [hva, Claims.ownVa]; omega
  simp only [copyStart, copyWaits, if_neg hsmall, if_neg haligned, inAperture_of_own hva hoff, apWindow_of_own hva hoff, apSel_of_own hva hoff,
    apNib_of_own hva hoff, apOff_of_own hva hoff, testBit19_of_own hva hoff, hin, List.all_eq_true.2 hprot]
  rfl

end State

/-- A write of CBSEL while the strand wants its window starts the copy (R81). -/
theorem exec_cbselWrite_wanted {s : State} {r : Ref} {val : Word} (he : s.ev = .cbselWrite r val) (hocc : s.occupied r = true)
    (hcopy : (s.strand r).copy = .wanted) (hsel : cbselOf (s.strand r).regs.flags = val.setWidth 16) :
    exec .cbselWrite s = .next (s.copyStart r) := by
  simp only [exec_cbselWrite, execCbselWrite, he, hocc, hcopy, hsel, beq_self_eq_true, Bool.and_self, if_true]

theorem exec_cbselWrite_other {s : State} {r : Ref} {val : Word} (he : s.ev = .cbselWrite r val) (hcopy : (s.strand r).copy ≠ .wanted) :
    exec .cbselWrite s = .next s := by
  simp only [exec_cbselWrite, execCbselWrite, he]
  rw [if_neg (by simp [hcopy])]

/-! ## Context switches (R63) -/

namespace State
variable {s : State} {core : Nat}

/-- A switch changes CTXRUN at most, to CTXREQ; and not while a task of a leaving context is left. -/
theorem core_switchCheck (s : State) (core : Nat) : (s.switchCheck core).core core =
    if s.taskLeft core ((s.core core).ctxRun &&& ~~~(s.core core).ctxReq) then s.core core
    else { s.core core with ctxRun := (s.core core).ctxReq } := by
  by_cases hsame : (s.core core).ctxRun = (s.core core).ctxReq
  · have heta : { s.core core with ctxRun := (s.core core).ctxReq } = s.core core := by rw [← hsame]
    rw [heta, ite_self]
    simp [switchCheck, hsame]
  · cases hleft : s.taskLeft core ((s.core core).ctxRun &&& ~~~(s.core core).ctxReq) <;>
      simp [switchCheck, hsame, hleft, offer]

/-- A core on which nothing of a task has started holds no task back. -/
theorem taskLeft_of_idle (hslots : (s.core core).slots = []) (hdeque : (s.core core).deque = [])
    (htasks : ∀ k ∈ s.tasks, k.2.core = core → k.2.ended = true ∨ ∃ l ∈ (s.core core).starts, l.task = k.1) (leaving : Word) :
    s.taskLeft core leaving = false := by
  simp only [taskLeft, hslots, hdeque, List.any_nil, Bool.false_or, List.any_eq_false]
  intro k hk
  simp only [Bool.and_eq_true, beq_iff_eq, Bool.not_eq_true', not_and, and_imp]
  intro hcore _ hended
  obtain hend | ⟨l, hl, htask⟩ := htasks k hk hcore
  · simp [hend] at hended
  · simpa using ⟨l, hl, htask⟩

/-- A strand of a leaving context holds the switch back. -/
theorem taskLeft_of_strand {e : Nat × Strand} (hmem : e ∈ (s.core core).slots) {leaving : Word} (h : leaving.getLsbD e.2.ctx = true) :
    s.taskLeft core leaving = true := by
  rw [taskLeft, List.any_eq_true.2 ⟨e, hmem, h⟩, Bool.true_or, Bool.true_or]

end State

theorem exec_ctxreqWrite_of_ev {s : State} {core : Nat} {val : Word} (he : s.ev = .ctxreqWrite core val) :
    exec .ctxreqWrite s = .next (((s.updCore core fun c => { c with ctxReq := val }).switchCheck core).offer core) := by
  simp only [exec_ctxreqWrite, execCtxreqWrite, he]

theorem State.now_switchCheck (s : State) (core : Nat) : (s.switchCheck core).now = s.now := by
  dsimp only [switchCheck]
  split <;> rfl

end Sys2Proof.Machine
end

section
/-! SUPPORT. The next state of each event that writes a register of the host or of a core. -/

namespace Sys2Proof.Machine

open Sys2Proof.Claims

/-! ## Offers -/

namespace State
variable (s : State)

theorem cores_offerQuire (n : Nat) : (s.offerQuire n).cores = s.cores :=
  (List.foldl_hom State.cores (g₁ := fun s j => s.offer (n / 4 * 4 + (n + j) % 4)) (g₂ := fun c _ => c) fun _ _ => rfl).symm.trans
    (List.foldl_fixed _)

theorem cores_offerRows (n : Nat) : (s.offerRows n).cores = s.cores := by
  unfold offerRows
  split
  · split <;> rfl
  · rfl

end State

/-- CORESCHED takes its bits, and its core does not change otherwise (R65). -/
theorem exec_coreschedWrite_core {s : State} {core : Nat} {val : Word} (he : s.ev = .coreschedWrite core val) :
    ∃ t, exec .coreschedWrite s = .next t ∧
      t.core core = { s.core core with coresched := csrMerge 0x013 (s.core core).coresched val } := by
  simp only [exec_coreschedWrite, execCoreschedWrite, he]
  have hcore (u : State) (hu : u.cores = (s.updCore core fun c => { c with coresched := csrMerge 0x013 c.coresched val }).cores) :
      u.core core = { s.core core with coresched := csrMerge 0x013 (s.core core).coresched val } := by
    rw [State.core, hu]
    exact State.core_updCore s core _
  refine ⟨_, rfl, hcore _ ?_⟩
  rw [State.cores_offerQuire, State.cores_offerRows]
  split
  · split <;> rfl
  · rfl

/-! ## Ownership (R345, R359) -/

/-- The partition that an ownership byte names, if any, is stopped. -/
def State.quietOwner (s : State) (o : Option Nat) : Prop := ∀ p, o = some p → (s.partition p).pctl = 0

theorem State.stopped_iff {s : State} {p : Nat} : s.stopped p = true ↔ (s.partition p).pctl = 0 := beq_iff_eq

theorem State.all_stopped_iff {s : State} {o : Option Nat} : o.all s.stopped = true ↔ s.quietOwner o := by
  simp [Option.all_eq_true, quietOwner, stopped_iff]

section
variable {s : State} {quires : Bool} {i : Nat} {val : Byte}

/-- An ownership byte is written where the partition it names and the one it named are stopped. -/
theorem exec_ownershipWrite_of_ev (he : s.ev = .ownershipWrite quires i val) : exec .ownershipWrite s = .next (
    if !(if quires then (s.quire i).owner else (s.port i).owner).all s.stopped || !(ownerOf val).all s.stopped then s
    else if quires then (if i < 1024 then s.setQuire i { s.quire i with own := val &&& 0x9F } else s)
    else if i < Config.ports then s.updPort i fun p => { p with own := val &&& 0x9F }
    else s) := by
  rw [exec_ownershipWrite, execOwnershipWrite, he]
  dsimp only
  generalize (if quires then (s.quire i).owner else (s.port i).owner) = old
  cases old <;> cases ownerOf val <;> rfl

theorem exec_ownershipWrite_quire (he : s.ev = .ownershipWrite true i val) (hnew : s.quietOwner (ownerOf val))
    (hold : s.quietOwner (s.quire i).owner) (hi : i < 1024) :
    exec .ownershipWrite s = .next (s.setQuire i { s.quire i with own := val &&& 0x9F }) := by
  simp [exec_ownershipWrite_of_ev he, State.all_stopped_iff.2 hnew, State.all_stopped_iff.2 hold, hi]

theorem exec_ownershipWrite_port (he : s.ev = .ownershipWrite false i val) (hnew : s.quietOwner (ownerOf val))
    (hold : s.quietOwner (s.port i).owner) (hi : i < Config.ports) :
    exec .ownershipWrite s = .next (s.updPort i fun p => { p with own := val &&& 0x9F }) := by
  simp [exec_ownershipWrite_of_ev he, State.all_stopped_iff.2 hnew, State.all_stopped_iff.2 hold, hi]

theorem exec_ownershipWrite_oldRuns (he : s.ev = .ownershipWrite true i val) (hold : ¬s.quietOwner (s.quire i).owner) :
    exec .ownershipWrite s = .next s := by
  simp [exec_ownershipWrite_of_ev he, mt State.all_stopped_iff.1 hold]

theorem exec_ownershipWrite_newRuns (he : s.ev = .ownershipWrite quires i val) (hnew : ¬s.quietOwner (ownerOf val)) :
    exec .ownershipWrite s = .next s := by
  simp [exec_ownershipWrite_of_ev he, mt State.all_stopped_iff.1 hnew]

end

/-! ## DEVEN, PKGID (R19-R21, R344) -/

theorem State.noneRuns_iff {s : State} : s.noneRuns = true ↔ ∀ p < 24, (s.partition p).pctl = 0 := by
  simp [noneRuns, stopped_iff, Config.partitions]

section
variable {s : State}

/-- DEVEN takes no bit, since DEVCAP names no feature, and changes only while no partition runs. -/
theorem exec_devenWrite_of_ev {i : Nat} {val : Word} (he : s.ev = .devenWrite i val) :
    exec .devenWrite s = .next (if i < 4 && s.noneRuns then { s with deven := put i 0 s.deven } else s) := by
  have hcap : val &&& devcap = 0 := BitVec.and_zero
  simp only [exec_devenWrite, execDevenWrite, he, hcap]

theorem exec_pkgidWrite_of_ev {val : Word} (he : s.ev = .pkgidWrite val) : exec .pkgidWrite s =
    .next (if s.started = false ∧ val.toNat % 1024 < 993 then { s with pkgid := val.toNat % 1024 } else s) := by
  rw [exec_pkgidWrite, execPkgidWrite, he]
  simp only [Bits.get_low]
  cases s.started with
  | true => simp
  | false =>
    by_cases h : val.toNat % 1024 < 993
    · simp [h, Nat.not_le.2 h]
    · simp [h, Nat.not_lt.1 h]

theorem exec_engflt1Write_of_ev {core : Nat} {val : Word} (he : s.ev = .engflt1Write core val) : exec .engflt1Write s =
    .next (s.updCore core fun c => { c with engFlt1 := if val.getLsbD 32 then c.engFlt1 &&& ~~~(0x100000000 : Word) else c.engFlt1 }) := by
  rw [exec_engflt1Write, execEngflt1Write, he]
  rfl

theorem exec_notifyPageStore_of_ev {p : Nat} {val : Word} (he : s.ev = .notifyPageStore p val) : exec .notifyPageStore s =
    .next { s.updPartition p (fun x => { x with notifyVal := val }) with msix := s.msix ++ [(p, 3)] } := by
  rw [exec_notifyPageStore, execNotifyPageStore, he]
  rfl

theorem exec_attestationRequest_of_ev {nonce : List Byte} (he : s.ev = .attestationRequest nonce) : exec .attestationRequest s =
    .next (if nonce.length = 32 then { s with mailbox := Config.attestation (nonce ++ s.measured) } else s) := by
  rw [exec_attestationRequest, execAttestationRequest, he]

end

/-! ## Host accesses (R46, R342, R343, R346) -/

namespace State
variable (s : State)

/-- An aligned read of eight bytes of a function's BAR 0 gives its 64 bits there. -/
theorem barRead_vf_eight (vf : Nat) {o : Nat} (ho : o % 8 = 0) : s.barRead false vf o 8 = Bytes.ofNat 8 (s.vfWord vf o) := by
  rw [Bytes.ofNat_eq_map]
  refine List.map_congr_left fun j hj => ?_
  have hj := List.mem_range.1 hj
  have hword : (o + j) / 8 * 8 = o := by omega
  have hbyte : (o + j) % 8 = j := by omega
  simp only [Bool.false_eq_true, if_false, hword, hbyte]

/-- Behind COLTMO no register stands in the first page of a VF's BAR 0 (R343). -/
theorem vfWord_gap (vf : Nat) : s.vfWord vf 0x28 = 0 := rfl

theorem vfWord_port_other {vf n : Nat} (hown : (s.port n).owner ≠ some vf) : s.vfWord vf (0x100000 + 32 * n) = 0 := by
  have habove : ∀ k ≤ 0x4040, ¬ 0x100000 + 32 * n < k ∧ 0x100000 + 32 * n ≠ k := fun k hk => by omega
  simp [vfWord, habove, hown]

theorem portRead_other {vf n : Nat} (hown : (s.port n).owner ≠ some vf) (off len : Nat) :
    s.portRead vf n off len = (s, List.replicate len 0) := if_pos hown

end State

section
variable {s : State} {vf off : Nat}

theorem State.windowPa_eq (s : State) (vf off : Nat) :
    s.windowPa vf off = ((s.partition vf).phbm.toNat % 1024 + (s.partition vf).hwinBase.toNat) * 2 ^ 30 + off := rfl

theorem exec_hostWindowAccess_write {data : List Byte} (he : s.ev = .hostWindowAccess vf off (.write data)) :
    exec .hostWindowAccess s = .next (if s.inShare vf (s.windowPa vf off) data.length && off + data.length ≤ 2 ^ 36 then
      s.hbmWrite (s.windowPa vf off) data else s) := by
  simp only [exec_hostWindowAccess, execHostWindowAccess, he]

theorem exec_hostWindowAccess_read {n : Nat} (he : s.ev = .hostWindowAccess vf off (.read n)) :
    exec .hostWindowAccess s = .next { s with hostReads := s.hostReads ++ [(vf,
      if s.inShare vf (s.windowPa vf off) n && off + n ≤ 2 ^ 36 && s.windowPa vf off + n ≤ Config.hbmBytes then
        memLoad s.hbm (s.windowPa vf off) n else List.replicate n 0xFF)] } := by
  simp only [exec_hostWindowAccess, execHostWindowAccess, he]

/-- A read of eight bytes at an aligned offset of a VF's BAR 0 (R343). -/
theorem exec_hostWindowAccess_barRead_eight (ho : off % 8 = 0) (he : s.ev = .hostWindowAccess vf off (.barRead false 8)) :
    exec .hostWindowAccess s = .next { s with hostReads := s.hostReads ++ [(vf, Bytes.ofNat 8 (s.vfWord vf off))] } := by
  simp only [exec_hostWindowAccess, execHostWindowAccess, he, State.barRead_vf_eight s vf ho]

theorem exec_hostWindowAccess_port_other {n len : Nat} (he : s.ev = .hostWindowAccess vf off (.port n len))
    (hown : (s.port n).owner ≠ some vf) :
    exec .hostWindowAccess s = .next { s with hostReads := s.hostReads ++ [(vf, List.replicate len 0)] } := by
  simp only [exec_hostWindowAccess, execHostWindowAccess, he, State.portRead_other s hown]

theorem pfWrite_pkgid {data : List Byte} (hlen : data.length = 8) :
    State.pfWrite 0x40 data = [.pkgidWrite (BitVec.ofNat 64 (Bytes.toNat data))] := by
  simp [State.pfWrite, hlen]

theorem exec_hostWindowAccess_pkgid {data : List Byte} (hlen : data.length = 8)
    (he : s.ev = .hostWindowAccess vf 0x40 (.barWrite true data)) :
    exec .hostWindowAccess s = .next (s.emit 0 (.pkgidWrite (BitVec.ofNat 64 (Bytes.toNat data)))) := by
  simp only [exec_hostWindowAccess, execHostWindowAccess, he, if_true, pfWrite_pkgid hlen, List.foldl_cons, List.foldl_nil]

end

/-! ## Registers without a behaviour of their own (R85, R343) -/

section
variable {s : State} {val : Word} {p : Nat} (hp : p < 24)
include hp

theorem exec_registerWrite_phbm (he : s.ev = .registerWrite (.phbm p) val) : exec .registerWrite s =
    .next (if s.stopped p then s.updPartition p fun x => { x with phbm := val &&& 0x800003FF000003FF } else s) := by
  rw [exec_registerWrite, execRegisterWrite, he]
  exact congrArg _ (if_neg (by simp [plainExists, Config.partitions, hp]))

theorem exec_registerWrite_plimit (he : s.ev = .registerWrite (.plimit p) val) : exec .registerWrite s =
    .next (if s.stopped p then s.updPartition p fun x => { x with plimit := val &&& 0xF000F } else s) := by
  rw [exec_registerWrite, execRegisterWrite, he]
  exact congrArg _ (if_neg (by simp [plainExists, Config.partitions, hp]))

theorem exec_registerWrite_podN (he : s.ev = .registerWrite (.podN p) val) : exec .registerWrite s =
    .next (if s.stopped p then s.updPartition p fun x => { x with podN := val &&& 0x3FF } else s) := by
  rw [exec_registerWrite, execRegisterWrite, he]
  exact congrArg _ (if_neg (by simp [plainExists, Config.partitions, hp]))

theorem exec_registerWrite_evBase (he : s.ev = .registerWrite (.evBase p) val) : exec .registerWrite s =
    .next (s.updPartition p fun x => { x with evBase := val &&& 0xFFFFFFFFF0001 }) := by
  rw [exec_registerWrite, execRegisterWrite, he]
  exact congrArg _ (if_neg (by simp [plainExists, Config.partitions, hp]))

theorem exec_registerWrite_msixTable {j : Nat} (hj : j < 8) (he : s.ev = .registerWrite (.msixTable p j) val) :
    exec .registerWrite s = .next (s.updPartition p fun x => { x with msixTable := put j val x.msixTable }) := by
  have hall : val &&& plainMask (.msixTable p j) = val := BitVec.and_allOnes
  simp only [exec_registerWrite, execRegisterWrite, he, hall]
  exact congrArg _ (if_neg (by simp [plainExists, Config.partitions, hp, hj]))

section
variable {c : Nat} (hc : c < 64)
include hc

theorem exec_registerWrite_ttroot (he : s.ev = .registerWrite (.ttroot p c) val) : exec .registerWrite s =
    .next (s.updContext p c fun x => { x with ttroot := val &&& 0xFFFFFFFFFF000 }) := by
  rw [exec_registerWrite, execRegisterWrite, he]
  exact congrArg _ (if_neg (by simp [plainExists, Config.partitions, Config.contexts, hp, hc]))

/-- A watchdog's window starts anew with each write, and 0 turns it off (R72). -/
theorem exec_registerWrite_wdogWin (he : s.ev = .registerWrite (.wdogWin p c) val) : exec .registerWrite s =
    .next (let s1 := s.updContext p c fun x => { x with wdogWin := val &&& 0xFFFFFFFF, lastPulse := s.now, silent := false }
      if val &&& 0xFFFFFFFF = 0 then s1 else s1.emit ((val &&& 0xFFFFFFFF).toNat * 1024) (.silentContext p c s.now)) := by
  rw [exec_registerWrite, execRegisterWrite, he]
  exact congrArg _ (if_neg (by simp [plainExists, Config.partitions, Config.contexts, hp, hc]))

end

end

theorem exec_registerWrite_lsprot {s : State} {val : Word} {core j : Nat} (hcore : core < 4096) (hj : j < 8)
    (he : s.ev = .registerWrite (.lsprot core j) val) : exec .registerWrite s =
    .next (s.updCore core fun c => { c with lsprot := put j (val &&& 0xFFFFFFFFF) c.lsprot }) := by
  rw [exec_registerWrite, execRegisterWrite, he]
  exact congrArg _ (if_neg (by simp [plainExists, Config.cores, hcore, hj]))

/-! ## WAYMASK (R86, R123, R414) -/

section
variable {s : State} {core who : Nat} {val : Word}

theorem State.wayMaskOk_updCore (n : Nat) (f : Core → Core) (part : Nat) (a b : Option Word) (v : Word) :
    (s.updCore n f).wayMaskOk part a b v = s.wayMaskOk part a b v := rfl

theorem State.owner_updCore (n : Nat) (f : Core → Core) (q : Nat) : (s.updCore n f).owner q = s.owner q := rfl

theorem State.drainsInto_updCore (n : Nat) (f : Core → Core) (k : Nat) (ways : List Nat) :
    (s.updCore n f).drainsInto k ways = s.drainsInto k ways := rfl

/-- A mask that the partition's limit, ASLOT or FRECBASE forbid changes no way. -/
theorem exec_waymaskWrite_refused (he : s.ev = .waymaskWrite core who val)
    (hok : s.wayMaskOk ((s.owner (quireOf core)).getD 0) (State.aslotSet (s.core core)) (State.frecSet (s.core core)) (val &&& 0xFFFF) = false) :
    exec .waymaskWrite s = .next (s.updCore core fun c => { c with maskBy := c.maskBy.erase who }) := by
  simp only [exec_waymaskWrite, execWaymaskWrite, he, State.wayMaskOk_updCore, State.owner_updCore, hok, Bool.not_false, if_true]

section
variable (he : s.ev = .waymaskWrite core who val)
  (hok : s.wayMaskOk ((s.owner (quireOf core)).getD 0) (State.aslotSet (s.core core)) (State.frecSet (s.core core)) (val &&& 0xFFFF) = true)
include he hok

/-- While a DRAIN has rows to write into a leaving way the mask is looked at again in the next cycle. -/
theorem exec_waymaskWrite_rowsDue (hrows : s.drainsInto core (waysLeaving (s.core core).wayMask (val &&& 0xFFFF)) = true) :
    exec .waymaskWrite s = .next ((s.updCore core fun c => { c with maskBy := who :: c.maskBy.erase who }).emit 1
      (.waymaskWrite core who val)) := by
  simp only [exec_waymaskWrite, execWaymaskWrite, he, State.wayMaskOk_updCore, State.owner_updCore, State.drainsInto_updCore, hok, hrows,
    Bool.not_true, Bool.false_eq_true, if_false, if_true, State.updCore_updCore]

end

/-- Lines whose ways enter scratch leave the L1, and with no L1 way left every line does (R123). -/
theorem State.bare_core_dropped (s : State) (core : Nat) (ways : List Nat) (all : Bool) : ∃ l1,
    bare ((if all then (s.leaveL1 core fun l => ways.contains l.way).dropL1 core
      else s.leaveL1 core fun l => ways.contains l.way).core core) = bare { s.core core with l1 := l1 } ∧
    ∀ l ∈ l1, l ∈ (s.core core).l1 ∧ l.way ∉ ways := by
  have hleft := slotsOnly_leaveL1 s core (fun l => ways.contains l.way) core
  rw [core_updCore] at hleft
  cases all with
  | false => exact ⟨_, hleft, by simp⟩
  | true =>
    refine ⟨[], ?_, by simp⟩
    have hdropped := slotsOnly_dropL1 (s.leaveL1 core fun l => ways.contains l.way) core core
    rw [core_updCore] at hdropped
    exact hdropped.trans (congrArg (fun c : Core => { c with l1 := [] }) hleft)

/-- A mask that is accepted switches: a core's lines stay in ways that do not enter scratch, and a way whose role changes reads zero (R123). -/
theorem exec_waymaskWrite_switches (he : s.ev = .waymaskWrite core who val)
    (hok : s.wayMaskOk ((s.owner (quireOf core)).getD 0) (State.aslotSet (s.core core)) (State.frecSet (s.core core)) (val &&& 0xFFFF) = true)
    (hrows : s.drainsInto core (waysLeaving (s.core core).wayMask (val &&& 0xFFFF)) = false) :
    ∃ t, exec .waymaskWrite s = .next t ∧ (t.core core).wayMask = val &&& 0xFFFF ∧
      (t.core core).maskBy = (s.core core).maskBy.erase who ∧
      (∀ l ∈ (t.core core).l1, l ∈ (s.core core).l1 ∧ l.way ∉ waysLeaving (val &&& 0xFFFF) (s.core core).wayMask) ∧
      ∀ a, a / 16384 < 16 → memGet (t.core core).store a =
        if (s.core core).wayMask.getLsbD (a / 16384) = (val &&& 0xFFFF).getLsbD (a / 16384) then memGet (s.core core).store a else 0 := by
  simp only [exec_waymaskWrite, execWaymaskWrite, he, State.wayMaskOk_updCore, State.owner_updCore, State.drainsInto_updCore, hok, hrows,
    Bool.not_true, Bool.false_eq_true, if_false]
  obtain ⟨l1, hdropped, hl1⟩ := State.bare_core_dropped (s.updCore core fun c => { c with maskBy := c.maskBy.erase who }) core
    (waysLeaving (val &&& 0xFFFF) (s.core core).wayMask) (val &&& 0xFFFF = 0xFFFF && (s.core core).wayMask ≠ 0xFFFF)
  rw [State.core_updCore] at hdropped hl1
  -- the core as the switch leaves it, but for strands woken
  have hswitched := (State.slotsOnly_leaveWays ((State.updCore _ core fun c => State.switchWays c (val &&& 0xFFFF))) core
    (waysLeaving (s.core core).wayMask (val &&& 0xFFFF)) core).trans (by
      rw [State.core_updCore, State.bare_switchWays, hdropped, ← State.bare_switchWays])
  obtain ⟨hmask, hby, hlines, hstore⟩ := State.fields_of_bare_switchWays hswitched
  exact ⟨_, rfl, hmask, hby, hlines ▸ hl1, hstore⟩

end

end Sys2Proof.Machine
end

section
/-! PROOF. The registers that the host and cores write. -/

namespace Sys2Proof.Proofs

open Sys2Proof.Machine Sys2Proof.Claims

/-- An event whose next state is known does what holds of that state. -/
theorem does_of_exec {s t : State} {i : Instr} {e : Event} {P : State → Prop} (h : s.ev = e → exec i s = .next t) (hP : P t) :
    Does s i e P := fun he => ⟨t, h he, hP⟩

/-- The notice of a retirement is on its way to the actor's home. -/
theorem sentBy_toHome (s : State) (core slice : Nat) (a : ActorId) (e : Event) :
    SentBy s (s.toHome core slice a e) (travel (quireOf core) slice) e :=
  ⟨_, (Nat.le_add_right _ _).trans (Nat.le_max_left _ _), List.mem_append_right _ List.mem_cons_self⟩

/-- An ASLOT write's notice to an actor's home is sent. -/
theorem sentBy_aslotNotice (s : State) (core who : Nat) (v : Word) (j : Nat) (x : ActorSlot) :
    SentBy s (s.aslotNotice core who v j x) (travel (quireOf core) x.slice) (.retireNotice x.slice x.actor core) :=
  sentBy_toHome (s.updCore core _) core x.slice x.actor _

theorem sentBy_mono {s t u : State} {d : Nat} {e : Event} (h : SentBy s t d e) (hsent : t.sent ⊆ u.sent) : SentBy s u d e := by
  obtain ⟨n, hn, hmem⟩ := h
  exact ⟨n, hn, hsent hmem⟩

/-- Settles O49: the next state of each event is known from the lemma about its register (`exec_…`), and has the parts that the
clause names. -/
theorem registerWrites : Obligations.RegisterWrites := by
  intro s quiet
  refine ⟨fun i val => ?deven, fun val => ?pkgid, fun core who val => ?waymask, fun core who val => ?aslot, fun r val => ?cbsel,
    fun r val hcopy => ?noCopy, fun core val => ?ctxreq, fun core val => ?coresched, fun core val => ?engflt1, fun i val => ?ownership,
    fun p val => ?notify, fun vf off => ?window, fun vf => ?bar, fun nonce => ?attestation, fun p val hp hstopped => ?stopped,
    fun p val hp hruns => ?running, fun p c val hp hc => ?context, fun p j val hp hj => ?msix, fun core j val hcore hj => ?lsprot⟩
  case deven =>
    refine does_of_exec exec_devenWrite_of_ev ⟨fun hi hstopped => ?_, fun ⟨p, hp, hruns⟩ => ?_⟩
    · rw [if_pos (by simp [hi, State.noneRuns_iff.2 hstopped])]
    · have hnot : ¬s.noneRuns = true := fun h => hruns (State.noneRuns_iff.1 h p hp)
      rw [if_neg (by simp [hnot])]
  case pkgid => exact does_of_exec exec_pkgidWrite_of_ev rfl
  case waymask =>
    intro c v ok rowsDue he
    cases hok : ok with
    | false => exact ⟨_, exec_waymaskWrite_refused he hok, by simp⟩
    | true =>
      cases hrows : rowsDue with
      | true =>
        refine ⟨_, exec_waymaskWrite_rowsDue he hok hrows, by simp, fun _ _ => ?_, by simp⟩
        rw [State.core_emit, State.core_updCore]
        exact ⟨List.mem_append_right _ List.mem_cons_self, rfl, List.mem_cons_self⟩
      | false =>
        obtain ⟨t, hexec, hmask, hby, hlines, hstore⟩ := exec_waymaskWrite_switches he hok hrows
        refine ⟨t, hexec, by simp, by simp, fun _ _ => ⟨hmask, hby, fun l hl => ?_, fun a ha => ?_⟩⟩
        · obtain ⟨hmem, hway⟩ := hlines l hl
          exact ⟨hmem, of_not_mem_waysLeaving_low16 hway⟩
        · rw [hstore a ha, getLsbD_low16, decide_eq_true ha, Bool.true_and]
  case aslot =>
    intro v
    refine ⟨fun hok => ?_, fun hok hactors hlow hhigh => ?_, fun j x hok hactors hlive hhead hnoticed hlow hhigh => ?_⟩
    · exact does_of_exec (exec_aslotWrite_invalid · hok) rfl
    · exact does_of_exec (exec_aslotWrite_empty · hok hactors hlow hhigh) ⟨by rw [State.offer, State.core_emit, State.core_updCore]; rfl, rfl⟩
    · cases hruns : s.actorRuns core j with
      | true =>
        refine does_of_exec (exec_aslotWrite_running · hok hactors hlive hhead hnoticed hlow hhigh hruns) ?_
        rw [State.core_aslotNotice]
        exact ⟨rfl, rfl, List.mem_cons_self, sentBy_aslotNotice s .., by simp, fun _ => ⟨_, rfl, hlive, rfl⟩⟩
      | false =>
        refine does_of_exec (exec_aslotWrite_idle · hok hactors hlive hhead hnoticed hlow hhigh hruns) ?_
        rw [State.core_emit, State.updActor, State.core_updCore, State.core_aslotNotice]
        exact ⟨rfl, rfl, List.mem_cons_self, sentBy_mono (sentBy_aslotNotice s ..) (List.subset_append_left _ _),
          fun _ => List.mem_append_right _ List.mem_cons_self, by simp⟩
  case cbsel =>
    intro t0 va hocc hcopy hsel
    have hva : State.windowVa t0 = va.toNat := rfl
    refine ⟨fun hbeyond => ?_, fun off hown halign hin hprot => ?_⟩
    · refine does_of_exec (exec_cbselWrite_wanted · hocc hcopy hsel) ?_
      rw [State.copyStart_beyond hbeyond, State.copyFault, State.updStrand_of_occupied hocc]
      simp [hva, t0]
    · refine does_of_exec (exec_cbselWrite_wanted · hocc hcopy hsel) ?_
      rw [State.copyStart_own hown halign hin hprot, State.copied, State.updStrand_of_occupied hocc]
      rfl
  case noCopy => exact does_of_exec (exec_cbselWrite_other · hcopy) rfl
  case ctxreq =>
    refine does_of_exec exec_ctxreqWrite_of_ev ?_
    rw [State.offer, State.core_emit, State.core_switchCheck, State.core_updCore]
    refine ⟨by split <;> rfl, ?_, fun hslots hdeque htasks => ?_, fun e hmem hleaving => ?_⟩
    · rw [State.emit, State.now_switchCheck]
      exact List.mem_append_right _ List.mem_cons_self
    · have hidle : (s.updCore core fun c => { c with ctxReq := val }).taskLeft core ((s.core core).ctxRun &&& ~~~val) = false :=
        State.taskLeft_of_idle (by rw [State.core_updCore]; exact hslots) (by rw [State.core_updCore]; exact hdeque)
          (by rw [State.core_updCore]; exact htasks) _
      rw [hidle]
      rfl
    · have hleft : (s.updCore core fun c => { c with ctxReq := val }).taskLeft core ((s.core core).ctxRun &&& ~~~val) = true :=
        State.taskLeft_of_strand (by rw [State.core_updCore]; exact hmem) hleaving
      rw [hleft]
      rfl
  case coresched =>
    intro he
    obtain ⟨t, hexec, hcore⟩ := exec_coreschedWrite_core he
    exact ⟨t, hexec, by rw [hcore]; rfl, by rw [hcore]⟩
  case engflt1 => exact does_of_exec exec_engflt1Write_of_ev rfl
  case ownership =>
    intro new
    exact ⟨fun hnew hold hi => does_of_exec (exec_ownershipWrite_quire · hnew hold hi) rfl,
      fun hnew hold hi => does_of_exec (exec_ownershipWrite_port · hnew hold hi) rfl,
      fun hold => does_of_exec (exec_ownershipWrite_oldRuns · hold) rfl,
      fun hnew q => does_of_exec (exec_ownershipWrite_newRuns · hnew) rfl⟩
  case notify => exact does_of_exec exec_notifyPageStore_of_ev rfl
  case window =>
    intro pa
    refine ⟨fun data hin hoff hpa => ?_, fun n hin hoff hpa => ?_, fun hout => ⟨?_, fun data hlen => ?_⟩⟩
    · refine does_of_exec exec_hostWindowAccess_write ?_
      rw [State.windowPa_eq, if_pos (by simpa using ⟨hin, hoff⟩), State.hbmWrite, if_pos hpa]
    · refine does_of_exec exec_hostWindowAccess_read ?_
      rw [State.windowPa_eq, if_pos (by simpa using ⟨⟨hin, hoff⟩, hpa⟩)]
    · refine does_of_exec exec_hostWindowAccess_read ?_
      rw [State.windowPa_eq, hout]
      rfl
    · refine does_of_exec exec_hostWindowAccess_write ?_
      rw [State.windowPa_eq, hlen, hout]
      rfl
  case bar =>
    refine ⟨does_of_exec (exec_hostWindowAccess_barRead_eight rfl) rfl,
      does_of_exec (exec_hostWindowAccess_barRead_eight rfl) (by rw [State.vfWord_gap]; rfl), fun n hn hown => ?_,
      fun n len hown off => does_of_exec (exec_hostWindowAccess_port_other · hown) rfl,
      fun data hlen => does_of_exec (exec_hostWindowAccess_pkgid hlen) rfl⟩
    refine does_of_exec (exec_hostWindowAccess_barRead_eight (by omega)) ?_
    rw [State.vfWord_port_other s hown]
    rfl
  case attestation => exact does_of_exec exec_attestationRequest_of_ev rfl
  case stopped =>
    have hstop : s.stopped p = true := State.stopped_iff.2 hstopped
    exact ⟨does_of_exec (exec_registerWrite_phbm hp) (if_pos hstop), does_of_exec (exec_registerWrite_plimit hp) (if_pos hstop),
      does_of_exec (exec_registerWrite_podN hp) (if_pos hstop)⟩
  case running =>
    exact ⟨does_of_exec (exec_registerWrite_phbm hp) (if_neg (mt State.stopped_iff.1 hruns)),
      does_of_exec (exec_registerWrite_evBase hp) rfl⟩
  case context =>
    have hwritten := State.context_setContext s p c
      { s.context p c with wdogWin := val &&& 0xFFFFFFFF, lastPulse := s.now, silent := false }
    refine ⟨does_of_exec (exec_registerWrite_ttroot hp hc) rfl, does_of_exec (exec_registerWrite_wdogWin hp hc) ?_⟩
    dsimp only
    split
    case isTrue hoff =>
      exact ⟨(congrArg Context.wdogWin hwritten :), (congrArg Context.lastPulse hwritten :), fun hon => absurd hoff hon⟩
    case isFalse =>
      exact ⟨(congrArg Context.wdogWin hwritten :), (congrArg Context.lastPulse hwritten :),
        fun _ => List.mem_append_right _ List.mem_cons_self⟩
  case msix => exact does_of_exec (exec_registerWrite_msixTable hp hj) rfl
  case lsprot => exact does_of_exec (exec_registerWrite_lsprot hcore hj) rfl

end Sys2Proof.Proofs
end

section
/-! SUPPORT. Own bytes of a strand (R118, R126, R395), what reading and holding leave alone, and what `send` does (R26, R214). -/

namespace Sys2Proof.Machine

open Sys2Proof.Claims

/-! ## Own bytes (R118, R126) -/

section
variable {s : State} {acc : Access} {off n : Nat} (h : OwnBytes s acc off n)
include h

theorem dvd_way_of_ownBytes : n ∣ 16384 := Nat.dvd_of_mod_eq_zero h.1

theorem ownVa_mod_of_ownBytes : Claims.ownVa off % n = 0 := by
  have ⟨_, halign, _⟩ := h
  have hbase : 16384 ∣ 0x01FFFFF000000000 + 0xFFF * 2 ^ 20 := by decide
  exact Nat.mod_eq_zero_of_dvd (dvd_add ((dvd_way_of_ownBytes h).trans hbase) (Nat.dvd_of_mod_eq_zero halign))

/-- Aligned bytes lie in one way. -/
theorem sameWay_of_ownBytes : (off + n - 1) / 16384 = off / 16384 := by
  have ⟨_, halign, _⟩ := h
  obtain ⟨a, rfl⟩ := Nat.dvd_of_mod_eq_zero halign
  obtain ⟨b, hb⟩ := dvd_way_of_ownBytes h
  have hpos : 0 < n := Nat.pos_of_ne_zero fun h0 => by simp [h0] at hb
  have hlast : (n * a + n - 1) / n = a := by
    rw [Nat.add_sub_assoc hpos, Nat.mul_add_div hpos, Nat.div_eq_of_lt (by omega), Nat.add_zero]
  rw [hb, ← Nat.div_div_eq_div_mul, hlast, ← Nat.div_div_eq_div_mul, Nat.mul_div_cancel_left a hpos]

theorem inScratch_of_ownBytes : inScratch s.myCore off n = true := by
  have hway := sameWay_of_ownBytes h
  obtain ⟨hsize, halign, hoff, hmask, -⟩ := h
  have hpos : 0 < n := Nat.pos_of_ne_zero fun h0 => by simp [h0] at hsize
  have hend : off + n ≤ 262144 := by omega
  simp [inScratch, hend, hway, hmask]

/-- An own address whose bytes the strand may access passes the checks of R395. -/
theorem State.place_of_ownBytes {f : Form} (hacc : f.acc = acc) (hsize : f.size = n) (hraw : f.decodes = false) :
    s.place f (Claims.ownVa off) = .ok (.scratch off 0 0) := by
  have hmod := ownVa_mod_of_ownBytes h
  have hin := inScratch_of_ownBytes h
  obtain ⟨-, -, hoff, -, hprot⟩ := h
  have hbound : off < 2 ^ 18 := hoff
  have hva : Claims.ownVa off < 144115188075855872 := by simp only [Claims.ownVa]; omega
  simp [State.place, hva, inAperture_of_own rfl hbound, apWindow_of_own rfl hbound, apNib_of_own rfl hbound, apSel_of_own rfl hbound,
    apOff_of_own rfl hbound, testBit19_of_own rfl hbound, hraw, hacc, hsize, hmod, hin, hprot]

/-- A line or descriptor in own scratch is found at its offset (R214). -/
theorem State.ownLine_of_ownBytes (hload : acc = .load) : s.ownLine (Claims.ownVa off) n = .ok off := by
  subst hload
  have ⟨_, _, hbound, _⟩ := h
  have hplace := State.place_of_ownBytes (f := { fullForm .load false with size := n }) h rfl rfl rfl
  simp [State.ownLine, inAperture_of_own rfl hbound, hplace]

end

/-- A byte field of own bytes is the byte that stands there. -/
theorem State.lineNat_scratchBytes (s : State) (off : Nat) {n i : Nat} (hi : i < n) :
    lineNat (s.scratchBytes off n) i 1 = ((s.scratchBytes (off + i) 1).headD 0).toNat := by
  have hbyte : ((s.scratchBytes off n).drop i).take 1 = s.scratchBytes (off + i) 1 := by
    have hlen : i < (s.scratchBytes off n).length := by simpa [State.scratchBytes, memLoad] using hi
    rw [List.drop_eq_getElem_cons hlen, List.take_succ_cons, List.take_zero]
    simp [State.scratchBytes, memLoad]
  rw [lineNat, hbyte]
  simp [State.scratchBytes, memLoad, Bytes.toNat]

/-! ## Reading and holding -/

namespace State
variable (s : State) (r : Ref) (vas : List Nat)

@[simp] theorem useLines_cur : (s.useLines r vas).cur = s.cur := by unfold useLines; split <;> rfl
@[simp] theorem useLines_ids : (s.useLines r vas).ids = s.ids := by unfold useLines; split <;> rfl
@[simp] theorem reading_cur (sectors : List Nat) : (reading s sectors).cur = s.cur := useLines_cur _ _ _
@[simp] theorem reading_ids (sectors : List Nat) : (reading s sectors).ids = s.ids := useLines_ids _ _ _

theorem readLine_eq (off n : Nat) : s.readLine off n = (reading s (lineSectors off n), s.scratchBytes off n) := rfl

theorem bpc_setMe {t : Strand} (ht : t.regs = s.me.regs) : (s.setMe t).bpc = s.bpc := by
  simp only [bpc, pre, me_setMe, ht]
  rfl

/-- A bundle that has written no register goes on. -/
theorem advance_eq_wrote : s.advance = Claims.wrote s s.me.regs := advance_eq s

theorem wantHeld_eq (la : BitVec 4) (dests : List Dest) (w : Want) : s.wantHeld la dests w =
    (s.setMe { s.me with
      opened := { s.me.opened with held := s.me.opened.held ++ [.wants s.ids w] }
      windows := s.me.windows ++ [{ tag := s.ids, chunk := s.me.opened.id, dests := dests, left := la.toNat, due := s.now,
                                    writes := none }] }).fresh :=
  congrArg fresh (updMe_updMe s _ _)

/-- A bundle whose effect waits goes on with a window open for it (R191). -/
theorem advance_wantHeld (la : BitVec 4) (dests : List Dest) (w : Want) : (s.wantHeld la dests w).advance = waiting s la dests w := by
  rw [wantHeld_eq, advance_eq]
  generalize hu : Strand.mk .. = u
  have hbpc : (s.setMe u).fresh.bpc = s.bpc := bpc_setMe s (by rw [← hu])
  have hme : (s.setMe u).fresh.me = u := me_setMe s u
  have hset (t : Strand) : (s.setMe u).fresh.setMe t = (s.setMe t).fresh := congrArg fresh (setMe_setMe s u t)
  rw [hbpc, hme, hset, ← hu]
  rfl

/-- An update of a core that leaves its slots alone leaves every strand alone. -/
theorem strand_updCore {n : Nat} {f : Core → Core} (hf : (f (s.core n)).slots = (s.core n).slots) (r : Ref) :
    (s.updCore n f).strand r = s.strand r := by
  by_cases hr : r.core = n
  · subst hr
    rw [strand, strand, core_updCore, hf]
  · rw [strand, strand, updCore, core_setCore_other s hr]

theorem strand_useLines (q : Ref) : (s.useLines r vas).strand q = s.strand q := by
  unfold useLines
  split
  · rfl
  · exact strand_updCore s rfl q

theorem regs_reading (sectors : List Nat) : (reading s sectors).me.regs = s.me.regs := by
  rw [me, reading_cur, reading, strand_useLines]
  exact (congrArg Strand.regs (me_setMe s _) :)

theorem fillOutbound_reading (sectors : List Nat) (n : Nat) : (reading s sectors).fillOutbound s.cur.core n =
    let u := (reading s sectors).updMyCore fun k => { k with outbound := put n { fill := s.ids, ready := none } k.outbound }
    { u with ids := s.ids + 1 } := by
  rw [← reading_ids s sectors, ← reading_cur s sectors]
  rfl

theorem me_fillOutbound (core n : Nat) : (s.fillOutbound core n).me = s.me :=
  strand_updCore s (f := fun k => { k with outbound := put n { fill := s.ids, ready := none } k.outbound }) rfl s.cur

theorem regs_hold (h : Held) : (s.hold h).me.regs = s.me.regs := (congrArg Strand.regs (me_updMe s _) :)

/-- A bundle that only holds an effect goes on with its registers. -/
theorem advance_hold (h : Held) : (s.hold h).advance = Claims.wrote (holding s h []) s.me.regs := by
  rw [advance_eq_wrote, regs_hold]
  rfl

end State

/-! ## send (R214) -/

section
variable {s : State} {c : CWord} {off : Nat} (hready : Ready (.send c) s) (hva : (s.opA c).toNat = Claims.ownVa off)
  (hown : OwnBytes s .load off 256)
include hready hva hown

/-- `send` of a line in own scratch: a faulty header is refused, and else the message takes a free entry or waits for one. -/
theorem exec_send_ownLine : exec (.send c) s =
    let plen := ((s.scratchBytes (off + 23) 1).headD 0).toNat
    let n := 32 + 8 * plen
    let m := s.stampMsg s.cur (Msg.ofLine (s.scratchBytes off n))
    .next (if 28 < plen || ((s.scratchBytes (off + 3) 1).headD 0).toNat / 16 ≠ 0 then s.raiseCode .reservedField
      else ((freeEntry 8 s.myCore.outbound).filter fun _ => !s.me.wantsKind 1).elim
        (waiting (reading s (lineSectors off n)) c.la [] (.outbound m))
        fun j => (((reading s (lineSectors off n)).fillOutbound s.cur.core j).hold (.send j m)).advance) := by
  obtain ⟨hwf, hcb⟩ := hready
  rw [exec_send, execSend, checked_next hwf hcb, hva]
  simp only [State.ownLine_of_ownBytes hown rfl, State.lineNat_scratchBytes s off (show 23 < 32 by decide),
    State.lineNat_scratchBytes s off (show 3 < 32 by decide), State.readLine_eq, State.advance_wantHeld]
  generalize (freeEntry 8 s.myCore.outbound).filter _ = entry
  cases entry <;> rfl

end
end Sys2Proof.Machine
end

section
/-! PROOF. Messages that strands send. -/

namespace Sys2Proof.Proofs

open Sys2Proof.Machine Sys2Proof.Claims

/-- Settles O18: the line lies in own scratch (`exec_send_ownLine`), and its header and the outbound queue decide which of the three ways
`send` takes. -/
theorem sendOfMessages : Obligations.SendOfMessages := by
  intro c s off hready hva hown plen flags n
  have hexec := exec_send_ownLine hready hva hown
  refine ⟨fun hplen hflags => ?wellFormed, fun hbad => ?refused⟩
  case wellFormed =>
    have hgood : ¬(28 < plen.toNat || flags.toNat / 16 ≠ 0) = true := by simp; omega
    refine ⟨fun j hfree hwants => ?sent, fun hfull => ?waits⟩
    case sent =>
      refine hexec.trans (congrArg Host.Outcome.next ((if_neg hgood).trans ?_))
      rw [hfree, hwants]
      refine (State.advance_hold _ _).trans ?_
      rw [State.me_fillOutbound, State.regs_reading, State.fillOutbound_reading]
    case waits =>
      have hnone : (freeEntry 8 s.myCore.outbound).filter (fun _ => !s.me.wantsKind 1) = none := by
        obtain hfree | hwants := hfull
        · rw [hfree]; rfl
        · simp [hwants]
      refine hexec.trans (congrArg Host.Outcome.next ((if_neg hgood).trans ?_))
      rw [hnone, Option.elim_none]
  case refused =>
    have hfaulty : (28 < plen.toNat || flags.toNat / 16 ≠ 0) = true := by simp; omega
    exact hexec.trans (congrArg Host.Outcome.next (if_pos hfaulty))

end Sys2Proof.Proofs
end

section
/-! SUPPORT. What a port does with a line that its partition holds in the checkpoint state (R388). -/

namespace Sys2Proof.Machine

/-- A port takes a line for the slot after those posted and held, and in the checkpoint state it holds it (R388). -/
theorem State.commitLine_held {s : State} {n vf slot off : Nat} {data : List Byte} (howner : (s.port n).owner = some vf)
    (hen : (s.port n).bind.getLsbD 19 = true) (hslot : slot < 15) (hnext : ((s.port n).posted + (s.port n).held.length) % 15 = slot)
    (hroom : (s.port n).posted + (s.port n).held.length - (s.port n).accepted < 15) (hruns : s.running vf = true)
    (hcheck : s.checkpointing vf = true) :
    s.commitLine n vf slot off data = s.updPort n fun p => { p with held := p.held ++ [(256 * slot + off, data)] } := by
  have hfull : ¬ 15 ≤ slot := by omega
  have hnoRoom : ¬ 15 ≤ (s.port n).posted + (s.port n).held.length - (s.port n).accepted := by omega
  simp [State.commitLine, State.portEn, howner, hen, hfull, hnext, hnoRoom, hruns, hcheck]

theorem State.port_updPort (s : State) (n : Nat) (f : Port → Port) : (s.updPort n f).port n = f (s.port n) := look_put_same _ _ _ _

/-- Port 2 of a partition in the checkpoint state, which has posted no line and holds one for slot 0, as a line for slot 1 arrives. -/
def secondHeldLine : State :=
  { State.reset with
    ports := [(2, { Port.reset with own := 0x80, bind := 0x80000, held := [(224, [1])] })]
    partitions := [(0, { Partition.reset with pctl := 1, checkpoint := true })]
    ev := .portLineCommit 2 0 (256 + 224) [1] }

end Sys2Proof.Machine
end

section
/-! PROOF. Lines that host ports commit. -/

namespace Sys2Proof.Proofs

open Sys2Proof.Machine

/-- Refutes O47: lines that a port holds in the checkpoint state count towards the next slot, which the clause on refused lines does not say.
Of `secondHeldLine`, whose POSTED is 0, it lets only slot 0 commit, and the port holds the line for slot 1 behind the one it has. -/
theorem not_portEvents : ¬ Obligations.PortEvents := by
  intro h
  obtain ⟨-, -, -, -, hrefused, -⟩ := h secondHeldLine 2 0
  obtain ⟨t, hexec, rfl⟩ := hrefused (256 + 224) [1] (.inl (by decide)) rfl
  have hheld : exec .portLineCommit secondHeldLine =
      .next (secondHeldLine.updPort 2 fun p => { p with held := p.held ++ [(256 * 1 + 224, [1])] }) :=
    congrArg Host.Outcome.next (State.commitLine_held (by decide) (by decide) (by decide) (by decide) (by decide) (by decide) (by decide))
  rw [hheld] at hexec
  have hsame := congrArg (fun u : State => (u.port 2).held.length) (Host.Outcome.next.inj hexec)
  simp only [State.port_updPort] at hsame
  exact absurd hsame (by decide)

end Sys2Proof.Proofs
end

section
/-! SUPPORT. What the operations of homes do (R28-R30, R35-R37, R42, R45): entries, messages that arrive, forwards, orders and rounds. -/

namespace Sys2Proof.Machine

open Sys2Proof.Claims

namespace State

/-! ## Entries (R35) -/

section
variable {s : State} {q : Nat} {a : ActorId}

variable (s q a)

/-- An entry that is written is found under its actor. -/
theorem eph_setEph {e : Eph} (he : e.actor = a) : (s.setEph q e).eph q a = some e := by
  rw [eph, setEph, slice_updSlice, List.find?_cons_of_pos]
  rw [he]
  exact beq_self_eq_true a

/-- An entry that is freed is found no more. -/
theorem eph_freeEph : (s.freeEph q a).eph q a = none := by
  rw [eph, freeEph, slice_updSlice, List.find?_eq_none]
  intro e he
  simpa using (List.mem_filter.1 he).2

/-- What an update of a slice that leaves its entries alone finds there. -/
theorem eph_updSlice {f : Slice → Slice} (hf : (f (s.slice q)).ephs = (s.slice q).ephs) : (s.updSlice q f).eph q a = s.eph q a := by
  rw [eph, slice_updSlice, hf]
  rfl

theorem eph_congr {s t : State} (h : t.slices = s.slices) (q : Nat) (a : ActorId) : t.eph q a = s.eph q a := by
  rw [eph, eph, slice, slice, h]

theorem slice_congr {s t : State} (h : t.slices = s.slices) (q : Nat) : t.slice q = s.slice q := by
  rw [slice, slice, h]

@[simp] theorem updSlice_updSlice (f g : Slice → Slice) : (s.updSlice q f).updSlice q g = s.updSlice q fun x => g (f x) := by
  simp [updSlice, slice]

theorem emitOrdered_slices (k : Channel) (d : Nat) (e : Event) : (s.emitOrdered k d e).slices = s.slices := rfl

/-- Bytes written to HBM change nothing else. -/
theorem hbmWrite_eq (pa : Nat) (data : List Byte) : ∃ m, s.hbmWrite pa data = { s with hbm := m } := by
  unfold hbmWrite
  split
  · exact ⟨_, rfl⟩
  · exact ⟨s.hbm, rfl⟩

/-- An event record is written to HBM, or not, and counted (R366). -/
theorem report_eq (part : Nat) (ctx : Option Nat) (code : Byte) (src unit : Nat) (info : Word) (detail : List Byte) :
    ∃ m, s.report part ctx code src unit info detail =
      { s with hbm := m }.updPartition part fun p => { p with evCnt := p.evCnt + 1 } := by
  have hbm_only (u : State) (hu : ∃ m, u = { s with hbm := m }) : ∃ m, (u.updPartition part fun p => { p with evCnt := p.evCnt + 1 }) =
      { s with hbm := m }.updPartition part fun p => { p with evCnt := p.evCnt + 1 } :=
    hu.imp fun m hm => by rw [hm]
  refine hbm_only _ ?_
  split
  · exact s.hbmWrite_eq _ _
  · exact ⟨s.hbm, rfl⟩

end

/-! ## Messages that arrive (R30, R42, R329) -/

section
variable {s : State} {q : Nat} (harrived : (s.slice q).arrived = [])
include harrived

theorem acceptable_of_arrived_nil : s.acceptable q = none := by
  simp [acceptable, harrived]

theorem startRound_of_arrived_nil : s.startRound q = s := by
  simp [startRound, entryWanted, harrived]

/-- Where nothing has arrived, nothing is accepted. -/
theorem acceptAll_of_arrived_nil : s.acceptAll q = s := by
  have hnext : s.acceptNext q = s := by simp [acceptNext, acceptable_of_arrived_nil harrived]
  rw [acceptAll, hnext, startRound_of_arrived_nil harrived]

theorem newRound_of_arrived_nil : s.newRound q = s.updSlice q fun x => { x with asking := false, roundAt := none } :=
  acceptAll_of_arrived_nil (by rw [slice_updSlice]; exact harrived)

end

/-! ## Forwarding (R44, R45) -/

section
variable {s : State} {q core : Nat} {a : ActorId} {m : Msg}

theorem forward_of_room (hroom : coreRoom (s.core core) m.high = true) (hheld : holdsFor s q core a m.high = false) :
    s.forward q core a m = (s.updCore core fun c =>
      if m.high then { c with highSent := c.highSent + 1 } else { c with lowSent := c.lowSent + 1 }).emitOrdered
      (.activation q a) (wayTo q core m) (.messageAtCore core q a (carried s q m)) := by
  rw [holdsFor] at hheld
  rw [forward, hroom, hheld]
  rfl

theorem forward_of_full (hfull : coreRoom (s.core core) m.high = false ∨ holdsFor s q core a m.high = true) :
    s.forward q core a m = s.updSlice q fun x => { x with forwards := x.forwards ++ [{ core := core, actor := a, msg := m }] } := by
  unfold holdsFor at hfull
  rw [forward, if_neg]
  obtain hroom | hheld := hfull
  · simp [hroom]
  · simp [hheld]

/-- A message that leaves its home changes no slice. -/
theorem forward_of_room_slices (hroom : coreRoom (s.core core) m.high = true) (hheld : holdsFor s q core a m.high = false) :
    (s.forward q core a m).slices = s.slices := by
  rw [forward_of_room hroom hheld]
  rfl

theorem forward_of_room_sent (hroom : coreRoom (s.core core) m.high = true) (hheld : holdsFor s q core a m.high = false) :
    Sent (s.forward q core a m) (.messageAtCore core q a (carried s q m)) := by
  rw [forward_of_room hroom hheld]
  exact ⟨_, List.mem_append_right _ List.mem_cons_self⟩

end

/-! ## Orders (R35, R37) -/

/-- The candidates of a ranking that are not unfit, each with the core that it stands for. -/
def candidates (s : State) (x : Eph) (e : ClassEntry) (ks : List Nat) (fb : Bool) : List (Nat × Nat) :=
  ks.filterMap fun k => if x.unfit.contains k then none else (s.candidateCore fb e k).map fun c => (k, c)

/-- Of these the ones that have not refused the order. -/
def unrefused (s : State) (x : Eph) (e : ClassEntry) (ks : List Nat) (fb : Bool) : List (Nat × Nat) :=
  (s.candidates x e ks fb).filter fun c => !x.refused.contains c.1

/-- The candidates that an order may go to next: those that have not refused it, and when each has, all again. -/
def toAsk (s : State) (x : Eph) (e : ClassEntry) (ks : List Nat) (fb : Bool) : List (Nat × Nat) :=
  if (s.unrefused x e ks fb).isEmpty then s.candidates x e ks fb else s.unrefused x e ks fb

section
variable (s : State) (x : Eph) (e : ClassEntry) (ks : List Nat) (fb : Bool)

theorem candidates_cores : (s.candidates x e ks fb).map (·.2) = (ks.filter fun k => !x.unfit.contains k).filterMap (s.candidateCore fb e) := by
  rw [candidates, List.map_filterMap, List.filterMap_filter]
  refine List.filterMap_congr fun k _ => ?_
  cases x.unfit.contains k <;> simp

theorem unrefused_cores : (s.unrefused x e ks fb).map (·.2) =
    (ks.filter fun k => !x.unfit.contains k && !x.refused.contains k).filterMap (s.candidateCore fb e) := by
  rw [unrefused, candidates, List.filter_filterMap, List.map_filterMap, List.filterMap_filter]
  refine List.filterMap_congr fun k _ => ?_
  cases x.unfit.contains k <;> cases hr : x.refused.contains k <;> cases s.candidateCore fb e k <;> simp_all

/-- The first candidate that an order may go to is the first of those that have not refused it, or failing these the first of all (R37). -/
theorem head?_toAsk : (s.toAsk x e ks fb).head?.map (·.2) =
    (firstCore s e (ks.filter fun k => !x.unfit.contains k && !x.refused.contains k) fb).orElse fun _ =>
      firstCore s e (ks.filter fun k => !x.unfit.contains k) fb := by
  rw [firstCore, firstCore, ← unrefused_cores, ← candidates_cores, toAsk]
  cases s.unrefused x e ks fb <;> simp

end

section
variable {s : State} {q : Nat} {x : Eph} {e : ClassEntry} {ks : List Nat} {fb : Bool} {m : Msg} {r : List Msg} {core : Nat}
  (hranking : (if x.ranking.isEmpty then s.rankingOf q x.actor e else .ok (x.ranking, x.fallback)) = .ok (ks, fb))
  (hpend : x.pend = m :: r) (hcore : (s.toAsk x e ks fb).head?.map (·.2) = some core)
include hranking hpend hcore

/-- An order goes to the first candidate that it may go to, with the entry's first message. -/
theorem order_eq : s.order q x e =
    ((s.setEph q { x with phase := .activating, core := core, ranking := ks, fallback := fb,
                          refused := if (s.unrefused x e ks fb).isEmpty then [] else x.refused }).noteChosen
      q x.actor e fb core).emitOrdered (.activation q x.actor) (wayTo q core m) (.activationOrder core (orderOf q x.actor e m)) := by
  obtain ⟨⟨k, c⟩, hhead, rfl⟩ := Option.map_eq_some_iff.1 hcore
  obtain ⟨rest, hask⟩ := List.head?_eq_some_iff.1 hhead
  simp only [order, hranking, hpend]
  split
  case h_1 hnil => exact absurd (hask.symm.trans hnil) (List.cons_ne_nil _ _)
  case h_2 hcons =>
    cases (hask.symm.trans hcons : (k, c) :: rest = _)
    rfl

theorem order_sent : Sent (s.order q x e) (.activationOrder core (orderOf q x.actor e m)) := by
  rw [order_eq hranking hpend hcore]
  exact ⟨_, List.mem_append_right _ List.mem_cons_self⟩

end

theorem noteChosen_ephs (s : State) (q : Nat) (a : ActorId) (e : ClassEntry) (fb : Bool) (core : Nat) :
    ((s.noteChosen q a e fb core).slice q).ephs = (s.slice q).ephs ∧ ((s.noteChosen q a e fb core).slice q).arrived = (s.slice q).arrived := by
  unfold noteChosen
  split
  · rw [slice_updSlice]; exact ⟨rfl, rfl⟩
  · split
    · exact ⟨rfl, rfl⟩
    · rw [slice_updSlice]; exact ⟨rfl, rfl⟩
  · exact ⟨rfl, rfl⟩

/-! ## Rounds (R30) -/

/-- Of entries whose reports came at different times a search for the earliest finds it. -/
theorem foldl_earliest {f : Eph} (l : List Eph) (b : Eph) (hmem : f ∈ b :: l) (hmin : ∀ g ∈ b :: l, g ≠ f → f.liveAt < g.liveAt) :
    l.foldl (fun b e => if e.liveAt < b.liveAt then e else b) b = f := by
  induction l generalizing b with
  | nil => exact (List.mem_singleton.1 hmem).symm
  | cons e l ih =>
    rw [List.foldl_cons]
    by_cases hb : b = f
    · subst hb
      have he : ¬ e.liveAt < b.liveAt := by
        by_cases heb : e = b
        · simp [heb]
        · exact (hmin e (by simp) heb).asymm
      rw [if_neg he]
      exact ih b List.mem_cons_self fun g hg => hmin g (by simp at hg ⊢; tauto)
    · have hfb : f.liveAt < b.liveAt := hmin b List.mem_cons_self hb
      have hfel : f ∈ e :: l := (List.mem_cons.1 hmem).resolve_left (Ne.symm hb)
      split
      · exact ih e hfel fun g hg => hmin g (List.mem_cons_of_mem _ hg)
      case isFalse hlt =>
        have hef : e ≠ f := fun h => hlt (h ▸ hfb)
        refine ih b (List.mem_cons_of_mem _ ((List.mem_cons.1 hfel).resolve_left (Ne.symm hef))) fun g hg => hmin g ?_
        simp at hg ⊢
        tauto

/-- A round asks the entry whose report came earliest, of those that are live, have nothing pending and have not been asked. -/
theorem askNext_eq {s : State} {q : Nat} {f : Eph} (hmem : f ∈ (s.slice q).ephs) (hlive : f.phase = .live)
    (hnothing : nothingPending (s.slice q) f = true) (hasked : (s.slice q).asked.contains f.actor = false)
    (hmin : ∀ g ∈ (s.slice q).ephs, g.phase = .live → nothingPending (s.slice q) g = true → (s.slice q).asked.contains g.actor = false →
      g ≠ f → f.liveAt < g.liveAt) :
    s.askNext q = (s.updSlice q fun x => { x with asking := true, asked := f.actor :: x.asked }).emitOrdered (.activation q f.actor)
      (travel q (quireOf f.core)) (.retireRequest f.core q f.actor) := by
  have hmemf : f ∈ (s.slice q).ephs.filter fun e => e.phase == .live && nothingPending (s.slice q) e && !(s.slice q).asked.contains e.actor :=
    List.mem_filter.2 ⟨hmem, by rw [hlive, hnothing, hasked]; rfl⟩
  unfold askNext
  dsimp only
  split
  case h_1 hnil => exact absurd (hnil ▸ hmemf) List.not_mem_nil
  case h_2 e r hcons =>
    rw [hcons] at hmemf
    rw [foldl_earliest r e hmemf fun g hg => ?_]
    rw [← hcons, List.mem_filter] at hg
    obtain ⟨hg, hcond⟩ := hg
    simp only [Bool.and_eq_true, beq_iff_eq, Bool.not_eq_true'] at hcond
    exact hmin g hg hcond.1.1 hcond.1.2 hcond.2

end State
end Sys2Proof.Machine
end

section
/-! SUPPORT. The next state of each report of a core at a home (R30, R35, R37, R369-R371). -/

namespace Sys2Proof.Machine

open Sys2Proof.Claims

namespace State

section
variable (s : State) (q : Nat) (e : Eph)

@[simp] theorem arrived_setEph : ((s.setEph q e).slice q).arrived = (s.slice q).arrived := by rw [setEph, slice_updSlice]
@[simp] theorem forwards_setEph : ((s.setEph q e).slice q).forwards = (s.slice q).forwards := by rw [setEph, slice_updSlice]
@[simp] theorem edition_setEph : ((s.setEph q e).slice q).edition = (s.slice q).edition := by rw [setEph, slice_updSlice]
@[simp] theorem arrived_freeEph (a : ActorId) : ((s.freeEph q a).slice q).arrived = (s.slice q).arrived := by rw [freeEph, slice_updSlice]

/-- An entry written where nothing has arrived is there after a new round too. -/
theorem eph_newRound_setEph (harrived : (s.slice q).arrived = []) {a : ActorId} (he : e.actor = a) :
    ((s.setEph q e).newRound q).eph q a = some e := by
  rw [newRound_of_arrived_nil (by rw [arrived_setEph, harrived]), eph_updSlice]
  · exact eph_setEph s q a he
  · rfl

end

/-- An entry that is activating and no part of whose ranking has answered orders the first candidate (R35, R37). -/
theorem head?_toAsk_new (s : State) {x : Eph} (e : ClassEntry) (ks : List Nat) (fb : Bool) (hunfit : x.unfit = []) (hrefused : x.refused = []) :
    (s.toAsk x e ks fb).head?.map (·.2) = firstCore s e ks fb := by
  rw [head?_toAsk, hunfit, hrefused]
  simp

theorem reactivate_sent {s u : State} {q core : Nat} {x : Eph} {e : ClassEntry} {ks : List Nat} {fb : Bool} {m : Msg} {r : List Msg}
    (hjudge : s.judgeClass x.actor.part x.actor.ctx x.actor.cls false = (u, .ok e)) (hpend : x.pend = m :: r)
    (hranking : u.rankingOf q x.actor e = .ok (ks, fb)) (hcore : firstCore u e ks fb = some core) :
    Sent (s.reactivate q x) (.activationOrder core (orderOf q x.actor e m)) := by
  rw [reactivate, hjudge]
  exact order_sent (x := { x with phase := .activating, ranking := [], fallback := false, refused := [], unfit := [] }) hranking hpend
    ((head?_toAsk_new u e ks fb rfl rfl).trans hcore)

/-- An order whose candidate has answered goes to the next one (R37, R369). -/
theorem resend_sent {s u : State} {q core c : Nat} {x : Eph} {e : ClassEntry} {note : Nat → Eph → Eph} {m : Msg} {r : List Msg}
    (hentry : s.classEntry x.actor.part x.actor.ctx x.actor.cls.toNat = (u, .ok e)) (hactor : (note (candidateOf e core) x).actor = x.actor)
    (hpend : (note (candidateOf e core) x).pend = m :: r) (hnext : nextCore u q (note (candidateOf e core) x) e = some c) :
    Sent (s.resend q x core note) (.activationOrder c (orderOf q x.actor e m)) := by
  rw [resend, hentry, ← hactor]
  dsimp only
  generalize note (candidateOf e core) x = y at hpend hnext
  unfold nextCore at hnext
  split at hnext
  case h_1 ks fb hranking =>
    exact order_sent (by simpa using hranking) hpend ((head?_toAsk u y e ks fb).trans hnext)
  case h_2 => cases hnext

/-- Messages of no graph node leave one event record when their actor fails (R366-R368, R373). -/
theorem actorFault_eq_report (s : State) (q part ctx : Nat) (c : Cause) {gone : List Msg} (hnode : ∀ m ∈ gone, m.node = 0) :
    ∃ info detail, s.actorFault q part ctx c gone = s.report part (some ctx) EventCode.actorStateFault.byte 0 q info detail :=
  ⟨_, _, foldl_eq_self fun m hm => by rw [hnode m hm]; rfl⟩

end State

/-! ## The reports -/

section
variable {s : State} {q core : Nat} {a : ActorId} {x : Eph} (hx : s.eph q a = some x)
include hx

theorem exec_ready_of_eph {k : Nat} (he : s.ev = .ready q a core k) : exec .ready s =
    .next (((s.setEph q { x with phase := .live, core := core, index := k, pend := [], heads := 0, liveAt := s.now, ranking := [], fallback := false,
                                 refused := [], unfit := [] }).forwardAll q core a (x.pend.drop 1)).newRound q) := by
  simp only [exec_ready, execReady, he, hx]

theorem exec_moved_of_eph {k : Nat} (he : s.ev = .moved q a core k) : exec .moved s =
    .next (((s.setEph q { x with phase := .live, core := core, index := k, pend := [], heads := 0, liveAt := s.now }).forwardAll q core a
      x.pend).newRound q) := by
  simp only [exec_moved, execMoved, he, hx]

theorem exec_activationFault_of_eph {cause : Nat} {code : Byte} (he : s.ev = .activationFault q a core cause code) :
    exec .activationFault s = .next (s.discardQueue q x (cause, code.toNat)) := by
  simp only [exec_activationFault, execActivationFault, he, hx]

theorem exec_refused_order (hphase : x.phase = .activating) (he : s.ev = .refused q a core true) : exec .refused s =
    .next (s.resend q x core fun k x => { x with refused := k :: x.refused }) := by
  simp only [exec_refused, execRefused, he, hx, hphase, if_true]

theorem exec_unfit_order (hphase : x.phase = .activating) (he : s.ev = .unfit q a core) : exec .unfit s =
    .next (s.resend q x core fun k x => { x with unfit := k :: x.unfit }) := by
  simp only [exec_unfit, execUnfit, he, hx, hphase, if_true]

section
variable (hswitch : (s.slice q).switching = false)
include hswitch

omit hx in
theorem holdsReport_of_not_switching (starts : Bool) : s.holdsReport q a starts = false := by
  simp [State.holdsReport, hswitch]

theorem exec_cancel_of_eph {k : Nat} (he : s.ev = .cancel q a core k) : exec .cancel s =
    .next (((s.setEph q { x with phase := .live, core := core, index := k, pend := [], heads := 0 }).forwardAll q core a x.pend).newRound q) := by
  simp [exec_cancel, execCancel, he, hx, holdsReport_of_not_switching hswitch]

theorem exec_retireNotice_live (hlive : x.phase = .live) (he : s.ev = .retireNotice q a core) : exec .retireNotice s =
    .next (s.leaveLive q x .retiring) := by
  simp [exec_retireNotice, execRetireNotice, he, hx, hlive, holdsReport_of_not_switching hswitch]

theorem exec_retired_of_eph (he : s.ev = .retired q a core) : exec .retired s =
    .next (if x.pend.isEmpty then (s.freeEph q a).newRound q else s.reactivate q x) := by
  simp [exec_retired, execRetired, he, hx, holdsReport_of_not_switching hswitch]

end
end

theorem exec_refused_request {s : State} {q core : Nat} {a : ActorId} (hasking : (s.slice q).asking = true) (hswitch : (s.slice q).switching = false)
    (he : s.ev = .refused q a core false) : exec .refused s = .next (s.askNext q) := by
  simp [exec_refused, execRefused, he, hasking, hswitch]

end Sys2Proof.Machine
end

section
/-! PROOF. The reports of cores at homes. -/

namespace Sys2Proof.Proofs

open Sys2Proof.Machine Sys2Proof.Claims

theorem reportsAtHomes : ReportsAtHomes := by
  rintro s q a x hx ⟨harrived, hswitch⟩ rfl
  refine ⟨fun core k hdrop => ?readyAlone, fun core k h m hpend hforwards hroom => ?readyQueued, fun core k hpend => ⟨?moved, ?cancel⟩,
    fun core hlive => ?retireNotice, fun core hpend => ?retired, fun core u e c ks fb m r hpend hjudge hranking hcore => ?again,
    fun core u e c m r => ?next,
    fun core f hasking hmem hlive hnothing hasked hmin => ?request, fun core cause code hnode => ?fault⟩
  case readyAlone =>
    refine does_of_exec (exec_ready_of_eph hx) ?_
    rw [hdrop]
    exact State.eph_newRound_setEph s q _ harrived rfl
  case readyQueued =>
    refine does_of_exec (exec_ready_of_eph hx) ?_
    rw [hpend]
    generalize hy : Eph.mk .. = y
    have hheld : holdsFor (s.setEph q y) q core x.actor m.high = false := by rw [holdsFor, State.forwards_setEph, hforwards]; rfl
    have hroom' : State.coreRoom ((s.setEph q y).core core) m.high = true := hroom
    have hsent := State.forward_of_room_sent hroom' hheld
    have harrived' : (((s.setEph q y).forward q core x.actor m).slice q).arrived = [] := by
      rw [State.slice_congr (State.forward_of_room_slices hroom' hheld), State.arrived_setEph, harrived]
    rw [carried, State.edition_setEph] at hsent
    change Sent (((s.setEph q y).forward q core x.actor m).newRound q) _
    rw [State.newRound_of_arrived_nil harrived']
    exact hsent
  case moved =>
    refine does_of_exec (exec_moved_of_eph hx) ?_
    rw [hpend]
    exact State.eph_newRound_setEph s q _ harrived rfl
  case cancel =>
    refine does_of_exec (exec_cancel_of_eph hx hswitch) ?_
    rw [hpend]
    exact State.eph_newRound_setEph s q _ harrived rfl
  case retireNotice =>
    refine does_of_exec (exec_retireNotice_live hx hswitch hlive) ⟨State.eph_setEph _ q _ rfl, ?_⟩
    rw [State.leaveLive, State.forwards_setEph, State.slice_updSlice]
  case retired =>
    refine does_of_exec (exec_retired_of_eph hx hswitch) ?_
    rw [hpend, List.isEmpty_nil, if_pos rfl, State.newRound_of_arrived_nil (by rw [State.arrived_freeEph, harrived]), State.eph_updSlice]
    · exact State.eph_freeEph s q x.actor
    · rfl
  case again =>
    refine does_of_exec (exec_retired_of_eph hx hswitch) ?_
    rw [hpend, List.isEmpty_cons, if_neg Bool.false_ne_true]
    exact State.reactivate_sent hjudge hpend hranking hcore
  case next =>
    intro k hphase hpend hentry
    exact ⟨fun hnext => does_of_exec (exec_refused_order hx hphase) (State.resend_sent hentry rfl hpend hnext),
      fun hnext => does_of_exec (exec_unfit_order hx hphase) (State.resend_sent hentry rfl hpend hnext)⟩
  case request =>
    refine does_of_exec (exec_refused_request hasking hswitch) ?_
    rw [State.askNext_eq hmem hlive hnothing hasked hmin]
    exact ⟨_, List.mem_append_right _ List.mem_cons_self⟩
  case fault =>
    refine does_of_exec (exec_activationFault_of_eph hx) ?_
    obtain ⟨info, detail, hfault⟩ := State.actorFault_eq_report (s.freeEph q x.actor) q x.actor.part x.actor.ctx (cause, code.toNat) hnode
    obtain ⟨m, hreport⟩ := State.report_eq (s.freeEph q x.actor) x.actor.part (some x.actor.ctx) EventCode.actorStateFault.byte 0 q info detail
    rw [State.discardQueue, hfault, hreport]
    refine ⟨(State.eph_congr (s := s.freeEph q x.actor) rfl q x.actor).trans (State.eph_freeEph s q x.actor), ?_⟩
    exact (congrArg Partition.evCnt (State.partition_setPartition _ _ _) :)

end Sys2Proof.Proofs
end

section
/-! SUPPORT. Writes of EXPCAP (R313) and close requests (R282, R315). -/

namespace Sys2Proof.Machine

open Sys2Proof.Claims

/-! ## EXPCAP (R313) -/

theorem getLsbD_expcap_en (v : Word) : expEn (v &&& 0x9FFFFFFFFFFFFFFF) = v.getLsbD 63 := by
  simp [expEn]

/-- Without EN the other bits that EXPCAP takes are those below it. -/
theorem expcap_masked_of_disabled {v : Word} (hen : v.getLsbD 63 = false) : v &&& 0x9FFFFFFFFFFFFFFF = v &&& 0x1FFFFFFFFFFFFFFF := by
  have hmask : (0x9FFFFFFFFFFFFFFF : Word) = 0x1FFFFFFFFFFFFFFF ||| BitVec.twoPow 64 63 := rfl
  rw [hmask, BitVec.and_or_distrib_left, BitVec.and_twoPow, hen]
  simp

/-- The header's VA lies in the base that EXPCAP's low bits give (R312). -/
theorem expHeader_masked (v : Word) : expHeader (v &&& 0x9FFFFFFFFFFFFFFF) = v.toNat % 2 ^ 36 * 2 ^ 21 + 0x1FF800 := by
  have hlow : (v &&& 0x9FFFFFFFFFFFFFFF).toNat % 2 ^ 36 = v.toNat % 2 ^ 36 := by
    rw [BitVec.toNat_and, Nat.and_mod_two_pow]
    exact Nat.and_two_pow_sub_one_of_lt_two_pow (n := 36) (Nat.mod_lt _ (by decide))
  rw [expHeader, expBase, Bits.get_low, hlow]

theorem State.handExperts_disabled {s : State} {part ctx : Nat} (hen : expEn (s.context part ctx).expcap = false) :
    s.handExperts part ctx = s := by
  simp [State.handExperts, hen]

theorem State.expcap_updContext (s : State) (part ctx : Nat) (v : Word) :
    ((s.updContext part ctx fun x => { x with expcap := v }).context part ctx).expcap = v :=
  (congrArg Context.expcap (State.context_setContext _ _ _ _) :)

section
variable {s : State} {part ctx : Nat} {val : Word} (he : s.ev = .expcapWrite part ctx val)
include he

theorem exec_expcapWrite_disabled (hen : val.getLsbD 63 = false) :
    exec .expcapWrite s = .next (s.updContext part ctx fun x => { x with expcap := val &&& 0x1FFFFFFFFFFFFFFF }) := by
  have hoff : expEn (val &&& 0x9FFFFFFFFFFFFFFF) = false := (getLsbD_expcap_en val).trans hen
  simp only [exec_expcapWrite, execExpcapWrite, he]
  rw [State.handExperts_disabled (by rw [State.expcap_updContext, hoff]), expcap_masked_of_disabled hen]

/-- With EN the class and the fallback field of the capacity header reach the homes. -/
theorem exec_expcapWrite_enabled {u : State} {h : Nat} (hen : val.getLsbD 63 = true)
    (hword : (s.updContext part ctx fun x => { x with expcap := val &&& 0x9FFFFFFFFFFFFFFF }).unitWord part ctx
      (val.toNat % 2 ^ 36 * 2 ^ 21 + 0x1FF800) 4 = (u, .ok h)) :
    exec .expcapWrite s = .next (u.updContext part ctx fun x => { x with expert := some (BitVec.ofNat 16 h, BitVec.ofNat 16 (h / 65536)) }) := by
  simp only [exec_expcapWrite, execExpcapWrite, he, State.handExperts, State.expcap_updContext, getLsbD_expcap_en, hen, if_true, expHeader_masked, hword]

end

/-! ## Close requests (R282, R315) -/

/-- The message that answers a close request (R315). -/
def closeAnswer (s : State) (part ctx layer : Nat) (closes : Word) : Msg :=
  { cls := 0, type := 0, flags := 0, key := 0, score := 0x300, sstrand := 0xFE, plen := 2, chseq := 0,
    edition := (s.partition part).edition.setWidth 16, pcx := pcxOf part ctx 0, payload := [BitVec.ofNat 64 layer, closes], node := 0 }

section
variable {s : State} {part ctx layer : Nat} {reply : Option (Nat × Nat × Nat)}

/-- A request that arrives while another is under way waits, with EXPCAP as it is now. -/
theorem exec_closeRequest_busy (hbusy : s.now < s.capBusy) (he : s.ev = .closeRequest part ctx layer reply none) : exec .closeRequest s =
    .next { s with capBusy := s.capBusy + 1624
                   sent := s.sent ++ [(s.capBusy, .closeRequest part ctx layer reply (some (s.context part ctx).expcap))] } := by
  have hbegun : max s.now s.capBusy = s.capBusy := max_eq_right hbusy.le
  have hdue : s.now + (s.capBusy - s.now) = s.capBusy := by omega
  simp [exec_closeRequest, execCloseRequest, he, hbegun, hbusy, State.emit, hdue]

section
variable {held : Option Word} {u : State} {n : Word} (hfree : held.isSome = true ∨ s.capBusy ≤ s.now)
  (hclose : s.closeLayer (held.getD (s.context part ctx).expcap) part ctx layer = (u, n))
include hfree hclose

/-- A close request closes its layer, and the strand that asks for an answer has it written as a reply. -/
theorem exec_closeRequest_free (he : s.ev = .closeRequest part ctx layer reply held) : exec .closeRequest s =
    .next (reply.elim { u with capBusy := max s.capBusy (s.now + 1624) } fun r =>
      State.emitNet { u with capBusy := max s.capBusy (s.now + 1624) } (1624 + toBase (quireOf r.1))
        (.postedStoreApply { src := r.1, idx := none, part := part, target := r.1,
                             data := (closeAnswer s part ctx layer n).line.zipIdx.map fun (b : Byte × Nat) => (b.2, b.1), setFull := true,
                             reply := some r.2, edition := (s.partition part).edition })) := by
  have hbegins : ¬(held.isNone && decide (s.now < max s.now s.capBusy)) = true := by
    cases held <;> simp at hfree ⊢
    omega
  rw [exec_closeRequest, execCloseRequest]
  split
  case h_1 hev =>
    cases he.symm.trans hev
    rw [if_neg hbegins, hclose]
    cases reply <;> rfl
  case h_2 hother => exact absurd he (hother _ _ _ _ _)

end
end

/-- Word `j` of words that stand as bytes one after the other. -/
theorem take_drop_words {l : List Word} (rest : List Byte) {j : Nat} (hj : j < l.length) :
    (((l.flatMap fun (w : Word) => Bytes.ofNat 8 w.toNat) ++ rest).drop (8 * j)).take 8 = Bytes.ofNat 8 l[j].toNat := by
  induction l generalizing j with
  | nil => exact absurd hj (Nat.not_lt_zero _)
  | cons w l ih =>
    rw [List.flatMap_cons, List.append_assoc]
    cases j with
    | zero => exact List.take_left' (Bytes.length_ofNat 8 _)
    | succ j =>
      rw [Nat.mul_succ, Nat.add_comm, ← List.drop_drop, List.drop_left' (Bytes.length_ofNat 8 _)]
      exact ih (Nat.lt_of_succ_lt_succ hj)

/-- Word `j` of a message's payload stands at byte 32 + 8·j of its line (R26). -/
theorem Msg.payload_of_line {m : Msg} {j : Nat} (hj : j < m.payload.length) (hmax : j < 28) :
    Bytes.toNat ((m.line.drop (32 + 8 * j)).take 8) = m.payload[j].toNat := by
  have hheader : (Bytes.ofNat 2 m.cls.toNat ++ [m.type, m.flags] ++ Bytes.ofNat 16 m.key.toNat ++ Bytes.ofNat 2 m.score.toNat ++
      [m.sstrand, m.plen] ++ Bytes.ofNat 4 m.chseq.toNat ++ Bytes.ofNat 2 m.edition.toNat ++ Bytes.ofNat 2 m.pcx.toNat).length = 32 := by
    simp
  rw [Msg.line, ← List.drop_drop, List.drop_left' hheader, List.drop_take, List.take_take, min_eq_left (by omega), take_drop_words _ hj,
    Bytes.toNat_ofNat]
  exact Nat.mod_eq_of_lt m.payload[j].isLt

end Sys2Proof.Machine
end

section
/-! PROOF. The reports of cores at homes, and the expert capacity. -/

namespace Sys2Proof.Proofs

open Sys2Proof.Machine Sys2Proof.Claims

theorem capacityEvents : CapacityEvents := by
  intro s part ctx
  refine ⟨fun val hen => ?disabled, fun val u h => ?enabled, fun layer rep hbusy => ?busy, fun layer held u n hfree hclose => ⟨?unanswered, ?answered⟩⟩
  case disabled => exact does_of_exec (exec_expcapWrite_disabled · hen) rfl
  case enabled =>
    intro s1 hen hword
    exact does_of_exec (exec_expcapWrite_enabled · hen hword) (congrArg Context.expert (State.context_setContext _ _ _ _) :)
  case busy => exact does_of_exec (exec_closeRequest_busy hbusy) rfl
  case unanswered => exact does_of_exec (exec_closeRequest_free hfree hclose) rfl
  case answered =>
    intro core slot serial
    refine does_of_exec (exec_closeRequest_free hfree hclose) ⟨_, ⟨_, List.mem_append_right _ List.mem_cons_self⟩, rfl, rfl, rfl, ?_⟩
    have hdata (l : List Byte) : (l.zipIdx.map fun (b : Byte × Nat) => (b.2, b.1)).map (·.2) = l := by
      simp [List.map_map, Function.comp_def]
    rw [hdata]
    exact ⟨(Msg.payload_of_line (m := closeAnswer s part ctx layer n) (j := 0) Nat.zero_lt_two (by decide)).trans (BitVec.toNat_ofNat layer 64),
      Msg.payload_of_line (m := closeAnswer s part ctx layer n) (j := 1) Nat.one_lt_two (by decide)⟩

/-- Settles O35: the reports of cores (`reportsAtHomes`), and the expert capacity (`capacityEvents`). -/
theorem reportsAndCapacity : Obligations.ReportsAndCapacity := ⟨reportsAtHomes, capacityEvents⟩

end Sys2Proof.Proofs
end

section
/-! SUPPORT. Messages that arrive at a home (R30, R35, R42, R45, R329, R350): which wait, and what acceptance does with the one that does not. -/

namespace Sys2Proof.Machine

open Sys2Proof.Claims

namespace State

/-! ## What an update of a slice leaves -/

section
variable {s : State} {q : Nat} {f g : Slice → Slice}

theorem updSlice_congr (h : f (s.slice q) = g (s.slice q)) : s.updSlice q f = s.updSlice q g := by
  rw [updSlice, updSlice, h]

theorem needsEntry_updSlice (hf : (f (s.slice q)).ephs = (s.slice q).ephs) (p : Packet) :
    (s.updSlice q f).needsEntry q p = s.needsEntry q p := by
  rw [needsEntry, needsEntry, eph_updSlice s q _ hf, slice_updSlice, hf]

theorem heldForSwitch_updSlice (hephs : (f (s.slice q)).ephs = (s.slice q).ephs) (hswitch : (f (s.slice q)).switching = (s.slice q).switching)
    (p : Packet) : (s.updSlice q f).heldForSwitch q p = s.heldForSwitch q p := by
  rw [heldForSwitch, heldForSwitch, eph_updSlice s q _ hephs, slice_updSlice, hswitch]

end

/-! ## One message that has arrived -/

theorem acceptNext_of_none {s : State} {q : Nat} (h : (s.slice q).lookedAt = some s.now ∨ s.acceptable q = none) : s.acceptNext q = s := by
  unfold acceptNext
  obtain hlooked | hnone := h
  · rw [if_pos hlooked]
  · simp only [hnone, ite_self]

theorem startRound_of_unwanted {s : State} {q : Nat} (h : (s.slice q).switching = true ∨ s.entryWanted q = false) : s.startRound q = s := by
  unfold startRound
  rw [if_neg]
  obtain hswitch | hwanted := h
  · simp [hswitch]
  · simp [hwanted]

section
variable {s : State} {q : Nat} {p : Packet} (harrived : (s.slice q).arrived = [p])
include harrived

/-- The one message that has arrived is accepted if it is the next of its channel, finds an entry and need not wait for the switch. -/
theorem acceptable_of_arrived_singleton : s.acceptable q =
    if storeLines (s.slice q) < 256 ∧ p.msg.chseq.toNat = nextOf (s.slice q) p.sender ∧ s.needsEntry q p = false ∧ s.heldForSwitch q p = false then some p
    else none := by
  unfold acceptable
  simp only [harrived]
  by_cases hroom : storeLines (s.slice q) < 256
  · rw [if_neg (by omega), List.find?_singleton]
    exact if_congr (by simp [hroom, and_assoc]) rfl rfl
  · rw [if_pos (by omega), if_neg (by simp [hroom])]

theorem entryWanted_of_arrived_singleton : s.entryWanted q =
    (p.msg.chseq.toNat == nextOf (s.slice q) p.sender && s.needsEntry q p) := by
  simp [entryWanted, harrived]

/-- A message that may not be accepted waits, and starts no round unless it wants an entry. -/
theorem acceptAll_of_waits (hlater : (s.slice q).lookedAt = some s.now ∨ s.heldForSwitch q p = true ∨ p.msg.chseq.toNat ≠ nextOf (s.slice q) p.sender)
    (hround : (s.slice q).switching = true ∨ p.msg.chseq.toNat ≠ nextOf (s.slice q) p.sender ∨ s.needsEntry q p = false) : s.acceptAll q = s := by
  have hnext : s.acceptNext q = s := by
    refine acceptNext_of_none ?_
    rw [acceptable_of_arrived_singleton harrived]
    obtain hlooked | hheld | hchannel := hlater
    · exact .inl hlooked
    · exact .inr (if_neg (by simp [hheld]))
    · exact .inr (if_neg (by simp [hchannel]))
  rw [acceptAll, hnext, startRound_of_unwanted]
  rw [entryWanted_of_arrived_singleton harrived]
  obtain hswitch | hchannel | hentry := hround
  · exact .inl hswitch
  · exact .inr (by simp [hchannel])
  · exact .inr (by simp [hentry])

end

/-! ## Acceptance -/

/-- A pulse leaves the expert class that a context's homes hold. -/
theorem expert_acknowledge (s : State) (p : Packet) :
    ((s.acknowledge p).context p.part p.ctx).expert = (s.context p.part p.ctx).expert := by
  have hpulse (t : State) (ht : t.contexts = s.contexts) : ((t.pulse p.part p.ctx).context p.part p.ctx).expert = (s.context p.part p.ctx).expert := by
    rw [pulse, updContext, context_setContext, context, ht]
    rfl
  refine hpulse _ ?_
  split <;> rfl

theorem accept_of_no_expert {s : State} {q : Nat} {p : Packet} (hexpert : (s.context p.part p.ctx).expert = none) :
    s.accept q p = s.judgedDeliver q p (actorOf p) := by
  simp only [accept, hexpert]

theorem judgedDeliver_faulty {s v : State} {q : Nat} {p : Packet} {a : ActorId} {c : Cause} (hjudge : s.judge p.part p.ctx p.msg = (v, .error c)) :
    s.judgedDeliver q p a = v.actorFault q p.part p.ctx c [p.msg] := by
  simp only [judgedDeliver, hjudge]

theorem judgedDeliver_good {s v : State} {q : Nat} {p : Packet} {a : ActorId} {e : ClassEntry} {pc : Word}
    (hjudge : s.judge p.part p.ctx p.msg = (v, .ok (e, pc))) (hexpert : (v.context p.part p.ctx).expert = none) :
    s.judgedDeliver q p a = v.deliver q a { p.msg with pc := pc } e := by
  simp only [judgedDeliver, hjudge, routeRow, hexpert]

section
variable {s : State} {q : Nat} {a : ActorId} {m : Msg} {e : ClassEntry}

/-- A message for an actor that is not live joins its queue (R35). -/
theorem deliver_waits {x : Eph} (hx : s.eph q a = some x) (hphase : x.phase ≠ .live) :
    s.deliver q a m e = s.setEph q { x with pend := x.pend ++ [m] } := by
  simp only [deliver, hx]

theorem deliver_live {x : Eph} (hx : s.eph q a = some x) (hphase : x.phase = .live) : s.deliver q a m e = s.forward q x.core a m := by
  simp only [deliver, hx, hphase]

theorem deliver_new (hx : s.eph q a = none) : s.deliver q a m e = s.order q (Eph.fresh a [m] 0) e := by
  simp only [deliver, hx]

/-- A new actor's order and its entry (R35, R37). -/
theorem order_fresh {ks : List Nat} {fb : Bool} {core : Nat} (hranking : s.rankingOf q a e = .ok (ks, fb)) (hcore : firstCore s e ks fb = some core) :
    let t := s.order q (Eph.fresh a [m] 0) e
    Sent t (.activationOrder core (orderOf q a e m)) ∧ (t.slice q).arrived = (s.slice q).arrived ∧
      t.eph q a = some { actor := a, phase := .activating, core := core, index := 0, pend := [m], heads := 0, ranking := ks, fallback := fb,
                         refused := [], unfit := [], liveAt := 0 } := by
  have hask := (head?_toAsk_new s (x := Eph.fresh a [m] 0) e ks fb rfl rfl).trans hcore
  refine ⟨order_sent (x := Eph.fresh a [m] 0) hranking rfl hask, ?_⟩
  rw [order_eq (x := Eph.fresh a [m] 0) hranking rfl hask, slice_congr (emitOrdered_slices ..), eph_congr (emitOrdered_slices ..)]
  generalize hy : Eph.mk .. = y
  obtain ⟨hephs, harrived⟩ := noteChosen_ephs (s.setEph q y) q (Eph.fresh a [m] 0).actor e fb core
  refine ⟨harrived.trans (arrived_setEph s q y), ?_⟩
  have hfound : (s.setEph q y).eph q a = some y := eph_setEph s q a (by rw [← hy]; rfl)
  rw [eph, hephs]
  refine hfound.trans ?_
  rw [← hy]
  simp [Eph.fresh]

end

end State

/-! ## The events -/

theorem Eph.phase_cases (x : Eph) : x.phase = .live ∨ x.phase = .activating ∨ x.phase = .retiring ∨ x.phase = .moving := by
  cases x.phase <;> simp

section
variable {s : State} {q : Nat} {p : Packet}

/-- A packet of another package whose partition does not take it is dropped (R350). -/
theorem exec_messageAccept_dropped {k : Nat} {m n : Nat} (hfar : p.sender = .far k m n) (hnot : s.takesPackets p.part = false)
    (he : s.ev = .messageAccept q p) : exec .messageAccept s = .next s := by
  simp [exec_messageAccept, execMessageAccept, he, hfar, hnot]

theorem exec_messageAccept_taken (htakes : TakesFrom s p) (he : s.ev = .messageAccept q p) :
    exec .messageAccept s = .next ((s.updSlice q fun x => { x with arrived := x.arrived ++ [p] }).acceptAll q) := by
  simp only [exec_messageAccept, execMessageAccept, he]
  cases hsender : p.sender with
  | far k m n => simp [htakes k m n hsender]
  | _ => simp

section
variable (htakes : TakesFrom s p) (harrived : (s.slice q).arrived = [])
include htakes harrived

/-- A message that may not be accepted now waits as it arrived. -/
theorem exec_messageAccept_waits
    (hlater : (s.slice q).lookedAt = some s.now ∨ s.heldForSwitch q p = true ∨ p.msg.chseq.toNat ≠ State.nextOf (s.slice q) p.sender)
    (hround : (s.slice q).switching = true ∨ p.msg.chseq.toNat ≠ State.nextOf (s.slice q) p.sender ∨ s.needsEntry q p = false)
    (he : s.ev = .messageAccept q p) :
    exec .messageAccept s = .next (s.updSlice q fun x => { x with arrived := x.arrived ++ [p] }) := by
  rw [exec_messageAccept_taken htakes he, State.acceptAll_of_waits (p := p)]
  · rw [State.slice_updSlice, harrived]; rfl
  · rw [State.slice_updSlice, State.heldForSwitch_updSlice (by rfl) (by rfl)]; exact hlater
  · rw [State.slice_updSlice, State.needsEntry_updSlice (by rfl)]; exact hround

/-- The next message of its channel is taken in this cycle's lookup and judged (R329, R368). -/
theorem exec_messageAccept_judged (hlooked : (s.slice q).lookedAt ≠ some s.now) (hswitch : (s.slice q).switching = false)
    (hnext : p.msg.chseq.toNat = State.nextOf (s.slice q) p.sender) (hentry : s.needsEntry q p = false) (hroom : State.storeLines (s.slice q) < 256)
    (hexpert : (s.context p.part p.ctx).expert = none) (he : s.ev = .messageAccept q p) :
    exec .messageAccept s = .next (((taken s q p).judgedDeliver q p (actorOf p)).startRound q) := by
  rw [exec_messageAccept_taken htakes he]
  generalize hs1 : (s.updSlice q fun x => { x with arrived := x.arrived ++ [p] }) = s1
  have hslice : s1.slice q = { s.slice q with arrived := [p] } := by rw [← hs1, State.slice_updSlice, harrived]; rfl
  have hheld : s1.heldForSwitch q p = false := by rw [State.heldForSwitch, hslice, hswitch]; rfl
  have hentry1 : s1.needsEntry q p = false := by rw [← hs1, State.needsEntry_updSlice (by rfl), hentry]
  have hacceptable : s1.acceptable q = some p := by
    rw [State.acceptable_of_arrived_singleton (by rw [hslice]), if_pos]
    rw [hslice]
    exact ⟨hroom, hnext, hentry1, hheld⟩
  have htaken : (s1.updSlice q fun x =>
      { x with arrived := x.arrived.erase p, lookedAt := some s1.now
               nextSeq := (p.sender, (p.msg.chseq.toNat + 1) % 2 ^ 32) :: x.nextSeq.filter fun c => c.1 != p.sender }).acknowledge p = taken s q p := by
    rw [← hs1, State.updSlice_updSlice, taken]
    congr 1
    refine State.updSlice_congr ?_
    rw [harrived]
    simp
  have hnow : (s1.slice q).lookedAt ≠ some s1.now := by rw [hslice, ← hs1]; exact hlooked
  rw [State.acceptAll, State.acceptNext, if_neg hnow, hacceptable]
  dsimp only
  rw [htaken, State.accept_of_no_expert]
  rw [taken, State.expert_acknowledge]
  exact hexpert

end

section
variable {x : Eph} (hx : s.eph q (actorOf p) = some x)
include hx

/-- A returned message goes on to an actor that is live again. -/
theorem exec_bouncedMessage_live (hphase : x.phase = .live) (he : s.ev = .bouncedMessage q p) :
    exec .bouncedMessage s = .next (s.forward q x.core (actorOf p) p.msg) := by
  simp only [exec_bouncedMessage, execBouncedMessage, he, hx, hphase]

/-- Before an activation it goes behind the message that the order carries. -/
theorem exec_bouncedMessage_activating (hphase : x.phase = .activating) (he : s.ev = .bouncedMessage q p) :
    exec .bouncedMessage s = .next (s.setEph q ({ x with heads := max 1 x.heads }.putBack p.msg)) := by
  simp only [exec_bouncedMessage, execBouncedMessage, he, hx, hphase]

/-- Of an actor that leaves its core it waits by the head rule (R35). -/
theorem exec_bouncedMessage_leaving (hphase : x.phase = .retiring ∨ x.phase = .moving) (he : s.ev = .bouncedMessage q p) :
    exec .bouncedMessage s = .next (s.setEph q (x.putBack p.msg)) := by
  obtain hphase | hphase := hphase <;> simp only [exec_bouncedMessage, execBouncedMessage, he, hx, hphase]

end

/-- A returned message whose actor has no entry any more activates it (R35). -/
theorem exec_bouncedMessage_new (hx : s.eph q (actorOf p) = none) (hswitch : (s.slice q).switching = false) (he : s.ev = .bouncedMessage q p) :
    exec .bouncedMessage s = .next (s.reactivate q (Eph.fresh (actorOf p) [p.msg] 1)) := by
  simp [exec_bouncedMessage, execBouncedMessage, he, hx, holdsReport_of_not_switching hswitch]

/-- A round that is due now, for a message that waits, asks with none asked yet (R30). -/
theorem exec_entryFreeRound_due (harrived : (s.slice q).arrived = [p]) (hasking : (s.slice q).asking = false) (hswitch : (s.slice q).switching = false)
    (hdue : (s.slice q).roundAt = some s.now) (hnext : p.msg.chseq.toNat = State.nextOf (s.slice q) p.sender) (hentry : s.needsEntry q p = true)
    (he : s.ev = .entryFreeRound q) :
    exec .entryFreeRound s = .next ((s.updSlice q fun x => { x with roundAt := none, asked := [] }).askNext q) := by
  have hstays : s.acceptNext q = s := State.acceptNext_of_none (.inr (by
    rw [State.acceptable_of_arrived_singleton harrived, if_neg]
    simp [hentry]))
  have hwanted : (s.updSlice q fun x => { x with roundAt := none }).entryWanted q = true := by
    rw [State.entryWanted_of_arrived_singleton (p := p) (by rw [State.slice_updSlice]; exact harrived), State.needsEntry_updSlice (by rfl), hentry,
      State.slice_updSlice, hnext]
    exact (Bool.and_true _).trans (beq_self_eq_true _)
  simp [exec_entryFreeRound, execEntryFreeRound, he, hstays, hdue, hwanted, hasking, hswitch]

/-- A core with room again takes the one message that its home holds, which leaves nothing held (R45). -/
theorem exec_heldMessageForward_one {core : Nat} {high : Bool} {f : Forward} (harrived : (s.slice q).arrived = []) (hforwards : (s.slice q).forwards = [f])
    (hcore : f.core = core) (hroom : State.coreRoom (s.core core) f.msg.high = true) (he : s.ev = .heldMessageForward q core high) :
    ∃ t, exec .heldMessageForward s = .next t ∧ (t.slice q).forwards = [] ∧ Sent t (.messageAtCore core q f.actor (carried s q f.msg)) := by
  subst hcore
  generalize hs1 : (s.updSlice q fun x => { x with forwards := [] }) = s1
  have hslice : s1.slice q = { s.slice q with forwards := [] } := by rw [← hs1, State.slice_updSlice]
  have hrelease : s.releaseHeldMessages q f.core = s1.forward q f.core f.actor f.msg := by
    simp [State.releaseHeldMessages, hforwards, hs1]
  have hheld : holdsFor s1 q f.core f.actor f.msg.high = false := by rw [holdsFor, hslice]; rfl
  have hroom1 : State.coreRoom (s1.core f.core) f.msg.high = true := by rw [← hs1]; exact hroom
  have hslices := State.slice_congr (State.forward_of_room_slices (a := f.actor) hroom1 hheld) q
  have hsent := State.forward_of_room_sent hroom1 hheld
  rw [carried, hslice] at hsent
  have harrived1 : ((s1.forward q f.core f.actor f.msg).slice q).arrived = [] := by rw [hslices, hslice]; exact harrived
  simp only [exec_heldMessageForward, execHeldMessageForward, he, hrelease]
  split
  · refine ⟨_, rfl, ?_⟩
    rw [State.newRound_of_arrived_nil harrived1, State.slice_updSlice, hslices, hslice]
    exact ⟨rfl, hsent⟩
  · refine ⟨_, rfl, ?_⟩
    rw [State.acceptAll_of_arrived_nil harrived1, hslices, hslice]
    exact ⟨rfl, hsent⟩

end

end Sys2Proof.Machine
end

section
/-! PROOF. Messages at homes. -/

namespace Sys2Proof.Proofs

open Sys2Proof.Machine Sys2Proof.Claims

/-- Settles O33: of a message that arrives alone the lookup, its channel and its entry decide whether it waits or is judged, and of one that is
accepted the entry decides where it goes. -/
theorem messagesAtHomes : Obligations.MessagesAtHomes := by
  intro s q
  refine ⟨fun p k m n hfar hnot => ?dropped, fun p htakes harrived hlooked hentry => ?lookedUp, fun p htakes harrived hswitch hx => ?switching,
    fun p htakes harrived hchannel => ?outOfTurn,
    fun p v c htakes hlooked hidle hnext hentry hroom hexpert hjudge hvidle hnode => ?faulty,
    fun p v e pc htakes hlooked hidle hnext hentry hroom hexpert hjudge hvidle hvexpert => ?good, fun p x hx => ?bounced,
    fun p u e ks fb core => ?bouncedNew,
    fun p f harrived hasking hswitch hdue hnext hentry hmem hlive hnothing hmin => ?round,
    fun core high f hidle hforwards hcore hroom => ?held⟩
  case dropped => exact does_of_exec (exec_messageAccept_dropped hfar hnot) rfl
  case lookedUp => exact does_of_exec (exec_messageAccept_waits htakes harrived (.inl hlooked) (.inr (.inr hentry))) rfl
  case switching =>
    have hheld : s.heldForSwitch q p = true := by rw [State.heldForSwitch, hswitch, hx]; rfl
    exact does_of_exec (exec_messageAccept_waits htakes harrived (.inr (.inl hheld)) (.inl hswitch)) rfl
  case outOfTurn => exact does_of_exec (exec_messageAccept_waits htakes harrived (.inr (.inr hchannel)) (.inr (.inl hchannel))) rfl
  case faulty =>
    obtain ⟨harrived, hswitch⟩ := hidle
    obtain ⟨hvarrived, -⟩ := hvidle
    refine does_of_exec (exec_messageAccept_judged htakes harrived hlooked hswitch hnext hentry hroom hexpert) ?_
    obtain ⟨info, detail, hfault⟩ := State.actorFault_eq_report v q p.part p.ctx c (gone := [p.msg]) (by simpa using hnode)
    obtain ⟨m, hreport⟩ := State.report_eq v p.part (some p.ctx) EventCode.actorStateFault.byte 0 q info detail
    rw [State.judgedDeliver_faulty hjudge, hfault, hreport, State.startRound_of_arrived_nil]
    · exact ⟨rfl, (congrArg Partition.evCnt (State.partition_setPartition _ _ _) :)⟩
    · exact hvarrived
  case good =>
    intro a m
    obtain ⟨harrived, hswitch⟩ := hidle
    obtain ⟨hvarrived, -⟩ := hvidle
    refine does_of_exec (exec_messageAccept_judged htakes harrived hlooked hswitch hnext hentry hroom hexpert) ?_
    rw [State.judgedDeliver_good hjudge hvexpert]
    refine ⟨fun x hx hphase => ?_, fun x hx hphase hfree hheld => ?_, fun x hx hphase hfull => ?_, fun ks fb core hx hranking hcore => ?_⟩
    · rw [State.deliver_waits hx hphase, State.startRound_of_arrived_nil (by rw [State.arrived_setEph, hvarrived])]
    · rw [State.deliver_live hx hphase, State.startRound_of_arrived_nil]
      · exact State.forward_of_room_sent hfree hheld
      · rw [State.slice_congr (State.forward_of_room_slices hfree hheld), hvarrived]
    · rw [State.deliver_live hx hphase, State.forward_of_full hfull, State.startRound_of_arrived_nil]
      rw [State.slice_updSlice, hvarrived]
    · obtain ⟨hsent, harrived', heph⟩ := State.order_fresh (m := m) hranking hcore
      rw [State.deliver_new hx, State.startRound_of_arrived_nil (harrived'.trans hvarrived)]
      exact ⟨hsent, heph⟩
  case bounced =>
    obtain hphase | hphase | hphase := x.phase_cases
    · refine does_of_exec (exec_bouncedMessage_live hx hphase) ⟨by simp [hphase], by simp [hphase], fun _ hroom hheld => ?_⟩
      exact State.forward_of_room_sent hroom hheld
    · exact does_of_exec (exec_bouncedMessage_activating hx hphase) ⟨by simp [hphase], fun _ => rfl, by simp [hphase]⟩
    · refine does_of_exec (exec_bouncedMessage_leaving hx hphase) ⟨fun _ => rfl, ?_, ?_⟩ <;>
        obtain hphase | hphase := hphase <;> simp [hphase]
  case bouncedNew =>
    intro a hx hswitch hjudge hranking hcore
    exact does_of_exec (exec_bouncedMessage_new hx hswitch)
      (State.reactivate_sent (x := Eph.fresh a [p.msg] 1) hjudge rfl hranking hcore)
  case round =>
    refine does_of_exec (exec_entryFreeRound_due harrived hasking hswitch hdue hnext hentry) ?_
    generalize hs1 : (s.updSlice q fun x => { x with roundAt := none, asked := [] }) = s1
    have hslice : s1.slice q = { s.slice q with roundAt := none, asked := [] } := by rw [← hs1, State.slice_updSlice]
    rw [State.askNext_eq (f := f) (by rw [hslice]; exact hmem) hlive (by rw [hslice]; exact hnothing) (by rw [hslice]; rfl)
      fun g hg hglive hgnothing _ => hmin g (by rw [hslice] at hg; exact hg) hglive (by rw [hslice] at hgnothing; exact hgnothing)]
    refine ⟨⟨_, List.mem_append_right _ List.mem_cons_self⟩, ?_⟩
    rw [State.slice_congr (State.emitOrdered_slices ..), State.slice_updSlice]
  case held =>
    obtain ⟨harrived, -⟩ := hidle
    exact exec_heldMessageForward_one harrived hforwards hcore hroom

end Sys2Proof.Proofs
end

section
/-! SUPPORT. What the operations that start strands leave (R51, R81, R89): of each core all but its strands and its lines, and of the strand that
starts all but the copy of its constant window. -/

namespace Sys2Proof.Machine

open Sys2Proof.Claims

namespace State

/-! ## All of a core but its strands and its lines -/

/-- A core without its strands, the lines of its L1 and the fills under way. -/
def settled (c : Core) : Core := { bare c with l1 := [], fills := [] }

/-- Every core of `t` is as in `s` but for its strands and its lines. -/
def CoresKept (s t : State) : Prop := ∀ k, settled (t.core k) = settled (s.core k)

theorem CoresKept.refl (s : State) : CoresKept s s := fun _ => rfl

theorem CoresKept.trans {s t u : State} (hst : CoresKept s t) (htu : CoresKept t u) : CoresKept s u := fun k => (htu k).trans (hst k)

theorem CoresKept.of_cores {s t : State} (h : t.cores = s.cores) : CoresKept s t := fun k => by rw [core, core, h]

theorem CoresKept.of_slotsOnly {s t : State} (h : SlotsOnly s t) : CoresKept s t :=
  fun k => congrArg (fun c : Core => { c with l1 := [], fills := [] }) (h k)

theorem CoresKept.updCore (s : State) {n : Nat} {f : Core → Core} (hf : settled (f (s.core n)) = settled (s.core n)) : CoresKept s (s.updCore n f) := by
  intro k
  by_cases hk : k = n
  · rw [hk, core_updCore, hf]
  · rw [State.updCore, core_setCore_other s hk]

/-- An update that looks at what is kept only is the same on both sides. -/
theorem CoresKept.updCore_updCore {s t : State} (h : CoresKept s t) {n : Nat} {f : Core → Core} (hf : ∀ c, settled (f c) = settled (f (settled c))) :
    CoresKept (s.updCore n f) (t.updCore n f) := by
  intro k
  by_cases hk : k = n
  · rw [hk, core_updCore, core_updCore, hf, h n, ← hf]
  · rw [State.updCore, State.updCore, core_setCore_other s hk, core_setCore_other t hk, h k]

/-! ## The copy of the constant window (R81) -/

/-- `t` differs from `s` in strand `r`'s copy of its constant window, in lines, and in what it has sent. -/
structure CopyOnly (s t : State) (r : Ref) : Prop where
  strand : ∃ c b, t.strand r = { s.strand r with copy := c, cbuf := b }
  occupied : t.occupied r = s.occupied r
  cores : CoresKept s t
  migrants : t.migrants = s.migrants

namespace CopyOnly
variable {s t u : State} {r : Ref}

theorem refl (s : State) (r : Ref) : CopyOnly s s r := ⟨⟨_, _, rfl⟩, rfl, .refl s, rfl⟩

theorem trans (hst : CopyOnly s t r) (htu : CopyOnly t u r) : CopyOnly s u r := by
  obtain ⟨c, b, hstrand⟩ := hst.strand
  obtain ⟨c', b', hstrand'⟩ := htu.strand
  exact ⟨⟨c', b', by rw [hstrand', hstrand]⟩, htu.occupied.trans hst.occupied, hst.cores.trans htu.cores,
    htu.migrants.trans hst.migrants⟩

theorem emitNet (h : CopyOnly s t r) (d : Nat) (e : Event) : CopyOnly s (t.emitNet d e) r := ⟨h.strand, h.occupied, h.cores, h.migrants⟩

/-- A strand's copy is updated. -/
theorem updStrand {f : Strand → Strand} (hf : ∀ x, ∃ c b, f x = { x with copy := c, cbuf := b }) : CopyOnly s (s.updStrand r f) r := by
  unfold State.updStrand
  split
  case isTrue hocc =>
    refine ⟨?_, by rw [occupied_setStrand, hocc], .of_slotsOnly (slotsOnly_setStrand s r _), rfl⟩
    rw [strand_setStrand]
    exact hf _
  case isFalse => exact refl s r

/-- Lines of the core change. -/
theorem updCore {n : Nat} {f : Core → Core} (hslots : (f (s.core n)).slots = (s.core n).slots) (hkept : settled (f (s.core n)) = settled (s.core n)) :
    CopyOnly s (s.updCore n f) r := by
  refine ⟨⟨_, _, strand_updCore s hslots r⟩, ?_, .updCore s hkept, rfl⟩
  by_cases hr : r.core = n
  · subst hr
    rw [State.occupied, State.occupied, core_updCore, hslots]
  · rw [State.occupied, State.occupied, State.updCore, core_setCore_other s hr]

theorem copyFault (c : EventCode) (va : Nat) : CopyOnly s (s.copyFault r c va) r := updStrand fun _ => ⟨_, _, rfl⟩

theorem copied (b : List Byte) : CopyOnly s (s.copied r b) r := updStrand fun _ => ⟨_, _, rfl⟩

theorem useLines (q : Ref) (vas : List Nat) : CopyOnly s (s.useLines q vas) r := by
  unfold State.useLines
  split
  · exact refl s r
  · exact updCore rfl rfl

/-- The copy of a constant window starts without any other effect. -/
theorem copyStart (s : State) (r : Ref) : CopyOnly s (s.copyStart r) r := by
  unfold State.copyStart
  extract_lets t c va off
  split
  · exact copyFault _ _
  split
  · exact copyFault _ _
  split
  · split
    · exact copyFault _ _
    split
    · split
      · exact copyFault _ _
      split
      · exact copyFault _ _
      split
      · exact refl s r
      · exact copied _
    split
    · exact (updStrand fun _ => ⟨_, _, rfl⟩).emitNet _ _
    · exact copyFault _ _
  split
  · exact copyFault _ _
  split
  · exact (copied _).trans (useLines _ _)
  · split
    · exact updStrand fun _ => ⟨_, _, rfl⟩
    · exact ((updStrand fun _ => ⟨_, _, rfl⟩).trans (updCore rfl rfl)).emitNet _ _

end CopyOnly

/-! ## A strand that starts (R51) -/

end State

/-- Registers of v alone change while a launch's lanes are written. -/
theorem launchRegs_eq (l : Launch) : ∃ v, State.launchRegs l =
    { Regs.zero with s := Vector.ofFn fun i => l.regs.getD i.val 0, flags := State.launchFlags l, pc := l.pc, v := v } := by
  unfold State.launchRegs
  generalize hr : ({ Regs.zero with s := Vector.ofFn fun i => l.regs.getD i.val 0, flags := State.launchFlags l, pc := l.pc } : Regs) = r
  have hlanes (vs : List (Nat × VReg)) (r : Regs) : ∃ v, vs.foldl (fun r v => r.setV (BitVec.ofNat 5 v.1) v.2 (BitVec.allOnes 32)) r = { r with v := v } := by
    induction vs generalizing r with
    | nil => exact ⟨r.v, rfl⟩
    | cons x vs ih =>
      obtain ⟨v, hv⟩ := ih (r.setV (BitVec.ofNat 5 x.1) x.2 (BitVec.allOnes 32))
      exact ⟨v, hv⟩
  obtain ⟨v, hv⟩ := hlanes l.vregs r
  exact ⟨v, by rw [hv, ← hr]⟩

/-- The strand that a launch starts at cycle `now`, its constant window not copied yet. -/
def startedStrand (now ids : Nat) (l : Launch) (d : Nat) : Strand :=
  { Strand.none with
    part := l.part, ctx := l.ctx, kind := l.kind, regs := State.launchRegs l, keyLo := l.keyLo, keyHi := l.keyHi,
    clsType := l.clsType, msg := l.msg, state := l.state, budget := l.budget, budgetAt := now, counted := l.counted,
    budgetStart := l.classBudget, cbank := l.cbank, copy := .wanted, code := l.code, codeLim := l.codeLim,
    task := l.task, startedAt := ids, counter := l.counter, row := l.rows, wait := .untilCycle (now + d),
    opened := Chunk.empty (ids + 1) (State.launchRegs l) 0 }

namespace State
variable (s : State) (r : Ref) (l : Launch) (d : Nat)

/-- A strand starts in its slot, and nothing else of the cores and the migrants changes. -/
theorem begin_copyOnly : CopyOnly (s.setStrand r (startedStrand s.now s.ids l d)) (s.begin_ r l d) r := by
  have hcopy : CopyOnly (s.setStrand r (startedStrand s.now s.ids l d)) (((s.setStrand r (startedStrand s.now s.ids l d)).fresh.fresh).copyStart r) r := by
    obtain ⟨hstrand, hocc, hcores, hmigrants⟩ := CopyOnly.copyStart (s.setStrand r (startedStrand s.now s.ids l d)).fresh.fresh r
    exact ⟨hstrand, hocc, hcores, hmigrants⟩
  unfold begin_
  dsimp only
  split
  · exact ⟨hcopy.strand, hcopy.occupied, hcopy.cores, hcopy.migrants⟩
  · exact hcopy

theorem coresKept_begin_ : CoresKept s (s.begin_ r l d) :=
  (CoresKept.of_slotsOnly (slotsOnly_setStrand s r _)).trans (begin_copyOnly s r l d).cores

@[simp] theorem migrants_begin_ : (s.begin_ r l d).migrants = s.migrants := (begin_copyOnly s r l d).migrants
@[simp] theorem occupied_begin_ : (s.begin_ r l d).occupied r = true := (begin_copyOnly s r l d).occupied.trans (occupied_setStrand s r _)

theorem strand_begin_ : ∃ c b, (s.begin_ r l d).strand r = { startedStrand s.now s.ids l d with copy := c, cbuf := b } := by
  obtain ⟨c, b, h⟩ := (begin_copyOnly s r l d).strand
  rw [strand_setStrand] at h
  exact ⟨c, b, h⟩

/-- A strand that has started, in a state whose slots and strands have not changed since. -/
theorem startedAs_of_begin_ {s0 t : State} (hcores : t.cores = (s.begin_ r l d).cores) (hnow : s.now = s0.now) : StartedAs s0 t r l d := by
  have hocc : t.occupied r = true := by
    rw [occupied, core, hcores]
    exact occupied_begin_ s r l d
  obtain ⟨c, b, hstrand⟩ := strand_begin_ s r l d
  have ht : t.strand r = { startedStrand s.now s.ids l d with copy := c, cbuf := b } := by
    rw [← hstrand, strand, core, hcores]
    rfl
  obtain ⟨v, hregs⟩ := launchRegs_eq l
  unfold StartedAs
  rw [ht, startedStrand, hregs, hnow]
  exact ⟨hocc, rfl, fun i hi => Vector.getElem_ofFn hi, rfl, rfl, rfl, rfl, rfl, rfl⟩

end State
end Sys2Proof.Machine
end

section
/-! SUPPORT. What starts on a core (R34, R44, R51, R54, R56, R63): each thing that `startNext` starts, and that a core with nothing else to start stops there. -/

namespace Sys2Proof.Machine

open Sys2Proof.Claims

namespace State

/-! ## What acquires, stores and freed queues leave -/

/-- The part without its cores, the lines of its L2, and what it has sent. -/
def offCore (s : State) : State := { s with cores := [], l2 := [], sent := [], free := 0 }

theorem foldl_keeps {α β γ : Type} {f : β → α → β} (g : β → γ) (h : ∀ b a, g (f b a) = g b) (l : List α) (b : β) : g (l.foldl f b) = g b := by
  induction l generalizing b with
  | nil => rfl
  | cons a l ih => rw [List.foldl_cons, ih, h]

section
variable (s : State)

@[simp] theorem offCore_updStrand (r : Ref) (f : Strand → Strand) : (s.updStrand r f).offCore = s.offCore := by
  unfold updStrand
  split <;> rfl

@[simp] theorem offCore_latchMonitor (r : Ref) (code : Nat) : (s.latchMonitor r code).offCore = s.offCore := by
  dsimp only [latchMonitor]
  split
  · rfl
  · split
    · exact offCore_updStrand s r _
    · exact offCore_updStrand s r _

@[simp] theorem offCore_leaveL1 (n : Nat) (f : L1Line → Bool) : (s.leaveL1 n f).offCore = s.offCore :=
  foldl_keeps offCore (fun s r => offCore_latchMonitor s r 1) _ _

@[simp] theorem offCore_acquire (core scope : Nat) : (s.acquire core scope).offCore = s.offCore := by
  unfold acquire
  split
  · rfl
  · dsimp only
    split
    · exact offCore_leaveL1 s core _
    · exact offCore_leaveL1 s core _

@[simp] theorem offCore_writeStore (core off : Nat) (data : List Byte) : (s.writeStore core off data).offCore = s.offCore :=
  (foldl_keeps offCore (fun s r => offCore_latchMonitor s r 0) _ _).trans
    (foldl_keeps offCore (f := fun s r => s.emit 0 (.joinWake r)) (fun _ _ => rfl) _ _)

@[simp] theorem offCore_queueFreed (core : Nat) (high : Bool) : (s.queueFreed core high).offCore = s.offCore := by
  refine foldl_keeps offCore ?_ _ _
  exact fun _ _ => rfl

@[simp] theorem cores_queueFreed (core : Nat) (high : Bool) : (s.queueFreed core high).cores = s.cores := by
  refine foldl_keeps State.cores ?_ _ _
  exact fun _ _ => rfl

theorem coresKept_leaveL1 (n : Nat) (f : L1Line → Bool) : CoresKept s (s.leaveL1 n f) :=
  (CoresKept.updCore s (by rfl)).trans (.of_slotsOnly (slotsOnly_leaveL1 s n f))

theorem coresKept_acquire (core scope : Nat) : CoresKept s (s.acquire core scope) := by
  unfold acquire
  split
  · exact .refl s
  · dsimp only
    split
    · exact coresKept_leaveL1 s core _
    · exact (coresKept_leaveL1 s core _).trans (.of_cores rfl)

theorem slotsOnly_scratchWritten (core off n : Nat) : SlotsOnly s (s.scratchWritten core off n) :=
  (SlotsOnly.foldl (f := fun s r => s.emit 0 (.joinWake r)) (fun _ _ => .of_cores rfl) _ s).trans (.foldl (fun s r => slotsOnly_latchMonitor s r 0) _ _)

/-- Bytes written to a core's store change its strands beside it at most. -/
theorem slotsOnly_writeStore (core off : Nat) (data : List Byte) :
    SlotsOnly (s.updCore core fun c => { c with store := memStore c.store off data }) (s.writeStore core off data) :=
  slotsOnly_scratchWritten _ core off _

end

/-! ## Context switches (R63) -/

/-- A core after a switch is examined: as before, or with CTXRUN as requested. -/
def mayRun (c d : Core) : Prop := d = c ∨ d = { c with ctxRun := c.ctxReq }

theorem admitted_mayRun {c d : Core} (h : mayRun c d) {ctx : Nat} (hc : admitted c ctx = true) : admitted d ctx = true := by
  obtain rfl | rfl := h
  · exact hc
  · simp only [admitted, Bool.and_eq_true] at hc ⊢
    exact ⟨hc.2, hc.2⟩

theorem mayRun_switchCheck (s : State) (core : Nat) : mayRun (s.core core) ((s.switchCheck core).core core) := by
  rw [core_switchCheck]
  split
  · exact .inl rfl
  · exact .inr rfl

theorem offCore_switchCheck (s : State) (core : Nat) : (s.switchCheck core).offCore = s.offCore := by
  dsimp only [switchCheck]
  split <;> rfl

/-! ## One start (R44) -/

/-- What a core has no upcall or migrant for may start a message or a task. -/
theorem startNext_task {s : State} {core slot : Nat} {l : Launch} (hupcalls : (s.core core).upcalls = []) (hmigrants : s.migrants = [])
    (haslot : (s.core core).aslotWritten = false) (hslot : lowStart (s.core core) = some slot) (hstarts : (s.core core).starts = [l])
    (hadmitted : admitted (s.core core) l.ctx = true) : s.startNext core = some (s.startTask core slot l) := by
  simp [startNext, hupcalls, hmigrants, startables, haslot, hslot, hstarts, hadmitted]

theorem startNext_none {s : State} {core : Nat} (hupcalls : (s.core core).upcalls = []) (hmigrants : s.migrants = [])
    (hstarts : (s.core core).starts = []) (hmessages : ∀ high, s.startables core high = []) : s.startNext core = none := by
  simp [startNext, hupcalls, hmigrants, hstarts, hmessages]

theorem startNext_message {s : State} {core slot : Nat} {k : Startable × ActorSlot × Nat × Msg} {ks : List (Startable × ActorSlot × Nat × Msg)}
    (hupcalls : (s.core core).upcalls = []) (hmigrants : s.migrants = []) (hstarts : (s.core core).starts = [])
    (hhigh : s.startables core true = []) (hlow : s.startables core false = k :: ks) (hslot : s.messageSlot core false = some slot) :
    s.startNext core = some (s.startOne core slot k) := by
  simp [startNext, hupcalls, hmigrants, hstarts, hhigh, hlow, hslot]

/-- A core that starts one thing and has nothing else to start. -/
theorem startAll_once {s t : State} {core : Nat} (n : Nat) (hone : s.startNext core = some t) (hdone : t.startNext core = none) :
    startAll core (n + 2) s = t := by
  simp only [startAll, hone, hdone]

/-! ## A task of no actor that starts -/

/-- A task of no actor starts in its slot, and its core no longer holds it in the low queue. -/
theorem startTask_spec (s : State) (core slot : Nat) (l : Launch) :
    StartedAs s (s.startTask core slot l) ⟨core, slot⟩ l (if l.kind = .responder then 9 else 8) ∧
      CoresKept (s.updCore core fun c => { c with starts := c.starts.erase l }) (s.startTask core slot l) ∧
      (s.startTask core slot l).migrants = s.migrants := by
  unfold startTask
  extract_lets s1
  generalize hu : (if l.kind = .spawnNode then s1.acquire core 3 else s1) = u
  have hoff : u.offCore = s.offCore := by
    rw [← hu]
    split
    · exact offCore_acquire s1 core 3
    · rfl
  have hkept : CoresKept s1 u := by
    rw [← hu]
    split
    · exact coresKept_acquire s1 core 3
    · exact .refl s1
  refine ⟨startedAs_of_begin_ u _ l _ (cores_queueFreed ..) (congrArg State.now hoff :), ?_, ?_⟩
  · exact (hkept.trans (coresKept_begin_ u _ l _)).trans (.of_cores (cores_queueFreed ..))
  · generalize (if l.kind = .responder then 9 else 8) = d
    exact ((congrArg State.migrants (offCore_queueFreed ..) :).trans (migrants_begin_ u _ l d)).trans (congrArg State.migrants hoff :)

/-! ## A message's task that starts (R34, R51) -/

/-- What a message's task starts with. -/
def messageLaunch (c : Core) (slot j : Nat) (x : ActorSlot) (m : Msg) (ctor : Bool) (task : Nat) : Launch :=
  { classLaunch (if ctor then .constructor else .message) x.actor.part x.actor.ctx x.entry (BitVec.ofNat 64 (m.cls.toNat * 256 + m.type.toNat))
      (if ctor then BitVec.ofNat 64 (x.entry.code.toNat + 8 * x.entry.ctor.toNat) else m.pc) [] with
    msg := ownVa (aslotMsg c.aslot + 256 * slot), state := ownVa (slotOffset c j), keyLo := x.actor.key.extractLsb' 0 64,
    keyHi := x.actor.key.extractLsb' 64 64, high := m.high, task := task }

/-- A message's line is stored, and its task starts in its slot. -/
theorem startMessage_spec (s : State) (core slot j : Nat) (x : ActorSlot) (m : Msg) (ctor : Bool) :
    let t := s.startMessage core slot j x m ctor
    t.occupied ⟨core, slot⟩ = true ∧
      (∃ ids c b, t.strand ⟨core, slot⟩ = { startedStrand s.now ids (messageLaunch (s.core core) slot j x m ctor s.ids) 9 with copy := c, cbuf := b }) ∧
      CoresKept (s.updCore core fun c => { c with store := memStore c.store (aslotMsg (s.core core).aslot + 256 * slot) m.line }) t ∧
      t.migrants = s.migrants := by
  intro t
  generalize hu : (if m.node ≠ 0 && !ctor then s.acquire core 3 else s) = u
  have hoff : u.offCore = s.offCore := by
    rw [← hu]
    split
    · exact offCore_acquire s core 3
    · rfl
  have hkept : CoresKept s u := by
    rw [← hu]
    split
    · exact coresKept_acquire s core 3
    · exact .refl s
  let off := aslotMsg (s.core core).aslot + 256 * slot
  let v := (u.newTask { Task.none with part := x.actor.part, ctx := x.actor.ctx, core := core, actor := some (core, j), line := some slot,
                                       node := if ctor then 0 else m.node, start := some m, head := if ctor then some m else none }).writeStore core off m.line
  have ht : t = v.begin_ ⟨core, slot⟩ (messageLaunch (s.core core) slot j x m ctor s.ids) 9 := by
    subst hu
    rfl
  have hnow : v.now = s.now := (congrArg State.now (offCore_writeStore ..) :).trans (congrArg State.now hoff :)
  have hmigrants : v.migrants = s.migrants := (congrArg State.migrants (offCore_writeStore ..) :).trans (congrArg State.migrants hoff :)
  have hv : CoresKept (s.updCore core fun c => { c with store := memStore c.store off m.line }) v :=
    ((hkept.trans (.of_cores rfl)).updCore_updCore fun _ => rfl).trans (.of_slotsOnly (slotsOnly_writeStore _ core off m.line))
  rw [ht]
  refine ⟨occupied_begin_ .., ?_, hv.trans (coresKept_begin_ v _ _ 9), (migrants_begin_ ..).trans hmigrants⟩
  rw [← hnow]
  exact ⟨v.ids, strand_begin_ v _ _ 9⟩

/-- What waits as the one low message of a core's one actor, which is idle, may start (R44). -/
theorem startables_low_one {s : State} {core j : Nat} {x : ActorSlot} {q : Arrival} (haslot : (s.core core).aslotWritten = true)
    (hlow : (s.core core).lowQ = [q]) (hhigh : (s.core core).highQ = []) (hactors : (s.core core).actors = [(j, x)]) (hactor : x.actor = q.actor)
    (hlive : x.phase = .live) (hhead : x.head = none) (hadmitted : admitted (s.core core) q.actor.ctx = true) (hidle : s.actorRuns core j = false) :
    s.startables core false = [(.queued q, x, j, q.msg)] := by
  simp [startables, haslot, hlow, hhigh, hactors, hactor, hlive, hhead, hadmitted, hidle]

/-- With no message queued and none at the head of an actor's slot, none may start. -/
theorem startables_nil {s : State} {core : Nat} {high : Bool} (hqueue : (if high then (s.core core).highQ else (s.core core).lowQ) = [])
    (hheads : ∀ e ∈ (s.core core).actors, e.2.head = none) : s.startables core high = [] := by
  have hnone : ((s.core core).actors.filter fun e => e.2.phase == .live && e.2.head.isSome) = [] := by
    rw [List.filter_eq_nil_iff]
    intro e he
    simp [hheads e he]
  simp [startables, hqueue, hnone]

theorem startables_of_unwritten {s : State} {core : Nat} (haslot : (s.core core).aslotWritten = false) (high : Bool) : s.startables core high = [] := by
  simp [startables, haslot]

end State

/-- What TASK_START starts, where the core has no descriptor to start and steals none (R54). -/
theorem exec_taskStart_once {s t : State} {core : Nat} (hone : (s.switchCheck core).startNext core = some t) (hdone : t.startNext core = none)
    (hdeque : (t.core core).deque = []) (hsteal : (t.core core).coresched.getLsbD 16 = false) (he : s.ev = .taskStart core none) :
    exec .taskStart s = .next t := by
  simp only [exec_taskStart, execTaskStart, he, State.startAll_once 14 hone hdone, hdeque, hsteal, List.isEmpty_nil, Bool.not_true, Bool.false_and,
    Bool.false_eq_true, if_false, ite_self]

end Sys2Proof.Machine
end

section
/-! PROOF. What starts on a core (O36). -/

namespace Sys2Proof.Machine

open Sys2Proof.Claims

/-! ## What a start leaves of its core -/

theorem startedAs_congr {s s' t : State} {r : Ref} {l : Launch} {d : Nat} (hnow : s'.now = s.now) (h : StartedAs s' t r l d) : StartedAs s t r l d := by
  unfold StartedAs at h ⊢
  rw [← hnow]
  exact h

/-- The context flag of a strand that starts (R51). -/
theorem getLsbD_launchFlags_ctx (l : Launch) : (State.launchFlags l).getLsbD 16 = decide (l.ctx = 0) := by
  unfold State.launchFlags
  by_cases hctx : l.ctx = 0
  · simp [hctx]
  · simp [hctx]

namespace State

theorem sentBy_emitNet (s : State) (d : Nat) (e : Event) : SentBy s (s.emitNet d e) d e :=
  ⟨s.now + (d + s.draw.toNat), Nat.add_le_add_left (Nat.le_add_right d _) _, List.mem_append_right _ List.mem_cons_self⟩

theorem cores_unreserve (s : State) (core slot : Nat) : (s.unreserve core slot).cores =
    (s.updCore core fun c => { c with reserved := c.reserved.erase slot }).cores :=
  (cores_offerQuire ..).trans (cores_offerRows ..)

theorem core_queueTask (s : State) (core : Nat) (t : Task) (l : Launch) : (s.queueTask core t l).core core =
    { s.core core with starts := (s.core core).starts ++ [{ l with task := s.ids }] } := by
  rw [queueTask, offer, core_emit, core_updCore]
  rfl

/-! ## Strands that migrate (R56) -/

/-- The low slots of a core that may start tasks of a context. -/
def lowRoom (c : Core) (ctx : Nat) : Nat := if !admitted c ctx then 0 else (lowFree c).length

/-- The core of a quire with the most room. -/
def roomiest (s : State) (q ctx : Nat) : Nat :=
  ((List.range 4).map (4 * q + ·)).foldl (fun b c => if lowRoom (s.core b) ctx < lowRoom (s.core c) ctx then c else b) (4 * q)

/-- A migrant of low priority goes to the core with the most room, if any has room. -/
theorem placeMigrant_low {l : Launch} (hlow : l.high = false) (s : State) (q : Nat) : s.placeMigrant q l =
    if lowRoom (s.core (s.roomiest q l.ctx)) l.ctx = 0 then none
    else (lowStart (s.core (s.roomiest q l.ctx))).map fun slot =>
      (s.newTask { Task.none with part := l.part, ctx := l.ctx, core := s.roomiest q l.ctx }).begin_ ⟨s.roomiest q l.ctx, slot⟩ { l with task := s.ids } 8 := by
  simp only [placeMigrant, hlow, Bool.false_eq_true, if_false]
  rfl

theorem lowRoom_eq_zero {c : Core} {ctx : Nat} (h : lowFree c = [] ∨ admitted c ctx = false) : lowRoom c ctx = 0 := by
  obtain hfree | hnot := h
  · simp [lowRoom, hfree]
  · simp [lowRoom, hnot]

theorem lowRoom_pos {c : Core} {ctx slot : Nat} (hslot : lowStart c = some slot) (hadmitted : admitted c ctx = true) : 0 < lowRoom c ctx := by
  rw [lowRoom, hadmitted, Bool.not_true, if_neg Bool.false_ne_true]
  cases hfree : lowFree c with
  | nil => simp [lowStart, hfree] at hslot
  | cons n ns => exact Nat.succ_pos _

/-- Where no other has anything, the one that has something has most. -/
theorem foldl_most {f : Nat → Nat} {n : Nat} (hn : 0 < f n) (l : List Nat) (b : Nat) (hb : b = n ∨ f b = 0) (hl : ∀ m ∈ l, m = n ∨ f m = 0)
    (hmem : b = n ∨ n ∈ l) : l.foldl (fun b c => if f b < f c then c else b) b = n := by
  induction l generalizing b with
  | nil => simpa using hmem
  | cons m l ih =>
    rw [List.forall_mem_cons] at hl
    obtain ⟨hm, hl⟩ := hl
    rw [List.foldl_cons]
    split
    case isTrue hlt =>
      obtain rfl | hm := hm
      · exact ih m (.inl rfl) hl (.inl rfl)
      · omega
    case isFalse hge =>
      refine ih b hb hl ?_
      obtain rfl | hb := hb
      · exact .inl rfl
      obtain rfl | hmem := hmem
      · exact .inl rfl
      obtain rfl | hmem := List.mem_cons.1 hmem
      · omega
      · exact .inr hmem

theorem roomiest_of_full {s : State} {q ctx : Nat} (hfull : ∀ k < 4, lowRoom (s.core (4 * q + k)) ctx = 0) : s.roomiest q ctx = 4 * q := by
  have hzero : ∀ c ∈ (List.range 4).map (4 * q + ·), lowRoom (s.core c) ctx = 0 := by
    simpa [List.forall_mem_map] using hfull
  unfold roomiest
  generalize (List.range 4).map (4 * q + ·) = l at hzero
  induction l with
  | nil => rfl
  | cons m l ih =>
    rw [List.forall_mem_cons] at hzero
    rw [List.foldl_cons, hzero.1, if_neg (Nat.not_lt_zero _), ih hzero.2]

/-- The only core of the quire with room. -/
theorem roomiest_of_only {s : State} {q ctx j : Nat} (hj : j < 4) (hroom : 0 < lowRoom (s.core (4 * q + j)) ctx)
    (hfull : ∀ k < 4, k ≠ j → lowRoom (s.core (4 * q + k)) ctx = 0) : s.roomiest q ctx = 4 * q + j := by
  have hother : ∀ k < 4, 4 * q + k = 4 * q + j ∨ lowRoom (s.core (4 * q + k)) ctx = 0 := by
    intro k hk
    by_cases hkj : k = j
    · exact .inl (by rw [hkj])
    · exact .inr (hfull k hk hkj)
  refine foldl_most (f := fun c => lowRoom (s.core c) ctx) hroom _ _ (hother 0 (by decide)) ?_ (.inr ?_)
  · simpa [List.forall_mem_map] using hother
  · exact List.mem_map_of_mem (List.mem_range.2 hj)

/-! ## A switch that is examined (R63) -/

section
variable (s : State) (core : Nat)

/-- What does not depend on CTXRUN is on its core as before. -/
theorem switchCheck_keeps {α : Type} (g : Core → α) (hg : ∀ c, g { c with ctxRun := c.ctxReq } = g c) :
    g ((s.switchCheck core).core core) = g (s.core core) := by
  obtain h | h := mayRun_switchCheck s core
  · rw [h]
  · rw [h, hg]

theorem tasks_switchCheck : (s.switchCheck core).tasks = s.tasks := (congrArg State.tasks (offCore_switchCheck s core) :)
theorem migrants_switchCheck : (s.switchCheck core).migrants = s.migrants := (congrArg State.migrants (offCore_switchCheck s core) :)

theorem messageSlot_switchCheck (high : Bool) : (s.switchCheck core).messageSlot core high = s.messageSlot core high := by
  unfold messageSlot lineHeld
  rw [tasks_switchCheck, switchCheck_keeps s core (fun c => [12, 13, 14, 15].filter fun n => !has n c.slots) fun _ => rfl,
    switchCheck_keeps s core lowFree fun _ => rfl]

theorem actorRuns_switchCheck (j : Nat) : (s.switchCheck core).actorRuns core j = s.actorRuns core j := by
  rw [actorRuns, tasks_switchCheck, actorRuns]

end
theorem core_congr {s t : State} (h : t.cores = s.cores) (k : Nat) : t.core k = s.core k := by rw [core, core, h]

theorem strand_congr {s t : State} (h : t.cores = s.cores) (r : Ref) : t.strand r = s.strand r := by rw [strand, strand, core_congr h]

/-- A queued message starts: its line is in the store and it has left its queue (R34). -/
theorem startOne_queued (s : State) (core slot j : Nat) (x : ActorSlot) (q : Arrival) :
    let t := s.startOne core slot (.queued q, x, j, q.msg)
    (∃ ids n c b, t.strand ⟨core, slot⟩ = { startedStrand s.now ids (messageLaunch (s.core core) slot j x q.msg false n) 9 with copy := c, cbuf := b }) ∧
      settled (t.core core) = settled { s.core core with
        lowQ := (s.core core).lowQ.filter fun o => o.number != q.number
        highQ := (s.core core).highQ.filter fun o => o.number != q.number
        store := memStore (s.core core).store (aslotMsg (s.core core).aslot + 256 * slot) q.msg.line } ∧
      t.migrants = s.migrants := by
  intro t
  obtain ⟨-, ⟨ids, c, b, hstrand⟩, hkept, hmigrants⟩ := startMessage_spec (s.updCore core fun c =>
    { c with lowQ := c.lowQ.filter (fun o => o.number != q.number), highQ := c.highQ.filter fun o => o.number != q.number }) core slot j x q.msg false
  have hkept := hkept core
  rw [core_updCore, core_updCore] at hkept
  rw [core_updCore] at hstrand
  exact ⟨⟨ids, _, c, b, (strand_congr (cores_queueFreed ..) _).trans hstrand⟩, (congrArg settled (core_congr (cores_queueFreed ..) core)).trans hkept,
    (congrArg State.migrants (offCore_queueFreed ..) :).trans hmigrants⟩

end State

end Sys2Proof.Machine

namespace Sys2Proof.Proofs

open Sys2Proof.Machine Sys2Proof.Claims

/-! ## Starts -/

section
variable {s : State} {core slot : Nat}

/-- A task of no actor, the one thing that waits on a core, starts. -/
theorem exec_taskStart_task {l : Launch} (hstill : Still s core) (hupcalls : (s.core core).upcalls = []) (hstarts : (s.core core).starts = [l])
    (hadmitted : State.admitted (s.core core) l.ctx = true) (hslot : lowStart (s.core core) = some slot) :
    Does s .taskStart (.taskStart core none) fun t =>
      StartedAs s t ⟨core, slot⟩ l (if l.kind = .responder then 9 else 8) ∧ (t.core core).starts = [] := by
  obtain ⟨haslot, hmigrants, hdeque, hcoresched⟩ := hstill
  have hkeeps {α : Type} (g : Core → α) := State.switchCheck_keeps s core g
  generalize hs0 : s.switchCheck core = s0 at hkeeps
  have hmigrants0 : s0.migrants = [] := by rw [← hs0, State.migrants_switchCheck, hmigrants]
  have hone : s0.startNext core = some (s0.startTask core slot l) :=
    State.startNext_task ((hkeeps Core.upcalls fun _ => rfl).trans hupcalls) hmigrants0 ((hkeeps Core.aslotWritten fun _ => rfl).trans haslot)
      ((hkeeps lowStart fun _ => rfl).trans hslot) ((hkeeps Core.starts fun _ => rfl).trans hstarts)
      (State.admitted_mayRun (hs0 ▸ State.mayRun_switchCheck s core) hadmitted)
  obtain ⟨hstarted, hkept, hmigrants1⟩ := State.startTask_spec s0 core slot l
  generalize s0.startTask core slot l = t at hone hstarted hkept hmigrants1
  have hcore := hkept core
  rw [State.core_updCore] at hcore
  have hstarts1 : (t.core core).starts = [] := by
    have hleft : (t.core core).starts = (s0.core core).starts.erase l := (congrArg Core.starts hcore :)
    rw [hleft, hkeeps Core.starts fun _ => rfl, hstarts, List.erase_cons_head]
  have haslot1 : (t.core core).aslotWritten = false := (congrArg Core.aslotWritten hcore :).trans ((hkeeps Core.aslotWritten fun _ => rfl).trans haslot)
  have hdone : t.startNext core = none :=
    State.startNext_none ((congrArg Core.upcalls hcore :).trans ((hkeeps Core.upcalls fun _ => rfl).trans hupcalls)) (hmigrants1.trans hmigrants0) hstarts1
      (State.startables_of_unwritten haslot1)
  refine does_of_exec (exec_taskStart_once (hs0 ▸ hone) hdone ?_ ?_) ⟨startedAs_congr ?_ hstarted, hstarts1⟩
  · exact (congrArg Core.deque hcore :).trans ((hkeeps Core.deque fun _ => rfl).trans hdeque)
  · exact (congrArg (fun c => c.coresched.getLsbD 16) hcore :).trans ((hkeeps (fun c => c.coresched.getLsbD 16) fun _ => rfl).trans hcoresched)
  · rw [← hs0, State.now_switchCheck]

/-- A message, the one thing that waits on a core, starts with its line in the store. -/
theorem exec_taskStart_message {q : Arrival} {j : Nat} {x : ActorSlot} (hupcalls : (s.core core).upcalls = []) (hmigrants : s.migrants = [])
    (hdeque : (s.core core).deque = []) (hcoresched : (s.core core).coresched.getLsbD 16 = false) (hstarts : (s.core core).starts = [])
    (haslot : (s.core core).aslotWritten = true) (hlow : (s.core core).lowQ = [q]) (hhigh : (s.core core).highQ = [])
    (hactors : (s.core core).actors = [(j, x)]) (hactor : x.actor = q.actor) (hlive : x.phase = .live) (hhead : x.head = none)
    (hadmitted : State.admitted (s.core core) q.actor.ctx = true) (hidle : s.actorRuns core j = false)
    (hslot : s.messageSlot core false = some slot) :
    Does s .taskStart (.taskStart core none) fun t => (t.core core).lowQ = [] ∧
      (t.core core).store = memStore (s.core core).store (State.aslotMsg (s.core core).aslot + 256 * slot) q.msg.line ∧
      ∃ ids n c b, t.strand ⟨core, slot⟩ =
        { startedStrand s.now ids (State.messageLaunch (s.core core) slot j x q.msg false n) 9 with copy := c, cbuf := b } := by
  have hkeeps {α : Type} (g : Core → α) := State.switchCheck_keeps s core g
  have hadmitted0 := State.admitted_mayRun (State.mayRun_switchCheck s core) hadmitted
  have hidle0 := (State.actorRuns_switchCheck s core j).trans hidle
  have hslot0 := (State.messageSlot_switchCheck s core false).trans hslot
  have hmigrants0 := (State.migrants_switchCheck s core).trans hmigrants
  have hnow := State.now_switchCheck s core
  generalize hs0 : s.switchCheck core = s0 at *
  have hactors0 := (hkeeps Core.actors fun _ => rfl).trans hactors
  have hlow0 := (hkeeps Core.lowQ fun _ => rfl).trans hlow
  have hhigh0 := (hkeeps Core.highQ fun _ => rfl).trans hhigh
  have hheads : ∀ e ∈ [(j, x)], e.2.head = none := by simpa using hhead
  -- the message is the first that may start
  have hone : s0.startNext core = some (s0.startOne core slot (.queued q, x, j, q.msg)) :=
    State.startNext_message ((hkeeps Core.upcalls fun _ => rfl).trans hupcalls) hmigrants0 ((hkeeps Core.starts fun _ => rfl).trans hstarts)
      (State.startables_nil hhigh0 (by rw [hactors0]; exact hheads))
      (State.startables_low_one ((hkeeps Core.aslotWritten fun _ => rfl).trans haslot) hlow0 hhigh0 hactors0 hactor hlive hhead hadmitted0 hidle0) hslot0
  obtain ⟨⟨ids, n, c, b, hstrand⟩, hcore, hmigrants1⟩ := State.startOne_queued s0 core slot j x q
  generalize s0.startOne core slot (.queued q, x, j, q.msg) = t at *
  have hlow1 : (t.core core).lowQ = [] := by
    have hleft : (t.core core).lowQ = (s0.core core).lowQ.filter fun o => o.number != q.number := congrArg Core.lowQ hcore
    simp [hleft, hlow0]
  have hhigh1 : (t.core core).highQ = [] := by
    have hleft : (t.core core).highQ = (s0.core core).highQ.filter fun o => o.number != q.number := congrArg Core.highQ hcore
    simp [hleft, hhigh0]
  have hactors1 : (t.core core).actors = [(j, x)] := (congrArg Core.actors hcore :).trans hactors0
  have hdone : t.startNext core = none := by
    refine State.startNext_none ((congrArg Core.upcalls hcore :).trans ((hkeeps Core.upcalls fun _ => rfl).trans hupcalls)) (hmigrants1.trans hmigrants0)
      ((congrArg Core.starts hcore :).trans ((hkeeps Core.starts fun _ => rfl).trans hstarts)) fun high => ?_
    refine State.startables_nil ?_ (by rw [hactors1]; exact hheads)
    cases high
    · exact hlow1
    · exact hhigh1
  refine does_of_exec (exec_taskStart_once (hs0 ▸ hone) hdone ?_ ?_) ⟨hlow1, ?_, ids, n, c, b, ?_⟩
  · exact (congrArg Core.deque hcore :).trans ((hkeeps Core.deque fun _ => rfl).trans hdeque)
  · exact (congrArg (fun c => c.coresched.getLsbD 16) hcore :).trans ((hkeeps (fun c => c.coresched.getLsbD 16) fun _ => rfl).trans hcoresched)
  · generalize hstore : memStore (s0.core core).store (State.aslotMsg (s0.core core).aslot + 256 * slot) q.msg.line = store at hcore
    rw [show (t.core core).store = store from congrArg Core.store hcore, ← hstore, hkeeps Core.store fun _ => rfl, hkeeps Core.aslot fun _ => rfl]
  · rw [hstrand, hnow, hkeeps (fun c => State.messageLaunch c slot j x q.msg false n) fun _ => rfl]

theorem exec_taskStart_queued (node : Nat) (l : Launch) (he : s.ev = .taskStart core (some (node, l))) :
    exec .taskStart s = .next (s.queueTask core { Task.none with node := node } l) := by
  simp only [exec_taskStart, execTaskStart, he]

/-- The newest descriptor of the own deque starts (R54). -/
theorem exec_dequePop_of_ev {d : Desc} {rest : List Desc} (hslot : lowStart (s.core core) = some slot) (hdeque : (s.core core).deque = rest ++ [d])
    (he : s.ev = .dequePop core) : exec .dequePop s =
      .next (((s.updCore core fun c => { c with deque := c.deque.dropLast }).begin_ ⟨core, slot⟩ (State.childLaunch d core false) 1).offerQuire core) := by
  simp only [exec_dequePop, execDequePop, he, hslot, hdeque, List.getLast?_append, List.getLast?_singleton, Option.some_or]

/-- The oldest descriptor of a neighbour's deque starts (R54). -/
theorem exec_steal_of_ev {n : Nat} {d : Desc} {rest : List Desc} (hslot : lowStart (s.core core) = some slot) (hfrom : s.stealFrom core = some n)
    (hdeque : (s.core n).deque = d :: rest) (he : s.ev = .steal core) : exec .steal s =
      .next (((s.updCore n fun c => { c with deque := rest }).begin_ ⟨core, slot⟩ (State.childLaunch d core true) 8).offer core) := by
  simp only [exec_steal, execSteal, he, hslot, hfrom, hdeque]

/-- A core answers a `spawn` with a slot that it reserves, if it has one (R52). -/
theorem exec_spawnRequest_of_ev {r : Ref} {tag : Nat} {l : Launch} (he : s.ev = .spawnRequest r tag core l) :
    exec .spawnRequest s = .next (((lowStart (s.core core)).filter fun _ => State.admitted (s.core core) l.ctx).elim
      (s.emitNet (4 + travelCores core r.core) (.spawnAnswer r tag core none)) fun slot =>
      (s.updCore core fun c => { c with reserved := slot :: c.reserved }).emitNet (4 + travelCores core r.core) (.spawnAnswer r tag core (some slot))) := by
  simp only [exec_spawnRequest, execSpawnRequest, he]
  cases (lowStart (s.core core)).filter fun _ => State.admitted (s.core core) l.ctx <;> rfl

/-- A spawned child starts, or gives up its slot and waits (R52, R63). -/
theorem exec_spawnChildStart_of_ev {l : Launch} (he : s.ev = .spawnChildStart core slot l) :
    exec .spawnChildStart s = .next (
      let t : Task := { Task.none with part := l.part, ctx := l.ctx, core := core }
      if State.admitted (s.core core) l.ctx then
        ((s.updCore core fun c => { c with reserved := c.reserved.erase slot }).newTask t).begin_ ⟨core, slot⟩ { l with task := s.ids } 0
      else (s.queueTask core t l).unreserve core slot) := by
  simp only [exec_spawnChildStart, execSpawnChildStart, he]
  rfl

theorem exec_migrArrival_of_ev {q : Nat} {l : Launch} (he : s.ev = .migrArrival q l) :
    exec .migrArrival s = .next ((s.placeMigrant q l).getD { s with migrants := s.migrants ++ [(q, l)] }) := by
  simp only [exec_migrArrival, execMigrArrival, he]
  cases s.placeMigrant q l <;> rfl

end

/-- Settles O36: of a core with one thing to start, what starts, its registers, and what the core holds no longer. -/
theorem startsOfStrands : Obligations.StartsOfStrands := by
  intro s core
  refine ⟨fun l slot hstill hupcalls hstarts hadmitted hslot => ?task, fun node l => ?queued,
    fun q j x slot hupcalls hmigrants hdeque hcoresched hstarts haslot hlow hhigh hactors hactor hlive hhead _ hadmitted hidle hslot => ?message,
    fun d rest slot hslot hdeque => ?pop, fun n d rest slot hslot hfrom hdeque => ?steal, fun r tag l => ?spawn, fun l slot hadmitted => ?child,
    fun l slot hnot => ?waits, fun q l slot j hj hcore hlow hfull hslot hadmitted => ?migrant, fun q l hlow hfull => ?full⟩
  case task => exact exec_taskStart_task hstill hupcalls hstarts hadmitted hslot
  case queued =>
    refine does_of_exec (exec_taskStart_queued node l) ⟨?_, ?_⟩
    · exact (congrArg Core.starts (State.core_queueTask ..) :)
    · rw [show (s.queueTask core { Task.none with node := node } l).task s.ids = _ from look_put_same _ _ _ _]
      exact ⟨rfl, rfl, rfl, rfl⟩
  case message =>
    intro off he
    obtain ⟨t, hnext, hlowQ, hstore, ids, n, c, b, hstrand⟩ :=
      exec_taskStart_message hupcalls hmigrants hdeque hcoresched hstarts haslot hlow hhigh hactors hactor hlive hhead hadmitted hidle hslot he
    refine ⟨t, hnext, ?_⟩
    obtain ⟨v, hregs⟩ := launchRegs_eq (State.messageLaunch (s.core core) slot j x q.msg false n)
    rw [hstrand, startedStrand, hregs]
    refine ⟨hlowQ, hstore, rfl, rfl, BitVec.toNat_ofNat _ _, BitVec.toNat_ofNat _ _, rfl, rfl, rfl, rfl, ?_, rfl⟩
    exact getLsbD_launchFlags_ctx _
  case pop =>
    have hstarted := State.startedAs_of_begin_ (s.updCore core fun c => { c with deque := c.deque.dropLast }) ⟨core, slot⟩ (State.childLaunch d core false) 1
      (s0 := s) (State.cores_offerQuire _ core) rfl
    obtain ⟨-, hpc, -⟩ := id hstarted
    refine does_of_exec (exec_dequePop_of_ev hslot hdeque) ⟨hstarted, hpc, ?_⟩
    have hkept := State.coresKept_begin_ (s.updCore core fun c => { c with deque := c.deque.dropLast }) ⟨core, slot⟩ (State.childLaunch d core false) 1 core
    rw [State.core_updCore] at hkept
    rw [State.core_congr (State.cores_offerQuire _ core)]
    exact (congrArg Core.deque hkept :).trans ((congrArg List.dropLast hdeque).trans List.dropLast_concat)
  case steal =>
    refine does_of_exec (exec_steal_of_ev hslot hfrom hdeque) ⟨State.startedAs_of_begin_ _ _ _ _ rfl rfl, ?_⟩
    have hkept := State.coresKept_begin_ (s.updCore n fun c => { c with deque := rest }) ⟨core, slot⟩ (State.childLaunch d core true) 8 n
    rw [State.core_updCore] at hkept
    exact (congrArg Core.deque hkept :)
  case spawn =>
    refine does_of_exec exec_spawnRequest_of_ev ?_
    have hslot : ((lowStart (s.core core)).filter fun _ => State.admitted (s.core core) l.ctx) =
        if State.admitted (s.core core) l.ctx then lowStart (s.core core) else none := by
      cases State.admitted (s.core core) l.ctx <;> cases lowStart (s.core core) <;> rfl
    rw [hslot]
    generalize (if State.admitted (s.core core) l.ctx then lowStart (s.core core) else none) = slot
    cases slot with
    | none => exact ⟨State.sentBy_emitNet s _ _, rfl⟩
    | some slot =>
      exact ⟨State.sentBy_emitNet (s.updCore core fun c => { c with reserved := slot :: c.reserved }) _ _,
        (congrArg Core.reserved (State.core_updCore s core fun c => { c with reserved := slot :: c.reserved }) :)⟩
  case child =>
    refine does_of_exec exec_spawnChildStart_of_ev ?_
    rw [hadmitted]
    refine ⟨State.startedAs_of_begin_ _ _ _ _ rfl rfl, ?_⟩
    have hkept := State.coresKept_begin_ (State.newTask (s.updCore core fun c => { c with reserved := c.reserved.erase slot })
      { Task.none with part := l.part, ctx := l.ctx, core := core }) ⟨core, slot⟩ { l with task := s.ids } 0 core
    exact (congrArg Core.reserved hkept :).trans (congrArg Core.reserved (State.core_updCore s core fun c => { c with reserved := c.reserved.erase slot }) :)
  case waits =>
    refine does_of_exec exec_spawnChildStart_of_ev ?_
    rw [hnot]
    have hcore : ((s.queueTask core { Task.none with part := l.part, ctx := l.ctx, core := core } l).unreserve core slot).core core =
        { s.core core with starts := (s.core core).starts ++ [{ l with task := s.ids }], reserved := (s.core core).reserved.erase slot } := by
      rw [State.core_congr (State.cores_unreserve ..), State.core_updCore, State.core_queueTask]
    exact ⟨congrArg Core.starts hcore, congrArg Core.reserved hcore⟩
  case migrant =>
    have hbest : s.roomiest q l.ctx = core := by
      rw [hcore] at hslot hadmitted ⊢
      exact State.roomiest_of_only hj (State.lowRoom_pos hslot hadmitted) fun k hk hkj => State.lowRoom_eq_zero (.inl (hfull k hk hkj))
    refine does_of_exec exec_migrArrival_of_ev ?_
    rw [State.placeMigrant_low hlow, hbest, if_neg (State.lowRoom_pos hslot hadmitted).ne', hslot]
    exact State.startedAs_of_begin_ _ _ _ _ rfl rfl
  case full =>
    refine does_of_exec exec_migrArrival_of_ev ?_
    have hroom : ∀ k < 4, State.lowRoom (s.core (4 * q + k)) l.ctx = 0 := fun k hk => State.lowRoom_eq_zero (hfull k hk)
    have hfirst : State.lowRoom (s.core (4 * q)) l.ctx = 0 := hroom 0 (by decide)
    rw [State.placeMigrant_low hlow, State.roomiest_of_full hroom, if_pos hfirst]
    rfl

end Sys2Proof.Proofs
end

section
/-! SUPPORT. A read that a unit of the package makes (R25, R31, R69) leaves every core as it was. -/

namespace Sys2Proof.Machine

open Sys2Proof.Claims

namespace State
variable (s : State)

/-! ## Lines at their homes -/

theorem cores_hbmWrite (pa : Nat) (data : List Byte) : (s.hbmWrite pa data).cores = s.cores := by
  obtain ⟨m, h⟩ := hbmWrite_eq s pa data
  rw [h]

theorem cores_physWrite (pa : Nat) (data : List Byte) : (s.physWrite pa data).cores = s.cores := by
  unfold physWrite
  split
  · rfl
  · exact cores_hbmWrite s pa data

theorem cores_toFabric (p : FabricPacket) : (s.toFabric p).cores = s.cores := by
  dsimp only [toFabric]
  split
  · rfl
  · rfl

theorem cores_writeBack (l : L2Line) : (s.writeBack l).cores = s.cores := by
  unfold writeBack
  extract_lets s1
  have hs1 : s1.cores = s.cores := by
    unfold s1
    split
    · exact foldl_keeps State.cores (fun s b => cores_hbmWrite s _ _) _ s
    split
    · rfl
    · exact cores_toFabric s _
  exact hs1

theorem cores_l2Put (l : L2Line) : (s.l2Put l).cores = s.cores := by
  unfold l2Put
  exact foldl_keeps State.cores (f := fun s x => (s.writeBack x).l2Drop x.part x.line) (fun s x => cores_writeBack s x) _ _

theorem cores_setAccessed (leaf : Leaf) : (s.setAccessed leaf).cores = s.cores := by
  dsimp only [setAccessed]
  split
  · rfl
  · exact cores_physWrite s _ _

theorem cores_translate (die : Nat) (w : WalkFor) : (s.translate die w).1.cores = s.cores := by
  unfold translate
  extract_lets d root keep finish
  have hfinish (used : List WalkEntry) (r : Except FaultInfo Leaf × List WalkEntry × Nat) : (finish s used r).1.cores = s.cores := by
    unfold finish
    split
    · rfl
    · extract_lets s1
      dsimp only
      split
      · rfl
      · exact cores_setAccessed s1 _
  split
  · split
    · exact hfinish _ _
    · exact hfinish _ _
  · split
    · rfl
    · exact hfinish _ _

theorem cores_homeLine (w : WalkFor) : (s.homeLine w).1.cores = s.cores := by
  unfold homeLine
  extract_lets line walked
  have hwalked (held : Option L2Line) : (walked held).1.cores = s.cores := by
    unfold walked
    have htranslate := cores_translate s (s.homeOf w.part w.va / 256) w
    split
    case h_1 h =>
      rw [h] at htranslate
      exact htranslate
    case h_2 h =>
      rw [h] at htranslate
      extract_lets g
      split
      · exact htranslate
      · exact (cores_l2Put _ _).trans htranslate
  split
  case h_1 l _ =>
    split
    · rfl
    · exact hwalked (some l)
  case h_2 => exact hwalked none

theorem cores_peerAnswer (w : WalkFor) : (s.peerAnswer w).1.cores = s.cores := by
  dsimp only [peerAnswer]
  split
  · rfl
  · rfl

theorem cores_unitLine (w : WalkFor) : (s.unitLine w).1.cores = s.cores := by
  unfold unitLine
  extract_lets line write pkg held r ask
  have hask (held : Option L2Line) : (ask held).1.cores = s.cores := by
    unfold ask
    have hr : r.1.cores = s.cores := (cores_peerAnswer _ w).trans (cores_toFabric s _)
    split
    · exact hr
    · exact (cores_l2Put _ _).trans hr
  have hheld (s3 : State) (b : List Byte) : ((match s3.l2Find w.part line with
      | some l => s3.l2Put { l with data := memStore [] 0 b, dirty := List.range 256 }
      | none => s3)).cores = s3.cores := by
    split
    · exact cores_l2Put _ _
    · rfl
  split
  · clear_value held
    cases held with
    | some l =>
      dsimp only
      split
      · rfl
      · exact hask (some l)
    | none => exact hask none
  · split
    · exact cores_homeLine s w
    · extract_lets s1
      have hs1 : s1.cores = s.cores := foldl_keeps State.cores (fun s p => cores_toFabric s _) _ _
      have hline := cores_homeLine s1 w
      split
      case h_1 h =>
        rw [h] at hline
        split
        · exact hline.trans hs1
        · split
          case h_1 hp =>
            have hpeer := congrArg (fun x => x.1.cores) hp
            exact (hheld _ _).trans ((hpeer.symm.trans (cores_peerAnswer _ w)).trans (hline.trans hs1))
          case h_2 hp =>
            have hpeer := congrArg (fun x => x.1.cores) hp
            exact (hpeer.symm.trans (cores_peerAnswer _ w)).trans (hline.trans hs1)
      case h_2 => exact hline.trans hs1

/-! ## Reads of units -/

theorem cores_unitReadLine (part ctx : Nat) (priv : Bool) (va n : Nat) : (s.unitReadLine part ctx priv va n).1.cores = s.cores := by
  unfold unitReadLine
  split
  · rfl
  have hline := cores_unitLine s { part := part, ctx := ctx, va := va, acc := .load, priv := priv }
  split
  case h_1 h =>
    rw [h] at hline
    exact hline
  case h_2 h =>
    rw [h] at hline
    split
    · exact hline
    · exact hline

theorem cores_unitRead (part ctx va n : Nat) : (s.unitRead part ctx va n).1.cores = s.cores := by
  refine foldl_keeps (fun acc : State × Except FaultInfo (List Byte) => acc.1.cores) (fun acc _ => ?_) _ (s, .ok [])
  obtain ⟨u, r⟩ := acc
  cases r with
  | error f => rfl
  | ok b =>
    dsimp only
    split
    · rfl
    have hline := cores_unitReadLine u part ctx true (va + b.length) (min (n - b.length) (256 - (va + b.length) % 256))
    split
    case h_1 h =>
      rw [h] at hline
      exact hline
    case h_2 h =>
      rw [h] at hline
      exact hline

theorem cores_dirSearch (part ctx dir size : Nat) (key : BitVec 128) (n i : Nat) : (dirSearch part ctx dir size key n i s).1.cores = s.cores := by
  induction n generalizing s i with
  | zero => rfl
  | succ n ih =>
    unfold dirSearch
    have hread := cores_unitRead s part ctx (dir + 32 * (i % size)) 32
    split
    case h_1 h =>
      rw [h] at hread
      exact hread
    case h_2 h =>
      rw [h] at hread
      split
      · exact hread
      split
      · exact hread
      · exact (ih _ _).trans hread

/-- The search for an actor's record leaves every core as it was (R31). -/
theorem cores_findRecord (a : ActorId) (e : ClassEntry) (idx : Nat) : (s.findRecord a e idx).1.cores = s.cores := cores_dirSearch ..

end State
end Sys2Proof.Machine
end

section
/-! SUPPORT. The actor slots of a core (R33, R34, R38-R40): what a write of one leaves, and what an ASLOT write and waiting orders do where there are none. -/

namespace Sys2Proof.Machine

open Sys2Proof.Claims

/-! ## Entries of a table -/

theorem find?_put_same {α : Type} (k : Nat) (v : α) (t : Table α) : (put k v t).find? (fun e => e.1 == k) = some (k, v) := by
  induction t with
  | nil => simp [put]
  | cons e t ih =>
    obtain ⟨j, w⟩ := e
    simp only [put]
    split
    · simp
    · split
      · simp
      · have hne : j ≠ k := by omega
        rw [List.find?_cons_of_neg (by simpa using hne), ih]

theorem find?_drop_same {α : Type} (k : Nat) (t : Table α) : (drop k t).find? (fun e => e.1 == k) = none := by
  induction t with
  | nil => rfl
  | cons e t ih =>
    obtain ⟨j, w⟩ := e
    simp only [drop]
    split
    case isTrue => exact ih
    case isFalse hne => rw [List.find?_cons_of_neg (by simpa using hne), ih]

namespace State
variable (s : State)

/-! ## One slot -/

theorem slotAt_of_actors {s : State} {core j : Nat} {l : Table ActorSlot} (h : (s.core core).actors = l) :
    slotAt s core j = (l.find? fun e => e.1 == j).map (·.2) := by rw [slotAt, h]

/-- The entries of a slot after its update. -/
theorem actors_updActor {core j : Nat} {f : ActorSlot → ActorSlot} {P : ActorSlot → Prop} (hf : ∀ e ∈ (s.core core).actors, e.1 = j → P (f e.2)) :
    ∀ e ∈ ((s.updActor core j f).core core).actors, e.1 = j → P e.2 := by
  rw [updActor, core_updCore]
  intro e he hj
  obtain ⟨e', hmem, rfl⟩ := List.mem_map.1 he
  split at hj
  case isTrue hj' =>
    rw [if_pos hj']
    exact hf e' hmem hj'
  case isFalse hj' => exact absurd hj hj'

/-! ## Reports to homes -/

theorem sent_toHome (core q : Nat) (a : ActorId) (e : Event) : Sent (s.toHome core q a e) e := ⟨_, List.mem_append_right _ List.mem_cons_self⟩

theorem sent_mono {s t : State} {e : Event} (h : Sent s e) (hsent : s.sent ⊆ t.sent) : Sent t e := by
  obtain ⟨n, hmem⟩ := h
  exact ⟨n, hsent hmem⟩

theorem subset_sent_emit (d : Nat) (e : Event) : s.sent ⊆ (s.emit d e).sent := List.subset_append_left _ _

theorem subset_sent_toHome (core q : Nat) (a : ActorId) (e : Event) : s.sent ⊆ (s.toHome core q a e).sent := List.subset_append_left _ _

/-! ## Where only the actors of one core change -/

/-- Of the cores only `core` changes, and of it only its actors; what has been sent stays. -/
structure ActorsOnly (s t : State) (core : Nat) : Prop where
  other : ∀ k, k ≠ core → t.core k = s.core k
  same : { t.core core with actors := [] } = { s.core core with actors := [] }
  sent : s.sent ⊆ t.sent

namespace ActorsOnly
variable {s t u : State} {core : Nat}

theorem refl (s : State) (core : Nat) : ActorsOnly s s core := ⟨fun _ _ => rfl, rfl, fun _ h => h⟩

theorem trans (hst : ActorsOnly s t core) (htu : ActorsOnly t u core) : ActorsOnly s u core :=
  ⟨fun k hk => (htu.other k hk).trans (hst.other k hk), htu.same.trans hst.same, fun _ h => htu.sent (hst.sent h)⟩

theorem updActor (s : State) (core j : Nat) (f : ActorSlot → ActorSlot) : ActorsOnly s (s.updActor core j f) core :=
  ⟨fun _ hk => core_setCore_other s hk _, by rw [State.updActor, core_updCore], fun _ h => h⟩

theorem toHome (s : State) (core q : Nat) (a : ActorId) (e : Event) : ActorsOnly s (s.toHome core q a e) core :=
  ⟨fun _ _ => rfl, rfl, subset_sent_toHome s core q a e⟩

theorem emit (s : State) (core d : Nat) (e : Event) : ActorsOnly s (s.emit d e) core := ⟨fun _ _ => rfl, rfl, subset_sent_emit s d e⟩

theorem retire_ (s : State) (core j : Nat) (o : Option ActOrder) : ActorsOnly s (s.retire_ core j o) core := by
  unfold State.retire_
  split
  · exact refl s core
  · dsimp only
    split
    · exact (updActor s core j _).trans (emit _ core _ _)
    · exact ((updActor s core j _).trans (toHome _ core _ _ _)).trans (emit _ core _ _)

theorem aslotRetire (s : State) (core : Nat) : ActorsOnly s (s.aslotRetire core) core := by
  unfold State.aslotRetire
  generalize ((s.core core).actors.filter fun e => e.2.noticed && s.actorIdle core e.1 e.2) = l
  induction l generalizing s with
  | nil => exact refl s core
  | cons e l ih => exact (retire_ s core e.1 none).trans (ih _)

/-- An actor that goes live changes its core's actors alone. -/
theorem nowLive (s : State) (core j : Nat) (x : ActorSlot) (e : Event) : ActorsOnly s (s.nowLive core j x e) core := by
  unfold State.nowLive
  extract_lets s1
  have hs1 : ActorsOnly s s1 core := (toHome s core x.slice x.actor e).trans (emit _ core _ _)
  split
  · exact ((hs1.trans (updActor _ core j _)).trans (toHome _ core _ _ _)).trans (aslotRetire _ core)
  · exact hs1

end ActorsOnly

/-- The report of an actor that goes live is sent. -/
theorem sent_nowLive (core j : Nat) (x : ActorSlot) (e : Event) : Sent (s.nowLive core j x e) e := by
  have hs1 : Sent ((s.toHome core x.slice x.actor e).offer core) e := sent_mono (sent_toHome s core x.slice x.actor e) (subset_sent_emit _ _ _)
  unfold nowLive
  dsimp only
  split
  · exact sent_mono hs1 (((ActorsOnly.updActor _ core j _).trans (.toHome _ core _ _ _)).trans (.aslotRetire _ core)).sent
  · exact hs1

/-- Where no ASLOT write is under way, an actor that goes live reports, and what may start is looked for. -/
theorem nowLive_of_no_write {s : State} {core : Nat} (h : (s.core core).aslotTo = none) (j : Nat) (x : ActorSlot) (e : Event) :
    s.nowLive core j x e = (s.toHome core x.slice x.actor e).offer core := by
  simp [nowLive, h]

/-- On a core with no ASLOT write and no order that waits nothing is served. -/
theorem serve_of_quiet {s : State} {core : Nat} (h : Quiet s core) : (s.aslotCheck core).serveOrders core = s := by
  obtain ⟨hwrite, horders⟩ := h
  simp [aslotCheck, serveOrders, hwrite, horders]

theorem quiet_congr {s t : State} {core : Nat} (hwrite : (t.core core).aslotTo = (s.core core).aslotTo) (horders : (t.core core).orders = (s.core core).orders)
    (h : Quiet s core) : Quiet t core := ⟨hwrite.trans h.1, horders.trans h.2⟩

/-- A message goes back to its home. -/
theorem sent_bounce (core q : Nat) (a : ActorId) (m : Msg) :
    ∃ p, Sent (s.bounce core q a m) (.bouncedMessage q p) ∧ p.msg = { m with flags := m.flags ||| 2 } ∧ p.part = a.part ∧ p.ctx = a.ctx :=
  ⟨_, sent_toHome .., rfl, rfl, rfl⟩

theorem subset_sent_queueFreed (core : Nat) (high : Bool) : s.sent ⊆ (s.queueFreed core high).sent := by
  unfold queueFreed
  generalize (s.slices.filter _) = l
  induction l generalizing s with
  | nil => exact fun _ h => h
  | cons e l ih => exact fun _ h => ih _ (List.mem_append_left _ h)

/-! ## A slot for a message's task (R44) -/

theorem has_slots_updStrand (r : Ref) (f : Strand → Strand) (k n : Nat) : has n ((s.updStrand r f).core k).slots = has n (s.core k).slots := by
  unfold updStrand
  split
  case isTrue hocc =>
    by_cases hk : k = r.core
    · subst hk
      rw [setStrand, core_updCore]
      by_cases hn : n = r.slot
      · subst hn
        exact (has_put_same ..).trans hocc.symm
      · exact has_put_other hn _ _
    · rw [setStrand, updCore, core_setCore_other s hk]
  case isFalse => rfl

theorem has_slots_latchMonitor (r : Ref) (code k n : Nat) : has n ((s.latchMonitor r code).core k).slots = has n (s.core k).slots := by
  dsimp only [latchMonitor]
  split
  · rfl
  · split
    · exact has_slots_updStrand s r _ k n
    · exact has_slots_updStrand s r _ k n

theorem has_slots_writeStore (core off : Nat) (data : List Byte) (k n : Nat) :
    has n ((s.writeStore core off data).core k).slots = has n (s.core k).slots := by
  have hstored : has n ((s.updCore core fun c => { c with store := memStore c.store off data }).core k).slots = has n (s.core k).slots := by
    by_cases hk : k = core
    · rw [hk, core_updCore]
    · rw [updCore, core_setCore_other s hk]
  exact ((foldl_keeps (fun s : State => has n (s.core k).slots) (fun s r => has_slots_latchMonitor s r 0 k n) _ _).trans
    (foldl_keeps (fun s : State => has n (s.core k).slots) (f := fun s r => s.emit 0 (.joinWake r)) (fun _ _ => rfl) _ _)).trans hstored

/-- The core whose store is written, but for its strands. -/
theorem bare_core_writeStore (core off : Nat) (data : List Byte) :
    bare ((s.writeStore core off data).core core) = bare { s.core core with store := memStore (s.core core).store off data } := by
  have hcore := slotsOnly_writeStore s core off data core
  rwa [core_updCore] at hcore

theorem bare_core_writeStore_other {core k : Nat} (hk : k ≠ core) (off : Nat) (data : List Byte) :
    bare ((s.writeStore core off data).core k) = bare (s.core k) := by
  have hcore := slotsOnly_writeStore s core off data k
  rwa [updCore, core_setCore_other s hk] at hcore

/-- Of a core all but its strands and its store is as before. -/
theorem writeStore_keeps (core off : Nat) (data : List Byte) (k : Nat) {α : Type} (g : Core → α) (hg : ∀ c m, g { bare c with store := m } = g c) :
    g ((s.writeStore core off data).core k) = g (s.core k) := by
  rw [← hg _ [], ← hg (s.core k) []]
  by_cases hk : k = core
  · subst hk
    exact (congrArg (fun c : Core => g { c with store := [] }) (bare_core_writeStore s k off data) :)
  · exact (congrArg (fun c : Core => g { c with store := [] }) (bare_core_writeStore_other s hk off data) :)

/-- The slot that a message's task takes does not depend on the store. -/
theorem messageSlot_writeStore (core off : Nat) (data : List Byte) (high : Bool) :
    (s.writeStore core off data).messageSlot core high = s.messageSlot core high := by
  have htasks : (s.writeStore core off data).tasks = s.tasks := (congrArg State.tasks (offCore_writeStore s core off data) :)
  have hcoresched := writeStore_keeps s core off data core Core.coresched fun _ _ => rfl
  have hreserved := writeStore_keeps s core off data core Core.reserved fun _ _ => rfl
  unfold messageSlot lineHeld lowFree epiReserved
  simp only [htasks, hcoresched, hreserved, has_slots_writeStore]

end State
end Sys2Proof.Machine
end

section
/-! PROOF. What a core does with orders and its actor slots (O34). -/

namespace Sys2Proof.Proofs

open Sys2Proof.Machine Sys2Proof.Claims

/-- An actor's slot has been filled: it is live, and its home is told (R39). -/
def filled (s : State) (core j : Nat) (x : ActorSlot) : State :=
  (s.updActor core j fun x => { x with phase := .live, lastUse := s.now }).nowLive core j x (.ready x.slice x.actor core j)

section
variable {s : State} {core : Nat}

/-! ## Orders (R37-R39, R330, R369) -/

section
variable {o : ActOrder}

theorem exec_activationOrder_again (hordered : (s.core core).orderedAt = some s.now) (he : s.ev = .activationOrder core o) :
    exec .activationOrder s = .next (s.emit 1 (.activationOrder core o)) := by
  simp only [exec_activationOrder, execActivationOrder, he, hordered, if_true]

section
variable (hordered : (s.core core).orderedAt ≠ some s.now)
include hordered

theorem exec_activationOrder_refused (hwrite : (s.core core).aslotTo ≠ none) (he : s.ev = .activationOrder core o) :
    exec .activationOrder s = .next ((s.refuse core o).ordered core) := by
  simp only [exec_activationOrder, execActivationOrder, he, if_neg hordered, Option.isSome_iff_ne_none.2 hwrite, if_true]

variable (hwrite : (s.core core).aslotTo = none)
include hwrite

theorem exec_activationOrder_unfit (hunfit : State.unfitFor (s.core core) o = true) (he : s.ev = .activationOrder core o) :
    exec .activationOrder s = .next ((s.answerUnfit core o).ordered core) := by
  simp only [exec_activationOrder, execActivationOrder, he, if_neg hordered, hwrite, Option.isSome_none, Bool.false_eq_true, if_false, hunfit, if_true]

theorem exec_activationOrder_fits (hfits : State.unfitFor (s.core core) o = false) (he : s.ev = .activationOrder core o) :
    exec .activationOrder s = .next ((s.placeOrder core o).elim
      (if o.entry.attr.toNat % 4 = 2 then (s.updCore core fun c => { c with orders := c.orders ++ [o] }).ordered core else (s.refuse core o).ordered core)
      fun t => t.ordered core) := by
  simp only [exec_activationOrder, execActivationOrder, he, if_neg hordered, hwrite, Option.isSome_none, Bool.false_eq_true, if_false, hfits,
    Bits.get_low]
  cases s.placeOrder core o <;> rfl

end

theorem unfitFor_of (h : (s.core core).aslotWritten = false ∨ State.aslotCount (s.core core).aslot = 0 ∨
    State.aslotSize (s.core core).aslot < o.entry.stLines.toNat) : State.unfitFor (s.core core) o = true := by
  obtain h | h | h := h <;> simp [State.unfitFor, h]

theorem unfitFor_of_fits (hwritten : (s.core core).aslotWritten = true) (hcount : State.aslotCount (s.core core).aslot ≠ 0)
    (hsize : o.entry.stLines.toNat ≤ State.aslotSize (s.core core).aslot) : State.unfitFor (s.core core) o = false := by
  simp [State.unfitFor, hwritten, hcount, hsize]

/-- An order's slot starts to fill. -/
theorem fillSlot_spec (s : State) (core j : Nat) (o : ActOrder) : Sent (s.fillSlot core j o) (.slotFillDone core j) ∧
    ∃ x, slotAt (s.fillSlot core j o) core j = some x ∧ x.actor = o.actor ∧ x.phase = .filling ∧ x.head = some o.msg := by
  unfold State.fillSlot
  generalize s.findRecord o.actor o.entry o.dirIndex = r
  obtain ⟨u, found⟩ := r
  have hput (y : ActorSlot) : slotAt (u.updCore core fun c => { c with actors := put j y c.actors }) core j = some y := by
    rw [State.slotAt_of_actors (congrArg Core.actors (State.core_updCore ..)), find?_put_same, Option.map_some]
  exact ⟨⟨_, List.mem_append_right _ List.mem_cons_self⟩, _, hput _, rfl, rfl, rfl⟩

end

/-! ## Retirements (R38, R40, R371) -/

section
variable {j : Nat} {x : ActorSlot}

theorem exec_retireRequest_idle {q : Nat} {a : ActorId} (hactor : actorAt s core a = some (j, x)) (hidle : s.actorIdle core j x = true)
    (he : s.ev = .retireRequest core q a) : exec .retireRequest s = .next (s.retire_ core j none) := by
  rw [actorAt] at hactor
  simp only [exec_retireRequest, execRetireRequest, he, hactor, hidle, if_true]

theorem exec_retireRequest_busy {q : Nat} {a : ActorId} (hactor : actorAt s core a = some (j, x)) (hidle : s.actorIdle core j x = false)
    (he : s.ev = .retireRequest core q a) : exec .retireRequest s = .next (s.toHome core q a (.refused q a core false)) := by
  rw [actorAt] at hactor
  simp only [exec_retireRequest, execRetireRequest, he, hactor, hidle, Bool.false_eq_true, if_false]

/-- An actor's retirement starts: its notice leaves, unless it has left already, and its bytes are on their way to its record. -/
theorem retire_spec (hslot : slotAt s core j = some x) (o : Option ActOrder) :
    (∀ e ∈ ((s.retire_ core j o).core core).actors, e.1 = j → e.2.phase = .retiring) ∧
      (x.noticed = false → Sent (s.retire_ core j o) (.retireNotice x.slice x.actor core)) ∧
      (s.now + (32 + 8 * x.entry.stLines.toNat), .retirementWritebackDone core j) ∈ (s.retire_ core j o).sent := by
  obtain ⟨⟨k, y⟩, hfind, hy⟩ := Option.map_eq_some_iff.1 hslot
  obtain rfl : y = x := hy
  have hphase : ∀ e ∈ ((s.updActor core j fun y => { y with phase := .retiring, next := o }).core core).actors, e.1 = j → e.2.phase = .retiring :=
    State.actors_updActor s (P := fun y => y.phase = .retiring) fun _ _ _ => rfl
  unfold State.retire_
  rw [hfind]
  dsimp only
  cases y.noticed with
  | true => exact ⟨hphase, by simp, List.mem_append_right _ List.mem_cons_self⟩
  | false =>
    refine ⟨hphase, fun _ => ?_, List.mem_append_right _ List.mem_cons_self⟩
    exact State.sent_mono (State.sent_toHome ..) (State.subset_sent_emit ..)

section
variable {u : State} (hactors : (s.core core).actors = [(j, x)]) (hphase : x.phase = .retiring)
include hactors hphase

theorem exec_retirementWritebackDone_written (hwritten : s.writeRecord (s.core core).edition x.actor x.entry x.dirIndex
      (memLoad (s.core core).store (State.slotOffset (s.core core) j) (256 * x.entry.stLines.toNat)) = (u, none)) (hnext : x.next = none)
    (he : s.ev = .retirementWritebackDone core j) : exec .retirementWritebackDone s =
      .next (((((u.updCore core fun c => { c with actors := drop j c.actors, retFaults := c.retFaults.filter (· != (x.actor.part, x.actor.ctx, x.actor.cls)) }).toHome
        core x.slice x.actor (.retired x.slice x.actor core)).aslotCheck core).serveOrders core)) := by
  simp [exec_retirementWritebackDone, execRetirementWritebackDone, he, hactors, hphase, hwritten, hnext]

theorem exec_retirementWritebackDone_failed {f : Cause} (hfailed : s.writeRecord (s.core core).edition x.actor x.entry x.dirIndex
      (memLoad (s.core core).store (State.slotOffset (s.core core) j) (256 * x.entry.stLines.toNat)) = (u, some f))
    (he : s.ev = .retirementWritebackDone core j) : exec .retirementWritebackDone s = .next (u.retireFails core j x f) := by
  simp [exec_retirementWritebackDone, execRetirementWritebackDone, he, hactors, hphase, hfailed]

end

/-- A retirement that fails leaves the actor live, and its home is told. -/
theorem retireFails_spec {u : State} (hquiet : Quiet u core) (hnext : x.next = none) (f : Cause) :
    (∀ e ∈ ((u.retireFails core j x f).core core).actors, e.1 = j → e.2.phase = .live) ∧
      Sent (u.retireFails core j x f) (.cancel x.slice x.actor core j) := by
  obtain ⟨hwrite, horders⟩ := hquiet
  unfold State.retireFails
  extract_lets a key quiet s1 s2 s3 s4
  have hs1 : s1.cores = u.cores := by
    unfold s1
    split
    · rfl
    · obtain ⟨m, hreport⟩ := State.report_eq u a.part (some a.ctx) EventCode.actorStateFault.byte 1 core (BitVec.ofNat 64 (f.1 + 256 * f.2))
        (Bytes.ofNat 2 a.cls.toNat ++ [0, 0] ++ Bytes.ofNat 16 a.key.toNat)
      rw [hreport]
      rfl
  have hs4 : s4 = s3 := by
    unfold s4
    rw [hnext]
  have hquiet : Quiet s3 core := by
    have hcore : s3.core core = s2.core core := rfl
    have hcore1 : s1.core core = u.core core := State.core_congr hs1 core
    unfold Quiet
    rw [hcore, show s2.core core = _ from State.core_updCore _ core _, State.core_updCore, hcore1]
    exact ⟨by rw [hwrite]; rfl, horders⟩
  have hlive : ∀ e ∈ (s2.core core).actors, e.1 = j → e.2.phase = .live := by
    unfold s2
    exact State.actors_updActor _ (P := fun y => y.phase = .live) fun _ _ _ => rfl
  rw [hs4, State.serve_of_quiet hquiet]
  exact ⟨hlive, State.sent_toHome ..⟩

/-- A retirement that succeeds leaves the slot free, and the actor's home is told. -/
theorem retired_spec {u : State} (hquiet : Quiet u core) {g : Core → Core} (hdrop : ∀ c, (g c).actors = drop j c.actors)
    (hwrite : ∀ c, (g c).aslotTo = c.aslotTo) (horders : ∀ c, (g c).orders = c.orders) (q : Nat) (a : ActorId) :
    let t := (((u.updCore core g).toHome core q a (.retired q a core)).aslotCheck core).serveOrders core
    slotAt t core j = none ∧ Sent t (.retired q a core) := by
  intro t
  have hcore : ((u.updCore core g).toHome core q a (.retired q a core)).core core = g (u.core core) := State.core_updCore u core g
  have hquiet' : Quiet ((u.updCore core g).toHome core q a (.retired q a core)) core := by
    refine State.quiet_congr ?_ ?_ hquiet
    · rw [hcore, hwrite]
    · rw [hcore, horders]
  have ht : t = _ := State.serve_of_quiet hquiet'
  rw [ht]
  refine ⟨?_, State.sent_toHome ..⟩
  rw [State.slotAt_of_actors ((congrArg Core.actors hcore).trans (hdrop _)), find?_drop_same, Option.map_none]

end
/-! ## Fills (R39) -/

section
variable {j : Nat} {x : ActorSlot} {u : State} (hactors : (s.core core).actors = [(j, x)]) (hphase : x.phase = .filling)
include hactors hphase

theorem find?_filling : ((s.core core).actors.find? fun e => e.1 == j && e.2.phase == .filling) = some (j, x) := by
  simp [hactors, hphase]

/-- A record is in its slot. -/
theorem exec_slotFillDone_hit {v : State} {va : Nat} {b : List Byte} (hfound : s.findRecord x.actor x.entry x.dirIndex = (u, .ok (.hit va)))
    (hread : u.unitRead x.actor.part x.actor.ctx va (256 * x.entry.stLines.toNat) = (v, .ok b)) (he : s.ev = .slotFillDone core j) :
    exec .slotFillDone s = .next (filled (v.writeStore core (State.slotOffset (s.core core) j) b) core j x) := by
  simp only [exec_slotFillDone, execSlotFillDone, he, find?_filling hactors hphase, hfound, hread, filled]

/-- A new actor's slot is zero; its constructor, if it has one, comes first. -/
theorem exec_slotFillDone_new {i : Nat} (hfound : s.findRecord x.actor x.entry x.dirIndex = (u, .ok (.free i))) (he : s.ev = .slotFillDone core j) :
    exec .slotFillDone s = .next (
      let t := u.writeStore core (State.slotOffset (s.core core) j) (List.replicate (State.slotBytes (s.core core)) 0)
      if x.entry.attr.getLsbD 3 then t.queueCtor core j x else filled t core j x) := by
  simp only [exec_slotFillDone, execSlotFillDone, he, find?_filling hactors hphase, hfound, filled]

end

/-- A constructor starts in a free slot (R39). -/
theorem queueCtor_starts {j slot : Nat} {x : ActorSlot} {m : Msg} (hhead : x.head = some m) (hslot : s.messageSlot core m.high = some slot)
    (hadmitted : State.admitted (s.core core) x.actor.ctx = true) :
    s.queueCtor core j x = (s.updActor core j fun x => { x with head := none }).startMessage core slot j x m true := by
  simp only [State.queueCtor, hhead, hslot, hadmitted]

/-- The constructor's task stands in its slot, and its actor's is as before but for its head. -/
theorem ctor_spec {j slot : Nat} {x : ActorSlot} {m : Msg} (hhead : x.head = some m) (hslot : s.messageSlot core m.high = some slot)
    (hadmitted : State.admitted (s.core core) x.actor.ctx = true) (hactors : (s.core core).actors = [(j, x)]) (hphase : x.phase = .filling) :
    let t := s.queueCtor core j x
    t.occupied ⟨core, slot⟩ = true ∧ (t.strand ⟨core, slot⟩).kind = .constructor ∧
      (t.strand ⟨core, slot⟩).regs.pc = BitVec.ofNat 64 (x.entry.code.toNat + 8 * x.entry.ctor.toNat) ∧
      (∀ e ∈ (t.core core).actors, e.1 = j → e.2.phase = .filling ∧ e.2.head = none) := by
  intro t
  have ht : t = _ := queueCtor_starts hhead hslot hadmitted
  obtain ⟨hocc, ⟨ids, c, b, hstrand⟩, hkept, -⟩ := State.startMessage_spec (s.updActor core j fun x => { x with head := none }) core slot j x m true
  have hslots : ∀ e ∈ ((s.updActor core j fun x => { x with head := none }).core core).actors, e.1 = j → e.2.phase = .filling ∧ e.2.head = none := by
    refine State.actors_updActor s (P := fun y => y.phase = .filling ∧ y.head = none) ?_
    rw [hactors]
    simp [hphase]
  rw [ht, hstrand]
  refine ⟨hocc, rfl, ?_, ?_⟩
  · obtain ⟨v, hregs⟩ := launchRegs_eq (State.messageLaunch ((s.updActor core j fun x => { x with head := none }).core core) slot j x m true
      (s.updActor core j fun x => { x with head := none }).ids)
    rw [startedStrand, hregs]
    rfl
  · have hcore := hkept core
    rw [State.core_updCore] at hcore
    have hactors' : ((State.startMessage (s.updActor core j fun x => { x with head := none }) core slot j x m true).core core).actors =
        ((s.updActor core j fun x => { x with head := none }).core core).actors := (congrArg Core.actors hcore :)
    rw [hactors']
    exact hslots

/-- A slot that is filled is live, and its home is told. -/
theorem filled_spec {j : Nat} (v : State) (off : Nat) (b : List Byte) (x : ActorSlot) (hwrite : (v.core core).aslotTo = none) :
    let t := filled (v.writeStore core off b) core j x
    (t.core core).store = memStore (v.core core).store off b ∧ (∀ e ∈ (t.core core).actors, e.1 = j → e.2.phase = .live) ∧
      Sent t (.ready x.slice x.actor core j) ∧ Sent t (.taskStart core none) := by
  intro t
  have hlive : ∀ e ∈ (((v.writeStore core off b).updActor core j fun x => { x with phase := .live, lastUse := (v.writeStore core off b).now }).core core).actors,
      e.1 = j → e.2.phase = .live := State.actors_updActor _ (P := fun y => y.phase = .live) fun _ _ _ => rfl
  have hwrite' : (((v.writeStore core off b).updActor core j fun x => { x with phase := .live, lastUse := (v.writeStore core off b).now }).core core).aslotTo = none := by
    rw [State.updActor, State.core_updCore]
    exact (State.writeStore_keeps v core off b core Core.aslotTo fun _ _ => rfl).trans hwrite
  have ht : t = _ := State.nowLive_of_no_write hwrite' j x (.ready x.slice x.actor core j)
  rw [ht]
  refine ⟨?_, hlive, State.sent_mono (State.sent_toHome ..) (State.subset_sent_emit ..), ⟨_, List.mem_append_right _ List.mem_cons_self⟩⟩
  have hstore : ((v.writeStore core off b).core core).store = memStore (v.core core).store off b :=
    congrArg Core.store (State.bare_core_writeStore v core off b)
  rw [State.offer, State.core_emit, State.toHome, State.core_emitOrdered, State.updActor, State.core_updCore]
  exact hstore

/-! ## Moves (R39) -/

/-- An idle actor's move starts. -/
theorem exec_moveOrder_starts {q dest j k : Nat} {a : ActorId} {x : Eph} {y : ActorSlot} (hx : s.eph q a = some x) (hlive : x.phase = .live)
    (hcore : x.core = core) (hne : core ≠ dest) (hactor : actorAt s core a = some (j, y)) (hfree : State.freeActorSlot (s.core dest) = some k)
    (hidle : s.actorIdle core j y = true) (hsize : y.entry.stLines.toNat ≤ State.aslotSize (s.core dest).aslot) (hwrite : (s.core dest).aslotTo = none)
    (howner : s.owner (quireOf dest) = some a.part) (hswitch : (s.slice q).switching = false) (he : s.ev = .moveOrder q a dest) :
    exec .moveOrder s = .next ((((s.leaveLive q x .moving).updActor core j fun y => { y with phase := .moving }).updCore
      dest fun c => { c with actors := put k { y with phase := .moving } c.actors }).emitNet
      (10 + travelCores core dest + 8 * y.entry.stLines.toNat) (.moveCopyComplete core j dest k)) := by
  subst hcore
  rw [actorAt] at hactor
  simp [exec_moveOrder, execMoveOrder, he, hx, hlive, hne, hactor, hfree, hidle, hsize, hwrite, howner, holdsReport_of_not_switching hswitch]

/-- A move's bytes are at the new core. -/
theorem exec_moveCopyComplete_of_actors {j dest k : Nat} {x : ActorSlot} (hactors : (s.core core).actors = [(j, x)]) (hphase : x.phase = .moving)
    (he : s.ev = .moveCopyComplete core j dest k) : exec .moveCopyComplete s = .next (
      let b := memLoad (s.core core).store (State.slotOffset (s.core core) j) (256 * x.entry.stLines.toNat)
      let s1 := (s.writeStore dest (State.slotOffset (s.core dest) k) b).updActor dest k fun y => { y with phase := .live }
      (((s1.updCore core fun c => { c with actors := drop j c.actors }).nowLive dest k x (.moved x.slice x.actor dest k)).aslotCheck core).serveOrders core) := by
  have hfind : ((s.core core).actors.find? fun e => e.1 == j && e.2.phase == .moving) = some (j, x) := by
    simp [hactors, hphase]
  simp only [exec_moveCopyComplete, execMoveCopyComplete, he, hfind]

/-- The bytes are stored, the old slot is free, and the actor's home is told. -/
theorem moved_spec {j dest k : Nat} (hne : core ≠ dest) (hquiet : Quiet s core) (off : Nat) (b : List Byte) (x : ActorSlot) :
    let s1 := (s.writeStore dest off b).updActor dest k fun y => { y with phase := .live }
    let t := (((s1.updCore core fun c => { c with actors := drop j c.actors }).nowLive dest k x (.moved x.slice x.actor dest k)).aslotCheck core).serveOrders core
    (t.core dest).store = memStore (s.core dest).store off b ∧ slotAt t core j = none ∧ Sent t (.moved x.slice x.actor dest k) := by
  intro s1 t
  have hlive := State.ActorsOnly.nowLive (s1.updCore core fun c => { c with actors := drop j c.actors }) dest k x (.moved x.slice x.actor dest k)
  have hsent := State.sent_nowLive (s1.updCore core fun c => { c with actors := drop j c.actors }) dest k x (.moved x.slice x.actor dest k)
  -- the old core keeps all but the slot
  have hold : (State.nowLive (s1.updCore core fun c => { c with actors := drop j c.actors }) dest k x (.moved x.slice x.actor dest k)).core core =
      { s1.core core with actors := drop j (s1.core core).actors } := by
    rw [hlive.other core hne, State.core_updCore]
  have hcore1 : s1.core core = (s.writeStore dest off b).core core := State.core_setCore_other _ hne _
  have hquiet' : Quiet (State.nowLive (s1.updCore core fun c => { c with actors := drop j c.actors }) dest k x (.moved x.slice x.actor dest k)) core := by
    refine State.quiet_congr ?_ ?_ hquiet
    · rw [hold, hcore1]
      exact State.writeStore_keeps s dest off b core Core.aslotTo fun _ _ => rfl
    · rw [hold, hcore1]
      exact State.writeStore_keeps s dest off b core Core.orders fun _ _ => rfl
  have ht : t = _ := State.serve_of_quiet hquiet'
  rw [ht]
  refine ⟨?_, ?_, hsent⟩
  · generalize hb : memStore (s.core dest).store off b = m
    have hstored : ((s.writeStore dest off b).core dest).store = m :=
      (congrArg Core.store (State.bare_core_writeStore s dest off b) :).trans hb
    have hnew : (s1.updCore core fun c => { c with actors := drop j c.actors }).core dest = s1.core dest := State.core_setCore_other _ hne.symm _
    have hnow := (congrArg Core.store hlive.same :)
    have hcore2 : (s1.core dest).store = ((s.writeStore dest off b).core dest).store := by
      unfold s1
      rw [State.updActor, State.core_updCore]
    rw [hnew] at hnow
    exact hnow.trans (hcore2.trans hstored)
  · rw [State.slotAt_of_actors (congrArg Core.actors hold), find?_drop_same, Option.map_none]

/-! ## Messages (R34, R44) -/

/-- A core with a message taken off the way to it. -/
def arrivedOne (m : Msg) (c : Core) : Core := if m.high then { c with highSent := c.highSent - 1 } else { c with lowSent := c.lowSent - 1 }

/-- A message in its queue. -/
def queuedOne (m : Msg) (q : Arrival) (c : Core) : Core := if m.high then { c with highQ := c.highQ ++ [q] } else { c with lowQ := c.lowQ ++ [q] }

theorem actors_arrivedOne (m : Msg) : ((s.updCore core fun c => if m.high then { c with highSent := c.highSent - 1 } else
    { c with lowSent := c.lowSent - 1 }).core core).actors = (s.core core).actors := by
  rw [State.core_updCore]
  split <;> rfl

/-- A message that no actor's slot takes goes back. -/
theorem exec_messageAtCore_back {q : Nat} {a : ActorId} {m : Msg}
    (hback : ∀ e, ((s.core core).actors.find? fun e => e.2.actor == a && (e.2.phase == .live || e.2.phase == .filling)) = some e → e.2.noticed = true)
    (he : s.ev = .messageAtCore core q a m) :
    exec .messageAtCore s = .next (((s.updCore core (arrivedOne m)).bounce core q a m).queueFreed core m.high) := by
  simp only [exec_messageAtCore, execMessageAtCore, he]
  rw [actors_arrivedOne m]
  split
  case h_1 j x hfind =>
    rw [hback (j, x) hfind, if_pos rfl]
    rfl
  case h_2 => rfl

theorem exec_messageAtCore_queued {q j : Nat} {a : ActorId} {m : Msg} {x : ActorSlot}
    (hfind : ((s.core core).actors.find? fun e => e.2.actor == a && (e.2.phase == .live || e.2.phase == .filling)) = some (j, x)) (hnoticed : x.noticed = false)
    (he : s.ev = .messageAtCore core q a m) :
    exec .messageAtCore s = .next ((((s.updCore core (arrivedOne m)).updCore core
      (queuedOne m { number := s.ids, actor := a, slot := j, msg := m, entry := x.entry })).fresh).offer core) := by
  simp only [exec_messageAtCore, execMessageAtCore, he]
  rw [actors_arrivedOne m, hfind]
  simp only [hnoticed, Bool.false_eq_true, if_false]
  rfl

end

/-- Settles O34: the next state of each event of a core's actor slots is known (`exec_…`), and has the parts that the clause names. -/
theorem actorSlotsOfCores : Obligations.ActorSlotsOfCores := by
  intro s core
  refine ⟨fun o hordered => ?again, fun o hordered hwrite => ?refused, fun o hordered hwrite hunfit => ?unfit,
    fun o j hordered hwritten hcount hsize hwrite hfree => ?fill, fun o hordered hwritten hcount hsize hwrite hfree hvictim => ?none,
    fun q a j x hactor hslot => ?retire, fun j x u hactors hphase hnext => ?retired, fun j x u hactors hphase => ?filled,
    fun q a dest x j y k hx hlive hcore hne hactor hfree hidle hsize hwrite howner hswitch => ?move, fun j dest k x hactors hphase hne hquiet => ?moved,
    fun q a m => ?message⟩
  case again => exact does_of_exec (exec_activationOrder_again hordered) ⟨List.mem_append_right _ List.mem_cons_self, rfl⟩
  case refused => exact does_of_exec (exec_activationOrder_refused hordered hwrite) ⟨State.sent_toHome .., rfl⟩
  case unfit => exact does_of_exec (exec_activationOrder_unfit hordered hwrite (unfitFor_of hunfit)) ⟨State.sent_toHome .., rfl⟩
  case fill =>
    refine does_of_exec (exec_activationOrder_fits hordered hwrite (unfitFor_of_fits hwritten hcount hsize)) ?_
    obtain ⟨hsent, x, hslot, hx⟩ := fillSlot_spec s core j o
    have hplace : s.placeOrder core o = some (s.fillSlot core j o) := by simp only [State.placeOrder, hfree]
    rw [hplace, Option.elim_some]
    exact ⟨hsent, x, (State.slotAt_of_actors (congrArg Core.actors (State.core_updCore (s.fillSlot core j o) core _) :)).trans hslot, hx⟩
  case none =>
    refine does_of_exec (exec_activationOrder_fits hordered hwrite (unfitFor_of_fits hwritten hcount hsize)) ?_
    have hplace : s.placeOrder core o = none := by simp only [State.placeOrder, hfree, hvictim, Option.map_none]
    rw [hplace, Option.elim_none]
    by_cases hpinned : o.entry.attr.toNat % 4 = 2
    · rw [if_pos hpinned, if_pos hpinned]
    · rw [if_neg hpinned, if_neg hpinned]
      exact State.sent_toHome ..
  case retire =>
    cases hidle : s.actorIdle core j x with
    | true =>
      exact does_of_exec (exec_retireRequest_idle hactor hidle) (retire_spec hslot none)
    | false => exact does_of_exec (exec_retireRequest_busy hactor hidle) ⟨State.sent_toHome .., rfl⟩
  case retired =>
    refine ⟨fun hwritten hquiet => ?_, fun f hfailed hquiet => ?_⟩
    · refine does_of_exec (exec_retirementWritebackDone_written hactors hphase hwritten hnext) ?_
      exact retired_spec (g := fun c => { c with actors := drop j c.actors, retFaults := c.retFaults.filter (· != (x.actor.part, x.actor.ctx, x.actor.cls)) })
        hquiet (fun _ => rfl) (fun _ => rfl) (fun _ => rfl) x.slice x.actor
    · exact does_of_exec (exec_retirementWritebackDone_failed hactors hphase hfailed) (retireFails_spec hquiet hnext f)
  case filled =>
    refine ⟨fun v va b hfound hread hwrite => ?_, fun i hfound hctor hwrite => ?_, fun i m slot hfound hctor hhead hslot hadmitted => ?_⟩
    · exact does_of_exec (exec_slotFillDone_hit hactors hphase hfound hread) (filled_spec v _ b x hwrite)
    · refine does_of_exec (exec_slotFillDone_new hactors hphase hfound) ?_
      rw [hctor]
      obtain ⟨hstore, hlive, hready, -⟩ := filled_spec u (State.slotOffset (s.core core) j) (List.replicate (State.slotBytes (s.core core)) 0) x hwrite (j := j)
      exact ⟨hstore, hlive, hready⟩
    · refine does_of_exec (exec_slotFillDone_new hactors hphase hfound) ?_
      rw [hctor]
      have hu : u.cores = s.cores := (congrArg (fun r => r.1.cores) hfound).symm.trans (State.cores_findRecord s x.actor x.entry x.dirIndex)
      exact ctor_spec hhead ((State.messageSlot_writeStore ..).trans hslot)
        ((State.writeStore_keeps u core _ _ core (fun c => State.admitted c x.actor.ctx) fun _ _ => rfl).trans hadmitted)
        ((State.writeStore_keeps u core _ _ core Core.actors fun _ _ => rfl).trans ((congrArg Core.actors (State.core_congr hu core)).trans hactors)) hphase
  case move =>
    refine does_of_exec (exec_moveOrder_starts hx hlive hcore hne hactor hfree hidle hsize hwrite howner hswitch) ⟨State.sentBy_emitNet _ _ _, ?_⟩
    have hslots : ∀ e ∈ (((s.leaveLive q x .moving).updActor core j fun y => { y with phase := .moving }).core core).actors, e.1 = j → e.2.phase = .moving :=
      State.actors_updActor _ (P := fun y => y.phase = .moving) fun _ _ _ => rfl
    have hother := State.core_setCore_other ((s.leaveLive q x .moving).updActor core j fun y => { y with phase := .moving }) hne
    intro e he
    exact hslots e (by rwa [← hother])
  case moved => exact does_of_exec (exec_moveCopyComplete_of_actors hactors hphase) (moved_spec hne hquiet _ _ x)
  case message =>
    intro arrived
    have hqueues (t : State) (h : t.core core = arrivedOne m (s.core core)) : arrived t = arrived s := by
      unfold arrived
      rw [h, arrivedOne]
      cases m.high <;> rfl
    have hbounces (hback : ∀ e, ((s.core core).actors.find? fun e => e.2.actor == a && (e.2.phase == .live || e.2.phase == .filling)) = some e → e.2.noticed = true) :
        Does s .messageAtCore (.messageAtCore core q a m) fun t => arrived t = arrived s ∧
          ∃ p, Sent t (.bouncedMessage q p) ∧ p.msg = { m with flags := m.flags ||| 2 } ∧ p.part = a.part ∧ p.ctx = a.ctx := by
      refine does_of_exec (exec_messageAtCore_back hback) ⟨hqueues _ ?_, ?_⟩
      · rw [State.core_congr (State.cores_queueFreed ..)]
        exact State.core_updCore s core _
      · obtain ⟨p, hsent, hp⟩ := State.sent_bounce (s.updCore core (arrivedOne m)) core q a m
        exact ⟨p, State.sent_mono hsent (State.subset_sent_queueFreed ..), hp⟩
    refine ⟨fun hnone he => ?_, fun j x hactors hactor hphase hnoticed => ?_, fun j x hactors hactor hnoticed => hbounces ?_⟩
    · have hnowhere : ∀ e, ((s.core core).actors.find? fun e => e.2.actor == a && (e.2.phase == .live || e.2.phase == .filling)) = some e → e.2.noticed = true := by
        intro e hfind
        obtain ⟨hactor, -⟩ := Bool.and_eq_true_iff.1 (List.find?_some hfind :)
        exact absurd hactor (List.find?_eq_none.1 hnone e (List.mem_of_find?_eq_some hfind))
      obtain ⟨t, hnext, -, hp⟩ := hbounces hnowhere he
      exact ⟨t, hnext, hp⟩
    · have hfind : ((s.core core).actors.find? fun e => e.2.actor == a && (e.2.phase == .live || e.2.phase == .filling)) = some (j, x) := by
        simp [hactors, hactor, hphase]
      let k : Arrival := { number := s.ids, actor := a, slot := j, msg := m, entry := x.entry }
      refine does_of_exec (exec_messageAtCore_queued hfind hnoticed) ⟨⟨_, List.mem_append_right _ List.mem_cons_self⟩, k, ?_, rfl, rfl, rfl⟩
      have hcore : ((((s.updCore core (arrivedOne m)).updCore core (queuedOne m k)).fresh).offer core).core core = queuedOne m k (arrivedOne m (s.core core)) :=
        (State.core_updCore _ core _).trans (congrArg _ (State.core_updCore ..))
      unfold arrived
      rw [hcore, queuedOne, arrivedOne]
      cases m.high <;> rfl
    · intro e hfind
      rw [hactors] at hfind
      obtain rfl := List.mem_singleton.1 (List.mem_of_find?_eq_some hfind)
      exact hnoticed

end Sys2Proof.Proofs
end

section
/-! SUPPORT. What one step does, by what is due in it: each unit of a cycle runs when those before it have nothing to do. -/

namespace Sys2Proof.Machine

open Sys2Proof.Claims

@[simp] theorem onNext_next (s : State) (f : State → Result) : onNext (.next s) f = f s := rfl

@[simp] theorem ending_of_next (pre t : State) : ending pre (.next t) = .next (pre.settleStep t) := rfl

/-- Bytes written out little-endian are read as the word they came from (R5). -/
theorem ofNat_toNat_bytes (w : W32) : BitVec.ofNat 32 (Bytes.toNat (Bytes.ofNat 4 w.toNat)) = w := by
  rw [Bytes.toNat_ofNat, Nat.mod_eq_of_lt (show w.toNat < 256 ^ 4 from w.isLt), BitVec.ofNat_toNat, BitVec.setWidth_eq]

section
variable {s : State}

/-! ## An event that is due -/

theorem runEvent_of_read {e : Event} {s2 : State} (hread : readAtCommit e s = .next s2) : runEvent e s =
    if (s2.seeCounted e).2 then .next (s2.seeCounted e).1 else exec e.instr { (s2.seeCounted e).1 with ev := e } := by
  unfold runEvent
  rw [hread, onNext_next]
  split
  case h_1 heq => rw [heq, if_pos rfl]
  case h_2 heq => rw [heq, if_neg Bool.false_ne_true]

theorem readAtCommit_of_ne {e : Event} (h : ∀ r id, e ≠ .commitTakesEffect r id) : readAtCommit e s = .next s := by
  unfold readAtCommit
  split
  · next r id => exact absurd rfl (h r id)
  · rfl

/-! ## What comes before a bundle -/

/-- An event that is not late runs before all else of its cycle. -/
theorem step_of_due {x : Nat × Nat × Event} {rest : List (Nat × Nat × Event)} (hpower : s.halted = false) (ha : s.agenda = x :: rest)
    (hdue : x.1 ≤ s.now) (hlate : x.2.1 < State.lateRank) :
    step s = ending { s with agenda := rest } (runEvent x.2.2 { s with agenda := rest }) := by
  simp [step, hpower, ha, hdue, hlate]

theorem step_of_noEvent (h : NoEvent s) : step s = runCycle s := by
  obtain ⟨hpower, hagenda⟩ := h
  unfold step
  rw [hpower, if_neg Bool.false_ne_true]
  split
  · rfl
  · next x rest ha =>
    refine if_neg fun hx => ?_
    obtain ⟨hdue, hlate⟩ := Bool.and_eq_true_iff.1 hx
    have := of_decide_eq_true hdue
    have := of_decide_eq_true hlate
    have := hagenda x rest ha
    omega

theorem step_of_lookup {n : Nat} (h : NoEvent s) (hlookup : s.lookup = some n) : step s = .next (s.settleStep (s.acceptAll n)) := by
  rw [step_of_noEvent h, runCycle]
  simp [hlookup]

theorem step_of_injector {n : Nat} (h : NoEvent s) (hlookup : s.lookup = none) (hinjector : s.injector = some n) :
    step s = .next (s.settleStep (s.inject n)) := by
  rw [step_of_noEvent h, runCycle]
  simp [hlookup, hinjector]

theorem step_of_completer {r : Ref} (h : NoEvent s) (hlookup : s.lookup = none) (hinjector : s.injector = none) (hcompleter : s.completer = some r) :
    step s = ending s (issueStrand r s) := by
  rw [step_of_noEvent h, runCycle]
  simp [hlookup, hinjector, hcompleter]

/-! ## Samplers, engines and bundles -/

theorem step_of_quiescent (h : Quiescent s) : step s =
    match s.samplerDue, s.acceptor, s.issuer with
    | some (n, r), _, _ => ending s (runSamplerWord n r s)
    | none, some (q, g, k), _ => ending s (acceptCommand q g k s)
    | none, none, some (r, s1) => ending s (issueStrand r s1)
    | none, none, none =>
      match s.agenda with
      | x :: rest => if x.1 ≤ s.now then ending { s with agenda := rest } (runEvent x.2.2 { s with agenda := rest }) else .next { s with now := s.now + 1 }
      | [] => .next { s with now := s.now + 1 } := by
  obtain ⟨hnone, hlookup, hinjector, hcompleter, hresumer, hwaiter, hcopier, hfetcher⟩ := h
  rw [step_of_noEvent hnone, runCycle]
  simp only [hlookup, hinjector, hcompleter, hresumer, hwaiter, hcopier, hfetcher]
  cases s.samplerDue with
  | some _ => rfl
  | none =>
    cases s.acceptor with
    | some _ => rfl
    | none =>
      cases s.issuer with
      | some _ => rfl
      | none => rfl

theorem step_of_sampler {n : Nat} {r : Run} (h : Quiescent s) (hsampler : s.samplerDue = some (n, r)) :
    step s = ending s (runSamplerWord n r s) := by
  rw [step_of_quiescent h, hsampler]

theorem runSamplerWord_of_decode {n : Nat} {r : Run} {i : Instr} (hpc : r.pc < 2048)
    (hdecode : decodeSampler (look 0 r.pc (s.sampler n).store) = some i) : runSamplerWord n r s = exec i { s with smp := n } := by
  unfold runSamplerWord
  rw [if_neg (Nat.not_le.2 hpc), hdecode]

theorem step_of_acceptor {q g k : Nat} (h : Quiescent s) (hsampler : s.samplerDue = none) (hacceptor : s.acceptor = some (q, g, k)) :
    step s = ending s (acceptCommand q g k s) := by
  rw [step_of_quiescent h, hsampler, hacceptor]

theorem acceptCommand_of_decode {q g k : Nat} {c : Queued} {rest : List Queued} {i : Instr} (hqueue : look [] k (s.engine q g).queues = c :: rest)
    (hengine : commandEngine c.words = g) (hdecode : decodeCommand c.x c.words = some i) (hwf : i.wf = true) :
    acceptCommand q g k s = exec i (s.updEngine q g fun e => { e with queues := put k rest e.queues, last := k }) := by
  unfold acceptCommand
  simp only [hqueue, hengine, ne_eq, not_true_eq_false, if_false, hdecode, hwf, if_true]

theorem step_of_turn {r : Ref} {u : State} (h : Turn s r u) : step s = ending s (issueStrand r u) := by
  obtain ⟨hquiet, hsampler, hacceptor, hissuer⟩ := h
  rw [step_of_quiescent hquiet, hsampler, hacceptor, hissuer]

/-! ## When nothing else is left in the cycle -/

theorem step_of_late {x : Nat × Nat × Event} {rest : List (Nat × Nat × Event)} (h : Quiescent s) (hsampler : s.samplerDue = none)
    (hacceptor : s.acceptor = none) (hissuer : s.issuer = none) (ha : s.agenda = x :: rest) (hdue : x.1 ≤ s.now) :
    step s = ending { s with agenda := rest } (runEvent x.2.2 { s with agenda := rest }) := by
  rw [step_of_quiescent h, hsampler, hacceptor, hissuer]
  simp only [ha, hdue, if_true]

theorem step_of_nothing_due (h : Quiescent s) (hsampler : s.samplerDue = none) (hacceptor : s.acceptor = none) (hissuer : s.issuer = none)
    (hdue : ∀ x rest, s.agenda = x :: rest → s.now < x.1) : step s = .next { s with now := s.now + 1 } := by
  rw [step_of_quiescent h, hsampler, hacceptor, hissuer]
  cases ha : s.agenda with
  | nil => rfl
  | cons x rest => exact if_neg (Nat.not_le.2 (hdue x rest ha))

/-! ## The bundle that a core issues -/

/-- Words that stand at the pc of a strand, in code it may run, are what its fetch decodes (R178, R183). -/
theorem fetch_of_fetches {r : Ref} {w0 w1 : W32} (h : Fetches s r w0 w1) :
    (∀ b, decodeBundle w0 w1 = .ok b → s.fetch r = .bundle b) ∧ ∀ e, decodeBundle w0 w1 = .error e → s.fetch r = .fault { code := e } := by
  obtain ⟨halign, hlow, hhigh, hva, haperture, hmoved, b, g, hheld, hw0, hw1⟩ := h
  unfold State.fetch
  simp only [halign, Nat.not_lt.2 hlow, Nat.not_le.2 hhigh, Nat.div_eq_of_lt hva, haperture, hmoved, hheld, hw0, hw1, ofNat_toNat_bytes,
    ne_eq, not_true_eq_false, decide_false, Bool.or_self, Bool.false_eq_true, if_false]
  exact ⟨fun b hdecode => by simp only [hdecode], fun e hdecode => by simp only [hdecode]⟩

theorem issueStrand_of_bundle {r : Ref} {b : Bundle} {t : State} (hfetch : s.fetch r = .bundle b)
    (hexec : execBundle b (executes s r (bundleWrites b) b) = .next t) :
    issueStrand r s = .next (issued s r (executes s r (bundleWrites b) b).ids t) := by
  unfold issueStrand
  simp only [hfetch]
  refine (congrArg (onNext · _) hexec).trans ?_
  rw [onNext_next]
  unfold issued
  cases t.issue with
  | no | goes | ends | alone => rfl
  | strong =>
    cases (s.core r.core).trigger with
    | none => rfl
    | some n => rfl

theorem issueStrand_of_fault {r : Ref} {f : FaultInfo} (hfetch : s.fetch r = .fault f) :
    issueStrand r s = .next ((s.beginBundle r none).raise f) := by
  simp only [issueStrand, hfetch]

/-! ## A pair of words (R180) -/

variable {c a : Instr}

theorem execPair_of_illFormed (hwf : c.wf = false) : execPair c a s = exec c s := by
  simp [execPair, hwf]

/-- The state in which the C-word of a pair executes after its A-word, which gave `ta`: it has what the bundle had received. -/
def besideAWord (s ta : State) : State :=
  { ta.updMe (fun x => { x with received := s.me.received, doneLanes := s.me.doneLanes, vecBefore := s.me.vecBefore }) with issue := .no }

variable {ta tc : State} (hwf : c.wf = true) (ha : exec a s = .next ta)
include hwf ha

theorem execPair_of_stalled (hstall : ta.issue = .no) : execPair c a s = .next ta := by
  simp [execPair, hwf, ha, hstall]

theorem execPair_of_issued (hissue : ta.issue ≠ .no) (hc : exec c (besideAWord s ta) = .next tc) : execPair c a s =
    if tc.issue = .no ∨ tc.me.frames.length ≠ s.me.frames.length then exec c s else .next tc := by
  unfold execPair
  rw [hwf, if_neg (by simp), ha, onNext_next, if_neg hissue]
  exact (congrArg (onNext · _) hc).trans (by simp)

end

end Sys2Proof.Machine
end

section
/-! SUPPORT. What a step runs (R59, R178-R180, R183). -/

namespace Sys2Proof.Proofs

open Sys2Proof.Machine Sys2Proof.Claims

section
variable {s u : State} {r : Ref} {w0 w1 : W32} (hturn : Turn s r u) (hwords : Fetches u r w0 w1)
include hturn hwords

/-- The step of a bundle that is fetched and executes: the bundle's end, then the step's. -/
theorem step_of_bundle {b : Bundle} {t : State} (hdecode : decodeBundle w0 w1 = .ok b)
    (hexec : execBundle b (executes u r (bundleWrites b) b) = .next t) :
    step s = .next (s.settleStep (issued u r (executes u r (bundleWrites b) b).ids t)) := by
  rw [step_of_turn hturn, issueStrand_of_bundle ((fetch_of_fetches hwords).1 b hdecode) hexec, ending_of_next]

theorem step_of_undecoded {e : EventCode} (hdecode : decodeBundle w0 w1 = .error e) :
    step s = .next (s.settleStep ((u.beginBundle r none).raise { code := e })) := by
  rw [step_of_turn hturn, issueStrand_of_fault ((fetch_of_fetches hwords).2 e hdecode), ending_of_next]

end

/-- Settles O55: the step takes the first thing that is due (`step_of_…`), and what that thing does is known: an event's meaning
(`runEvent_of_read`), the fetched bundle's (`step_of_bundle`), a sampler word's, a command's. -/
theorem stepRunsDecodedInstruction : Obligations.StepRunsDecodedInstruction := by
  intro s
  refine ⟨fun x rest t hpower ha hdue hwhen s2 s3 hread => ?event, fun e => readAtCommit_of_ne, fun r u w0 w1 hturn hwords => ?bundle,
    fun n r i t hquiet hsampler hpc hdecode hexec => ?sampler,
    fun q g k c rest i t hquiet hsampler hacceptor hqueue hengine hdecode hwf hexec => ?command, fun n => step_of_lookup, fun n => step_of_injector,
    fun r t hnone hlookup hinjector hcompleter hissue => ?completer, step_of_nothing_due⟩
  case event =>
    have hstep : step s = ending { s with agenda := rest } (runEvent x.2.2 { s with agenda := rest }) := by
      rcases hwhen with hlate | ⟨hquiet, hsampler, hacceptor, hissuer⟩
      · exact step_of_due hpower ha hdue hlate
      · exact step_of_late hquiet hsampler hacceptor hissuer ha hdue
    rw [hstep, runEvent_of_read hread]
    refine ⟨fun hseen => ?_, fun hseen hexec => ?_⟩
    · rw [hseen, if_pos rfl, ending_of_next]
    · rw [hseen, if_neg Bool.false_ne_true, hexec, ending_of_next]
  case bundle =>
    refine ⟨fun i t hdecode => step_of_bundle hturn hwords hdecode, fun c a hdecode => ?_, fun e => step_of_undecoded hturn hwords⟩
    intro v
    have hpair {t : State} (hexec : execPair c a v = .next t) := step_of_bundle hturn hwords hdecode hexec
    refine ⟨fun t hwf hexec => hpair ((execPair_of_illFormed hwf).trans hexec), fun ta hwf ha =>
      ⟨fun hstall => hpair (execPair_of_stalled hwf ha hstall), fun tc hissue hc => ⟨fun hgoes hframes => hpair ?_, fun t hagain hexec => hpair ?_⟩⟩⟩
    · rw [execPair_of_issued hwf ha hissue hc, if_neg (not_or.2 ⟨hgoes, not_not.2 hframes⟩)]
    · rw [execPair_of_issued hwf ha hissue hc, if_pos hagain, hexec]
  case sampler => rw [step_of_sampler hquiet hsampler, runSamplerWord_of_decode hpc hdecode, hexec, ending_of_next]
  case command => rw [step_of_acceptor hquiet hsampler hacceptor, acceptCommand_of_decode hqueue hengine hdecode hwf, hexec, ending_of_next]
  case completer => rw [step_of_completer hnone hlookup hinjector hcompleter, hissue, ending_of_next]

end Sys2Proof.Proofs
end

section
/-! SUPPORT. The ends of tasks (R50, R71, R72), and what a squash leaves of a core's store (R156, R157). -/

namespace Sys2Proof

section
variable {α : Type} {p : Nat × α → Bool} {d : α} (hd : ∀ k, p (k, d) = false) {k : Nat} {t : Table α}
include hd

/-- What a table reads at `k` stands in it, where it passes a test that the default does not pass. -/
theorem any_of_look (h : p (k, look d k t) = true) : t.any p = true := by
  induction t with
  | nil => exact absurd (h.symm.trans (hd k)) (by decide)
  | cons e t ih =>
    obtain ⟨j, w⟩ := e
    rw [List.any_cons]
    by_cases hj : j = k
    · rw [look, if_pos hj, ← hj] at h
      rw [h, Bool.true_or]
    · rw [look, if_neg hj] at h
      rw [ih h, Bool.or_true]

/-- An entry that passes a test as what it replaces does leaves the table's answer as it was. -/
theorem any_put {v : α} (hv : p (k, v) = p (k, look d k t)) : (put k v t).any p = t.any p := by
  induction t with
  | nil => simp [put, hv, hd]
  | cons e t ih =>
    obtain ⟨j, w⟩ := e
    unfold put
    split
    · rw [List.any_cons, hv]
      cases hp : p (k, look d k ((j, w) :: t)) with
      | false => exact Bool.false_or _
      | true => exact (Bool.true_or _).trans (any_of_look hd hp).symm
    · split
      · next hk =>
        subst hk
        rw [look, if_pos rfl] at hv
        rw [List.any_cons, List.any_cons, hv]
      · next hk =>
        rw [look, if_neg (Ne.symm hk)] at hv
        rw [List.any_cons, List.any_cons, ih hv]

end

namespace Machine
namespace State

/-! ## Tasks -/

section
variable (s : State)

theorem updTask_of_has {n : Nat} (h : has n s.tasks = true) (f : Task → Task) :
    s.updTask n f = { s with tasks := put n (f (s.task n)) s.tasks } := if_pos h

theorem task_updTask {n : Nat} (h : has n s.tasks = true) (f : Task → Task) : (s.updTask n f).task n = f (s.task n) := by
  rw [updTask_of_has s h]
  exact look_put_same _ _ _ _

theorem has_updTask {n : Nat} (h : has n s.tasks = true) (f : Task → Task) : has n (s.updTask n f).tasks = true := by
  rw [updTask_of_has s h]
  exact has_put_same _ _ _

/-- No journal lists more stores of a task, or fewer, after a core's other fields have changed. -/
theorem taskUnacked_updCore {core : Nat} {f : Core → Core} (hf : (f (s.core core)).journal = (s.core core).journal) (n : Nat) :
    (s.updCore core f).taskUnacked n = s.taskUnacked n := by
  unfold taskUnacked
  refine congrArg _ (any_put (d := Core.reset) (fun _ => rfl) ?_)
  simp only [hf]
  rfl

theorem taskUnacked_switchCheck (core n : Nat) : (s.switchCheck core).taskUnacked n = s.taskUnacked n := by
  dsimp only [switchCheck]
  split
  · rfl
  · exact taskUnacked_updCore s (f := fun c => { c with ctxRun := c.ctxReq }) rfl n

theorem partitions_nodeEnds (n : Nat) : (s.nodeEnds n).partitions = s.partitions := by
  dsimp only [nodeEnds]
  split
  · split <;> rfl
  · rfl

theorem contexts_nodeEnds (n : Nat) : (s.nodeEnds n).contexts = s.contexts := by
  dsimp only [nodeEnds]
  split
  · split <;> rfl
  · rfl

/-- A task that has ended is dropped once its writes are acknowledged, and its node is told (R70, R71). -/
theorem nodeEnds_of_ended {n : Nat} (hhas : has n s.tasks = true) (hended : (s.task n).ended = true) (hacked : s.taskUnacked n = false) :
    has n (s.nodeEnds n).tasks = false ∧ ((s.task n).node ≠ 0 → Claims.SentBy s (s.nodeEnds n) (toBase (quireOf (s.task n).core))
      (.nodeCompletion (s.task n).part (s.task n).ctx (s.task n).node (some 0))) := by
  simp only [nodeEnds, hhas, hended, hacked, Bool.not_false, Bool.and_self, if_true]
  by_cases hnode : (s.task n).node = 0
  · rw [if_pos hnode]
    exact ⟨has_drop_same n _, fun h => absurd hnode h⟩
  · rw [if_neg hnode]
    exact ⟨has_drop_same n _, fun _ => sentBy_emitNet { s with tasks := drop n s.tasks } _ _⟩

end

/-! ## Squashes leave every store as it is -/

section
variable (s : State) (k : Nat)

theorem store_updCore {n : Nat} {f : Core → Core} (hf : ∀ c, (f c).store = c.store) : ((s.updCore n f).core k).store = (s.core k).store := by
  by_cases hk : k = n
  · rw [hk, core_updCore, hf]
  · exact congrArg Core.store (core_setCore_other s hk _)

theorem store_of_slotsOnly {s t : State} (h : SlotsOnly s t) (k : Nat) : (t.core k).store = (s.core k).store := (congrArg Core.store (h k) :)

theorem store_offerQuire (n : Nat) : ((s.offerQuire n).core k).store = (s.core k).store :=
  congrArg Core.store (core_congr (cores_offerQuire s n) k)

theorem store_unreserve (core slot : Nat) : ((s.unreserve core slot).core k).store = (s.core k).store := by
  refine Eq.trans ?_ (store_updCore s k (n := core) (f := fun c => { c with reserved := c.reserved.erase slot }) fun _ => rfl)
  exact congrArg Core.store (core_congr ((cores_offerQuire _ core).trans (cores_offerRows _ core)) k)

theorem cores_updTask (n : Nat) (f : Task → Task) : (s.updTask n f).cores = s.cores := by
  unfold updTask
  split <;> rfl

theorem cores_freeCensus (part slot : Nat) : (s.freeCensus part slot).cores = s.cores := by
  unfold freeCensus
  dsimp only
  split <;> rfl

theorem store_releaseHeld (core : Nat) (h : Held) : ((s.releaseHeld core h).core k).store = (s.core k).store := by
  cases h with
  | posted p =>
    unfold releaseHeld
    dsimp only
    split
    · exact store_updCore s k fun _ => rfl
    · rfl
  | spawn tag target slot l =>
    cases slot with
    | some slot => exact store_unreserve s k target slot
    | none => rfl
  | pop d =>
    refine (store_offerQuire ..).trans ?_
    exact (congrArg Core.store (core_congr (cores_updTask _ d.task _) k)).trans (store_updCore s k fun _ => rfl)
  | solicit tag part slot q => exact congrArg Core.store (core_congr (cores_freeCensus s part slot) k)
  | send | fork | command | catIns | give => exact store_updCore _ k fun _ => rfl
  | _ => rfl

theorem store_squashFrom (r : Ref) (j : Nat) : ((s.squashFrom r j).core k).store = (s.core k).store := by
  unfold squashFrom
  dsimp only
  split
  · rfl
  · next c hc =>
    have hreleased (l : List Held) (u : State) : ((l.foldl (fun s h => s.releaseHeld r.core h) u).core k).store = (u.core k).store :=
      foldl_keeps (fun u : State => (u.core k).store) (fun u h => store_releaseHeld u k r.core h) l u
    have hbegun (t : Strand) (d : Die → Die) (g : Core → Core) (hg : ∀ c, (g c).store = c.store) :
        (((((s.setStrand r t).updCore r.core g).fresh).updDie (dieOf r.core) d).core k).store = (s.core k).store :=
      (store_updCore (s.setStrand r t) k hg).trans (store_of_slotsOnly (slotsOnly_setStrand s r t) k)
    split
    · rw [hreleased]
      exact hbegun _ _ _ fun _ => rfl
    · refine (store_of_slotsOnly (slotsOnly_updStrand _ r _) k).trans ?_
      rw [hreleased]
      exact hbegun _ _ _ fun _ => rfl

theorem store_squashWhere (sig : NatSet) (atGrant : Bool) (f : Ref → Bool) : ((s.squashWhere sig atGrant f).core k).store = (s.core k).store := by
  refine foldl_keeps (fun u : State => (u.core k).store) (fun u r => ?_) _ s
  have hmarked := store_of_slotsOnly (slotsOnly_updStrand u r (markHit sig)) k
  dsimp only
  split
  · exact (store_squashFrom _ k r _).trans hmarked
  · exact hmarked

theorem store_writeStore (core off : Nat) (data : List Byte) :
    ((s.writeStore core off data).core core).store = memStore (s.core core).store off data :=
  (store_of_slotsOnly (slotsOnly_writeStore s core off data) core).trans (congrArg Core.store (core_updCore s core _))

end

/-! ## Answers to windows (R52, R283, R301, R302) -/

section
variable {s : State} {r : Ref} {tag : Nat}

theorem settle_none (h : ∀ w ∈ (s.strand r).windows, w.tag ≠ tag) (keep : Held → Option Held) (ws : List RegWrite) : s.settle r tag keep ws = none := by
  refine if_neg fun hany => ?_
  obtain ⟨w, hw, heq⟩ := List.any_eq_true.1 hany
  exact h w hw (eq_of_beq heq)

/-- A chunk whose effect that waits for an answer is kept as `keep` says. -/
def settledChunk (tag : Nat) (keep : Held → Option Held) (c : Chunk) : Chunk :=
  { c with held := c.held.filterMap fun h => if heldTag h == some tag then keep h else some h }

/-- A strand after its only window has its answer: written where no bundle may issue before it, else kept for its landing (R191). -/
def answeredStrand (t : Strand) (tag : Nat) (keep : Held → Option Held) (w : Window) (ws : List RegWrite) : Strand :=
  { t with
    opened := settledChunk tag keep t.opened, closed := t.closed.map (settledChunk tag keep)
    regs := if w.left = 0 then ws.foldl Regs.apply t.regs else t.regs
    windows := if w.left = 0 then [] else [{ w with writes := some ws }] }

theorem settle_window {w : Window} (hocc : s.occupied r = true) (hwindows : (s.strand r).windows = [w]) (htag : w.tag = tag)
    (keep : Held → Option Held) (ws : List RegWrite) :
    s.settle r tag keep ws = some (s.setStrand r (answeredStrand (s.strand r) tag keep w ws)) := by
  have hany : ((s.strand r).windows.any fun w => w.tag == tag) = true := by simp [hwindows, htag]
  refine (if_pos hany).trans (congrArg some ?_)
  rw [updStrand_of_occupied hocc]
  refine (updStrand_of_occupied (occupied_setStrand s r _) _).trans ?_
  rw [strand_setStrand, setStrand_setStrand]
  congr 1
  unfold answeredStrand
  by_cases hleft : w.left = 0
  · simp [hwindows, htag, hleft, settledChunk]
  · simp [hwindows, htag, hleft, settledChunk]

end

end State
end Machine
end Sys2Proof
end

section
/-! SUPPORT. Tasks, spawn answers, join counters and budgets: the next state of each event, and what its clause says of it. -/

namespace Sys2Proof.Proofs

open Sys2Proof.Machine Sys2Proof.Claims

section
variable {s : State}

/-! ## A task ends (R50, R71, R72) -/

/-- The task has ended, its context has pulsed, and a context switch that waited for it is examined. -/
def taskEnded (s : State) (n : Nat) : State :=
  ((s.updTask n fun t => { t with ended := true }).pulse (s.task n).part (s.task n).ctx).switchCheck (s.task n).core

section
variable {n : Nat} (hhas : has n s.tasks = true)
include hhas

theorem task_taskEnded : (taskEnded s n).task n = { s.task n with ended := true } := by
  have htasks := State.tasks_switchCheck (s := (s.updTask n fun t => { t with ended := true }).pulse (s.task n).part (s.task n).ctx) (core := (s.task n).core)
  exact (congrArg (look Task.none n) htasks).trans (State.task_updTask s hhas _)

theorem has_taskEnded : has n (taskEnded s n).tasks = true := by
  have htasks := State.tasks_switchCheck (s := (s.updTask n fun t => { t with ended := true }).pulse (s.task n).part (s.task n).ctx) (core := (s.task n).core)
  exact (congrArg (has n) htasks).trans (State.has_updTask s hhas _)

theorem fields_taskEnded : (taskEnded s n).now = s.now ∧ (taskEnded s n).partitions = s.partitions ∧ (taskEnded s n).contexts =
    put (64 * (s.task n).part + (s.task n).ctx) { s.context (s.task n).part (s.task n).ctx with lastPulse := s.now, silent := false } s.contexts := by
  have hswitch := State.offCore_switchCheck ((s.updTask n fun t => { t with ended := true }).pulse (s.task n).part (s.task n).ctx) (s.task n).core
  rw [State.updTask_of_has s hhas] at hswitch
  unfold taskEnded
  rw [State.updTask_of_has s hhas]
  exact ⟨(congrArg State.now hswitch :), (congrArg State.partitions hswitch :), (congrArg State.contexts hswitch :)⟩

theorem taskUnacked_taskEnded : (taskEnded s n).taskUnacked n = s.taskUnacked n := by
  refine (State.taskUnacked_switchCheck _ _ n).trans ?_
  unfold State.taskUnacked
  have hupd : (s.updTask n fun t => { t with ended := true }).task n = { s.task n with ended := true } := State.task_updTask s hhas _
  exact congrArg₂ (· || ·) (congrArg (·.unacked != 0) hupd) (congrArg (List.any · _) (State.cores_updTask s n _))

theorem exec_taskEnd_last (hlive : (s.task n).live = 0) (hended : (s.task n).ended = false) (hactor : (s.task n).actor = none)
    (hcensus : (s.task n).census = none) (hrunning : ((taskEnded s n).nodeEnds n).checkpointing (s.task n).part = false) (he : s.ev = .taskEnd n) :
    exec .taskEnd s = .next ((taskEnded s n).nodeEnds n) := by
  have hreleased : s.releaseActor n (s.task n) = s := by simp only [State.releaseActor, hactor]
  have hanswered (u : State) (core : Nat) : u.responderEnded core (s.task n) = u := by simp only [State.responderEnded, hcensus]
  simp only [exec_taskEnd, execTaskEnd, he, hhas, hreleased, hlive, hended, hanswered, Bool.not_true, Bool.false_eq_true, if_false, decide_true,
    Bool.not_false, Bool.and_self, if_true]
  rw [show State.switchCheck _ _ = taskEnded s n from rfl, hrunning, Bool.false_and, if_neg Bool.false_ne_true]

end

/-! ## Spawn answers, join counters and joiners (R52, R55, R210) -/

/-- What a `spawn` that has its answer holds to its commit: the slot that its target has reserved, or nothing where it has refused. -/
def spawnKept (slot : Option Nat) (h : Held) : Option Held :=
  slot.map fun _ => match h with | .spawn tag core _ l => .spawn tag core slot l | h => h

theorem exec_spawnAnswer_window {r : Ref} {tag target : Nat} {slot : Option Nat} {w : Window} {n : BitVec 5} (hocc : s.occupied r = true)
    (hwindows : (s.strand r).windows = [w]) (htag : w.tag = tag) (hdests : w.dests = [.s n]) (he : s.ev = .spawnAnswer r tag target slot) :
    exec .spawnAnswer s = .next (s.setStrand r
      (State.answeredStrand (s.strand r) tag (spawnKept slot) w [.s n (if slot.isSome then 0 else 1)])) := by
  simp only [exec_spawnAnswer, execSpawnAnswer, he, State.settle_window hocc hwindows htag]
  simp only [hwindows, List.find?_cons, htag, beq_self_eq_true, Option.map_some, Option.getD_some, hdests, List.filterMap_cons, List.filterMap_nil]
  rfl

theorem exec_spawnAnswer_squashed {r : Ref} {tag target slot : Nat} (hwindows : ∀ w ∈ (s.strand r).windows, w.tag ≠ tag)
    (he : s.ev = .spawnAnswer r tag target (some slot)) : exec .spawnAnswer s = .next (s.unreserve target slot) := by
  simp only [exec_spawnAnswer, execSpawnAnswer, he, State.settle_none hwindows]

theorem exec_joinDecrementApplied_beyond {core off : Nat} (hout : inScratch (s.core core) off 8 = false)
    (he : s.ev = .joinDecrementApplied core off) : exec .joinDecrementApplied s = .next s := by
  simp only [exec_joinDecrementApplied, execJoinDecrementApplied, he, hout, Bool.false_eq_true, if_false]

theorem exec_joinDecrementApplied_store {core off : Nat} (hin : inScratch (s.core core) off 8 = true) (he : s.ev = .joinDecrementApplied core off) :
    ∃ t, exec .joinDecrementApplied s = .next t ∧ (t.core core).store = memStore (s.core core).store off
      (Bytes.ofNat 8 (BitVec.ofNat 64 (Bytes.toNat (memLoad (s.core core).store off 8)) - 1).toNat) := by
  simp only [exec_joinDecrementApplied, execJoinDecrementApplied, he, hin, if_true]
  have hstored := State.store_writeStore s core off (Bytes.ofNat 8 (BitVec.ofNat 64 (Bytes.toNat (memLoad (s.core core).store off 8)) - 1).toNat)
  split
  · exact ⟨_, rfl, (State.store_squashWhere _ core _ _ _).trans hstored⟩
  · exact ⟨_, rfl, hstored⟩

theorem exec_joinWake_asleep {r : Ref} {off : Nat} (hocc : s.occupied r = true) (hasleep : (s.strand r).wait = .asleep (.counter off))
    (he : s.ev = .joinWake r) : exec .joinWake s = .next (s.setStrand r { s.strand r with wait := .ready }) := by
  simp [exec_joinWake, execJoinWake, he, hasleep, State.wake, State.updStrand_of_occupied hocc, Strand.asleep]

/-! ## Budgets (R374) -/

section
variable {r : Ref} {start : Nat} (hocc : s.occupied r = true) (hstart : (s.strand r).startedAt = start) (hcounted : (s.strand r).counted = true)
  (hspent : (s.strand r).spent = false) (hready : (s.strand r).wait = .ready)
include hocc hstart hcounted hspent hready

theorem exec_budgetOverrun_early (hleft : (s.strand r).budgetNow s.now ≠ 0) (he : s.ev = .budgetOverrun r start) :
    exec .budgetOverrun s = .next (s.emit ((s.strand r).budgetNow s.now).toNat (.budgetOverrun r start)) := by
  have hguard : ¬(!s.occupied r || decide ((s.strand r).startedAt ≠ start) || !(s.strand r).counted || (s.strand r).spent) = true := by
    simp [hocc, hstart, hcounted, hspent]
  simp only [exec_budgetOverrun, execBudgetOverrun, he]
  rw [if_neg hguard, if_pos hleft, hready, if_neg (by simp)]

theorem exec_budgetOverrun_due (hleft : (s.strand r).budgetNow s.now = 0) (hmonitor : (s.strand r).monitor = none) (hlast : lastIssued (s.strand r) = false)
    (hfaults : (s.strand r).asyncFaults = []) (he : s.ev = .budgetOverrun r start) : exec .budgetOverrun s =
      .next (s.setStrand r { s.strand r with asyncFaults := [{ code := .budgetOverrun, info := (s.strand r).budgetStart }] }) := by
  simp [exec_budgetOverrun, execBudgetOverrun, he, hocc, hstart, hcounted, hspent, hready, hleft, hmonitor, hlast, hfaults, State.updStrand_of_occupied]

end

end

/-- Settles O37: the next state of each event is known (`exec_…`); an answer reaches its window (`settle_window`), and the squashes that a
decrement brings leave the stores as they are (`store_squashWhere`). -/
theorem tasksAndBudgets : Obligations.TasksAndBudgets := by
  intro s
  refine ⟨fun n => ?taskEnd, fun r tag target slot w n hocc hwindows htag hdests => ?answered, fun r tag target slot hwindows he => ?squashed,
    fun core off he => ?decrement, fun r off hocc hasleep he => ?wake, fun r start => ?budget⟩
  case taskEnd =>
    intro k hhas hlive hended hacked hactor hcensus hrunning
    obtain ⟨hnow, hpartitions, hcontexts⟩ := fields_taskEnded hhas
    obtain ⟨hgone, htold⟩ := State.nodeEnds_of_ended (taskEnded s n) (has_taskEnded hhas) (congrArg Task.ended (task_taskEnded hhas))
      ((taskUnacked_taskEnded hhas).trans hacked)
    have hcheckpoint : ((taskEnded s n).nodeEnds n).checkpointing k.part = false := by
      unfold State.checkpointing State.partition
      rw [State.partitions_nodeEnds, hpartitions]
      exact hrunning
    refine does_of_exec (exec_taskEnd_last hhas hlive hended hactor hcensus hcheckpoint) ⟨hgone, ?_, fun hnode => ?_⟩
    · unfold State.context
      rw [State.contexts_nodeEnds, hcontexts]
      exact congrArg Context.lastPulse (look_put_same ..)
    · rw [task_taskEnded hhas] at htold
      obtain ⟨m, hm, hsent⟩ := htold hnode
      exact ⟨m, hnow ▸ hm, hsent⟩
  case answered =>
    refine does_of_exec (exec_spawnAnswer_window hocc hwindows htag hdests) ?_
    intro u v
    have hu : u = State.answeredStrand (s.strand r) tag (spawnKept slot) w [.s n v] := by
      refine (State.strand_setStrand ..).trans ?_
      cases slot <;> rfl
    rw [hu]
    refine ⟨fun hleft => ⟨if_pos hleft, if_pos hleft⟩, fun hleft => ⟨if_neg hleft, if_neg hleft⟩, fun core k l hheld => ?_⟩
    cases slot <;> simp [State.answeredStrand, State.settledChunk, spawnKept, hheld, heldTag]
  case squashed => exact ⟨_, exec_spawnAnswer_squashed hwindows he, rfl⟩
  case decrement =>
    cases hin : inScratch (s.core core) off 8 with
    | false => exact ⟨s, exec_joinDecrementApplied_beyond hin he, fun _ => rfl, fun h => absurd h Bool.false_ne_true⟩
    | true =>
      obtain ⟨t, hnext, hstore⟩ := exec_joinDecrementApplied_store hin he
      exact ⟨t, hnext, fun h => absurd h.symm Bool.false_ne_true, fun _ => hstore⟩
  case wake => exact ⟨_, exec_joinWake_asleep hocc hasleep he, rfl⟩
  case budget =>
    intro m hocc hstart hcounted hspent hready
    exact ⟨fun hleft => does_of_exec (exec_budgetOverrun_early hocc hstart hcounted hspent hready hleft) rfl,
      fun hleft hmonitor hlast hfaults => does_of_exec (exec_budgetOverrun_due hocc hstart hcounted hspent hready hleft hmonitor hlast hfaults)
        (State.strand_setStrand ..)⟩

end Sys2Proof.Proofs
end

section
/-! SUPPORT. A question whose number an older window of its strand has, which no clause on answers excludes. -/

namespace Sys2Proof.Machine

open Sys2Proof.Claims

/-- A strand that still has a window for s1, whose tag is the next number that the part gives out. -/
def taggedAhead : State :=
  State.reset.setStrand ⟨0, 0⟩ { Strand.none with windows := [{ tag := 1, chunk := 0, dests := [.s 1], left := 0, due := 0, writes := none }] }

/-- A `spawn` of the strand with LA = 0 and destination s0, which asks core 0. -/
def spawnForS0 : CWord := { ext := .paired, la := 0, d := 0, ta := .s, a := 0, b := 0, msk := 0 }

/-- The state after the question, as the answer arrives that refuses it. -/
def refusedAhead : State :=
  { awaiting taggedAhead spawnForS0 (.spawn 1 0 none (taggedAhead.childOf 0)) 4 (.spawnRequest ⟨0, 0⟩ 1 0 (taggedAhead.childOf 0)) with
    ev := .spawnAnswer ⟨0, 0⟩ 1 0 none }

/-- The answer takes its destination from the older window: s0 still reads 0, where s1 has the refusal's 1. -/
theorem exec_refusedAhead : ∃ u, exec .spawnAnswer refusedAhead = .next u ∧ u.me.regs.s[0] = 0 ∧ u.me.regs.s[1] = 1 :=
  ⟨_, rfl, by decide, by decide⟩

end Sys2Proof.Machine
end

section
/-! PROOF. Questions to other units. -/

namespace Sys2Proof.Proofs

open Sys2Proof.Machine Sys2Proof.Claims

/-- Refutes O20: the clause on answers holds only where the question's tag is new, which it does not say. Of `taggedAhead`, whose strand
has an older window with that tag, a refused `spawn` leaves its s[D] as it was (`exec_refusedAhead`). -/
theorem not_jobsAndQuestions : ¬ Obligations.JobsAndQuestions := by
  rintro ⟨-, -, -, hanswered⟩
  obtain ⟨hspawn, -⟩ := hanswered spawnForS0 taggedAhead (.spawn 1 0 none (taggedAhead.childOf 0)) 4
    (.spawnRequest ⟨0, 0⟩ 1 0 (taggedAhead.childOf 0)) rfl rfl
  obtain ⟨-, u, hexec, hregs, -⟩ := hspawn 0 0 0 (taggedAhead.childOf 0) rfl
  obtain ⟨v, hnext, hzero, -⟩ := exec_refusedAhead
  obtain rfl : u = v := Host.Outcome.next.inj (hexec.symm.trans hnext)
  rw [hregs] at hzero
  exact absurd hzero (by decide)

end Sys2Proof.Proofs
end

section
/-! SUPPORT. What leaves for a package to which no path is left is lost (R349, R385): the packets of a part none of whose ports is up. -/

namespace Sys2Proof.Machine
namespace State

theorem minimalPath_ne_nil {a b : Nat} (h : a ≠ b) : minimalPath a b ≠ [] := by
  unfold minimalPath
  rw [if_neg h]
  split
  · exact List.cons_ne_nil _ _
  · exact List.cons_ne_nil _ _

section
variable {s : State} (hports : s.portsUp = [])
include hports

theorem linkUp_of_no_port (k : Nat) : s.linkUp s.pkgid k = false := by
  simp [linkUp, hports]

/-- Every path begins at a link of this package. -/
theorem pathUp_of_no_port {p : List Nat} (hp : p ≠ []) : s.pathUp p = false := by
  have hlost (p : List Nat) (k : Nat) : (p.foldl (fun (acc : Bool × Nat) k => (acc.1 && s.linkUp acc.2 k, k)) (false, k)).1 = false := by
    induction p generalizing k with
    | nil => rfl
    | cons j p ih => exact ih j
  cases p with
  | nil => exact absurd rfl hp
  | cons k p =>
    unfold pathUp
    rw [List.foldl_cons, linkUp_of_no_port hports, Bool.and_false]
    exact hlost p k

theorem otherPaths_of_no_port (dst : Nat) : (s.otherPaths dst).filter s.pathUp = [] := by
  refine List.filter_eq_nil_iff.2 fun p hp => ?_
  obtain ⟨w, hw, rfl⟩ := List.mem_map.1 hp
  obtain ⟨-, hpass⟩ := List.mem_filter.1 (List.mem_of_mem_take hw)
  have hne : s.pkgid ≠ w := by
    rintro rfl
    simp at hpass
  rw [pathUp_of_no_port hports (List.append_ne_nil_of_left_ne_nil (minimalPath_ne_nil hne) _)]
  exact Bool.false_ne_true

theorem toFabric_of_no_port {p : FabricPacket} (hdst : s.pkgid ≠ p.route.1) : s.toFabric p = s := by
  have hchosen : s.choosePath p.route.1 p.route.2.2.1 = none := by
    simp [choosePath, pathUp_of_no_port hports (minimalPath_ne_nil hdst), otherPaths_of_no_port hports]
  unfold toFabric
  dsimp only
  rw [hchosen]

/-- A unit's message to a home in another package changes nothing once it has its number. -/
theorem sendMessage_of_no_port {unit part ctx : Nat} {edition : W32} {cost : Nat → Nat} {m : Msg}
    (hpkg : (s.number (.baseUnit unit) part ctx edition none m).2.pkg ≠ (s.number (.baseUnit unit) part ctx edition none m).1.pkgid)
    (hkept : (s.number (.baseUnit unit) part ctx edition none m).1.portsUp = s.portsUp) :
    s.sendMessage (.baseUnit unit) part ctx edition cost m = (s.number (.baseUnit unit) part ctx edition none m).1 := by
  have hsender : (s.number (.baseUnit unit) part ctx edition none m).2.packet.sender = .baseUnit unit := rfl
  unfold sendMessage depart
  dsimp only
  rw [if_neg hpkg, hsender]
  exact toFabric_of_no_port (hkept.trans hports) (Ne.symm hpkg)

end
end State

/-- A package with no port up. Class 0 of context 0 is a SPAN class, whose actors have their homes in package 5. Its entry lies at 0x3000, and in the
graph at 0x3100 node 1 is of kind MSG, with its line at 0x3200. -/
def beyondFabric : State :=
  let held (n : Nat) (data : Mem) : L2Line :=
    { part := 0, line := n, data := data, valid := List.range 8, dirty := [], g := { rights := 0x0F, frame := 256 * n, size := 4096 }, entryPa := some 0x6000,
      peer := none }
  { State.reset with
    l2 := [held 0x30 [(15, 4)], held 0x31 [(0x40, 1), (0x49, 0x32)], held 0x32 []]
    quires := [(0, { Quire.reset with own := 0x80 })]
    partitions := [(0, { Partition.reset with pctl := 1, phbm := 0x8000000300000000, podN := 1, podHome := [(0, 5)] })]
    contexts := [(0, { Context.reset with clsTab := 0x3000, clsNum := 1, graphBase := 0x3100 })] }

/-- The context of a DECODE of core 0, its command, which asks for a message to the actor of class 0 with key 0, and its end. -/
def decodeContext : CmdCtx := State.reset.commandContext ⟨0, 0⟩ 1
def decodeToClass0 : DecodeCmd :=
  { ofmt := 0, input := 0x4000, inLen := 64, out := 0x5000, outCap := 64, budget := 1, rtype := 0, rcls := 0, rkey := 0 }
def decodeEnd : JobEnd := { x := decodeContext, engine := 3, prog := 0, fault := none, rejected := false }

/-- Its decoder 0 as the DECODE ends. -/
def decodedBeyond : State :=
  { beyondFabric with
    decoders := [(0, [{ x := decodeContext, c := decodeToClass0, due := 0, result := some (none, 0, 1, 64) }])], ev := .folioDecodeComplete 0 }

/-- The decoder has given up its command and sent its completion. -/
def completedBeyond : State := (decodedBeyond.setDecoder 0 []).emit 20 (.engineCommandComplete decodeEnd)

/-- The message of R278 for the DECODE. -/
def decodeMessage : Msg :=
  { cls := 0, type := 0, flags := 0, key := 0, score := 0, sstrand := 0xFE, plen := 4, chseq := 0, edition := 0, pcx := 0, node := 0,
    payload := [BitVec.ofNat 64 1, jobStatus decodeEnd, BitVec.ofNat 64 1, BitVec.ofNat 64 (64 + 0 * 2 ^ 56)] }

/-- The message is lost: it takes the next number of its channel, and nothing leaves. -/
theorem unitMessage_completedBeyond : completedBeyond.unitMessage 0 0 0 decodeMessage =
    (completedBeyond.number (.baseUnit 0) 0 0 0 none { decodeMessage with edition := 0, pcx := pcxOf 0 0 0 }).1 := by
  have hpkg : (completedBeyond.number (.baseUnit 0) 0 0 0 none { decodeMessage with edition := 0, pcx := pcxOf 0 0 0 }).2.pkg = 5 := rfl
  exact State.sendMessage_of_no_port (s := completedBeyond) rfl (hpkg.trans_ne (by decide)) rfl

/-- The completion is sent, and the message is lost. -/
theorem exec_decodedBeyond : ∃ t, exec .folioDecodeComplete decodedBeyond = .next t ∧ t.sent = [(20, .engineCommandComplete decodeEnd)] ∧
    t.fabricOut = [] := by
  have hexec : exec .folioDecodeComplete decodedBeyond = .next (((completedBeyond.unitMessage 0 0 0 decodeMessage).pulse 0 0).folioStart 0) := rfl
  rw [unitMessage_completedBeyond] at hexec
  exact ⟨_, hexec, rfl, rfl⟩

end Sys2Proof.Machine
end

section
/-! PROOF. How drains and decodes end. -/

namespace Sys2Proof.Proofs

open Sys2Proof.Machine

/-- Refutes O32: a decoder's message to a home that no path reaches is lost (R385), where the clause on decodes has it leave in any case.
`decodedBeyond` has no port up, and its class's homes lie in another package. -/
theorem not_drainAndDecodeEvents : ¬ Obligations.DrainAndDecodeEvents := by
  intro h
  obtain ⟨-, -, -, -, hdecode⟩ := h decodedBeyond
  obtain ⟨t, hexec, -, ⟨p, hleaves, -⟩, -⟩ := hdecode 0 _ [] none 0 1 64 rfl rfl (by decide) rfl rfl rfl
  obtain ⟨u, hnext, hsent, hfabric⟩ := exec_decodedBeyond
  obtain rfl : t = u := Host.Outcome.next.inj (hexec.symm.trans hnext)
  obtain ⟨home, n, hmem⟩ | ⟨pkg, f, hmem, -⟩ := hleaves
  · rw [hsent] at hmem
    simp at hmem
  · rw [hfabric] at hmem
    exact List.not_mem_nil hmem

end Sys2Proof.Proofs
end

section
/-! SUPPORT. A MSG node whose message no path reaches (R70, R385). -/

namespace Sys2Proof.Machine

section
variable {s t u v : State} {part ctx n : Nat} {b : List Byte}

/-- Bytes of one line are read in one piece (R25). -/
theorem State.unitRead_of_line {va : Nat} (hn : 0 < n) (hline : va % 256 + n ≤ 256) (hread : s.unitReadLine part ctx true va n = (t, .ok b))
    (hlen : b.length = n) : s.unitRead part ctx va n = (t, .ok b) := by
  have hpiece : min (n - 0) (256 - va % 256) = n := by omega
  unfold State.unitRead
  rw [List.range_succ_eq_map, List.foldl_cons]
  simp only [List.length_nil, Nat.not_le.2 hn, if_false, Nat.add_zero, hpiece, hread, List.nil_append]
  exact foldl_eq_self fun _ _ => if_pos hlen.ge

/-- A message of the command processor is a launch (R16). -/
theorem unitMessage_processor (s : State) (part ctx : Nat) (m : Msg) : s.unitMessage 0x200 part ctx m =
    (s.launchCost part ctx m 0).1.sendMessage (.baseUnit 0x200) part ctx (s.partition part).edition (s.launchCost part ctx m 0).2
      { m with score := 0x200, sstrand := 0xFE, edition := (s.partition part).edition.setWidth 16, pcx := pcxOf part ctx 0 } := rfl

/-- A MSG node that is kicked sends its line as a message (R70). -/
theorem exec_gkickWrite_message {g : GraphNode} (hn : n ≠ 0) (hruns : s.running part = true) (hnode : s.readNode part ctx n = (u, .ok g))
    (hreload : g.reload = false) (hkind : g.kind = 1) (hread : (u.pulse part ctx).unitRead part ctx g.arg 256 = (v, .ok b))
    (he : s.ev = .gkickWrite part ctx n) : exec .gkickWrite s = .next (v.unitMessage 0x200 part ctx
      { Msg.ofLine b with flags := (Msg.ofLine b).flags &&& 0x09, node := n }) := by
  have hlaunch : s.launchNode part ctx n = (u.pulse part ctx).nodeMsg part ctx n g := by
    unfold State.launchNode
    rw [hnode]
    dsimp only
    rw [hreload, hkind]
    rfl
  have hsent : (u.pulse part ctx).nodeMsg part ctx n g = v.unitMessage 0x200 part ctx
      { Msg.ofLine b with flags := (Msg.ofLine b).flags &&& 0x09, node := n } := by
    unfold State.nodeMsg
    rw [hread]
  rw [exec_gkickWrite, execGkickWrite, he]
  exact congrArg Host.Outcome.next ((if_neg (by simp [hn, hruns])).trans (hlaunch.trans hsent))

end

/-- Node 1 of `beyondFabric` is kicked. -/
def kickedBeyond : State := { beyondFabric with ev := .gkickWrite 0 0 1 }

/-- The node as it is read: of kind MSG, with its line at 0x3200. -/
def messageNode : GraphNode := { kind := 1, reload := false, nsucc := 0, init := 0, target := 0, arg := 0x3200, cls := 0, succ := 0 }

/-- The node's line: zeros. -/
def nodeLine : List Byte := ((memLoad [] 0 256).drop (0x3200 % 256)).take 256

/-- The message of the line, and as the command processor sends it. -/
def lineMessage : Msg := { Msg.ofLine nodeLine with flags := (Msg.ofLine nodeLine).flags &&& 0x09, node := 1 }
def nodeMessage : Msg := { lineMessage with score := 0x200, sstrand := 0xFE, edition := 0, pcx := pcxOf 0 0 0 }

theorem readNode_kickedBeyond : kickedBeyond.readNode 0 0 1 = (kickedBeyond, .ok messageNode) := rfl

theorem unitRead_kickedBeyond : (kickedBeyond.pulse 0 0).unitRead 0 0 0x3200 256 = (kickedBeyond.pulse 0 0, .ok nodeLine) :=
  State.unitRead_of_line (by decide) (by decide) rfl (by simp [nodeLine, memLoad])

/-- The node launches, and its message is lost. -/
theorem exec_kickedBeyond : ∃ t, exec .gkickWrite kickedBeyond = .next t ∧ t.sent = [] ∧ t.fabricOut = [] := by
  have hexec : exec .gkickWrite kickedBeyond = .next ((kickedBeyond.pulse 0 0).unitMessage 0x200 0 0 lineMessage) :=
    exec_gkickWrite_message (by decide) rfl readNode_kickedBeyond rfl rfl unitRead_kickedBeyond rfl
  have hcost : ((kickedBeyond.pulse 0 0).launchCost 0 0 lineMessage 0).1 = kickedBeyond.pulse 0 0 := rfl
  have hpkg : ((kickedBeyond.pulse 0 0).number (.baseUnit 0x200) 0 0 0 none nodeMessage).2.pkg = 5 := rfl
  have hlost (cost : Nat → Nat) : (kickedBeyond.pulse 0 0).sendMessage (.baseUnit 0x200) 0 0 0 cost nodeMessage =
      ((kickedBeyond.pulse 0 0).number (.baseUnit 0x200) 0 0 0 none nodeMessage).1 :=
    State.sendMessage_of_no_port (s := kickedBeyond.pulse 0 0) rfl (hpkg.trans_ne (by decide)) rfl
  rw [unitMessage_processor, hcost] at hexec
  exact ⟨_, hexec.trans (congrArg Host.Outcome.next (hlost _)), rfl, rfl⟩

end Sys2Proof.Machine
end

section
/-! PROOF. Graph nodes that are kicked. -/

namespace Sys2Proof.Proofs

open Sys2Proof.Machine Sys2Proof.Claims

/-- Refutes O48: the message of a MSG node to a home that no path reaches is lost (R385), where the clause on that kind has it leave in any
case. `kickedBeyond` has no port up, and its class's homes lie in another package. -/
theorem not_distributorAndPowerEvents : ¬ Obligations.DistributorAndPowerEvents := by
  intro h
  obtain ⟨-, -, hkicked, -⟩ := h kickedBeyond
  obtain ⟨-, hlaunch⟩ := hkicked 0 0 1 (by decide) rfl
  obtain ⟨-, hmessage, -⟩ := hlaunch _ _ readNode_kickedBeyond rfl
  obtain ⟨t, hexec, p, hleaves, -⟩ := hmessage _ _ rfl unitRead_kickedBeyond rfl
  obtain ⟨u, hnext, hsent, hfabric⟩ := exec_kickedBeyond
  obtain rfl : t = u := Host.Outcome.next.inj (hexec.symm.trans hnext)
  obtain ⟨home, n, hmem⟩ | ⟨pkg, f, hmem, -⟩ := hleaves
  · rw [hsent] at hmem
    exact List.not_mem_nil hmem
  · rw [hfabric] at hmem
    exact List.not_mem_nil hmem

end Sys2Proof.Proofs
end

section
/-! SUPPORT. Register writes and results under LA: the next state of a bundle that makes one (R77, R191). -/

namespace Sys2Proof.Machine

open Sys2Proof.Claims

namespace State
variable (s : State)

/-- A change of the executing strand that leaves its pc leaves the address of the bundle. -/
theorem bpc_setMe_of_pc {t : Strand} (ht : t.regs.pc = s.me.regs.pc) : (s.setMe t).bpc = s.bpc := by
  simp only [bpc, pre, setMe_latch, me_setMe]
  cases s.latch with
  | none => exact ht
  | some r => rfl

theorem advance_setMe {t : Strand} (ht : t.regs.pc = s.me.regs.pc) :
    (s.setMe t).advance = Claims.after s { t with regs := { t.regs with pc := s.bpc + 8 } } .goes := by
  rw [advance, bpc_setMe_of_pc s ht]
  exact retire_setMe s t _

theorem advance_fresh : s.fresh.advance = s.advance.fresh := by
  rw [advance_eq, advance_eq]
  rfl

theorem advance_emit (d : Nat) (e : Event) : (s.emit d e).advance = s.advance.emit d e := by
  rw [advance_eq, advance_eq]
  rfl

theorem me_after (t : Strand) (h : Issue) :
    (Claims.after s t h).me = { t with received := [], doneLanes := 0, vecBefore := none } := me_setMe s _

/-- A bundle that writes one register goes on. -/
theorem advance_writeReg (w : RegWrite) : (s.writeReg w).advance = Claims.wrote s (s.me.regs.apply w) := by
  rw [advance, bpc_writeReg]
  exact retire_setMe s _ _

theorem advance_writeS (n : BitVec 5) (x : Word) : (s.writeS n x).advance = Claims.wrote s (s.me.regs.setS n x) := advance_writeReg s (.s n x)

theorem pc_foldl_apply (ws : List RegWrite) (r : Regs) : (ws.foldl Regs.apply r).pc = r.pc := by
  refine foldl_keeps Regs.pc (fun r w => ?_) ws r
  cases w with
  | s n x => unfold Regs.apply; dsimp only [Regs.setS]; split <;> rfl
  | v n x m => rfl
  | sticky f => rfl

/-- Several register writes, and a change of the strand after them. -/
theorem updMe_foldl_writeReg (ws : List RegWrite) (f : Strand → Strand) :
    (ws.foldl writeReg s).updMe f = s.setMe (f { s.me with regs := ws.foldl Regs.apply s.me.regs }) := by
  induction ws generalizing s with
  | nil => rfl
  | cons w ws ih =>
    rw [List.foldl_cons, ih, me_writeReg]
    exact setMe_setMe s _ _

/-- A bundle that has a result under LA goes on (R191). -/
theorem advance_result (la : BitVec 4) (cost : Nat) (dests : List Dest) (ws : List RegWrite) :
    (s.result la cost dests ws).advance = underLA s la cost dests ws := by
  unfold result underLA
  split
  · rw [updMe_foldl_writeReg]
    exact advance_setMe s (pc_foldl_apply ws s.me.regs)
  · rw [advance_fresh, updMe, advance_setMe]
    · rfl
    · rfl

end State

/-- A word whose data alone may come from the constant buffer has its effect once that is there. -/
theorem checkedAfter_next {i : Instr} {s : State} (h : Ready i s) (first : State → Option FaultInfo) (k : State → State) :
    checkedAfter first i s k = .next (k s) := by
  obtain ⟨hwf, hcb⟩ := h
  have hchecked : checked i s k = .next (k s) := checked_next hwf hcb
  unfold checkedAfter
  split
  · next f x hcopy _ =>
    cases hreads : readsCb i with
    | true => exact absurd ((hcb hreads).symm.trans hcopy) (by simp)
    | false => rw [Bool.and_false]; exact hchecked
  · exact hchecked

/-! ## Control registers (R84, R85, R224) -/

section
variable {s : State} {c : CWord}

/-- A wrong selector, or a register that the strand may not read. -/
theorem exec_csrr_of_fault {e : EventCode} (h : Ready (.csrr c) s) (hfault : s.csrFault (selOf c) false = some e) :
    exec (.csrr c) s = .next (s.raise { code := e }) := by
  obtain ⟨hwf, hcb⟩ := h
  rw [exec_csrr, execCsrr, checked_next hwf hcb]
  dsimp only
  rw [hfault]
  rfl

/-- A `csrr` writes the strand's own registers at once, the others under LA (R224). -/
theorem exec_csrr_of_ready (h : Ready (.csrr c) s) (hfault : s.csrFault (selOf c) false = none) : exec (.csrr c) s = .next (
    if selOf c < 0x010 then wrote s (s.me.regs.setS c.d (s.csrRead (selOf c)))
    else underLA s c.la (s.csrCost (selOf c)) [.s c.d] [.s c.d (s.csrRead (selOf c))]) := by
  obtain ⟨hwf, hcb⟩ := h
  rw [exec_csrr, execCsrr, checked_next hwf hcb]
  simp only [hfault, State.advance_writeS, State.advance_result]

/-- A wrong selector, or a register that the strand may not write. -/
theorem exec_csrw_of_fault {e : EventCode} (h : Ready (.csrw c) s) (hfault : s.csrFault (selOf c) true = some e) :
    exec (.csrw c) s = .next (s.raise { code := e }) := by
  rw [exec_csrw, execCsrw, checkedAfter_next h]
  dsimp only
  rw [hfault]
  rfl

section
variable {n : Nat} (h : Ready (.csrw c) s) (hsel : selOf c = n) (hfault : s.csrFault n true = none)
include h hsel hfault

/-- A `csrw` of FPCTL writes the flags under its mask (R79). -/
theorem exec_csrw_fpctl (hn : n = 0x001) : exec (.csrw c) s = .next (wrote s
    { s.me.regs with flags := (s.me.regs.flags &&& ~~~(0x5F3 : Word)) ||| (s.csrValue c &&& 0x5F3) }) := by
  subst hn
  simp only [exec_csrw, execCsrw, checkedAfter_next h, hsel, hfault]
  refine congrArg Host.Outcome.next (State.advance_setMe s ?_)
  rfl

/-- A `csrw` of CBSEL writes the flags and has the constant window copied afresh (R79, R81). -/
theorem exec_csrw_cbsel (hn : n = 0x002) : exec (.csrw c) s = .next ((after s { s.me with
    regs := { s.me.regs with flags := setCbsel s.me.regs.flags (s.csrValue c), pc := s.bpc + 8 }, copy := .wanted } .goes).emit 0
      (.cbselWrite s.cur (s.csrValue c &&& 0xFFFF))) := by
  subst hn
  simp only [exec_csrw, execCsrw, checkedAfter_next h, hsel, hfault, State.advance_emit]
  rw [State.updMe, State.advance_setMe]
  rfl

/-- A `csrw` of SCALEBASE (R84). -/
theorem exec_csrw_scaleBase (hn : n = 0x003) : exec (.csrw c) s =
    .next (wrote (s.setMe { s.me with scaleBase := s.csrValue c &&& 0x3FFFF }) s.me.regs) := by
  subst hn
  simp only [exec_csrw, execCsrw, checkedAfter_next h, hsel, hfault, State.advance_eq_wrote, State.me_updMe]
  rfl

/-- A `csrw` of WAYMASK is held where the new mask is accepted (R86, R414). -/
theorem exec_csrw_waymask (hn : n = 0x010) : exec (.csrw c) s = .next (
    if s.wayMaskOk s.me.part (s.csrSet 0x012 (State.aslotSet s.myCore)) (s.csrSet 0x011 (State.frecSet s.myCore)) (s.csrValue c) then
      held s (.csr n (s.csrValue c)) []
    else s.raise { code := .reservedField }) := by
  subst hn
  simp only [exec_csrw, execCsrw, checkedAfter_next h, hsel, hfault, State.advance_hold]
  rfl

/-- A `csrw` of ASLOT is held where the new slots lie in scratch ways (R33). -/
theorem exec_csrw_aslot (hn : n = 0x012) : exec (.csrw c) s = .next (
    if State.aslotOk (s.csrRead 0x010) (s.csrValue c &&& 0x3FFFFFFFFFFFF) then held s (.csr n (s.csrValue c)) []
    else s.raise { code := .reservedField }) := by
  subst hn
  simp only [exec_csrw, execCsrw, checkedAfter_next h, hsel, hfault, State.advance_hold]
  rfl

/-- A `csrw` of any other register that is not the strand's own is held to the commit (R85). -/
theorem exec_csrw_held (hn : 0x010 < n) (haslot : n ≠ 0x012) : exec (.csrw c) s = .next (held s (.csr n (s.csrValue c)) []) := by
  simp only [exec_csrw, execCsrw, checkedAfter_next h, hsel, hfault, State.advance_hold]
  split
  case h_6 => rfl
  all_goals omega

end
end
end Sys2Proof.Machine
end

section
/-! PROOF. Control registers. -/

namespace Sys2Proof.Proofs

open Sys2Proof.Machine Sys2Proof.Claims

/-- Settles O22, by the register that the selector names. -/
theorem controlRegisters : Obligations.ControlRegisters := by
  intro c s
  have hsel : selector c = selOf c := rfl
  rw [hsel]
  refine ⟨fun h => ?_, fun e h hfault => exec_csrw_of_fault h hfault, fun h hfault => ⟨?_, ?_, ?_, ?_, ?_, ?_⟩⟩
  · cases hfault : s.csrFault (selOf c) false with
    | some e => exact exec_csrr_of_fault h hfault
    | none =>
      rw [exec_csrr_of_ready h hfault]
      by_cases hown : selOf c < 0x010
      · simp only [hown, if_true]
      · simp only [hown, if_false, State.csrCost]
  · exact exec_csrw_fpctl h rfl hfault
  · intro hn
    have hexec := exec_csrw_cbsel h rfl hfault hn
    generalize ht : Strand.mk .. = t at hexec
    have hme : ((after s t .goes).emit 0 (.cbselWrite s.cur (s.csrValue c &&& 0xFFFF))).me =
        { t with received := [], doneLanes := 0, vecBefore := none } := State.me_after s t .goes
    exact ⟨_, hexec, rfl, congrArg Strand.copy hme |>.trans (ht ▸ rfl), rfl, congrArg Strand.regs hme |>.trans (ht ▸ rfl)⟩
  · exact exec_csrw_scaleBase h rfl hfault
  · exact exec_csrw_waymask h rfl hfault
  · exact exec_csrw_aslot h rfl hfault
  · exact exec_csrw_held h rfl hfault

end Sys2Proof.Proofs
end

section
/-! SUPPORT. A load whose line its home has just answered, which waits no further cycle (R418). -/

namespace Sys2Proof.Machine

open Sys2Proof.Claims

/-- A strand that has received the line of address 0, which it may read. -/
def lineReceived : State :=
  State.reset.setStrand ⟨0, 0⟩ { Strand.none with received := [.line 0 (List.replicate 256 0) { rights := 0x7F, frame := 0, size := 4096 }] }

/-- An `ld.d` from address 0 to the special s16, with LA = 0. -/
def loadToSpecial : CWord := { ext := .paired, la := 0, d := 16, ta := .s, a := 0, b := 0, msk := 0 }

theorem readElement_lineReceived : lineReceived.readElement (loadsAs 8 false) 0 (lineReceived.loadAddress loadToSpecial 8) = .val 0 [0] := by decide

/-- The load issues as it is, and the strand's next bundle waits for nothing. -/
theorem exec_loadToSpecial : ∃ t, exec (.ldD loadToSpecial) lineReceived = .next t ∧ t.me.wait = .ready := ⟨_, rfl, by decide⟩

end Sys2Proof.Machine
end

section
/-! PROOF. Registers that discard what is written. -/

namespace Sys2Proof.Proofs

open Sys2Proof.Machine Sys2Proof.Claims

/-- Refutes O52: the clause on loads has the strand's next bundle wait 6 cycles in any case, where a load whose line its home has just
answered has waited for it already and adds none (R418, as `loadCycles` has it). `lineReceived` is such a state (`exec_loadToSpecial`). -/
theorem not_discardingRegisters : ¬ Obligations.DiscardingRegisters := by
  rintro ⟨-, -, -, hloads⟩
  have hready : Ready (.ldD loadToSpecial) lineReceived := ⟨by decide, fun _ => by decide⟩
  have hexec := hloads (.ldD, 8, false, fun x => x) (by simp [loadTable]) loadToSpecial lineReceived 0 [0] hready (by decide) rfl
    readElement_lineReceived (by decide)
  obtain ⟨t, hnext, hwait⟩ := exec_loadToSpecial
  have ht := Host.Outcome.next.inj (hnext.symm.trans hexec)
  rw [ht, State.me_after] at hwait
  exact absurd hwait (by decide)

end Sys2Proof.Proofs
end

section
/-! SUPPORT. The tiles and precision registers of a quire (R83, R105, R112): what a write of an element, a ZZERO and the engine's own records leave. -/

namespace Sys2Proof.Machine

open Sys2Proof.Claims

namespace State
variable (s : State)

/-! ## The engines of a quire -/

theorem engine_updEngine (q e : Nat) (f : Engine → Engine) : (s.updEngine q e f).engine q e = f (s.engine q e) := by
  rw [updEngine, engine, quire_setQuire, look_put_same]

/-- What a quire has beside its engines stays as it is where an engine changes. -/
theorem of_quire_updEngine {α : Type} (g : Quire → α) (hg : ∀ u es, g { u with engines := es } = g u) (q e : Nat) (f : Engine → Engine) (k : Nat) :
    g ((s.updEngine q e f).quire k) = g (s.quire k) := by
  by_cases hk : k = q
  · rw [hk, updEngine, quire_setQuire, hg]
  · exact congrArg g (look_put_other _ hk _ _)

theorem of_quire_startCommand {α : Type} (g : Quire → α) (hg : ∀ u es, g { u with engines := es } = g u) (x : CmdCtx) (e cost k : Nat) :
    g ((s.startCommand x e cost).quire k) = g (s.quire k) := of_quire_updEngine s g hg _ _ _ _

theorem of_quire_willEnd {α : Type} (g : Quire → α) (hg : ∀ u es, g { u with engines := es } = g u) (e : JobEnd) (n k : Nat) :
    g ((s.willEnd e n).quire k) = g (s.quire k) := by
  unfold willEnd
  split
  · rfl
  · exact of_quire_updEngine s g hg _ _ _ _

/-- The command in progress stays it when its end is fixed. -/
theorem running_willEnd (e : JobEnd) (n : Nat) :
    ((s.willEnd e n).engine e.x.quire e.engine).running = (s.engine e.x.quire e.engine).running := by
  unfold willEnd
  split
  · rfl
  · rw [engine_updEngine]

/-! ## Elements -/

theorem tileElem_willEnd (e : JobEnd) (m q n r c : Nat) : (s.willEnd e m).tileElem q n r c = s.tileElem q n r c :=
  congrArg (fun t => look Elem.zero (32 * r + c) (look [] n t)) (of_quire_willEnd s Quire.tiles (fun _ _ => rfl) e m q)

/-- An element of the tile that has been written: its own value, or what it was. -/
theorem tileElem_setElem (q n r c : Nat) (e : Elem) (r' c' : Nat) :
    (s.setElem q n r c e).tileElem q n r' c' = if 32 * r' + c' = 32 * r + c then e else s.tileElem q n r' c' := by
  rw [tileElem, setElem, quire_setQuire, look_put_same]
  by_cases hat : 32 * r' + c' = 32 * r + c
  · rw [if_pos hat, hat]
    split
    · next hzero => rw [hzero, look_drop_same]
    · exact look_put_same _ _ _ _
  · rw [if_neg hat]
    split
    · exact look_drop_other _ hat _
    · exact look_put_other _ hat _ _

/-- Elements of one tile updated in turn, each once. -/
theorem tileElem_foldl_setElem (q n : Nat) (f : Nat → Elem → Elem) {l : List Nat} (hl : l.Nodup) (j : Nat) :
    (l.foldl (fun (s : State) j => s.setElem q n (j / 32) (j % 32) (f j (s.tileElem q n (j / 32) (j % 32)))) s).tileElem q n (j / 32) (j % 32) =
      if j ∈ l then f j (s.tileElem q n (j / 32) (j % 32)) else s.tileElem q n (j / 32) (j % 32) := by
  induction l generalizing s with
  | nil => simp
  | cons i l ih =>
    obtain ⟨hi, hl⟩ := List.nodup_cons.1 hl
    rw [List.foldl_cons, ih _ hl, tileElem_setElem, Nat.div_add_mod, Nat.div_add_mod]
    by_cases hij : j = i
    · subst hij
      simp [hi]
    · simp [hij]

end State

/-! ## ZZERO (R266) -/

/-- A tile zeroed, with its summary flags. -/
def zeroTile (u : Quire) (n : Nat) : Quire := { u with tiles := drop n u.tiles, zp := put n (look 0 n u.zp &&& 0x7FFFFFF) u.zp }

theorem look_tiles_foldl_zeroTile (l : List Nat) (u : Quire) (k : Nat) :
    look [] k (l.foldl zeroTile u).tiles = if k ∈ l then [] else look [] k u.tiles := by
  induction l generalizing u with
  | nil => simp
  | cons n l ih =>
    rw [List.foldl_cons, ih]
    by_cases hk : k = n
    · simp [hk, zeroTile, look_drop_same]
    · simp [hk, zeroTile, look_drop_other _ hk]

theorem look_zp_foldl_zeroTile (l : List Nat) (u : Quire) (k : Nat) :
    look 0 k (l.foldl zeroTile u).zp = if k ∈ l then look 0 k u.zp &&& 0x7FFFFFF else look 0 k u.zp := by
  induction l generalizing u with
  | nil => simp
  | cons n l ih =>
    rw [List.foldl_cons, ih]
    by_cases hk : k = n
    · simp [hk, zeroTile, BitVec.and_assoc]
    · simp [hk, zeroTile, look_put_other _ hk]

/-- The quire's state after a ZZERO has been accepted. -/
def zeroed (s : State) (x : CmdCtx) (tiles : BitVec 16) : State :=
  s.setQuire x.quire (((List.range 16).filter fun n => tiles.getLsbD n).foldl zeroTile (s.quire x.quire))

theorem exec_zzero_eq (s : State) (x : CmdCtx) (tiles : BitVec 16) : exec (.zzero x tiles) s = .next (((zeroed s x tiles).startCommand x 0 32).willEnd
    { x := x, engine := 0, prog := 0, fault := none, rejected := false } 4) := rfl

theorem tiles_zeroed (s : State) (x : CmdCtx) (tiles : BitVec 16) {n : Nat} (hn : n < 16) : look [] n ((zeroed s x tiles).quire x.quire).tiles =
    if tiles.getLsbD n then [] else look [] n (s.quire x.quire).tiles := by
  rw [zeroed, State.quire_setQuire, look_tiles_foldl_zeroTile]
  simp [hn]

theorem zp_zeroed (s : State) (x : CmdCtx) (tiles : BitVec 16) {n : Nat} (hn : n < 16) : look 0 n ((zeroed s x tiles).quire x.quire).zp =
    if tiles.getLsbD n then look 0 n (s.quire x.quire).zp &&& 0x7FFFFFF else look 0 n (s.quire x.quire).zp := by
  rw [zeroed, State.quire_setQuire, look_zp_foldl_zeroTile]
  simp [hn]

/-- A tile that the command does not name, or one of another quire, is as before. -/
theorem tileElem_zeroed_other (s : State) (x : CmdCtx) (tiles : BitVec 16) {q n : Nat} (h : q ≠ x.quire ∨ tiles.getLsbD n = false) (r c : Nat) :
    (zeroed s x tiles).tileElem q n r c = s.tileElem q n r c := by
  by_cases hq : q = x.quire
  · have hn : tiles.getLsbD n = false := h.resolve_left fun hne => hne hq
    simp [State.tileElem, zeroed, hq, look_tiles_foldl_zeroTile, hn]
  · exact congrArg (fun u : Quire => look Elem.zero (32 * r + c) (look [] n u.tiles)) (look_put_other _ hq _ _)

/-! ## ZCFG and DRAIN (R265, R271) -/

theorem bits_nibble (v lo : Nat) : Bits.get v (lo + 3) lo = v / 2 ^ lo % 16 := by
  have hwidth : lo + 3 + 1 - lo = 4 := by omega
  rw [Bits.get, Nat.shiftRight_eq_div_pow, hwidth, show 2 ^ 4 = 16 from rfl]

theorem exec_zcfg_eq (s : State) (x : CmdCtx) (tile : BitVec 4) (val : BitVec 27) : exec (.zcfg x tile val) s = .next (
    if 8 < val.toNat / 256 % 16 ∨ 8 < val.toNat / 4096 % 16 then s.reject x 0 32
    else ((s.setQuire x.quire { s.quire x.quire with
        zp := put tile.toNat ((look 0 tile.toNat (s.quire x.quire).zp &&& 0x300000000) ||| val.setWidth 64) (s.quire x.quire).zp }).startCommand
      x 0 32).willEnd { x := x, engine := 0, prog := 0, fault := none, rejected := false } 4) := by
  have hfa : Bits.get val.toNat 11 8 = val.toNat / 256 % 16 := bits_nibble val.toNat 8
  have hfb : Bits.get val.toNat 15 12 = val.toNat / 4096 % 16 := bits_nibble val.toNat 12
  rw [exec_zcfg, execZcfg, hfa, hfb]
  exact congrArg Host.Outcome.next (if_congr (by simp) rfl rfl)

/-- What acceptance refuses of a DRAIN (R271, R400). -/
theorem drainRefused_iff (x : CmdCtx) (c : DrainCmd) :
    (decide (32 < c.r0 + c.rows) || (c.raw && c.dst != 0) || c.dst.toNat % 4 != 0 || x.core.isNone || badAddress x c.dst) = true ↔
      32 < c.r0 + c.rows ∨ (c.raw = true ∧ c.dst ≠ 0) ∨ c.dst.toNat % 4 ≠ 0 ∨ x.core = none ∨ badAddress x c.dst = true := by
  simp [or_assoc]

/-! ## MERR (R112, R274) -/

section
variable {α : Type} [DecidableEq α]

theorem nodup_eraseDups (l : List α) : l.eraseDups.Nodup := by
  induction h : l.length using Nat.strong_induction_on generalizing l with
  | _ n ih =>
    cases l with
    | nil => simp
    | cons a l =>
      rw [List.eraseDups_cons, List.nodup_cons]
      refine ⟨fun hmem => ?_, ih _ ?_ _ rfl⟩
      · simp [List.mem_eraseDups] at hmem
      · rw [← h, List.length_cons]
        exact Nat.lt_succ_of_le (List.length_filter_le ..)

end

/-- The index of an errata entry's element, and its contribution (R112). -/
def errataIndex (c : MerrCmd) (b : List Byte) (k : Nat) : Nat := (Bytes.toNat ((b.drop (8 * k)).take 4) + 2 ^ 32 - c.base.toNat) % 2 ^ 32
def errataValue (et : Int) (b : List Byte) (k : Nat) : Option Int :=
  errataContribution et (BitVec.ofNat 32 (Bytes.toNat ((b.drop (8 * k + 4)).take 4)))

/-- The entries of an errata list that lie in the tile. -/
def merrEntries (et : Int) (c : MerrCmd) (b : List Byte) : List (Nat × Option Int) :=
  (List.range c.count.toNat).filterMap fun k => if errataIndex c b k < 1024 then some (errataIndex c b k, errataValue et b k) else none

/-- The contributions to one element. -/
def contributionsTo (entries : List (Nat × Option Int)) (j : Nat) : List (Option Int) := (entries.filter fun e => e.1 == j).map (·.2)

/-- An element after its contributions, summed and applied once. -/
def errataApplied (entries : List (Nat × Option Int)) (j : Nat) (e : Elem) : Elem :=
  e.update ((contributionsTo entries j).foldl (fun acc v => acc + v.getD 0) 0) ((contributionsTo entries j).any fun v => v.isNone)

/-- The tile after the entries of a list. -/
def merged (s : State) (q n : Nat) (entries : List (Nat × Option Int)) : State :=
  (entries.map (·.1)).eraseDups.foldl
    (fun s j => s.setElem q n (j / 32) (j % 32) (errataApplied entries j (s.tileElem q n (j / 32) (j % 32)))) s

section
variable {s t : State} {x : CmdCtx} {c : MerrCmd}

theorem exec_merr_refused (h : c.list.toNat % 8 ≠ 0 ∨ badAddress x c.list = true) : exec (.merr x c) s = .next (s.reject x 0 32) := by
  rw [exec_merr, execMerr, if_pos (by simpa using h)]

variable (hlist : c.list.toNat % 8 = 0) (haddress : badAddress x c.list = false)
include hlist haddress

theorem exec_merr_fault {f : JobFault} (hread : State.engineBytes x c.list.toNat (8 * c.count.toNat) (s.startCommand x 0 32) = (t, .error f)) :
    exec (.merr x c) s = .next (t.willEnd { x := x, engine := 0, prog := 0, fault := some f, rejected := false }
      (Bits.ceilDiv c.count.toNat 8 + 8 + s.firstCost x c.list.toNat)) := by
  rw [exec_merr, execMerr, if_neg (by simp [hlist, haddress])]
  dsimp only
  rw [hread]

theorem exec_merr_read {b : List Byte} (hread : State.engineBytes x c.list.toNat (8 * c.count.toNat) (s.startCommand x 0 32) = (t, .ok b)) :
    exec (.merr x c) s = .next ((merged t x.quire c.n (merrEntries (precision (s.zpOf x.quire c.n)).et c b)).willEnd
      { x := x, engine := 0, prog := 0, fault := none, rejected := false } (Bits.ceilDiv c.count.toNat 8 + 8 + s.firstCost x c.list.toNat)) := by
  rw [exec_merr, execMerr, if_neg (by simp [hlist, haddress])]
  dsimp only
  rw [hread]
  rfl

end

/-- What numbered entries contribute to an element within the tile. -/
theorem contributionsTo_filterMap (l : List Nat) (i : Nat → Nat) (v : Nat → Option Int) {j : Nat} (hj : j < 1024) :
    contributionsTo (l.filterMap fun k => if i k < 1024 then some (i k, v k) else none) j = (l.filter fun k => i k == j).map v := by
  unfold contributionsTo
  induction l with
  | nil => rfl
  | cons k l ih =>
    by_cases hk : i k = j
    · simp [hk, ih, hj]
    · by_cases hin : i k < 1024
      · simp [hin, hk, ih]
      · simp [hin, hk, ih]

/-- An element of the tile after a list: corrected where the list has an entry for it, else as before. -/
theorem tileElem_merged (s : State) (q n : Nat) (entries : List (Nat × Option Int)) (j : Nat) :
    (merged s q n entries).tileElem q n (j / 32) (j % 32) =
      if contributionsTo entries j = [] then s.tileElem q n (j / 32) (j % 32)
      else (s.tileElem q n (j / 32) (j % 32)).update (((contributionsTo entries j).map fun v => v.getD 0).sum)
        ((contributionsTo entries j).any fun v => v.isNone) := by
  have hmem : j ∈ (entries.map (·.1)).eraseDups ↔ contributionsTo entries j ≠ [] := by
    simp [List.mem_eraseDups, contributionsTo, List.filter_eq_nil_iff]
  have hsum : (contributionsTo entries j).foldl (fun acc v => acc + v.getD 0) 0 = ((contributionsTo entries j).map fun v => v.getD 0).sum := by
    rw [List.sum_eq_foldl, List.foldl_map]
  rw [merged, State.tileElem_foldl_setElem s q n (errataApplied entries) (nodup_eraseDups _), errataApplied, hsum]
  simp only [hmem, ite_not, ne_eq]

/-! ## MMA (R267-R270) -/

section
variable (s : State) (x : CmdCtx) (c : MmaCmd)

/-- What an MMA captures of its tiles' precision register (R83). -/
def mmaPrecision : Precision := precision (s.zpOf x.quire c.n)

/-- The operands of an MMA (R268). -/
def mmaSideA : MmaSide :=
  { f := (mmaPrecision s x c).fa, w := (mmaPrecision s x c).wa, c := containerBits (mmaPrecision s x c).fa c.esza, base := c.a,
    stride := c.astr.toNat, scale := c.asc, scaleStride := c.ascstr.toNat }
def mmaSideB : MmaSide :=
  { f := (mmaPrecision s x c).fb, w := (mmaPrecision s x c).wb, c := containerBits (mmaPrecision s x c).fb c.eszb, base := c.b,
    stride := c.bstr.toNat, scale := c.bsc, scaleStride := c.bscstr.toNat }

/-- The cycles of an MMA's passes (R267). -/
def mmaPass : Nat :=
  Bits.ceilDiv c.m 32 * Bits.ceilDiv c.nn 32 * Bits.ceilDiv c.k 64 * (mmaPrecision s x c).wa * (mmaPrecision s x c).wb

/-- An MMA that is accepted starts; one of the command processor has drawn a decode table (log 17). -/
def mmaStarted : State :=
  started (if x.core.isNone && ((mmaPrecision s x c).fa == 6 || (mmaPrecision s x c).fb == 6) then { s with free := s.free + 256 } else s) x 0
    (mmaPass s x c)

/-- The rows of an MMA: the state after them, how many are done, and the fault met. -/
def mmaRun : State × Nat × Option JobFault :=
  if c.m ≤ c.start then (mmaStarted s x c, c.m, none)
  else
    match State.loadRows x (s.commandTable x) (mmaSideB s x c) c.k c.nn (mmaStarted s x c) with
    | (t, .error f) => (t, c.start, some f)
    | (t, .ok bs) => State.mmaRows x (s.commandTable x) c (mmaSideA s x c) bs (c.m - c.start) c.start t

variable {s x c}

theorem mmaRun_of_done (hm : c.m ≤ c.start) : mmaRun s x c = (mmaStarted s x c, c.m, none) := if_pos hm

theorem mmaRun_of_fault {t : State} {f : JobFault} (hm : c.start < c.m)
    (hload : State.loadRows x (s.commandTable x) (mmaSideB s x c) c.k c.nn (mmaStarted s x c) = (t, .error f)) :
    mmaRun s x c = (t, c.start, some f) := by
  rw [mmaRun, if_neg (Nat.not_le.2 hm), hload]

theorem mmaRun_of_rows {t : State} {bs : List (List (Int × List (Option Int)))} (hm : c.start < c.m)
    (hload : State.loadRows x (s.commandTable x) (mmaSideB s x c) c.k c.nn (mmaStarted s x c) = (t, .ok bs)) :
    mmaRun s x c = State.mmaRows x (s.commandTable x) c (mmaSideA s x c) bs (c.m - c.start) c.start t := by
  rw [mmaRun, if_neg (Nat.not_le.2 hm), hload]

theorem exec_mma_refused (hbad : mmaOk s x c (mmaPrecision s x c) = false) : exec (.mma x c) s = .next (s.reject x 0 (mmaPass s x c)) := by
  have hneg : (!mmaOk s x c (precision (s.zpOf x.quire c.n))) = true := congrArg Bool.not hbad
  rw [exec_mma, execMma]
  dsimp only
  rw [if_pos hneg]
  rfl

theorem exec_mma_accepted {d : State × Nat × Option JobFault} (hok : mmaOk s x c (mmaPrecision s x c) = true) (hd : mmaRun s x c = d) :
    exec (.mma x c) s = .next (d.1.willEnd { x := x, engine := 0, prog := d.2.1, fault := d.2.2, rejected := false }
      (mmaPass s x c + s.firstCost x c.a.toNat)) := by
  have hpos : (!mmaOk s x c (precision (s.zpOf x.quire c.n))) = false := congrArg Bool.not hok
  rw [exec_mma, execMma, ← hd]
  dsimp only
  rw [if_neg (by simp [hpos])]
  rfl

end

end Sys2Proof.Machine
end

section
/-! PROOF. Matrix commands at acceptance. -/

namespace Sys2Proof.Proofs

open Sys2Proof.Machine Sys2Proof.Claims

/-- ZZERO (R266). -/
theorem zzeroCommand (x : CmdCtx) (s : State) (tiles : BitVec 16) : ∃ t, exec (.zzero x tiles) s = .next t ∧
    (t.engine x.quire 0).running = some x ∧
    (∀ n < 16, tiles.getLsbD n = true → look 0 n (t.quire x.quire).zp = look 0 n (s.quire x.quire).zp &&& 0x7FFFFFF ∧
      ∀ r c, t.tileElem x.quire n r c = Elem.zero) ∧
    (∀ q n r c, q ≠ x.quire ∨ tiles.getLsbD n = false → t.tileElem q n r c = s.tileElem q n r c) := by
  refine ⟨_, exec_zzero_eq s x tiles, ?_, fun n hn hnamed => ⟨?_, fun r c => ?_⟩, fun q n r c h => ?_⟩
  · rw [State.running_willEnd, State.startCommand, State.engine_updEngine]
  · rw [State.of_quire_willEnd _ (fun u => look 0 n u.zp) fun _ _ => rfl, State.of_quire_startCommand _ (fun u => look 0 n u.zp) fun _ _ => rfl,
      zp_zeroed s x tiles hn, if_pos hnamed]
  · rw [State.tileElem_willEnd, State.tileElem, State.of_quire_startCommand _ (fun u => look [] n u.tiles) fun _ _ => rfl,
      tiles_zeroed s x tiles hn, if_pos hnamed, look_nil]
  · rw [State.tileElem_willEnd, ← tileElem_zeroed_other s x tiles h]
    exact State.of_quire_startCommand _ (fun u => look Elem.zero (32 * r + c) (look [] n u.tiles)) (fun _ _ => rfl) ..

/-- Settles O28, command by command: what acceptance refuses, and else the state that the command makes. -/
theorem matrixCommands : Obligations.MatrixCommands := by
  intro x s
  refine ⟨fun tile val => ?_, zzeroCommand x s, fun c => ⟨exec_mma_refused, fun hok => ⟨?_, ?_, ?_⟩⟩, fun c => ?_,
    fun c => ⟨exec_merr_refused, ?_, ?_⟩⟩
  · exact exec_zcfg_eq s x tile val
  · exact fun hm => exec_mma_accepted hok (mmaRun_of_done hm)
  · exact fun t f hm hload => exec_mma_accepted hok (mmaRun_of_fault hm hload)
  · exact fun t bs hm hload => exec_mma_accepted hok (mmaRun_of_rows hm hload)
  · exact congrArg Host.Outcome.next (if_congr (drainRefused_iff x c) rfl rfl)
  · exact fun t f hlist haddress => exec_merr_fault hlist haddress
  · intro t b hlist haddress hread
    refine ⟨_, exec_merr_read hlist haddress hread, fun j hj => ?_⟩
    rw [State.tileElem_willEnd, tileElem_merged, merrEntries, contributionsTo_filterMap _ _ _ hj]
    rfl

end Sys2Proof.Proofs
end

section
/-! SUPPORT. What a `tinv` leaves of the strand that runs it and of the part (R226): of each operation that it is made of. -/

namespace Sys2Proof

section
variable {α β : Type} (f : α → α)

/-- A table whose entries have all been changed reads as the change of what it read. -/
theorem look_map {d : α} (hf : f d = d) (k : Nat) (t : Table α) : look d k (t.map fun e => (e.1, f e.2)) = f (look d k t) := by
  induction t with
  | nil => exact hf.symm
  | cons e t ih =>
    by_cases hk : e.1 = k
    · simp [look, hk]
    · simpa [look, hk] using ih

/-- What a change keeps of every entry is kept of what the table reads. -/
theorem of_look_map (g : α → β) (hg : ∀ x, g (f x) = g x) (d : α) (k : Nat) (t : Table α) :
    g (look d k (t.map fun e => (e.1, f e.2))) = g (look d k t) := by
  induction t with
  | nil => rfl
  | cons e t ih =>
    by_cases hk : e.1 = k
    · simp [look, hk, hg]
    · simpa [look, hk] using ih

end

namespace Machine

open Sys2Proof.Claims

/-- What a `tinv` leaves as it is: of the strand that runs it, of its partition's packages, and the walk entries until they are filtered. -/
structure Spared where
  cur : Ref
  latch : Option Regs
  now : Nat
  pkgid : Nat
  listed : Nat → List Nat
  walk : Nat → List WalkEntry
  regs : Regs
  unackedMaint : Nat

namespace State

/-- The same, with a strand's part taken from `t`. -/
def sparedWith (s : State) (t : Strand) : Spared :=
  { cur := s.cur, latch := s.latch, now := s.now, pkgid := s.pkgid, listed := s.listed, walk := fun d => (s.die d).walk,
    regs := t.regs, unackedMaint := t.unackedMaint }

def spared (r : Ref) (s : State) : Spared := s.sparedWith (s.strand r)

/-- A strand whose line is asked for again. -/
def refilled (part line : Nat) (t : Strand) : Strand :=
  if t.part ≠ part then t
  else { t with
    wait := if t.wait = .asleep (.fill line) then .ready else t.wait
    copy := if t.copy = .asked && windowVa t / 256 == line then .wanted else t.copy
    pending := t.pending.map fun p => if p.line = line && !p.ready then { p with ready := true } else p }

variable (s : State) (r : Ref)

theorem spared_emit (d : Nat) (e : Event) : (s.emit d e).spared r = s.spared r := rfl

/-! ## Strands and cores -/

theorem spared_updCore {n : Nat} {f : Core → Core} (hf : ∀ c, (f c).slots = c.slots) : (s.updCore n f).spared r = s.spared r :=
  congrArg s.sparedWith (strand_updCore s (hf _) r)

theorem spared_setStrand_other {q : Ref} (hq : r ≠ q) (t : Strand) : (s.setStrand q t).spared r = s.spared r :=
  congrArg s.sparedWith (strand_setStrand_other s hq t)

theorem spared_updStrand_other {q : Ref} (hq : r ≠ q) (f : Strand → Strand) : (s.updStrand q f).spared r = s.spared r := by
  unfold updStrand
  split
  · exact spared_setStrand_other s r hq _
  · rfl

/-- A change of a strand that keeps its registers and what it waits for. -/
theorem spared_updStrand {q : Ref} {f : Strand → Strand} (hregs : ∀ t, (f t).regs = t.regs) (hmaint : ∀ t, (f t).unackedMaint = t.unackedMaint) :
    (s.updStrand q f).spared r = s.spared r := by
  by_cases hq : r = q
  · subst hq
    unfold updStrand
    split
    · have hspared (t : Strand) : s.sparedWith (f t) = s.sparedWith t := by rw [sparedWith, hregs, hmaint]; rfl
      exact (congrArg s.sparedWith (strand_setStrand s r _)).trans (hspared _)
    · rfl
  · exact spared_updStrand_other s r hq f

/-- A change of a core's strands that keeps the registers of each and what it waits for. -/
theorem spared_mapSlots {n : Nat} {f : Core → Core} {g : Strand → Strand} (hf : ∀ c, (f c).slots = c.slots.map fun e => (e.1, g e.2))
    (hg : ∀ t, s.sparedWith (g t) = s.sparedWith t) : (s.updCore n f).spared r = s.spared r := by
  by_cases hr : r.core = n
  · subst hr
    have hslots : ((s.updCore r.core f).core r.core).slots = (s.core r.core).slots.map fun e => (e.1, g e.2) := by rw [core_updCore, hf]
    exact (congrArg (fun l => s.sparedWith (look Strand.none r.slot l)) hslots).trans (of_look_map g s.sparedWith hg _ _ _)
  · exact congrArg s.sparedWith (by rw [strand, strand, updCore, core_setCore_other s hr])

theorem spared_refill (core part line : Nat) : (s.refill core part line).spared r = s.spared r := by
  refine spared_mapSlots s r (g := refilled part line) (fun _ => rfl) fun t => ?_
  unfold refilled
  split <;> rfl

/-! ## Tasks, engines, partitions and dies -/

theorem spared_updTask (n : Nat) (f : Task → Task) : (s.updTask n f).spared r = s.spared r := by
  unfold updTask
  split <;> rfl

theorem spared_offerQuire (core : Nat) : (s.offerQuire core).spared r = s.spared r := by
  refine foldl_keeps (spared r) ?_ _ s
  exact fun _ _ => rfl

theorem spared_offerRows (core : Nat) : (s.offerRows core).spared r = s.spared r := by
  unfold offerRows
  split
  · split <;> rfl
  · rfl

theorem spared_unreserve (core slot : Nat) : (s.unreserve core slot).spared r = s.spared r :=
  (spared_offerQuire _ r core).trans ((spared_offerRows _ r core).trans (spared_updCore s r fun _ => rfl))

theorem spared_updPartition {n : Nat} {f : Partition → Partition} (hn : ∀ p, (f p).podN = p.podN) (hhome : ∀ p, (f p).podHome = p.podHome) :
    (s.updPartition n f).spared r = s.spared r := by
  have hlisted : (s.updPartition n f).listed = s.listed := by
    funext part
    unfold listed
    by_cases hpart : part = n
    · rw [hpart, updPartition, partition_setPartition, hn, hhome]
    · have hother : (s.updPartition n f).partition part = s.partition part := look_put_other _ hpart _ _
      rw [hother]
  exact congrArg (fun l => { s.spared r with listed := l }) hlisted

theorem spared_freeCensus (part slot : Nat) : (s.freeCensus part slot).spared r = s.spared r := by
  have hfreed : (s.updCensus part slot fun x => { Census.reset with seq := x.seq }).spared r = s.spared r :=
    spared_updPartition s r (fun _ => rfl) fun _ => rfl
  unfold freeCensus
  dsimp only
  split
  · exact hfreed
  · rw [spared_emit, spared_updPartition]
    · exact hfreed
    · exact fun _ => rfl
    · exact fun _ => rfl

theorem spared_updDie {n : Nat} {f : Die → Die} (hf : ∀ d, (f d).walk = d.walk) : (s.updDie n f).spared r = s.spared r := by
  have hwalk : (fun d => ((s.updDie n f).die d).walk) = fun d => (s.die d).walk := by
    funext d
    by_cases hd : d = n
    · rw [hd, updDie, die_setDie, hf]
    · exact congrArg Die.walk (look_put_other _ hd _ _)
  exact congrArg (fun w => { s.spared r with walk := w }) hwalk

/-! ## Squashes (R156, R157) -/

theorem spared_releaseHeld (core : Nat) (h : Held) : (s.releaseHeld core h).spared r = s.spared r := by
  cases h with
  | posted p =>
    unfold releaseHeld
    dsimp only
    split
    · exact spared_updCore s r fun _ => rfl
    · rfl
  | spawn tag target slot l =>
    cases slot with
    | some slot => exact spared_unreserve s r target slot
    | none => rfl
  | pop d => exact (spared_offerQuire _ r core).trans ((spared_updTask _ r d.task _).trans (spared_updCore s r fun _ => rfl))
  | solicit tag part slot q => exact spared_freeCensus s r part slot
  | command e words x => exact spared_updCore (s.updEngine (quireOf core) e _) r fun _ => rfl
  | send | fork | catIns | give => exact spared_updCore s r fun _ => rfl
  | _ => rfl

/-- A squash of another strand. -/
theorem spared_squashFrom {q : Ref} (hq : r ≠ q) (j : Nat) : (s.squashFrom q j).spared r = s.spared r := by
  unfold squashFrom
  dsimp only
  split
  · rfl
  · next c hc =>
    have hreleased (l : List Held) (u : State) : (l.foldl (fun s h => s.releaseHeld q.core h) u).spared r = u.spared r :=
      foldl_keeps (spared r) (fun u h => spared_releaseHeld u r q.core h) l u
    have hbegun (t : Strand) (g : Core → Core) (hg : ∀ c, (g c).slots = c.slots) (d : Die → Die) (hd : ∀ x, (d x).walk = x.walk) :
        ((((s.setStrand q t).updCore q.core g).fresh).updDie (dieOf q.core) d).spared r = s.spared r :=
      (spared_updDie _ r hd).trans ((spared_updCore (s.setStrand q t) r hg).trans (spared_setStrand_other s r hq t))
    split
    · rw [hreleased]
      refine hbegun _ _ ?_ _ ?_ <;> exact fun _ => rfl
    · rw [spared_emit, spared_updStrand_other _ r hq, hreleased]
      refine hbegun _ _ ?_ _ ?_ <;> exact fun _ => rfl

/-! ## Lines (R139, R289) -/

theorem spared_hbmWrite (pa : Nat) (data : List Byte) : (s.hbmWrite pa data).spared r = s.spared r := by
  obtain ⟨m, h⟩ := hbmWrite_eq s pa data
  rw [h]
  rfl

theorem spared_toFabric (p : FabricPacket) : (s.toFabric p).spared r = s.spared r := by
  dsimp only [toFabric]
  split <;> rfl

theorem spared_writeBack (l : L2Line) : (s.writeBack l).spared r = s.spared r := by
  unfold writeBack
  extract_lets s1
  have hs1 : s1.spared r = s.spared r := by
    unfold s1
    split
    · exact foldl_keeps (spared r) (fun s b => spared_hbmWrite s r _ _) _ s
    split
    · rfl
    · exact spared_toFabric s r _
  exact hs1

theorem spared_latchMonitor (q : Ref) (code : Nat) : (s.latchMonitor q code).spared r = s.spared r := by
  dsimp only [latchMonitor]
  split
  · rfl
  · split
    · exact spared_updStrand s r (fun _ => rfl) fun _ => rfl
    · exact spared_updStrand s r (fun _ => rfl) fun _ => rfl

theorem spared_leaveL1 (n : Nat) (f : L1Line → Bool) : (s.leaveL1 n f).spared r = s.spared r :=
  (foldl_keeps (spared r) (fun s q => spared_latchMonitor s r q 1) _ _).trans (spared_updCore s r fun _ => rfl)

theorem spared_forgetAnswers (k : Tinv) : (s.forgetAnswers k).spared r = s.spared r := by
  refine (foldl_keeps (spared r) (fun s e => ?_) _ _).trans rfl
  split
  · exact spared_refill s r _ _ _
  · rfl

/-! ## The L2 -/

theorem l2_hbmWrite (pa : Nat) (data : List Byte) : (s.hbmWrite pa data).l2 = s.l2 := by
  obtain ⟨m, h⟩ := hbmWrite_eq s pa data
  rw [h]

/-- The part without what leaves through its ports. -/
def offFabric (s : State) : State := { s with fabricOut := [], portFlits := [], pathNext := [] }

theorem offFabric_toFabric (p : FabricPacket) : (s.toFabric p).offFabric = s.offFabric := by
  dsimp only [toFabric]
  split <;> rfl

theorem l2_toFabric (p : FabricPacket) : (s.toFabric p).l2 = s.l2 := (congrArg State.l2 (offFabric_toFabric s p) :)

/-- A line is written back and dropped. -/
theorem l2_drop_writeBack (l : L2Line) : ((s.writeBack l).l2Drop l.part l.line).l2 = s.l2.filter fun m => !(m.part == l.part && m.line == l.line) := by
  unfold writeBack
  extract_lets s1
  have hs1 : s1.l2 = s.l2 := by
    unfold s1
    split
    · exact foldl_keeps State.l2 (fun s b => l2_hbmWrite s _ _) _ s
    split
    · rfl
    · exact l2_toFabric s _
  simp [l2Drop, l2Keep, hs1]

/-- Lines are written back and dropped: none of them is left. -/
theorem mem_l2_drops {ls : List L2Line} {m : L2Line} (h : m ∈ (ls.foldl (fun s l => (s.writeBack l).l2Drop l.part l.line) s).l2) :
    m ∈ s.l2 ∧ ∀ l ∈ ls, ¬(m.part = l.part ∧ m.line = l.line) := by
  induction ls generalizing s with
  | nil => exact ⟨h, fun l hl => absurd hl List.not_mem_nil⟩
  | cons l ls ih =>
    obtain ⟨hmem, hother⟩ := ih _ h
    rw [l2_drop_writeBack, List.mem_filter] at hmem
    exact ⟨hmem.1, List.forall_mem_cons.2 ⟨fun ⟨hpart, hline⟩ => by simp [hpart, hline] at hmem, hother⟩⟩

theorem l2_updStrand (q : Ref) (f : Strand → Strand) : (s.updStrand q f).l2 = s.l2 := by
  unfold updStrand
  split <;> rfl

theorem l2_latchMonitor (q : Ref) (code : Nat) : (s.latchMonitor q code).l2 = s.l2 := by
  dsimp only [latchMonitor]
  split
  · rfl
  · split
    · exact l2_updStrand s q _
    · exact l2_updStrand s q _

theorem l2_leaveL1 (n : Nat) (f : L1Line → Bool) : (s.leaveL1 n f).l2 = s.l2 :=
  foldl_keeps State.l2 (fun s q => l2_latchMonitor s q 1) _ _

/-! ## tinv (R226) -/

theorem foldl_keeps_of_mem {α β γ : Type} {f : β → α → β} (g : β → γ) {l : List α} (h : ∀ b, ∀ a ∈ l, g (f b a) = g b) (b : β) :
    g (l.foldl f b) = g b := by
  induction l generalizing b with
  | nil => rfl
  | cons a l ih =>
    obtain ⟨ha, hl⟩ := List.forall_mem_cons.1 (fun a ha b => h b a ha)
    rw [List.foldl_cons, ih fun b a ha => hl a ha b, ha]

theorem mem_strandsWhere {f : Ref → Strand → Bool} (h : r ∈ s.strandsWhere f) : ∃ t, f r t = true := by
  obtain ⟨e, -, hmem⟩ := List.mem_flatMap.1 h
  obtain ⟨x, hx, rfl⟩ := List.mem_map.1 hmem
  exact ⟨x.2, (List.mem_filter.1 hx).2⟩

/-- What a strand of the partition forgets of the lines that go (R226, R422). -/
def unlearned (k : Tinv) (t : Strand) : Strand :=
  let keep (x : Received) : Bool := match x with | .line va _ g => !k.covers (va.toNat / 256) g | _ => true
  if t.part ≠ k.part then t else { t with
    known := [], received := t.received.filter keep, pending := t.pending.map fun p => { p with got := p.got.filter keep } }

/-- Every die forgets the walk entries that are covered, and every strand the lines. -/
def unlearn (k : Tinv) (s : State) : State :=
  { s with
    dies := s.dies.map fun d => (d.1, { d.2 with walk := d.2.walk.filter fun e => !k.entry e })
    cores := s.cores.map fun c => (c.1, { c.2 with slots := c.2.slots.map fun e => (e.1, unlearned k e.2) }) }

theorem spared_unlearn (k : Tinv) : (unlearn k s).spared r =
    { s.spared r with walk := fun d => (s.die d).walk.filter fun e => !k.entry e } := by
  have hwalk : (fun d => ((unlearn k s).die d).walk) = fun d => (s.die d).walk.filter fun e => !k.entry e := by
    funext d
    exact congrArg Die.walk (look_map (fun d : Die => { d with walk := d.walk.filter fun e => !k.entry e }) (d := Die.reset) rfl d s.dies)
  have hcore : (unlearn k s).core r.core = { s.core r.core with slots := (s.core r.core).slots.map fun e => (e.1, unlearned k e.2) } :=
    look_map (fun c : Core => { c with slots := c.slots.map fun e => (e.1, unlearned k e.2) }) (d := Core.reset) rfl r.core s.cores
  have hstrand (g : Strand → Spared) (hg : ∀ t, g (unlearned k t) = g t) : g ((unlearn k s).strand r) = g (s.strand r) := by
    rw [strand, hcore]
    exact of_look_map (unlearned k) g hg _ _ _
  refine (hstrand (unlearn k s).sparedWith fun t => ?_).trans ?_
  · unfold unlearned
    dsimp only
    split <;> rfl
  · exact congrArg (fun w => { s.spared r with walk := w }) hwalk

/-- The other strands with a covered store that is not granted are squashed from it on (R422). -/
def squashCovered (k : Tinv) (by_ : Option Ref) (s : State) : State :=
  (s.strandsWhere fun r t => some r != by_ && (s.tinvChunks k t false).isSome).foldl (fun s r =>
    match s.tinvChunks k (s.strand r) false with
    | some j => s.squashFrom r j
    | none => s) s

/-- The covered lines leave the L2, and the cores' L1. -/
def dropCovered (k : Tinv) (s : State) : State := (s.tinvLines k).foldl (fun s l => (s.writeBack l).l2Drop l.part l.line) s
def leaveCovered (k : Tinv) (s : State) : State := s.cores.foldl (fun s e => s.leaveL1 e.1 fun l => l.part == k.part && k.covers l.line l.g) s

theorem tinvNow_eq (k : Tinv) (by_ : Option Ref) :
    s.tinvNow k by_ = unlearn k (leaveCovered k (dropCovered k (squashCovered k by_ (s.forgetAnswers k)))) := rfl

theorem spared_squashCovered (k : Tinv) : (squashCovered k (some r) s).spared r = s.spared r := by
  refine foldl_keeps_of_mem (spared r) (fun u q hq => ?_) s
  obtain ⟨t, ht⟩ := mem_strandsWhere s q hq
  have hne : r ≠ q := fun e => by simp [e] at ht
  split
  · exact spared_squashFrom u r hne _
  · rfl

theorem spared_dropCovered (k : Tinv) : (dropCovered k s).spared r = s.spared r := by
  refine foldl_keeps (spared r) ?_ _ s
  exact fun u l => spared_writeBack u r l

theorem spared_leaveCovered (k : Tinv) : (leaveCovered k s).spared r = s.spared r :=
  foldl_keeps (spared r) (fun u (e : Nat × Core) => spared_leaveL1 u r e.1 _) _ s

theorem l2_leaveCovered (k : Tinv) : (leaveCovered k s).l2 = s.l2 := foldl_keeps State.l2 (fun u (e : Nat × Core) => l2_leaveL1 u e.1 _) _ s

/-- No covered line is left in the L2. -/
theorem not_covered_of_mem_dropCovered {k : Tinv} {l : L2Line} (hl : l ∈ (dropCovered k s).l2) : (l.part == k.part && k.covers l.line l.g) = false := by
  obtain ⟨hbefore, hgone⟩ := mem_l2_drops s hl
  by_contra hcovered
  exact hgone l (List.mem_filter.2 ⟨hbefore, by simpa using hcovered⟩) ⟨rfl, rfl⟩

/-- What every unit loses by a `tinv` of the executing strand, and what it keeps. -/
theorem tinvNow_spec (k : Tinv) :
    (s.tinvNow k (some s.cur)).spared s.cur = { s.spared s.cur with walk := fun d => (s.die d).walk.filter fun e => !k.entry e } ∧
      ∀ l ∈ (s.tinvNow k (some s.cur)).l2, (l.part == k.part && k.covers l.line l.g) = false := by
  generalize hu : dropCovered k (squashCovered k (some s.cur) (s.forgetAnswers k)) = u
  have hnow : s.tinvNow k (some s.cur) = unlearn k (leaveCovered k u) := hu ▸ tinvNow_eq s k (some s.cur)
  have hkept : (leaveCovered k u).spared s.cur = s.spared s.cur := by
    rw [spared_leaveCovered, ← hu, spared_dropCovered, spared_squashCovered, spared_forgetAnswers]
  have hwalk : (fun d => ((leaveCovered k u).die d).walk) = fun d => (s.die d).walk := congrArg Spared.walk hkept
  rw [hnow]
  refine ⟨?_, fun l hl => not_covered_of_mem_dropCovered (s := squashCovered k (some s.cur) (s.forgetAnswers k)) ?_⟩
  · rw [spared_unlearn, hkept]
    exact congrArg (fun w : Nat → List WalkEntry => { s.spared s.cur with walk := fun d => (w d).filter fun e => !k.entry e }) hwalk
  · have hmem : l ∈ (leaveCovered k u).l2 := hl
    rwa [hu, ← l2_leaveCovered u k]

/-- What a `tinv` does beside its own package (R226, R420): the bundle has issued all alone, and the strand waits for its cost or for the other
packages. -/
structure SentOn (s t : State) (part : Nat) : Prop where
  issue : t.issue = .alone
  regs : t.me.regs = { s.me.regs with pc := s.bpc + 8 }
  waits : s.otherPackages part = [] → t.me.wait = .untilCycle (s.now + (20 + toBase (quireOf s.cur.core)))
  told : s.otherPackages part ≠ [] → t.me.wait = .maintained ∧ t.me.unackedMaint = s.me.unackedMaint + (s.otherPackages part).length
  dies : t.dies = s.dies
  l2 : t.l2 = s.l2

theorem tinvSend_spec (k : Tinv) : SentOn s (s.tinvSend k) k.part := by
  have htold : ((s.otherPackages k.part).foldl (fun (u : State) p => u.toFabric (.tinv p k.part k.kind k.ctx k.va (s.cur, s.me.task, s.me.startedAt)))
      s.advance.thenAlone).offFabric = s.advance.thenAlone.offFabric := foldl_keeps offFabric (fun u p => offFabric_toFabric u _) _ _
  unfold tinvSend
  extract_lets others ack s1
  have hissue : s1.issue = .alone := (congrArg State.issue htold :)
  have hme : s1.me = s.advance.me := (congrArg State.me htold :)
  have hnow : s1.now = s.now := (congrArg State.now htold :)
  have hdies : s1.dies = s.dies := (congrArg State.dies htold :)
  have hl2 : s1.l2 = s.l2 := (congrArg State.l2 htold :)
  have hregs : s1.me.regs = { s.me.regs with pc := s.bpc + 8 } := (congrArg Strand.regs (hme.trans (retire_me s _)) :)
  have hmaint : s1.me.unackedMaint = s.me.unackedMaint := (congrArg Strand.unackedMaint (hme.trans (retire_me s _)) :)
  split
  · next hempty =>
    have hnone : others = [] := List.isEmpty_iff.1 hempty
    exact
      { issue := hissue
        regs := (congrArg Strand.regs (me_updMe s1 _)).trans hregs
        waits := fun _ => (congrArg Strand.wait (me_updMe s1 _)).trans (by rw [hnow])
        told := fun hsome => absurd hnone hsome
        dies := hdies
        l2 := hl2 }
  · next hsome =>
    exact
      { issue := hissue
        regs := (congrArg Strand.regs (me_updMe s1 _)).trans hregs
        waits := fun hnone => absurd (List.isEmpty_iff.2 hnone) hsome
        told := fun _ => ⟨congrArg Strand.wait (me_updMe s1 _),
          (congrArg Strand.unackedMaint (me_updMe s1 _)).trans (congrArg (· + others.length) hmaint)⟩
        dies := hdies
        l2 := hl2 }

/-- What a `tinv` starts from is as the strand's bundle found it. -/
theorem sentOn_of_spared {u t : State} {part : Nat} {w : Nat → List WalkEntry} (hspared : u.spared s.cur = { s.spared s.cur with walk := w })
    (h : SentOn u t part) : t.issue = .alone ∧ t.me.regs = { s.me.regs with pc := s.bpc + 8 } ∧
      (s.otherPackages part = [] → t.me.wait = .untilCycle (s.now + (20 + toBase (quireOf s.cur.core)))) ∧
      (s.otherPackages part ≠ [] → t.me.wait = .maintained ∧ t.me.unackedMaint = s.me.unackedMaint + (s.otherPackages part).length) := by
  have hcur : u.cur = s.cur := congrArg Spared.cur hspared
  have hme : u.me = u.strand s.cur := congrArg u.strand hcur
  have hregs : u.me.regs = s.me.regs := (congrArg Strand.regs hme).trans (congrArg Spared.regs hspared)
  have hmaint : u.me.unackedMaint = s.me.unackedMaint := (congrArg Strand.unackedMaint hme).trans (congrArg Spared.unackedMaint hspared)
  have hlatch : u.latch = s.latch := congrArg Spared.latch hspared
  have hbpc : u.bpc = s.bpc := by rw [bpc, bpc, pre, pre, hlatch, hregs]
  have hnow : u.now = s.now := congrArg Spared.now hspared
  have hothers : u.otherPackages part = s.otherPackages part := by
    have hlisted : u.listed = s.listed := congrArg Spared.listed hspared
    have hpkgid : u.pkgid = s.pkgid := congrArg Spared.pkgid hspared
    rw [otherPackages, otherPackages, hlisted, hpkgid]
  obtain ⟨hissue, hgoes, hwaits, htold, -, -⟩ := h
  rw [hothers, hnow, hcur] at hwaits
  rw [hothers, hmaint] at htold
  rw [hregs, hbpc] at hgoes
  exact ⟨hissue, hgoes, hwaits, htold⟩

end State

/-! ## Privileged words (R84, R225-R229, R292) -/

theorem privileged_next {i : Instr} {s : State} (h : Ready i s) (hpriv : s.pre.flags.getLsbD 16 = true) (k : State → State) :
    privileged i s k = .next (k s) := privileged_super h.1 h.2 hpriv

section
variable {s : State} {c : CWord}

theorem tinv_of_alone {k : State.Tinv} (halone : s.aloneNow = true) (hwaits : s.tinvWaits k = false) :
    s.tinv k = (s.tinvNow k (some s.cur)).tinvSend k := by
  simp [State.tinv, halone, hwaits]

/-- A `tinv` that is performed (R226, R420). -/
theorem tinv_spec {k : State.Tinv} (halone : s.aloneNow = true) (hwaits : s.tinvWaits k = false) :
    ((s.tinv k).issue = .alone ∧ (s.tinv k).me.regs = { s.me.regs with pc := s.bpc + 8 } ∧
      (s.otherPackages k.part = [] → (s.tinv k).me.wait = .untilCycle (s.now + (20 + toBase (quireOf s.cur.core)))) ∧
      (s.otherPackages k.part ≠ [] → (s.tinv k).me.wait = .maintained ∧
        (s.tinv k).me.unackedMaint = s.me.unackedMaint + (s.otherPackages k.part).length)) ∧
      (∀ d, ((s.tinv k).die d).walk = (s.die d).walk.filter fun e => !k.entry e) ∧
      ∀ l ∈ (s.tinv k).l2, (l.part == k.part && k.covers l.line l.g) = false := by
  obtain ⟨hspared, hl2⟩ := s.tinvNow_spec k
  have hsent := (s.tinvNow k (some s.cur)).tinvSend_spec k
  rw [tinv_of_alone halone hwaits]
  generalize s.tinvNow k (some s.cur) = u at hspared hl2 hsent ⊢
  generalize u.tinvSend k = t at hsent ⊢
  have hdie (d : Nat) : t.die d = u.die d := congrArg (look Die.reset d) hsent.dies
  refine ⟨s.sentOn_of_spared hspared hsent, fun d => ?_, hsent.l2 ▸ hl2⟩
  rw [hdie]
  exact congrFun (congrArg Spared.walk hspared) d

theorem exec_ctxsw_of_ready (h : Ready (.ctxsw c) s) (hpriv : s.pre.flags.getLsbD 16 = true) :
    exec (.ctxsw c) s = .next (held s (.ctxsw (c.d.toNat % 8) (s.opA c)) []) := by
  rw [exec_ctxsw, execCtxsw, privileged_next h hpriv, State.advance_hold]
  rfl

/-- A strand that may be resumed is, at the commit (R229). -/
theorem exec_resume_of_resumable (h : Ready (.resume c) s) (hslot : (s.opA c).toNat < 16) (hmay : resumable s s.cur ⟨s.cur.core, (s.opA c).toNat⟩ = true) :
    exec (.resume c) s = .next (held s (.resume (s.opA c).toNat) []) := by
  obtain ⟨hwf, hcb⟩ := h
  have hlow : (s.opA c).toNat % 16 = (s.opA c).toNat := Nat.mod_eq_of_lt hslot
  have hhigh : (s.opA c).toNat / 16 = 0 := Nat.div_eq_of_lt hslot
  rw [exec_resume, execResume, checked_next hwf hcb]
  simp only [hlow, hhigh, hmay, State.advance_hold]
  rfl

/-- `hmset` leaves for the base die, and the strand waits (R227). -/
theorem exec_hmset_of_alone (h : Ready (.hmset c) s) (hpriv : s.pre.flags.getLsbD 16 = true) (halone : s.aloneNow = true) :
    exec (.hmset c) s = .next (((s.emitNet (toBase (quireOf s.cur.core))
      (.hmsetSliceAdopt s.me.part 0 (s.opA c) (some s.cur))).advance.thenAlone).updMe fun t =>
        { t with wait := .maintained, unackedMaint := t.unackedMaint + 1 }) := by
  rw [exec_hmset, execHmset, privileged_next h hpriv]
  simp only [halone, Bool.not_true, Bool.false_eq_true, if_false]

/-- The partition returns to its last complete edition (R228, R299). -/
theorem exec_rollback_of_reached {e : Edition} (h : Ready (.rollback c) s) (hpriv : s.pre.flags.getLsbD 16 = true)
    (hlast : s.lastComplete s.me.part = some e) (hop : s.opA c = e.n.setWidth 64) (halone : s.aloneNow = true)
    (hreached : (s.packages s.me.part).all s.reachable = true) : exec (.rollback c) s =
      .next { (if s.checkpointing s.me.part then s else s.abortEdition s.me.part 6 0).rollBack s.me.part e with issue := .no } := by
  rw [exec_rollback, execRollback, privileged_next h hpriv]
  dsimp only
  rw [hlast]
  simp only [hop, ne_eq, not_true, if_false, halone, hreached, Bool.not_true, Bool.false_eq_true]

/-- A question leaves, with a window for its answer (R191). -/
theorem emitNet_openWindow (s : State) (la : BitVec 4) (dests : List Dest) (d : Nat) (e : Event) :
    (s.openWindow la dests).emitNet d e = asking s la dests d e := rfl

theorem regs_asking (s : State) (la : BitVec 4) (dests : List Dest) (d : Nat) (e : Event) : (asking s la dests d e).me.regs = s.me.regs :=
  (congrArg Strand.regs (State.me_setMe s _) :)

/-- `snap` with its header's line at hand: all alone, answered 0 in the checkpoint state (log 47), else by the controller (R292). -/
theorem exec_snap_of_cached {b : List Byte} {g : Grant} (h : Ready (.snap c) s) (hpriv : s.pre.flags.getLsbD 16 = true) (halone : s.aloneNow = true)
    (hcached : CachedBytes s (s.opA c).toNat 8 .load b g) (hpage : (s.opA c).toNat % 4096 = 0) : exec (.snap c) s = .next (
      if s.checkpointing s.me.part then alone s (s.me.regs.setS c.d 0)
      else alone (asking s c.la [.s c.d] (20 + spineHops (quireOf s.cur.core)) (.snapRequestArrival s.cur s.ids (s.opA c))) s.me.regs) := by
  obtain ⟨hlow, haperture, -, hmoved, hlook⟩ := hcached
  have hhigh : (s.opA c).toNat / 2 ^ 57 = 0 := Nat.div_eq_of_lt hlow
  have hasked (d : Nat) (e : Event) : (asking s c.la [.s c.d] d e).advance = wrote (asking s c.la [.s c.d] d e) s.me.regs := by
    rw [State.advance_eq_wrote, regs_asking]
  rw [exec_snap, execSnap, privileged_next h hpriv]
  dsimp only
  rw [hlook]
  simp only [hhigh, hpage, haperture, hmoved, halone, ne_eq, not_true, Bool.not_true, Bool.false_eq_true, if_false, emitNet_openWindow,
    State.advance_writeS, hasked, BitVec.ofNat_toNat, BitVec.setWidth_eq]
  rfl

end

/-! ## Interleave domains (R137, R227) -/

section
variable (s : State) (part : Nat) (r : Ref) (v : Word)

/-- The strand that has sent an `hmset`. -/
theorem hmset_spec (d : Nat) (e : Event) : let t := ((s.emitNet d e).advance.thenAlone).updMe fun t =>
      { t with wait := .maintained, unackedMaint := t.unackedMaint + 1 }
    t.issue = .alone ∧ t.me.wait = .maintained ∧ t.me.unackedMaint = s.me.unackedMaint + 1 ∧ t.me.regs = { s.me.regs with pc := s.bpc + 8 } ∧
      (t.partition part).hmask = (s.partition part).hmask ∧ ∃ n, t.sent = s.sent ++ [(n, e)] ∧ s.now + d ≤ n := by
  intro t
  have hsent : (s.emitNet d e).advance.thenAlone.me = (s.emitNet d e).advance.me := rfl
  have hme := (State.me_updMe (s.emitNet d e).advance.thenAlone fun t => { t with wait := .maintained, unackedMaint := t.unackedMaint + 1 })
  rw [hsent, State.advance, State.retire_me] at hme
  refine ⟨rfl, congrArg Strand.wait hme, congrArg Strand.unackedMaint hme, congrArg Strand.regs hme, rfl, s.now + (d + s.draw.toNat), rfl, ?_⟩
  exact Nat.add_le_add_left (Nat.le_add_right _ _) _

theorem exec_hmsetSliceAdopt_received (q : Nat) :
    exec .hmsetSliceAdopt { s with ev := .hmsetSliceAdopt part q v (some r) } = .next (State.hmsetReceive { s with ev := .hmsetSliceAdopt part q v (some r) } part r v) := rfl

/-- Each event that is sent for a member of a list is there in the end. -/
theorem mem_sent_foldl_emitNet (d : Nat → Nat) (g : Nat → Event) {l : List Nat} {s : State} {q : Nat} (hq : q ∈ l ∨ ∃ n, (n, g q) ∈ s.sent) :
    ∃ n, (n, g q) ∈ (l.foldl (fun s q => s.emitNet (d q) (g q)) s).sent := by
  induction l generalizing s with
  | nil => exact hq.resolve_left List.not_mem_nil
  | cons p l ih =>
    refine ih ?_
    obtain hmem | ⟨n, hsent⟩ := hq
    · obtain rfl | hmem := List.mem_cons.1 hmem
      · exact .inr ⟨_, List.mem_append_right _ List.mem_cons_self⟩
      · exact .inl hmem
    · exact .inr ⟨n, List.mem_append_left _ hsent⟩

/-- The first `hmset` of the queue is sent to every slice of the partition; the queue stays. -/
theorem hmsetSend_spec {x : Ref × Word} {rest : List (Ref × Word)} (h : (s.partition part).hmsets = x :: rest) :
    ((s.hmsetSend part).partition part).hmsets = (s.partition part).hmsets ∧ ((s.hmsetSend part).partition part).hmask = (s.partition part).hmask ∧
      ∀ q ∈ s.homeList part, ∃ n, (n, .hmsetSliceAdopt part q x.2 none) ∈ (s.hmsetSend part).sent := by
  have hsend : s.hmsetSend part = ((s.homeList part).foldl (fun s q => s.emitNet (toBase q) (.hmsetSliceAdopt part q x.2 none)) s).updPartition part
      fun p => { p with adoptLeft := s.homeList part } := by
    rw [State.hmsetSend, h]
  have hpartitions : ((s.homeList part).foldl (fun s q => s.emitNet (toBase q) (.hmsetSliceAdopt part q x.2 none)) s).partitions = s.partitions := by
    refine State.foldl_keeps State.partitions ?_ _ s
    exact fun _ _ => rfl
  have hpartition : ((s.homeList part).foldl (fun s q => s.emitNet (toBase q) (.hmsetSliceAdopt part q x.2 none)) s).partition part =
      s.partition part := congrArg (look Partition.reset part) hpartitions
  rw [hsend, State.updPartition, State.partition_setPartition, hpartition]
  exact ⟨rfl, rfl, fun q hq => mem_sent_foldl_emitNet toBase (fun q => .hmsetSliceAdopt part q x.2 none) (.inl hq)⟩

theorem hmsetReceive_spec : ((s.hmsetReceive part r v).partition part).hmsets = (s.partition part).hmsets ++ [(r, v)] ∧
    ((s.hmsetReceive part r v).partition part).hmask = (s.partition part).hmask ∧
    ((s.partition part).hmsets = [] → ∀ q ∈ s.homeList part, ∃ n, (n, .hmsetSliceAdopt part q v none) ∈ (s.hmsetReceive part r v).sent) := by
  unfold State.hmsetReceive
  extract_lets s1
  have hs1 : s1.partition part = { s.partition part with hmsets := (s.partition part).hmsets ++ [(r, v)] } := State.partition_setPartition _ _ _
  split
  · next hempty =>
    have hqueue : (s1.partition part).hmsets = [(r, v)] := by rw [hs1, List.isEmpty_iff.1 hempty]; rfl
    obtain ⟨hmsets, hmask, hsent⟩ := hmsetSend_spec s1 part hqueue
    rw [hmsets, hmask, hs1]
    exact ⟨rfl, rfl, fun _ => hsent⟩
  · next hsome =>
    rw [hs1]
    exact ⟨rfl, rfl, fun hnone => absurd (List.isEmpty_iff.2 hnone) hsome⟩

end
end Machine
end Sys2Proof
end

section
/-! PROOF. Privileged instructions. -/

namespace Sys2Proof.Proofs

open Sys2Proof.Machine Sys2Proof.Claims

/-- Without PRIV each of them raises PERMISSION, whatever its operands (R203). -/
theorem privilegeIsChecked : PrivilegeIsChecked := by
  intro c s i hi hwf hpriv
  simp only [List.mem_cons, List.not_mem_nil, or_false] at hi
  obtain rfl | rfl | rfl | rfl | rfl | rfl | rfl := hi <;> exact privileged_user hwf hpriv

theorem privilegedEffects : PrivilegedEffects := by
  intro c s
  refine ⟨exec_ctxsw_of_ready, fun hready hslot hocc hne hstopped hfault hby hpart hctx => ?_, fun hready hpriv halone => ?_, fun part r v => ?_,
    fun e => exec_rollback_of_reached, fun hready hpriv halone b g hcached hpage => exec_snap_of_cached hready hpriv halone hcached hpage⟩
  · refine exec_resume_of_resumable hready hslot ?_
    have hfault : (s.strand ⟨s.cur.core, (s.opA c).toNat⟩).fault.isSome = true := Option.isSome_iff_ne_none.2 hfault
    have hby : ((s.strand ⟨s.cur.core, (s.opA c).toNat⟩).byUpcall || s.me.kind == .upcall) = true := by simpa using hby
    have hme : s.strand s.cur = s.me := rfl
    simpa [resumable, hocc, hne, hstopped, hfault, hpart, hctx, hme] using hby
  · exact ⟨_, exec_hmset_of_alone hready hpriv halone, hmset_spec s _ _ _⟩
  · exact ⟨_, exec_hmsetSliceAdopt_received s part r v 0, hmsetReceive_spec ..⟩

theorem translationInvalidates : TranslationInvalidates := by
  intro c s hpriv halone
  refine ⟨fun k hk hready hwaits haperture => ?_, fun hready haperture => ?_⟩
  · have hexec : exec k.1 s = .next (s.tinv k.2) := by
      simp only [List.mem_cons, List.not_mem_nil, or_false] at hk
      obtain rfl | rfl | rfl := hk
      · rw [exec_tinvPage, execTinvPage, privileged_next hready hpriv]
        simp only [haperture rfl, Bool.false_eq_true, if_false]
      · exact privileged_next hready hpriv _
      · exact privileged_next hready hpriv _
    have hpart : k.2.part = s.me.part := by
      simp only [List.mem_cons, List.not_mem_nil, or_false] at hk
      obtain rfl | rfl | rfl := hk <;> rfl
    obtain ⟨hends, hwalk, hl2⟩ := tinv_spec halone hwaits
    rw [hpart] at hends
    exact ⟨_, hexec, hends, hwalk, hl2⟩
  · have hexec : exec (.tinvPage c) s = .next (s.tinvSend (State.tinvPage s.me.part s.me.ctx (s.opA c).toNat)) := by
      rw [exec_tinvPage, execTinvPage, privileged_next hready hpriv]
      simp only [haperture, halone, if_true, Bool.not_true, Bool.false_eq_true, if_false]
    have hsent := s.tinvSend_spec (State.tinvPage s.me.part s.me.ctx (s.opA c).toNat)
    exact ⟨_, hexec, s.sentOn_of_spared (w := fun d => (s.die d).walk) rfl hsent, hsent.dies, hsent.l2⟩

/-- Settles O23, from the check of PRIV, the effects, and what a `tinv` takes and leaves. -/
theorem privilegedInstructions : Obligations.PrivilegedInstructions := ⟨privilegeIsChecked, privilegedEffects, translationInvalidates⟩

end Sys2Proof.Proofs
end

section
/-! SUPPORT. One row of A in the tiles of an MMA (R107, R108, R269): an element that a column writes, and those that none does. -/

namespace Sys2Proof.Machine

namespace State
variable (s : State)

theorem zpOf_setElem (q n r c : Nat) (e : Elem) (k m : Nat) : (s.setElem q n r c e).zpOf k m = s.zpOf k m := by
  by_cases hk : k = q
  · rw [hk, zpOf, setElem, quire_setQuire, zpOf]
  · exact congrArg (fun u : Quire => look 0 m u.zp) (look_put_other _ hk _ _)

/-- The elements of every other tile stay as they are. -/
theorem tileElem_setElem_elsewhere (q n r c : Nat) (e : Elem) {k m : Nat} (h : k ≠ q ∨ m ≠ n) (r' c' : Nat) :
    (s.setElem q n r c e).tileElem k m r' c' = s.tileElem k m r' c' := by
  by_cases hk : k = q
  · have hm : m ≠ n := h.resolve_left fun hne => hne hk
    rw [hk, tileElem, setElem, quire_setQuire, look_put_other _ hm, tileElem]
  · exact congrArg (fun u : Quire => look Elem.zero (32 * r' + c') (look [] m u.tiles)) (look_put_other _ hk _ _)

/-- The same place in words of a tile's rows and columns (R105): any other element stays as it is. -/
theorem tileElem_setElem_of_ne {q n r c : Nat} (e : Elem) {k m r' c' : Nat} (hc : c < 32) (hc' : c' < 32)
    (h : (k, m, r', c') ≠ (q, n, r, c)) : (s.setElem q n r c e).tileElem k m r' c' = s.tileElem k m r' c' := by
  by_cases htile : k ≠ q ∨ m ≠ n
  · exact tileElem_setElem_elsewhere s q n r c e htile r' c'
  · obtain ⟨rfl, rfl⟩ : k = q ∧ m = n := by tauto
    rw [tileElem_setElem, if_neg]
    intro hplace
    obtain ⟨rfl, rfl⟩ : r' = r ∧ c' = c := by omega
    exact h rfl

end State

/-- The K-blocks of a row of an operand (R106). -/
abbrev KBlocks := List (Int × List (Option Int))

/-- The tile of an MMA's column in a row (R269). -/
def mmaTile (c : MmaCmd) (row col : Nat) : Nat := c.n + row / 32 * Bits.ceilDiv c.nn 32 + col / 32

section
variable (q : Nat) (c : MmaCmd) (row : Nat) (a : KBlocks)

/-- A row of A applied to one column, B's row for it with its number. -/
def mmaColumn (s : State) (b : KBlocks × Nat) : State :=
  let d := State.dotRow (precision (s.zpOf q (mmaTile c row b.2))).et a b.1
  s.setElem q (mmaTile c row b.2) (row % 32) (b.2 % 32) ((s.tileElem q (mmaTile c row b.2) (row % 32) (b.2 % 32)).update d.1 d.2)

theorem mmaRow_eq_foldl (s : State) (bs : List KBlocks) :
    s.mmaRow q c row a bs = bs.zipIdx.foldl (mmaColumn q c row a) s := rfl

theorem zpOf_foldl_mmaColumn (l : List (KBlocks × Nat)) (s : State) (k n : Nat) :
    (l.foldl (mmaColumn q c row a) s).zpOf k n = s.zpOf k n :=
  State.foldl_keeps (fun u => u.zpOf k n) (fun _ _ => State.zpOf_setElem ..) l s

/-- An element that no column of the list has stays as it is. -/
theorem tileElem_foldl_mmaColumn_of_ne {l : List (KBlocks × Nat)} {k n r j : Nat} (hj : j < 32)
    (h : ∀ b ∈ l, (k, n, r, j) ≠ (q, mmaTile c row b.2, row % 32, b.2 % 32)) (s : State) :
    (l.foldl (mmaColumn q c row a) s).tileElem k n r j = s.tileElem k n r j :=
  State.foldl_keeps_of_mem (fun u => u.tileElem k n r j)
    (fun u b hb => State.tileElem_setElem_of_ne u _ (Nat.mod_lt _ (by decide)) hj (h b hb)) s

/-- Two columns have their elements in different places. -/
theorem mmaColumn_place_ne {i j : Nat} (h : i ≠ j) :
    (q, mmaTile c row i, row % 32, i % 32) ≠ (q, mmaTile c row j, row % 32, j % 32) := by
  intro heq
  simp only [Prod.mk.injEq, mmaTile] at heq
  omega

/-- The element of a column that stands once in the list is updated by that column alone. -/
theorem tileElem_foldl_mmaColumn_same {l : List (KBlocks × Nat)} (hl : (l.map Prod.snd).Nodup)
    {b : KBlocks} {col : Nat} (hb : (b, col) ∈ l) (s : State) :
    (l.foldl (mmaColumn q c row a) s).tileElem q (mmaTile c row col) (row % 32) (col % 32) =
      (s.tileElem q (mmaTile c row col) (row % 32) (col % 32)).update
        (State.dotRow (precision (s.zpOf q (mmaTile c row col))).et a b).1
        (State.dotRow (precision (s.zpOf q (mmaTile c row col))).et a b).2 := by
  obtain ⟨l₁, l₂, rfl⟩ := List.append_of_mem hb
  have hcol : col ∉ l₁.map Prod.snd ∧ col ∉ l₂.map Prod.snd := by
    rw [List.map_append, List.map_cons, List.nodup_middle, List.nodup_cons, List.mem_append, not_or] at hl
    exact hl.1
  have hother {l : List (KBlocks × Nat)} (hl : col ∉ l.map Prod.snd) (u : State) :
      (l.foldl (mmaColumn q c row a) u).tileElem q (mmaTile c row col) (row % 32) (col % 32) =
        u.tileElem q (mmaTile c row col) (row % 32) (col % 32) :=
    tileElem_foldl_mmaColumn_of_ne q c row a (Nat.mod_lt _ (by decide))
      (fun e he => mmaColumn_place_ne q c row fun (heq : col = e.2) => hl (heq ▸ List.mem_map_of_mem he)) u
  rw [List.foldl_append, List.foldl_cons, hother hcol.2, mmaColumn, State.tileElem_setElem, if_pos rfl, hother hcol.1,
    zpOf_foldl_mmaColumn]

end
end Sys2Proof.Machine
end

section
/-! PROOF. Rows of an MMA. -/

namespace Sys2Proof.Proofs

open Sys2Proof.Machine Sys2Proof.Claims

/-- Settles O29: the row is applied column by column (`mmaRow_eq_foldl`), and no two columns have an element in common. -/
theorem matrixRow : Obligations.MatrixRow := by
  intro s q c row a bs _ _
  refine ⟨fun col hcol => ?_, fun k n r j _ hj hne => ?_⟩
  · have hnodup : (bs.zipIdx.map Prod.snd).Nodup := by
      rw [List.zipIdx_map_snd]
      exact List.nodup_range'
    exact tileElem_foldl_mmaColumn_same q c row a hnodup (List.mk_mem_zipIdx_iff_getElem?.2 (List.getElem?_eq_getElem hcol)) s
  · refine tileElem_foldl_mmaColumn_of_ne q c row a hj (fun b hb => hne b.2 ?_) s
    exact (List.mem_zipIdx' hb).1

end Sys2Proof.Proofs
end

section
/-! SUPPORT. Results with sticky flags (R80, R95): the next state of a float operation, a conversion, a float compare, a reduction and a scan. -/

namespace Sys2Proof.Machine

open Sys2Proof.Claims

/-- Registers with sticky bits ORed into flags [8:4] (R80). -/
def Regs.orSticky (r : Regs) (f : Sticky) : Regs := { r with flags := r.flags ||| (f.setWidth 64 <<< 4) }

namespace State
variable (s : State)

/-- A bundle that writes a register and sticky flags goes on. -/
theorem advance_writeReg_orSticky (w : RegWrite) (f : Sticky) :
    ((s.writeReg w).orSticky f).advance = Claims.wrote s ((s.me.regs.apply w).orSticky f) := by
  have hset : (s.writeReg w).orSticky f = s.setMe { s.me with regs := (s.me.regs.apply w).orSticky f } := by
    rw [orSticky, writeReg, writeReg, updMe_updMe]
    rfl
  rw [hset]
  exact advance_setMe s (pc_foldl_apply [w] s.me.regs)

theorem advance_writeV_orSticky (n : BitVec 5) (x : VReg) (m : W32) (f : Sticky) :
    ((s.writeV n x m).orSticky f).advance = Claims.wrote s ((s.me.regs.setV n x m).orSticky f) := advance_writeReg_orSticky s (.v n x m) f

theorem advance_writeS_orSticky (n : BitVec 5) (x : Word) (f : Sticky) :
    ((s.writeS n x).orSticky f).advance = Claims.wrote s ((s.me.regs.setS n x).orSticky f) := advance_writeReg_orSticky s (.s n x) f

theorem advance_writeK_orSticky (n : BitVec 3) (x : W32) (f : Sticky) :
    ((s.writeK n x).orSticky f).advance = Claims.wrote s ((s.me.regs.setK n x).orSticky f) := by
  have hset : (s.writeK n x).orSticky f = s.setMe { s.me with regs := (s.me.regs.setK n x).orSticky f } := by
    rw [orSticky, writeReg, writeK, updMe_updMe]
    rfl
  have hpc : (s.me.regs.setK n x).pc = s.me.regs.pc := by unfold Regs.setK; split <;> rfl
  rw [hset]
  exact advance_setMe s hpc

end State

/-- A word that passes its checks has its effect. -/
theorem checked_of_ready {i : Instr} {s : State} (h : Ready i s) (k : State → State) : checked i s k = .next (k s) := checked_next h.1 h.2

/-! ## Float operations (R230-R232, R235) -/

/-- The destination of a float result (R230). -/
theorem floatForm_eq_floatResult (vd : Bool) (w : AWord) (lane : Fin 32 → W32 × Sticky) (val : W32 × Sticky) (s : State) :
    floatForm vd w lane val s = floatResult s vd w lane val := by
  cases vd with
  | true => exact State.advance_writeV_orSticky ..
  | false => exact State.advance_writeS_orSticky ..

section
variable (w : AWord) (s : State)

theorem exec_floatBinaryTable : ∀ p ∈ floatBinaryTable, exec (p.1 w) s = floatBinary (p.1 w) w p.2 s := by
  simp only [floatBinaryTable, List.forall_mem_cons]
  exact ⟨rfl, rfl, rfl, rfl, rfl, List.forall_mem_nil _⟩

theorem exec_floatAccTable : ∀ p ∈ floatAccTable, exec (p.1 w) s = floatAccumulate (p.1 w) w p.2 s := by
  simp only [floatAccTable, List.forall_mem_cons]
  exact ⟨rfl, rfl, List.forall_mem_nil _⟩

theorem exec_floatUnaryTable : ∀ p ∈ floatUnaryTable, exec (p.1 w) s = floatUnary (p.1 w) w p.2 s := by
  simp only [floatUnaryTable, List.forall_mem_cons]
  exact ⟨rfl, rfl, rfl, rfl, rfl, rfl, rfl, rfl, rfl, rfl, rfl, List.forall_mem_nil _⟩

/-! ## Conversions (R98, R234) -/

theorem exec_toIntTable : ∀ p ∈ toIntTable, exec (p.1 w) s = convertToInt (p.1 w) w p.2.1 p.2.2.1 p.2.2.2 s := by
  simp only [toIntTable, List.forall_mem_cons]
  exact ⟨rfl, rfl, rfl, rfl, rfl, List.forall_mem_nil _⟩

theorem exec_fromIntTable : ∀ p ∈ fromIntTable, exec (p.1 w) s =
    convertFrom (p.1 w) w (fun c a => intToFloat c (p.2.1 a)) (fun c a => zextFloat (intToFloat c (p.2.2 a))) s := by
  simp only [fromIntTable, List.forall_mem_cons]
  exact ⟨rfl, rfl, rfl, List.forall_mem_nil _⟩

theorem exec_widenTable : ∀ p ∈ widenTable, exec (p.1 w) s = convertWiden (p.1 w) w p.2 s := by
  simp only [widenTable, List.forall_mem_cons]
  exact ⟨rfl, rfl, List.forall_mem_nil _⟩

variable {w s} {i : Instr} (h : Ready i s)
include h

theorem convertToInt_of_ready (lo hi : Int) (rm : FCtl → Nat) : convertToInt i w lo hi rm s = .next (
    if w.ta = .v then
      floatResult s true w (fun j =>
        (BitVec.ofInt 32 (floatToInt w.fzi (rm (s.fctl w)) lo hi (s.laneFloat w.ta w.a w.ext j)).1,
          (floatToInt w.fzi (rm (s.fctl w)) lo hi (s.laneFloat w.ta w.a w.ext j)).2)) (0, 0)
    else
      wrote s ((s.me.regs.setS w.d (BitVec.ofInt 64 (floatToInt w.fzi (rm (s.fctl w)) lo hi (s.scalarFloat w.ta w.a w.ext)).1)).orSticky
        (floatToInt w.fzi (rm (s.fctl w)) lo hi (s.scalarFloat w.ta w.a w.ext)).2)) := by
  rw [convertToInt, checked_of_ready h]
  by_cases hv : w.ta = .v
  · simp only [hv, beq_self_eq_true, if_true, floatForm_eq_floatResult]
  · simp only [hv, beq_iff_eq, if_false, State.advance_writeS_orSticky]

theorem convertFrom_of_ready (lane : FCtl → W32 → W32 × Sticky) (val : FCtl → Word → W32 × Sticky) :
    convertFrom i w lane (fun c a => zextFloat (val c a)) s = .next (floatResult s (w.ta == .v) w
      (fun j => lane (s.fctl w) (s.laneInt w.ta w.a w.ext j)) (val (s.fctl w) (s.scalar w.ta w.a w.ext))) := by
  rw [convertFrom, checked_of_ready h]
  cases w.ta == .v with
  | true => exact congrArg Host.Outcome.next (floatForm_eq_floatResult ..)
  | false => exact congrArg Host.Outcome.next (State.advance_writeS_orSticky ..)

/-- A 16-bit float from a register, a lane or the constant buffer. -/
theorem convertWiden_of_ready (f : Fmt) (hlit : w.ta ≠ .lit) : convertWiden i w f s = .next (floatResult s (w.ta == .v) w
    (fun j => floatWiden (s.fctl w) f (s.laneInt w.ta w.a w.ext j))
    (floatWiden (s.fctl w) f ((s.scalar w.ta w.a w.ext).setWidth 32))) := by
  have hnolit : (w.ta == .lit) = false := by simpa using hlit
  have hzero (x : Sticky) : (0 : Sticky) ||| x = x := BitVec.zero_or
  rw [convertWiden, checked_of_ready h]
  simp only [hnolit, Bool.false_eq_true, if_false, hzero, State.advance_writeS_orSticky, floatForm_eq_floatResult]
  cases w.ta == .v <;> rfl

/-- A literal is taken to the 16-bit format first (R187). -/
theorem convertWiden_literal_of_ready (f : Fmt) (hlit : w.ta = .lit) : convertWiden i w f s = .next (floatResult s false w (fun _ => (0, 0))
    ((floatWiden (s.fctl w) f (narrowLiteral (s.fctl w) f w.a w.ext).1).1,
      (narrowLiteral (s.fctl w) f w.a w.ext).2 ||| (floatWiden (s.fctl w) f (narrowLiteral (s.fctl w) f w.a w.ext).1).2)) := by
  rw [convertWiden, checked_of_ready h]
  simp only [hlit]
  exact congrArg Host.Outcome.next (State.advance_writeS_orSticky ..)

end

/-! ## Compares (R233) -/

/-- Lane `j`'s bit of a compare. -/
def setLane (g : Fin 32 → Bool) (acc : W32) (j : Fin 32) : W32 := if g j then acc ||| BitVec.ofNat 32 (1 <<< j.val) else acc

/-- The k register of a compare in lanes. -/
def compareMask (g : Fin 32 → Bool) : W32 := laneList.foldl (setLane g) 0

theorem getLsbD_setLane (g : Fin 32 → Bool) (acc : W32) (i j : Fin 32) :
    (setLane g acc i).getLsbD j = (acc.getLsbD j || (decide (j = i) && g j)) := by
  have hbit : (BitVec.ofNat 32 (1 <<< i.val)).getLsbD j = decide (j = i) := by
    rw [BitVec.getLsbD_ofNat, Nat.one_shiftLeft, Nat.testBit_two_pow, decide_eq_true j.isLt, Bool.true_and]
    simp only [Fin.ext_iff, eq_comm]
  unfold setLane
  by_cases hij : j = i
  · subst hij
    split
    case isTrue hg => rw [BitVec.getLsbD_or, hbit, hg, Bool.and_true]
    case isFalse hg => rw [Bool.eq_false_iff.2 hg, Bool.and_false, Bool.or_false]
  · rw [decide_eq_false hij, Bool.false_and, Bool.or_false]
    split
    · rw [BitVec.getLsbD_or, hbit, decide_eq_false hij, Bool.or_false]
    · rfl

theorem getLsbD_foldl_setLane (g : Fin 32 → Bool) (l : List (Fin 32)) (acc : W32) (j : Fin 32) :
    (l.foldl (setLane g) acc).getLsbD j = (acc.getLsbD j || (decide (j ∈ l) && g j)) := by
  induction l generalizing acc with
  | nil => simp
  | cons i l ih =>
    rw [List.foldl_cons, ih, getLsbD_setLane, Bool.or_assoc, ← Bool.and_or_distrib_right]
    simp

theorem getLsbD_compareMask (g : Fin 32 → Bool) (j : Fin 32) : (compareMask g).getLsbD j = g j := by
  have hmem : decide (j ∈ laneList) = true := decide_eq_true (List.mem_finRange j)
  have hzero : (0 : W32).getLsbD j = false := BitVec.getLsbD_zero
  rw [compareMask, getLsbD_foldl_setLane, hzero, hmem, Bool.false_or, Bool.true_and]

/-- Every bit is the one condition of a compare of scalars. -/
theorem getLsbD_scalarMask (b : Bool) (j : Fin 32) : (if b then BitVec.allOnes 32 else (0 : W32)).getLsbD j = b := by
  cases b with
  | true => exact (BitVec.getLsbD_allOnes ..).trans (decide_eq_true j.isLt)
  | false => exact BitVec.getLsbD_zero

section
variable {w : AWord} {s : State} (h : Ready (.fcmp w) s)
include h

theorem exec_fcmp_lanes (hv : w.vDest = true) : exec (.fcmp w) s =
    let r (j : Fin 32) := floatCmp w.fzi w.k.toNat (s.laneFloat w.ta w.a w.ext j) (s.laneFloat w.tb w.b w.ext j)
    .next (wrote s ((s.me.regs.setK (w.d.setWidth 3) (compareMask fun j => (r j).1)).orSticky (stickyOf 0xFFFFFFFF fun j => (r j).2))) := by
  rw [exec_fcmp, execFcmp, checked_of_ready h]
  simp only [hv, if_true, State.advance_writeK_orSticky]
  rfl

theorem exec_fcmp_scalar (hv : w.vDest = false) : exec (.fcmp w) s =
    let r := floatCmp w.fzi w.k.toNat (s.scalarFloat w.ta w.a w.ext) (s.scalarFloat w.tb w.b w.ext)
    .next (wrote s ((s.me.regs.setK (w.d.setWidth 3) (if r.1 then BitVec.allOnes 32 else 0)).orSticky r.2)) := by
  rw [exec_fcmp, execFcmp, checked_of_ready h]
  simp only [hv, Bool.false_eq_true, if_false, State.advance_writeK_orSticky]

end

/-! ## Reductions and scans (R116, R117, R237) -/

section
variable (w : AWord) (s : State)

theorem exec_reduceTable : ∀ p ∈ reduceTable, exec (p.1 w) s = checked (p.1 w) s fun s =>
    let r := treeReduce (p.2.1 (s.fctl w)) (s.readV w.a) (s.readK w.k)
    ((s.writeS w.d (if p.2.2 then r.1.signExtend 64 else r.1.setWidth 64)).orSticky r.2).advance := by
  simp only [reduceTable, List.forall_mem_cons]
  exact ⟨rfl, rfl, rfl, rfl, rfl, rfl, rfl, rfl, rfl, rfl, rfl, List.forall_mem_nil _⟩

theorem exec_scanTable : ∀ p ∈ scanTable, exec (p.1 w) s = checked (p.1 w) s fun s =>
    let r := prefixScan (p.2 (s.fctl w)) (s.readV w.a) (s.readK w.k)
    ((s.writeV w.d r.1 (s.readK w.k)).orSticky r.2).advance := by
  simp only [scanTable, reduceTable, List.map_cons, List.map_nil, List.zip_cons_cons, List.zip_nil_right, List.forall_mem_cons]
  exact ⟨rfl, rfl, rfl, rfl, rfl, rfl, rfl, rfl, rfl, rfl, rfl, List.forall_mem_nil _⟩

end

/-! ## Functions of the C slot (R238, R239) -/

section
variable (c : CWord) (s : State)

theorem longFloat_eq_cFloat (cost : Nat) (f : W32 → W32 × Sticky) : s.longFloat c cost f = cFloat s c cost f := by
  unfold State.longFloat cFloat
  by_cases hv : c.ta = .v
  · simp only [hv, beq_self_eq_true, if_true, State.advance_result, Vector.map_map, Fin.getElem_fin, Vector.getElem_map]
    rfl
  · simp only [hv, beq_iff_eq, if_false, State.advance_result]

theorem exec_sfuTable : ∀ p ∈ sfuTable, exec (p.1 c) s = sfuOf (p.1 c) c p.2 s := by
  simp only [sfuTable, List.forall_mem_cons]
  exact ⟨rfl, rfl, rfl, rfl, rfl, rfl, rfl, rfl, List.forall_mem_nil _⟩

end
end Sys2Proof.Machine
end

section
/-! PROOF. Float operations, and reductions, scans and functions. -/

namespace Sys2Proof.Proofs

open Sys2Proof.Machine Sys2Proof.Claims

theorem floatResults : FloatResults := by
  refine ⟨fun p hp w s h => ?_, fun p hp w s h => ?_, fun p hp w s h => ?_⟩
  · rw [exec_floatBinaryTable w s p hp, floatBinary, checked_of_ready h, floatForm_eq_floatResult]
  · rw [exec_floatAccTable w s p hp, floatAccumulate, checked_of_ready h, floatForm_eq_floatResult]
  · rw [exec_floatUnaryTable w s p hp, floatUnary, checked_of_ready h, floatForm_eq_floatResult]

theorem conversions : Conversions := by
  refine ⟨fun p hp w s h => ?_, fun p hp w s h => ?_, fun p hp w s h hlit => ?_, fun p hp w s h hlit => ?_⟩
  · exact (exec_toIntTable w s p hp).trans (convertToInt_of_ready h ..)
  · exact (exec_fromIntTable w s p hp).trans (convertFrom_of_ready h ..)
  · exact (exec_widenTable w s p hp).trans (convertWiden_of_ready h _ hlit)
  · exact (exec_widenTable w s p hp).trans (convertWiden_literal_of_ready h _ hlit)

theorem floatCompare : FloatCompare := by
  intro w s h
  cases hv : w.vDest with
  | true => exact ⟨_, _, fun _ => ⟨rfl, getLsbD_compareMask _⟩, fun hs => absurd hs (by decide), exec_fcmp_lanes h hv⟩
  | false => exact ⟨_, _, fun hl => absurd hl (by decide), fun _ => ⟨rfl, getLsbD_scalarMask _⟩, exec_fcmp_scalar h hv⟩

/-- Settles O3: each table's instructions have one shape (`exec_…Table`), whose next state is known. -/
theorem floatOperations : Obligations.FloatOperations := ⟨floatResults, conversions, floatCompare⟩

theorem reductionsAndScans : ReductionsAndScans := by
  refine ⟨fun p hp w s h => ?_, fun p hp w s h => ?_⟩
  · rw [exec_reduceTable w s p hp, checked_of_ready h]
    exact congrArg Host.Outcome.next (State.advance_writeS_orSticky ..)
  · rw [exec_scanTable w s p hp, checked_of_ready h]
    exact congrArg Host.Outcome.next (State.advance_writeV_orSticky ..)

theorem functionResults : FunctionResults := by
  refine ⟨fun p hp c s h => ?_, fun c s h => ?_⟩
  · rw [exec_sfuTable c s p hp, sfuOf, checked_of_ready h, longFloat_eq_cFloat]
  · rw [exec_enc8, execEnc8, checked_of_ready h, longFloat_eq_cFloat]

/-- Settles O4: the reductions and scans of each table have one shape, and the functions of the C slot another. -/
theorem reductionsScansAndFunctions : Obligations.ReductionsScansAndFunctions := ⟨reductionsAndScans, functionResults⟩

end Sys2Proof.Proofs
end

section
/-! SUPPORT. The table that a core decodes with (R240): the latest of those that it has switched to, whether or not a committed one is still kept apart. -/

namespace Sys2Proof.Machine

/-- A table with its number among those read. -/
abbrev NumberedTable := TableSwitch × Nat

/-- The switch to one table is before that to another: in an earlier cycle, or in the same one and read before it. -/
def SwitchedBefore (y z : NumberedTable) : Prop := y.1.due < z.1.due ∨ (y.1.due = z.1.due ∧ y.2 < z.2)

theorem SwitchedBefore.trans {x y z : NumberedTable} (hxy : SwitchedBefore x y) (hyz : SwitchedBefore y z) : SwitchedBefore x z := by
  unfold SwitchedBefore at *
  omega

theorem SwitchedBefore.asymm {y z : NumberedTable} (hyz : SwitchedBefore y z) : ¬ SwitchedBefore z y := by
  unfold SwitchedBefore at *
  omega

/-- Numbers rise along a list. -/
def NumbersRise (l : List NumberedTable) : Prop := l.Pairwise fun y z => y.2 < z.2

theorem numbersRise_zipIdx (l : List TableSwitch) : NumbersRise l.zipIdx := by
  have hnumbers : (l.zipIdx.map Prod.snd).Pairwise (· < ·) := by
    rw [List.zipIdx_map_snd]
    exact List.pairwise_lt_range'
  exact List.pairwise_map.1 hnumbers

theorem switchedBefore_total {l : List NumberedTable} (hl : NumbersRise l) {y z : NumberedTable} (hy : y ∈ l) (hz : z ∈ l) (hne : y ≠ z) :
    SwitchedBefore y z ∨ SwitchedBefore z y := by
  have hdistinct : l.Pairwise fun y z => y.2 ≠ z.2 := List.Pairwise.imp (fun h => Nat.ne_of_lt h) hl
  have hsymm : Std.Symm fun y z : NumberedTable => y.2 ≠ z.2 := ⟨fun _ _ h => h.symm⟩
  have hnum : y.2 ≠ z.2 := hdistinct.forall hy hz hne
  unfold SwitchedBefore
  omega

/-! ## The latest table -/

/-- The later of the latest table so far and the next one, where `p` picks that. -/
def laterOf (p : TableSwitch → Bool) (best : Option NumberedTable) (x : NumberedTable) : Option NumberedTable :=
  if p x.1 && (match best with | some b => decide (b.1.due ≤ x.1.due) | none => true) then some x else best

/-- The latest of the tables that `p` picks. -/
def latest (p : TableSwitch → Bool) (l : List NumberedTable) : Option NumberedTable := l.foldl (laterOf p) none

theorem latest_concat (p : TableSwitch → Bool) (l : List NumberedTable) (x : NumberedTable) :
    latest p (l ++ [x]) = laterOf p (latest p l) x := List.foldl_concat ..

theorem laterOf_none (p : TableSwitch → Bool) (x : NumberedTable) : laterOf p none x = if p x.1 then some x else none := by
  simp [laterOf]

theorem laterOf_some (p : TableSwitch → Bool) (b x : NumberedTable) :
    laterOf p (some b) x = if p x.1 = true ∧ b.1.due ≤ x.1.due then some x else some b := by
  simp [laterOf]

/-- The table that `p` picks and whose switch comes after that of every other that `p` picks. -/
structure IsLatest (p : TableSwitch → Bool) (l : List NumberedTable) (z : NumberedTable) : Prop where
  mem : z ∈ l
  picked : p z.1 = true
  last : ∀ y ∈ l, p y.1 = true → y = z ∨ SwitchedBefore y z

variable {p : TableSwitch → Bool} {l : List NumberedTable} {z : NumberedTable}

theorem IsLatest.unique {y : NumberedTable} (hy : IsLatest p l y) (hz : IsLatest p l z) : y = z := by
  obtain h | hyz := hz.last y hy.mem hy.picked
  · exact h
  obtain h | hzy := hy.last z hz.mem hz.picked
  · exact h.symm
  exact absurd hzy hyz.asymm

/-- A picked table that is read last is the latest, where the picked ones before it are switched to earlier. -/
theorem isLatest_concat_last {x : NumberedTable} (hpx : p x.1 = true) (hl : ∀ y ∈ l, p y.1 = true → SwitchedBefore y x) :
    IsLatest p (l ++ [x]) x := by
  refine ⟨by simp, hpx, fun y hy hpy => ?_⟩
  obtain hy | hy := List.mem_append.1 hy
  · exact .inr (hl y hy hpy)
  · exact .inl (List.mem_singleton.1 hy)

/-- The latest table stays it where the next one is not picked or switched to earlier. -/
theorem IsLatest.concat {x : NumberedTable} (hz : IsLatest p l z) (hx : p x.1 = true → SwitchedBefore x z) : IsLatest p (l ++ [x]) z := by
  refine ⟨List.mem_append_left _ hz.mem, hz.picked, fun y hy hpy => ?_⟩
  obtain hy | hy := List.mem_append.1 hy
  · exact hz.last y hy hpy
  · obtain rfl := List.mem_singleton.1 hy
    exact .inr (hx hpy)

theorem latest_spec (hl : NumbersRise l) :
    (latest p l = none → ∀ y ∈ l, p y.1 = false) ∧ (∀ z, latest p l = some z → IsLatest p l z) := by
  induction l using List.reverseRecOn with
  | nil => exact ⟨fun _ _ h => absurd h List.not_mem_nil, nofun⟩
  | append_singleton l x ih =>
    obtain ⟨hl, -, hx⟩ := List.pairwise_append.1 hl
    obtain ⟨hnone, hsome⟩ := ih hl
    rw [latest_concat]
    cases hbest : latest p l with
    | none =>
      have hout := hnone hbest
      rw [laterOf_none]
      split
      case isTrue hpx =>
        exact ⟨nofun, fun z h => Option.some.inj h ▸ isLatest_concat_last hpx fun y hy hpy => absurd hpy (Bool.eq_false_iff.1 (hout y hy))⟩
      case isFalse hpx =>
        exact ⟨fun _ => List.forall_mem_append.2 ⟨hout, List.forall_mem_singleton.2 (Bool.eq_false_iff.2 hpx)⟩, nofun⟩
    | some b =>
      have hb := hsome b hbest
      rw [laterOf_some]
      split
      case isTrue h =>
        obtain ⟨hpx, hdue⟩ := h
        have hbx : SwitchedBefore b x := (Nat.lt_or_eq_of_le hdue).imp_right fun heq => ⟨heq, hx b hb.mem x (List.mem_singleton_self x)⟩
        refine ⟨nofun, fun z h => Option.some.inj h ▸ isLatest_concat_last hpx fun y hy hpy => ?_⟩
        obtain rfl | hyb := hb.last y hy hpy
        · exact hbx
        · exact hyb.trans hbx
      case isFalse h =>
        have hxb (hpx : p x.1 = true) : SwitchedBefore x b := .inl (Nat.lt_of_not_le fun hdue => h ⟨hpx, hdue⟩)
        exact ⟨nofun, fun z hz => Option.some.inj hz ▸ hb.concat hxb⟩

theorem not_picked_of_latest_eq_none (hl : NumbersRise l) (h : latest p l = none) : ∀ y ∈ l, p y.1 = false := (latest_spec hl).1 h

theorem isLatest_of_latest_eq_some (hl : NumbersRise l) (h : latest p l = some z) : IsLatest p l z := (latest_spec hl).2 z h

theorem IsLatest.latest_eq (hl : NumbersRise l) (hz : IsLatest p l z) : latest p l = some z := by
  cases h : latest p l with
  | none => exact absurd hz.picked (Bool.eq_false_iff.1 (not_picked_of_latest_eq_none hl h z hz.mem))
  | some y => rw [(isLatest_of_latest_eq_some hl h).unique hz]

/-! ## A core's table -/

/-- A core that has read a table has switched to it by a cycle (R240). -/
def switchedBy (now : Nat) (x : TableSwitch) : Bool := decide (x.due ≤ now)

/-- The core has switched to a table, and the chunk that read it has committed. -/
def tableSettled (c : Core) (now : Nat) (x : TableSwitch) : Bool := decide (x.due ≤ now) && !c.uncommitted.contains x.chunk

theorem switchedBy_of_tableSettled {c : Core} {now : Nat} {x : TableSwitch} (h : tableSettled c now x = true) : switchedBy now x = true :=
  (Bool.and_eq_true_iff.1 h).1

theorem foldl_tables (t : List (BitVec 19)) (l : List NumberedTable) :
    ((l.map Prod.fst).filter p).foldl (fun (acc : Nat × List (BitVec 19)) x => if acc.1 ≤ x.due then (x.due, x.entries) else acc) (0, t) =
      (latest p l).elim (0, t) fun z => (z.1.due, z.1.entries) := by
  induction l using List.reverseRecOn with
  | nil => rfl
  | append_singleton l x ih =>
    rw [latest_concat, List.map_append, List.filter_append, List.foldl_append, ih]
    cases hpx : p x.1 with
    | false => cases latest p l <;> simp [laterOf, hpx]
    | true =>
      cases latest p l with
      | none => simp [laterOf, hpx]
      | some b =>
        by_cases hdue : b.1.due ≤ x.1.due <;> simp [laterOf, hpx, hdue]

/-- A core decodes with the latest table that it has switched to, or with the one before them all. -/
theorem tableAt_eq_latest (c : Core) (now : Nat) {l : List NumberedTable} (hl : l.map Prod.fst = c.tables) :
    c.tableAt now = (latest (switchedBy now) l).elim c.table fun z => z.1.entries := by
  have hfold := foldl_tables (p := switchedBy now) c.table l
  rw [hl] at hfold
  rw [Core.tableAt]
  refine (congrArg Prod.snd hfold).trans ?_
  cases latest (switchedBy now) l <;> rfl

/-- Where no committed chunk has brought a table, nothing settles. -/
theorem settleTable_of_none {c : Core} {now : Nat} (h : latest (tableSettled c now) c.tables.zipIdx = none) : c.settleTable now = c := by
  unfold Core.settleTable
  dsimp only
  split
  · rfl
  · next hsome => exact absurd (h.symm.trans hsome) nofun

/-- The tables that are kept apart once `z` has settled: those of uncommitted chunks with later switches. -/
def keptApart (c : Core) (now : Nat) (z : NumberedTable) : List NumberedTable :=
  c.tables.zipIdx.filter fun y =>
    !tableSettled c now y.1 && (decide (z.1.due < y.1.due) || (z.1.due == y.1.due && decide (z.2 < y.2)))

theorem settleTable_of_latest {c : Core} {now : Nat} {z : NumberedTable} (h : latest (tableSettled c now) c.tables.zipIdx = some z) :
    c.settleTable now = { c with table := z.1.entries, tables := (keptApart c now z).map Prod.fst } := by
  unfold Core.settleTable
  dsimp only
  split
  · next hnone => exact absurd (h.symm.trans hnone) nofun
  · next hsome =>
    obtain rfl := Option.some.inj (h.symm.trans hsome)
    rfl

theorem mem_keptApart {c : Core} {now : Nat} {y z : NumberedTable} :
    y ∈ keptApart c now z ↔ y ∈ c.tables.zipIdx ∧ tableSettled c now y.1 = false ∧ SwitchedBefore z y := by
  simp [keptApart, SwitchedBefore]

theorem numbersRise_keptApart (c : Core) (now : Nat) (z : NumberedTable) : NumbersRise (keptApart c now z) :=
  List.Pairwise.filter _ (numbersRise_zipIdx c.tables)

/-- The latest of all tables is the latest of those kept apart, or the settled one where none of these has been switched to. -/
theorem latest_switchedBy_of_settled {c : Core} {now : Nat} {z : NumberedTable} (hz : IsLatest (tableSettled c now) c.tables.zipIdx z) :
    latest (switchedBy now) c.tables.zipIdx = some ((latest (switchedBy now) (keptApart c now z)).getD z) := by
  have hrise := numbersRise_zipIdx c.tables
  have hearlier (y : NumberedTable) (hy : y ∈ c.tables.zipIdx) (hout : y ∉ keptApart c now z) : y = z ∨ SwitchedBefore y z := by
    cases hsettled : tableSettled c now y.1 with
    | true => exact hz.last y hy hsettled
    | false =>
      have hne : y ≠ z := fun h => absurd (h ▸ hz.picked) (Bool.eq_false_iff.1 hsettled)
      exact .inr ((switchedBefore_total hrise hy hz.mem hne).resolve_right fun hzy => hout (mem_keptApart.2 ⟨hy, hsettled, hzy⟩))
  refine IsLatest.latest_eq hrise ?_
  cases hkept : latest (switchedBy now) (keptApart c now z) with
  | none =>
    refine ⟨hz.mem, switchedBy_of_tableSettled hz.picked, fun y hy hdue => hearlier y hy fun hmem => ?_⟩
    exact absurd hdue (Bool.eq_false_iff.1 (not_picked_of_latest_eq_none (numbersRise_keptApart c now z) hkept y hmem))
  | some x =>
    have hx := isLatest_of_latest_eq_some (numbersRise_keptApart c now z) hkept
    obtain ⟨hmem, -, hzx⟩ := mem_keptApart.1 hx.mem
    refine ⟨hmem, hx.picked, fun y hy hdue => ?_⟩
    by_cases hin : y ∈ keptApart c now z
    · exact hx.last y hin hdue
    · obtain rfl | hyz := hearlier y hy hin
      · exact .inr hzx
      · exact .inr (hyz.trans hzx)

/-- That a committed table is no longer kept apart changes nothing of what the core decodes with. -/
theorem tableAt_settleTable (c : Core) (now : Nat) : (c.settleTable now).tableAt now = c.tableAt now := by
  cases hsettled : latest (tableSettled c now) c.tables.zipIdx with
  | none => rw [settleTable_of_none hsettled]
  | some z =>
    have hz := isLatest_of_latest_eq_some (numbersRise_zipIdx c.tables) hsettled
    rw [settleTable_of_latest hsettled, tableAt_eq_latest c now (List.zipIdx_map_fst 0 c.tables), latest_switchedBy_of_settled hz,
      tableAt_eq_latest _ now rfl]
    cases latest (switchedBy now) (keptApart c now z) <;> rfl

theorem tableAt_of_none_switched {c : Core} {now : Nat} (h : ∀ x ∈ c.tables, now < x.due) : c.tableAt now = c.table := by
  rw [Core.tableAt, List.filter_eq_nil_iff.2 fun x hx => by simpa using h x hx]
  rfl

theorem tableAt_of_last_switch {c : Core} {now : Nat} {x : TableSwitch} (hx : x ∈ c.tables) (hdue : x.due ≤ now)
    (hlast : ∀ y ∈ c.tables, y ≠ x → y.due ≤ now → y.due < x.due) : c.tableAt now = x.entries := by
  have htables : c.tables.zipIdx.map Prod.fst = c.tables := List.zipIdx_map_fst 0 c.tables
  obtain ⟨e, he, rfl⟩ := List.mem_map.1 (htables.symm ▸ hx)
  rw [tableAt_eq_latest c now htables]
  cases hlatest : latest (switchedBy now) c.tables.zipIdx with
  | none => exact absurd (decide_eq_true hdue) (Bool.eq_false_iff.1 (not_picked_of_latest_eq_none (numbersRise_zipIdx c.tables) hlatest e he))
  | some z =>
    have hz := isLatest_of_latest_eq_some (numbersRise_zipIdx c.tables) hlatest
    have hsame : z.1 = e.1 := by
      by_contra hne
      have hlt := hlast z.1 (htables ▸ List.mem_map_of_mem hz.mem) hne (of_decide_eq_true hz.picked)
      obtain rfl | hbefore := hz.last e he (decide_eq_true hdue)
      · exact hne rfl
      · unfold SwitchedBefore at hbefore
        omega
    exact congrArg TableSwitch.entries hsame

end Sys2Proof.Machine
end

section
/-! SUPPORT. Own bytes of a strand while it holds effects (R126, R160), the lines of a decode table (R240), and the stores of a narrowed block
(R113-R115, R250). -/

namespace Sys2Proof.Machine

open Sys2Proof.Claims

/-! ## Bytes that follow one another -/

theorem memLoad_add (m : Mem) (a n k : Nat) : memLoad m a (n + k) = memLoad m a n ++ memLoad m (a + n) k := by
  simp [memLoad, List.range_add, Nat.add_assoc]

/-- Some of the bytes loaded are those that stand there. -/
theorem take_drop_memLoad (m : Mem) (a : Nat) {i k n : Nat} (h : i + k ≤ n) : ((memLoad m a n).drop i).take k = memLoad m (a + i) k := by
  obtain ⟨r, rfl⟩ := Nat.exists_eq_add_of_le h
  have hlen (b j : Nat) : (memLoad m b j).length = j := by simp [memLoad]
  rw [Nat.add_assoc, memLoad_add, List.drop_left' (hlen a i), memLoad_add, List.take_left' (hlen _ k)]

/-! ## Held effects leave own bytes accessible -/

namespace State
variable {s : State} {acc : Access} {off n : Nat}

/-- What a strand may access in its own store rests on its core's ways and regions and on its partition. -/
theorem ownBytes_of_kept {u : State} (hcore : CoresKept s u) (hcur : u.cur = s.cur) (hpart : u.me.part = s.me.part)
    (h : OwnBytes s acc off n) : OwnBytes u acc off n := by
  obtain ⟨hsize, halign, hoff, hmask, hprot⟩ := h
  have hkept : settled u.myCore = settled s.myCore := by rw [myCore, hcur]; exact hcore _
  have hways : u.myCore.wayMask = s.myCore.wayMask := (congrArg Core.wayMask hkept :)
  have hregions : u.myCore.lsprot = s.myCore.lsprot := (congrArg Core.lsprot hkept :)
  refine ⟨hsize, halign, hoff, hways ▸ hmask, ?_⟩
  simpa only [ownProtection, protectionOk, hregions, hpart] using hprot

variable (s) (e : Held) (sectors : List Nat)

/-- An effect held with the sectors that it writes. -/
theorem noteWrites_hold : (s.hold e).noteWrites sectors = holding s e sectors := by
  rw [noteWrites, hold, updMe_updMe]
  rfl

theorem cur_holding : (holding s e sectors).cur = s.cur := useLines_cur _ _ _

theorem coresKept_holding : CoresKept s (holding s e sectors) :=
  (CoresKept.of_slotsOnly (slotsOnly_setStrand s s.cur _)).trans (CopyOnly.useLines (r := s.cur) s.cur sectors).cores

theorem part_holding : (holding s e sectors).me.part = s.me.part := by
  rw [me, cur_holding, holding, strand_useLines]
  exact (congrArg Strand.part (me_setMe s _) :)

variable {s}

theorem ownBytes_holding (h : OwnBytes s acc off n) : OwnBytes (holding s e sectors) acc off n :=
  ownBytes_of_kept (coresKept_holding s e sectors) (cur_holding s e sectors) (part_holding s e sectors) h

end State

/-! ## The decode table (R240) -/

section
variable {s : State} {c : CWord} {off : Nat}

/-- A line of a table in own scratch. -/
theorem tableLine_of_ownBytes (h : OwnBytes s .load off 256) :
    s.tableLine (ownVa off) = (.val 0 (lineSectors off 256), s.scratchBytes off 256) := by
  have hplace := State.place_of_ownBytes (f := { vecForm .load 4 false false false with size := 256 }) h rfl rfl rfl
  simp only [State.tableLine, hplace]
  rfl

/-- The four lines of a table are its 1024 bytes. -/
theorem flatMap_tableLines (s : State) (off : Nat) :
    ((List.range 4).flatMap fun j => s.scratchBytes (off + 256 * j) 256) = s.scratchBytes off 1024 := by
  have hlines : List.range 4 = [0, 1, 2, 3] := rfl
  simp only [State.scratchBytes, hlines, List.flatMap_cons, List.flatMap_nil, List.append_nil]
  rw [show 1024 = 256 + (256 + (256 + 256)) from rfl, memLoad_add, memLoad_add, memLoad_add]
  rfl

theorem tableEntries_scratchBytes (s : State) (off : Nat) : tableEntries (s.scratchBytes off 1024) =
    (List.range 256).map fun j => BitVec.ofNat 19 (Bytes.toNat (s.scratchBytes (off + 4 * j) 4)) := by
  refine List.map_congr_left fun j hj => ?_
  have hj : j < 256 := List.mem_range.1 hj
  rw [State.scratchBytes, take_drop_memLoad _ _ (show 4 * j + 4 ≤ 1024 by omega), State.scratchBytes]

/-- `ltab` of a table in own scratch (R240). -/
theorem exec_ltab_own (hready : Ready (.ltab c) s) (hva : (s.opA c).toNat = ownVa off)
    (hown : ∀ j < 4, OwnBytes s .load (off + 256 * j) 256) : exec (.ltab c) s =
    let s1 := reading s ((List.range 4).flatMap fun j => lineSectors (off + 256 * j) 256)
    .next (underLA (({ s1 with free := s1.free + 1 } : State).updMyCore fun k => { k.settleTable s.now with
      tables := (k.settleTable s.now).tables ++ [{ due := s.now + (4 + s.draw.toNat), chunk := s.me.opened.id,
                                                   entries := tableEntries (s.scratchBytes off 1024) }] })
      c.la (4 + s.draw.toNat) [] []) := by
  have hlines : ((List.range 4).map fun j => ((s.opA c).toNat + 256 * j, s.tableLine ((s.opA c).toNat + 256 * j))) =
      (List.range 4).map fun j => (ownVa (off + 256 * j), Got.val 0 (lineSectors (off + 256 * j) 256), s.scratchBytes (off + 256 * j) 256) := by
    refine List.map_congr_left fun j hj => ?_
    have haddr : (s.opA c).toNat + 256 * j = ownVa (off + 256 * j) := by rw [hva]; simp only [ownVa]; omega
    rw [haddr, tableLine_of_ownBytes (hown j (List.mem_range.1 hj))]
  have hcost : s.loadCost (s.opA c).toNat = 4 := by
    obtain ⟨-, -, hbound, -⟩ := hown 0 (by decide)
    rw [State.loadCost, if_pos (inAperture_of_own hva (by omega))]
  rw [exec_ltab, execLtab, checked_of_ready hready]
  dsimp only
  rw [hlines, hcost, ← flatMap_tableLines]
  exact congrArg Host.Outcome.next (State.advance_result ..)

end

/-! ## Narrowed blocks (R113-R115, R250) -/

theorem length_narrowBlock (fmt : Nat) (auto : Bool) (fixed : Nat) (xs : List W32) : (narrowBlock fmt auto fixed xs).2.length = xs.length := by
  unfold narrowBlock
  split
  · exact List.length_map _
  · split <;> exact List.length_map _

/-- The lanes that a format cannot hold, with their values. -/
theorem filterMap_outOfRange {codes : List (Option Nat)} {xs : List W32} (h : codes.length = xs.length) :
    ((codes.zip xs).zipIdx.filterMap fun e => if e.1.1.isNone then some (e.2, e.1.2) else none) =
      ((List.range xs.length).filter fun j => (codes.getD j (some 0)).isNone).map fun j => (j, xs.getD j 0) := by
  have hpairs : (codes.zip xs).zipIdx = (List.range xs.length).map fun j => ((codes.getD j (some 0), xs.getD j 0), j) := by
    apply List.ext_getElem
    · simp [h]
    · intro j hj _
      have hj : j < xs.length := by simpa [h] using hj
      simp [hj, h]
  rw [hpairs, List.filterMap_map, ← List.filterMap_eq_filter, List.map_filterMap]
  refine List.filterMap_congr fun j _ => ?_
  dsimp only [Function.comp, Option.guard]
  split <;> rfl

section
variable (s : State) (c : CWord)

/-- The values that a `stmx` narrows: of its lanes that are off, zero. -/
def stmxLanes : List W32 := laneList.map fun i => if laneOn (s.readK (c.msk.setWidth 3)) i then (s.readV c.a)[i] else 0

/-- Register `j` of the group that a `stmx` names: where the codes, the scale and the errata go, and the word with the errata index, the fixed
scale and the room (R250). -/
def stmxGroup (j : Nat) : Word := s.readS (c.d + BitVec.ofNat 5 j)

/-- The block of a `stmx`: its scale and its codes. -/
def stmxBlock : Nat × List (Option Nat) :=
  narrowBlock (c.b.toNat % 4) (!c.b.getLsbD 2) ((stmxGroup s c 3).toNat / 2 ^ 32 % 256) (stmxLanes s c)

/-- The lanes that the format cannot hold, and those of them that there is room for. -/
def stmxOut : List Nat := (List.range 32).filter fun j => ((stmxBlock s c).2.getD j (some 0)).isNone
def stmxKept : List Nat := (stmxOut s c).take ((stmxGroup s c 3).toNat / 2 ^ 40)

/-- The stores of a `stmx`: the codes, the scale, and the errata entries. -/
def stmxStoreList : List (Nat × List Byte) :=
  [((stmxGroup s c 0).toNat, packCodes (c.b.toNat % 4) ((stmxBlock s c).2.map (·.getD 0))),
   ((stmxGroup s c 1).toNat, [BitVec.ofNat 8 (stmxBlock s c).1])] ++
    (stmxKept s c).zipIdx.map fun e => ((stmxGroup s c 2 + BitVec.ofNat 64 (8 * e.2)).toNat,
      Bytes.ofNat 4 ((stmxGroup s c 3).toNat % 2 ^ 32 + e.1) ++ Bytes.ofNat 4 ((stmxLanes s c).getD e.1 0).toNat)

theorem stmxStores_eq : stmxStores s c = (stmxStoreList s c, (stmxKept s c).length, (stmxOut s c).length) := by
  have hfmt : Bits.get c.b.toNat 1 0 = c.b.toNat % 4 := Bits.get_low _ _
  have hfixed (x : Word) : Bits.get x.toNat 39 32 = x.toNat / 2 ^ 32 % 256 := by
    rw [Bits.get, Nat.shiftRight_eq_div_pow]
    rfl
  have hroom (x : Word) : Bits.get x.toNat 63 40 = x.toNat / 2 ^ 40 := by
    have hbound := x.isLt
    rw [Bits.get, Nat.shiftRight_eq_div_pow]
    omega
  have hlanes : (stmxLanes s c).length = 32 := by simp [stmxLanes, laneList]
  have hout := filterMap_outOfRange (length_narrowBlock (c.b.toNat % 4) (!c.b.getLsbD 2) ((stmxGroup s c 3).toNat / 2 ^ 32 % 256) (stmxLanes s c))
  rw [hlanes] at hout
  unfold stmxStores State.maskC
  dsimp only
  rw [hfmt, hfixed, hroom]
  dsimp only [stmxGroup, stmxLanes] at hout
  rw [hout, ← List.map_take, List.zipIdx_map, List.map_map, List.length_map, List.length_map]
  rfl

variable {s c}

/-- Stores to own bytes, in order, are all held. -/
theorem putAll_of_ownBytes (la : BitVec 4) {stores : List (Nat × List Byte)}
    (h : ∀ e ∈ stores, e.1 = ownVa (apOff e.1) ∧ OwnBytes s .store (apOff e.1) e.2.length) : State.putAll la stores s =
      (.hold .endStrand [], 0, holdAll s (stores.map fun e => (.scratch (apOff e.1) e.2 false, lineSectors (apOff e.1) e.2.length))) := by
  induction stores generalizing s with
  | nil => rfl
  | cons e stores ih =>
    obtain ⟨⟨hva, hown⟩, hrest⟩ := List.forall_mem_cons.1 h
    have hplace := State.place_of_ownBytes (f := { storeForm e.2.length with vec := true }) hown rfl rfl rfl
    have hput : s.putElement { storeForm e.2.length with vec := true } e.1 e.2 false =
        .hold (.scratch (apOff e.1) e.2 false) (lineSectors (apOff e.1) e.2.length) := by
      rw [← hva] at hplace
      rw [State.putElement, hplace]
      rfl
    have hheld := ih (s := holding s (.scratch (apOff e.1) e.2 false) (lineSectors (apOff e.1) e.2.length))
      fun d hd => ⟨(hrest d hd).1, State.ownBytes_holding _ _ (hrest d hd).2⟩
    rw [State.putAll]
    dsimp only
    rw [hput]
    dsimp only [State.holdPut]
    rw [State.noteWrites_hold, hheld]
    rfl

/-- `stmx` of a block whose stores all go to own bytes (R250). -/
theorem exec_stmx_own (hready : Ready (.stmx c) s)
    (hown : ∀ e ∈ stmxStoreList s c, e.1 = ownVa (apOff e.1) ∧ OwnBytes s .store (apOff e.1) e.2.length) : exec (.stmx c) s =
    .next (underLA
      (holdAll s ((stmxStoreList s c).map fun e => (.scratch (apOff e.1) e.2 false, lineSectors (apOff e.1) e.2.length)))
      c.la 4 [.s (c.d + 2), .s (c.d + 3)]
      ([.s (c.d + 2) (stmxGroup s c 2 + BitVec.ofNat 64 (8 * (stmxKept s c).length)),
        .s (c.d + 3) (stmxGroup s c 3 - (BitVec.ofNat 64 (stmxKept s c).length <<< 40))] ++
        (if (stmxKept s c).length < (stmxOut s c).length then [.sticky (1 <<< 10)] else []))) := by
  rw [exec_stmx, execStmx, checked_of_ready hready]
  dsimp only
  rw [stmxStores_eq]
  dsimp only
  rw [putAll_of_ownBytes c.la hown]
  exact congrArg Host.Outcome.next (State.advance_result ..)

end
end Sys2Proof.Machine
end

section
/-! PROOF. Narrowing stores and decode tables. -/

namespace Sys2Proof.Proofs

open Sys2Proof.Machine Sys2Proof.Claims

theorem narrowingStore : NarrowingStore := by
  intro c s hready fmt group xs block out kept stores hown
  exact exec_stmx_own hready hown

theorem tableLoad : TableLoad := by
  intro c s off hready hva hown s1 entries
  refine ⟨4 + s.draw.toNat, Nat.le_add_right _ _, (exec_ltab_own hready hva hown).trans ?_⟩
  rw [tableEntries_scratchBytes]
  rfl

theorem tableSwitches : TableSwitches := fun c now =>
  ⟨tableAt_of_none_switched, fun _ => tableAt_of_last_switch, tableAt_settleTable c now⟩

/-- Settles O12: the stores of a block in own scratch are held in turn (`exec_stmx_own`), a table's four lines are read at issue
(`exec_ltab_own`), and a core decodes with its latest table whether or not that has settled. -/
theorem narrowingAndTables : Obligations.NarrowingAndTables := ⟨narrowingStore, tableLoad, tableSwitches⟩

end Sys2Proof.Proofs
end

section
/-! SUPPORT. Scalar loads and stores by their forms, and what a scalar load does with the element it finds (R118, R120, R127, R148, R162, R241, R242). -/

namespace Sys2Proof.Machine

open Sys2Proof.Claims

/-! ## Elements (R118, R120, R241, R242) -/

/-- Sign extension as the BitVec library has it. -/
theorem toInt_setWidth_eq_sext (w : Word) (k : Nat) : (w.setWidth k).toInt = Bits.sext w.toNat k := by
  simp only [BitVec.toInt_eq_toNat_cond, BitVec.toNat_setWidth, Bits.sext]
  push_cast
  rfl

theorem sextBytes_eq (n : Nat) (w : Word) : sextBytes n w = (w.setWidth (8 * n)).signExtend 64 := by
  rw [BitVec.signExtend, toInt_setWidth_eq_sext]
  rfl

/-- A scalar load is a checked access of its form (R242). -/
theorem exec_loadTable (c : CWord) (s : State) : ∀ p ∈ loadTable, exec (p.1 c) s =
    checked (p.1 c) s fun s => s.scalarLoad (loadsAs p.2.1 p.2.2.1) c (p.1 c) (s.loadAddress c p.2.1) p.2.2.2 := by
  have hsext (n : Nat) : sextBytes n = fun w => (w.setWidth (8 * n)).signExtend 64 := funext (sextBytes_eq n)
  simp only [loadTable, List.forall_mem_cons]
  refine ⟨?_, ?_, ?_, rfl, rfl, rfl, rfl, List.forall_mem_nil _⟩
  · exact congrArg (fun f => checked (.ldB c) s fun s => s.scalarLoad (loadForm 1 false) c (.ldB c) (s.loadAddress c 1) f) (hsext 1)
  · exact congrArg (fun f => checked (.ldH c) s fun s => s.scalarLoad (loadForm 2 false) c (.ldH c) (s.loadAddress c 2) f) (hsext 2)
  · exact congrArg (fun f => checked (.ldW c) s fun s => s.scalarLoad (loadForm 4 true) c (.ldW c) (s.loadAddress c 4) f) (hsext 4)

/-- A scalar store that passes its checks (R242). -/
theorem storeOf_of_ready {i : Instr} {c : CWord} {s : State} (h : Ready i s) (n : Nat) : storeOf i c n s =
    .next (s.scalarStore c.la (storesAs n) (s.storeAddress c n) (Bytes.ofNat n (s.opA c).toNat) false) := checkedAfter_next h _ _

theorem exec_storeTable {c : CWord} {s : State} : ∀ p ∈ storeTable, Ready (p.1 c) s → exec (p.1 c) s =
    .next (s.scalarStore c.la (storesAs p.2) (s.storeAddress c p.2) (Bytes.ofNat p.2 (s.opA c).toNat) false) := by
  simp only [storeTable, List.forall_mem_cons]
  exact ⟨fun h => storeOf_of_ready h 1, fun h => storeOf_of_ready h 2, fun h => storeOf_of_ready h 4, fun h => storeOf_of_ready h 8,
    List.forall_mem_nil _⟩

theorem windowBytes_zero (n : Nat) : windowBytes 0 n = n := rfl

namespace State
variable {s : State} {f : Form} {off va : Nat}

/-- Own bytes through window 0 lie where their offset says, whether or not windows decode for the form (R118, R120). -/
theorem place_of_ownBytes' (h : OwnBytes s f.acc off f.size) : s.place f (Claims.ownVa off) = .ok (.scratch off 0 0) := by
  have hraw := place_of_ownBytes (f := { f with decodes := false }) h rfl rfl rfl
  have hwindow : apWindow (Claims.ownVa off) = 0 := apWindow_of_own rfl h.2.2.1
  cases hf : f.decodes with
  | false => rwa [← hf] at hraw
  | true =>
    rw [← hraw]
    simp [place, hwindow, hf, windowBytes_zero, Form.fault, Form.isWrite]

/-- An element of own bytes (R118, R120). -/
theorem readElement_of_ownBytes (h : OwnBytes s f.acc off f.size) (lane : Nat) : s.readElement f lane (Claims.ownVa off) =
    .val (BitVec.ofNat 64 (Bytes.toNat (s.scratchBytes off f.size))) ((sectorsOf off f.size).map scratchVa) := by
  have hplace := place_of_ownBytes' h
  simp [readElement, hplace, readWindow, windowBytes_zero]

/-- Where a cached element lies (R395). -/
theorem place_of_cached {n : Nat} (hva : va < 2 ^ 57) (hout : inAperture va = false) (halign : va % n = 0)
    (hhome : s.homeMoved s.me.part va = false) (hsize : f.size = n) : s.place f va = .ok .cached := by
  have hbound : va < 144115188075855872 := hva
  simp [place, hbound, hout, halign, hhome, hsize]

/-- An element of a cached line (R130, R145). -/
theorem readElement_of_cachedBytes {b : List Byte} {g : Grant} (h : CachedBytes s va f.size f.acc b g) (lane : Nat) :
    s.readElement f lane va = .val (BitVec.ofNat 64 (Bytes.toNat b)) [va / 32 * 32] := by
  obtain ⟨hva, hout, halign, hhome, hlook⟩ := h
  have hplace : s.place f va = .ok .cached := place_of_cached hva hout halign hhome rfl
  simp [readElement, hplace, hlook]

/-! ## What a load does with what it finds (R127, R148, R162, R191, R241, R242) -/

variable {c : CWord} {word : Instr} {conv : Word → Word}

theorem noteReads_eq (sectors : List Nat) : s.noteReads sectors = reading s sectors := rfl

theorem finishLoad_eq (va : Nat) (sectors : List Nat) (w : Word) : s.finishLoad c va sectors w =
    underLA (reading s sectors) c.la (loadCycles s va) [.s c.d] [.s c.d w] := by
  rw [finishLoad, noteReads_eq, advance_result]
  rfl

theorem scalarLoad_of_val {w : Word} {sectors : List Nat} (h : s.readElement f 0 va = .val w sectors) : s.scalarLoad f c word va conv =
    if inAperture va && apSel va != 0xFFF then Claims.after s { s.me with regs := { s.me.regs.setS c.d (conv w) with pc := s.bpc + 8 } } .alone
    else underLA (reading s sectors) c.la (loadCycles s va) [.s c.d] [.s c.d (conv w)] := by
  simp only [scalarLoad, h, advance_writeS, finishLoad_eq]
  rfl

/-- An element in another core's store is asked for by a bundle that stands alone (R127, R162). -/
theorem scalarLoad_of_remote {core : Nat} (h : s.readElement f 0 va = .remote core) (halone : s.aloneNow = true) :
    s.scalarLoad f c word va conv = (s.sendRemoteLoad f core [(0, va)]).stall (.asleep .remote) := by
  simp only [scalarLoad, h, halone, if_true]

/-- A page with O = 1 that is homed here, as its home in memory has it (R148, R163). -/
theorem maybeEvict_of_clean {pa : Nat} (h : ∀ l ∈ s.l2, l.g.frame = pa / 256 * 256 → l.dirty = []) : s.maybeEvict pa = s := by
  have hnone : (s.l2.find? fun l => l.g.frame == pa / 256 * 256 && l.peer.isNone && !l.dirty.isEmpty) = none := by
    refine List.find?_eq_none.2 fun l hl hdirty => ?_
    simp only [Bool.and_eq_true, beq_iff_eq, Bool.not_eq_true', List.isEmpty_eq_false_iff] at hdirty
    exact hdirty.2 (h l hl hdirty.1.1)
  rw [maybeEvict, hnone]

theorem notifyPartition_of_memory {pa : Nat} (h : pa < Config.engineFrame) : notifyPartition pa = none := by
  have hbelow : ¬ Config.notifyPage ≤ pa := by simp only [Config.engineFrame, Config.notifyPage] at h ⊢; omega
  simp [notifyPartition, hbelow]

theorem scalarLoad_of_strong {g : Grant} (h : s.readElement f 0 va = .strong g) (halone : s.aloneNow = true)
    (hhome : s.homePackage s.me.part va = s.pkgid) (hmemory : g.frame + va % 256 < Config.engineFrame)
    (hlocked : s.lockedLine s.me.part va = false) (hclean : ∀ l ∈ s.l2, l.g.frame = (g.frame + va % 256) / 256 * 256 → l.dirty = []) :
    s.scalarLoad f c word va conv = Claims.after s { s.me with
      regs := { s.me.regs.setS c.d (conv (BitVec.ofNat 64 (Bytes.toNat (memLoad s.hbm (g.frame + va % 256) f.size)))) with pc := s.bpc + 8 } }
      .strong := by
  have hread : s.strongRead (g.frame + va % 256) f.size =
      (s, BitVec.ofNat 64 (Bytes.toNat (memLoad s.hbm (g.frame + va % 256) f.size))) := by
    rw [strongRead, if_neg (by omega), maybeEvict_of_clean hclean]
  simp only [scalarLoad, h, halone, hhome, notifyPartition_of_memory hmemory, hlocked, hread, advance_writeS, Bool.not_true, Bool.false_eq_true,
    ne_eq, not_true, if_false, Option.isSome_none]
  rfl

theorem scalarLoad_of_notifyPage {g : Grant} (h : s.readElement f 0 va = .strong g) (halone : s.aloneNow = true)
    (hhome : s.homePackage s.me.part va = s.pkgid) (hnotify : (notifyPartition (g.frame + va % 256)).isSome = true) :
    s.scalarLoad f c word va conv = s.raise (f.fault .permission va) := by
  simp only [scalarLoad, h, halone, hhome, hnotify, Bool.not_true, Bool.false_eq_true, ne_eq, not_true, if_false, if_true]

end State
end Sys2Proof.Machine
end

section
/-! PROOF. The elements that scalar loads read. -/

namespace Sys2Proof.Proofs

open Sys2Proof.Machine Sys2Proof.Claims

theorem scalarLoads : ScalarLoads := by
  intro p hp c s hready va
  have hexec : exec (p.1 c) s = .next (s.scalarLoad (loadsAs p.2.1 p.2.2.1) c (p.1 c) va p.2.2.2) :=
    (exec_loadTable c s p hp).trans (checked_of_ready hready _)
  rw [hexec]
  refine ⟨fun x sectors hval hnear => ?_, fun x sectors hval hin hsel => ?_, fun f hfault => ?_, fun hneed => ?_, fun core hremote halone => ?_,
    fun g hstrong => ⟨fun hbusy => ?_, fun halone hhome hmemory hlocked hclean => ?_, fun halone hhome _ hnotify => ?_⟩⟩
  · have hown : (inAperture va && apSel va != 0xFFF) = false := by
      rw [← Bool.not_eq_true]
      simpa using hnear
    rw [State.scalarLoad_of_val hval, hown]
    rfl
  · rw [State.scalarLoad_of_val hval, hin, bne_iff_ne.2 hsel]
    rfl
  · rw [State.scalarLoad, hfault]
  · rw [State.scalarLoad, hneed]
    rfl
  · rw [State.scalarLoad_of_remote hremote halone]
    refine ⟨_, _, _, rfl, rfl, ?_, List.mem_append_right _ List.mem_cons_self, rfl, rfl, rfl, rfl⟩
    exact congrArg Strand.wait (State.stall_me ..)
  · rw [State.scalarLoad, hstrong]
    simp only [hbusy]
    rfl
  · rw [State.scalarLoad_of_strong hstrong halone hhome hmemory hlocked hclean]
    rfl
  · rw [State.scalarLoad_of_notifyPage hstrong halone hhome hnotify]

theorem loadedBytes : LoadedBytes :=
  ⟨fun _ _ lane _ h => State.readElement_of_ownBytes h lane, fun _ _ lane _ _ _ h => State.readElement_of_cachedBytes h lane⟩

end Sys2Proof.Proofs
end

section
/-! SUPPORT. Lines that dirty stores hold in a core's L1 (R130-R132), and what a line that is lacking takes (R130, R191). -/

namespace Sys2Proof

/-- A table that does not list an index reads as its default there. -/
theorem look_of_not_has {α : Type} (d : α) {k : Nat} {t : Table α} (h : has k t = false) : look d k t = d := by
  induction t with
  | nil => rfl
  | cons e t ih =>
    obtain ⟨hk, ht⟩ := Bool.or_eq_false_iff.1 (show (e.1 == k || has k t) = false from h)
    rw [look, if_neg (beq_eq_false_iff_ne.1 hk), ih ht]

namespace Machine

open Sys2Proof.Claims

namespace State
variable {c : Core} {part line : Nat}

theorem lt_ceilDiv_iff {a j : Nat} : j < Bits.ceilDiv a 256 ↔ j * 256 < a := by
  rw [Bits.ceilDiv]
  omega

/-- The lines that one store of some bytes makes dirty, from the store's own address on. -/
theorem mem_storeLines {va n p : Nat} : (part, line) ∈ (List.range (Bits.ceilDiv (va % 256 + n) 256)).map (fun j => (p, va / 256 + j)) ↔
    p = part ∧ va / 256 ≤ line ∧ line * 256 < va + n := by
  simp only [List.mem_map, List.mem_range, lt_ceilDiv_iff, Prod.mk.injEq]
  constructor
  · rintro ⟨j, hj, rfl, rfl⟩
    omega
  · rintro ⟨rfl, hfirst, hlast⟩
    obtain ⟨j, rfl⟩ := Nat.exists_eq_add_of_le hfirst
    have hva := Nat.div_add_mod va 256
    exact ⟨j, by linarith, rfl, rfl⟩

/-- The model's list of dirty lines holds those that the statements call dirty. -/
theorem mem_dirtyLines : (part, line) ∈ dirtyLines c ↔ DirtyLine c part line := by
  simp only [dirtyLines, DirtyLine, List.mem_flatMap]
  refine exists_congr fun e => ?_
  rw [and_congr_right_iff]
  intro _
  constructor
  · rintro ⟨k, hk, h, hh, hmem⟩
    cases h with
    | store va data g =>
      obtain ⟨hpart, hlines⟩ := mem_storeLines.1 hmem
      exact ⟨hpart, k, hk, va, data, g, hh, hlines⟩
    | _ => exact absurd hmem List.not_mem_nil
  · rintro ⟨hpart, k, hk, va, data, g, hh, hlines⟩
    exact ⟨k, hk, _, hh, mem_storeLines.2 ⟨hpart, hlines⟩⟩

theorem setIsDirty_iff : setIsDirty c part line = true ↔ DirtySet c part line := by
  have hmem {x : Nat × Nat} : x ∈ (dirtyLines c).eraseDups.filter (fun x => l1Set x.2 == l1Set line) ↔
      x.2 % 64 = line % 64 ∧ DirtyLine c x.1 x.2 := by
    rw [List.mem_filter, List.mem_eraseDups, and_comm, ← mem_dirtyLines, beq_iff_eq]
    rfl
  have hnodup : ((dirtyLines c).eraseDups.filter fun x => l1Set x.2 == l1Set line).Nodup := by
    refine List.Nodup.filter _ ?_
    convert nodup_eraseDups (dirtyLines c)
  simp only [setIsDirty, DirtySet, Bool.and_eq_true, decide_eq_true_eq, Bool.not_eq_true', ← Bool.not_eq_true, List.contains_iff_mem, hmem, true_and]
  rw [and_comm (a := 0 < l1Ways c), and_assoc]
  refine and_congr_right fun _ => and_congr_right fun _ => ?_
  constructor
  · exact fun hways => ⟨_, hnodup, hways, fun x hx => hmem.1 hx⟩
  · rintro ⟨ls, hls, hways, hdirty⟩
    exact hways.trans (List.subperm_of_subset hls fun x hx => hmem.2 (hdirty x hx)).length_le

/-! ## Requests for a line (R130, R132, R133, R311) -/

variable (s : State) (va : Nat) (acc : Access)

/-- The home is asked for a line, unless its fill is under way (R311). -/
def lineWanted : State :=
  if s.myCore.fills.contains (s.me.part, va / 256) then s
  else (s.updMyCore fun c => { c with fills := (s.me.part, va / 256) :: c.fills }).askHome va (.need acc)

/-- What leaves for the home of an address. -/
theorem sent_askHome (op : HomeOp) : ∃ n x, (s.askHome va op).sent = s.sent ++ [(n, .homeRequest x)] ∧
    s.now + toSlice (quireOf s.cur.core) (s.homeOf s.me.part va) ≤ n ∧
      x.who = s.cur ∧ x.part = s.me.part ∧ x.va = BitVec.ofNat 64 va ∧ x.op = op :=
  ⟨_, _, rfl, Nat.add_le_add_left (Nat.le_add_right _ _) _, rfl, rfl, rfl, rfl⟩

@[simp] theorem me_lineWanted : (s.lineWanted va acc).me = s.me := by
  unfold lineWanted
  split
  · rfl
  · exact strand_updCore s (f := fun c => { c with fills := (s.me.part, va / 256) :: c.fills }) rfl s.cur

@[simp] theorem now_lineWanted : (s.lineWanted va acc).now = s.now := by unfold lineWanted; split <;> rfl
@[simp] theorem latch_lineWanted : (s.lineWanted va acc).latch = s.latch := by unfold lineWanted; split <;> rfl

/-- What a request for a line does beside the strand's own fate (R130, R133, R311). -/
def LineAsked (t : State) : Prop :=
  (s.me.part, va / 256) ∈ t.myCore.fills ∧ ((s.me.part, va / 256) ∈ s.myCore.fills → t.sent = s.sent) ∧
    ((s.me.part, va / 256) ∉ s.myCore.fills →
      ∃ n x, t.sent = s.sent ++ [(n, .homeRequest x)] ∧ s.now + toSlice (quireOf s.cur.core) (s.homeOf s.me.part va) ≤ n ∧
        x.who = s.cur ∧ x.part = s.me.part ∧ x.va = BitVec.ofNat 64 va ∧ x.op = .need acc)

theorem lineAsked_lineWanted : s.LineAsked va acc (s.lineWanted va acc) := by
  unfold lineWanted
  split
  · next hunder =>
    have hmem := List.contains_iff_mem.1 hunder
    exact ⟨hmem, fun _ => rfl, fun hnew => absurd hmem hnew⟩
  · next hnew =>
    rw [List.contains_iff_mem] at hnew
    refine ⟨?_, fun hmem => absurd hmem hnew, fun _ => ?_⟩
    · have hfills := congrArg Core.fills (core_updCore s s.cur.core fun c => { c with fills := (s.me.part, va / 256) :: c.fills })
      exact hfills.symm ▸ List.mem_cons_self
    · have hme : (s.updMyCore fun c => { c with fills := (s.me.part, va / 256) :: c.fills }).me = s.me := strand_updCore s (by rfl) s.cur
      obtain ⟨n, x, hsent, hlate, hwho, hpart, hva, hop⟩ :=
        sent_askHome (s.updMyCore fun c => { c with fills := (s.me.part, va / 256) :: c.fills }) va (.need acc)
      rw [hme] at hlate hpart
      exact ⟨n, x, hsent, hlate, hwho, hpart, hva, hop⟩

/-- A change of the executing strand leaves the request as it is. -/
theorem LineAsked.setMe {s t : State} (h : s.LineAsked va acc t) (u : Strand) : s.LineAsked va acc (t.setMe u) := by
  have hfills : (t.setMe u).myCore.fills = t.myCore.fills := (congrArg Core.fills (core_setStrand t t.cur u) :)
  unfold LineAsked at h ⊢
  rwa [hfills]

/-- A line that is lacking: whether the chunk ends first rests on the dirty lines of the set (R132). -/
theorem requestLine_of_dirtySet (h : DirtySet s.myCore s.me.part (va / 256)) :
    s.requestLine va acc = s.endBefore.stall (.untilCycle (s.now + 1)) := if_pos (setIsDirty_iff.2 h)

theorem requestLine_of_room (h : ¬ DirtySet s.myCore s.me.part (va / 256)) :
    s.requestLine va acc = (s.lineWanted va acc).stall (.asleep (.fill (va / 256))) := by
  have hroom : setIsDirty s.myCore s.me.part (va / 256) = false := Bool.not_eq_true _ ▸ mt setIsDirty_iff.1 h
  rw [requestLine, lineWanted]
  simp only [hroom, Bool.false_eq_true, if_false]
  split <;> rfl

/-! ## The end of a chunk (R153) -/

/-- A slot that no strand holds reads as an empty strand. -/
theorem strand_of_free {r : Ref} (h : s.occupied r = false) : s.strand r = Strand.none := look_of_not_has _ h

/-- The chunk that a strand ends, and the empty one that it opens. -/
theorem strand_endChunkOf {r : Ref} (h : (s.strand r).opened.count ≠ 0) : (s.endChunkOf r).strand r = (s.strand r).endChunk s.ids := by
  have hocc : s.occupied r = true := by
    by_contra hfree
    exact h (by rw [strand_of_free s (Bool.not_eq_true _ ▸ hfree)]; rfl)
  rw [endChunkOf, if_neg h, updStrand_of_occupied hocc]
  exact strand_setStrand s r _

theorem cur_endChunkOf (r : Ref) : (s.endChunkOf r).cur = s.cur := by
  unfold endChunkOf updStrand
  split
  · rfl
  · split <;> rfl

/-- After the end of a chunk none has started. -/
theorem count_opened_endBefore : s.endBefore.me.opened.count = 0 := by
  rw [me, endBefore, cur_endChunkOf]
  by_cases hzero : (s.strand s.cur).opened.count = 0
  · rw [endChunkOf, if_pos hzero]
    exact hzero
  · rw [strand_endChunkOf s hzero, Strand.endChunk, if_neg hzero]
    rfl

/-- Only a grant is asked for at the end of a chunk (R333). -/
theorem mem_sent_endChunkOf {r : Ref} {n : Nat} {e : Event} (h : (n, e) ∈ (s.endChunkOf r).sent) : (n, e) ∈ s.sent ∨ ∃ d, e = .commitGrant d := by
  have hsent (f : Strand → Strand) : (s.updStrand r f).sent = s.sent := by unfold updStrand; split <;> rfl
  unfold endChunkOf at h
  split at h
  · exact .inl h
  · rcases List.mem_append.1 h with hold | hnew
    · exact .inl (hsent _ ▸ hold)
    · exact .inr ⟨_, congrArg Prod.snd (List.mem_singleton.1 hnew)⟩

/-! ## Loads that issue before their lines come (R191) -/

/-- A load that is kept behind its window, with what it reads besides memory. -/
def loadKept (tag : Nat) (word : Instr) : Pending :=
  { tag := tag, chunk := s.me.opened.id, held := s.me.opened.held.length, instr := word, regs := s.pre, cbuf := s.me.cbuf,
    scale := s.me.scaleBase, line := va / 256, got := [], ready := false }

theorem requestLoad_waits {la : BitVec 4} (h : la = 0 ∨ s.me.opened.inOrder = true ∨ s.me.doneLanes ≠ 0 ∨ DirtySet s.myCore s.me.part (va / 256))
    (dests : List Dest) (word : Instr) : s.requestLoad la dests word va acc = s.requestLine va acc := by
  refine if_pos ?_
  simpa only [Bool.or_eq_true, decide_eq_true_eq, setIsDirty_iff, or_assoc] using h

theorem requestLoad_issues {la : BitVec 4} (hla : la ≠ 0) (hfree : s.me.opened.inOrder = false) (hdone : s.me.doneLanes = 0)
    (hroom : ¬ DirtySet s.myCore s.me.part (va / 256)) (dests : List Dest) (word : Instr) : s.requestLoad la dests word va acc =
    (((s.lineWanted va acc).openWindow la dests).updMe fun t =>
      { t with pending := t.pending ++ [s.loadKept va (s.lineWanted va acc).ids word] }).advance := by
  refine if_neg ?_
  simpa only [Bool.or_eq_true, decide_eq_true_eq, setIsDirty_iff, or_assoc, not_or, ne_eq, not_not, hfree, Bool.false_eq_true, not_false_eq_true, true_and]
    using ⟨hla, hdone, hroom⟩

theorem bpc_lineWanted : (s.lineWanted va acc).bpc = s.bpc := by simp only [bpc, pre, me_lineWanted, latch_lineWanted]

/-- The strand of a load that has issued before its line comes: its window, and the load behind it. -/
def behindWindow (la : BitVec 4) (dests : List Dest) (word : Instr) (tag : Nat) : Strand :=
  { s.me with
    regs := { s.me.regs with pc := s.bpc + 8 }
    windows := s.me.windows ++ [{ tag := tag, chunk := s.me.opened.id, dests := dests, left := la.toNat, due := s.now, writes := none }]
    pending := s.me.pending ++ [s.loadKept va tag word] }

/-- A bundle goes on with a window open and a load kept behind it. -/
theorem advance_openWindow_kept (la : BitVec 4) (dests : List Dest) (p : Pending) :
    ((s.openWindow la dests).updMe fun t => { t with pending := t.pending ++ [p] }).advance = (Claims.after s { s.me with
      regs := { s.me.regs with pc := s.bpc + 8 }
      windows := s.me.windows ++ [{ tag := s.ids, chunk := s.me.opened.id, dests := dests, left := la.toNat, due := s.now, writes := none }]
      pending := s.me.pending ++ [p] } .goes).fresh := by
  have hfresh (u : State) (f : Strand → Strand) : u.fresh.updMe f = (u.updMe f).fresh := rfl
  rw [openWindow, hfresh, updMe_updMe, updMe_eq, advance_fresh, advance_setMe]
  rfl

theorem requestLoad_issued {la : BitVec 4} (hla : la ≠ 0) (hfree : s.me.opened.inOrder = false) (hdone : s.me.doneLanes = 0)
    (hroom : ¬ DirtySet s.myCore s.me.part (va / 256)) (dests : List Dest) (word : Instr) : s.requestLoad la dests word va acc =
    (Claims.after (s.lineWanted va acc) (s.behindWindow va la dests word (s.lineWanted va acc).ids) .goes).fresh := by
  rw [requestLoad_issues s va acc hla hfree hdone hroom, advance_openWindow_kept, me_lineWanted, bpc_lineWanted, now_lineWanted, behindWindow]

end State
end Machine
end Sys2Proof
end

section
/-! PROOF. Scalar loads. -/

namespace Sys2Proof.Proofs

open Sys2Proof.Machine Sys2Proof.Claims

theorem linesAsked : LinesAsked := by
  intro s va acc t
  constructor
  · intro hroom
    have ht : t = (s.lineWanted va acc).stall (.asleep (.fill (va / 256))) := State.requestLine_of_room s va acc hroom
    have hme := State.stall_me (s.lineWanted va acc) (.asleep (.fill (va / 256)))
    rw [State.me_lineWanted] at hme
    have hasked := (State.lineAsked_lineWanted s va acc).setMe va acc { (s.lineWanted va acc).me with wait := .asleep (.fill (va / 256)) }
    rw [ht]
    exact ⟨hme, rfl, hasked⟩
  · intro hdirty
    have ht : t = s.endBefore.stall (.untilCycle (s.now + 1)) := State.requestLine_of_dirtySet s va acc hdirty
    have hme := State.stall_me s.endBefore (.untilCycle (s.now + 1))
    rw [ht]
    refine ⟨hme, ?_, rfl, fun n x hsent => ?_⟩
    · rw [hme]
      exact State.count_opened_endBefore s
    · exact (State.mem_sent_endChunkOf s hsent).resolve_right fun ⟨_, he⟩ => nomatch he

theorem loadsBehindWindows : LoadsBehindWindows := by
  intro s la dests word va acc t
  refine ⟨fun hwaits => State.requestLoad_waits s va acc hwaits dests word, fun hla hfree hdone hroom => ⟨(s.lineWanted va acc).ids, ?_⟩⟩
  have ht : t = _ := State.requestLoad_issued s va acc hla hfree hdone hroom dests word
  have hme : t.me = { s.behindWindow va la dests word (s.lineWanted va acc).ids with received := [], doneLanes := 0, vecBefore := none } := by
    rw [ht]
    exact (State.me_after (s.lineWanted va acc) (s.behindWindow va la dests word (s.lineWanted va acc).ids) .goes :)
  rw [hme, ht]
  refine ⟨rfl, rfl, rfl, rfl, ?_⟩
  exact (State.lineAsked_lineWanted s va acc).setMe va acc _

/-- Settles O6: a load does what the place of its element calls for (`scalarLoads`), own and cached elements are the bytes that lie there
(`loadedBytes`), and a line that is lacking is asked for (`linesAsked`), the load waiting or kept behind its window (`loadsBehindWindows`). -/
theorem scalarLoadsOfMemory : Obligations.ScalarLoadsOfMemory := ⟨scalarLoads, loadedBytes, linesAsked, loadsBehindWindows⟩

end Sys2Proof.Proofs
end

section
/-! SUPPORT. Operations on the lines of the slices, on memory and on the ports (R9, R88, R139, R145, R255): each changes nothing else, and rests on
nothing but these, the homes of addresses and the translation. -/

namespace Sys2Proof.Machine

namespace State

/-- The state `u` with all that operations on lines read and change taken from `s`. -/
def beside (s u : State) : State :=
  { u with
    quires := s.quires, contexts := s.contexts, partitions := s.partitions, hbm := s.hbm, l2 := s.l2, moves := s.moves, pkgid := s.pkgid,
    now := s.now, minthr := s.minthr, portsUp := s.portsUp, lostLinks := s.lostLinks, portFlits := s.portFlits, pathNext := s.pathNext,
    fabricOut := s.fabricOut }

/-- All that operations on lines leave as it is. -/
def offLines (s : State) : State := { s with hbm := [], l2 := [], fabricOut := [], portFlits := [], pathNext := [] }

/-- An operation on lines, memory and ports. -/
structure LineOp (f : State → State) : Prop where
  beside : ∀ s u, f (s.beside u) = (f s).beside u
  offLines : ∀ s, (f s).offLines = s.offLines

namespace LineOp

theorem id : LineOp fun s => s := ⟨fun _ _ => rfl, fun _ => rfl⟩

theorem comp {f g : State → State} (hf : LineOp f) (hg : LineOp g) : LineOp fun s => g (f s) :=
  ⟨fun s u => by rw [hf.beside, hg.beside], fun s => by rw [hg.offLines, hf.offLines]⟩

/-- One that depends on a value which rests on what operations on lines read. -/
theorem bind {α : Type} {v : State → α} (hv : ∀ s u, v (State.beside s u) = v s) {f : α → State → State} (hf : ∀ a, LineOp (f a)) :
    LineOp fun s => f (v s) s :=
  ⟨fun s u => by rw [hv, (hf _).beside], fun s => (hf _).offLines s⟩

theorem foldl {α : Type} {f : State → α → State} (hf : ∀ a, LineOp fun s => f s a) (l : List α) : LineOp fun s => l.foldl f s := by
  induction l with
  | nil => exact id
  | cons a l ih => exact comp (hf a) ih

theorem hbmWrite (pa : Nat) (data : List Byte) : LineOp fun s => s.hbmWrite pa data := by
  constructor <;> intros <;> unfold State.hbmWrite <;> split <;> rfl

theorem l2Keep (l : L2Line) : LineOp fun s => s.l2Keep l := ⟨fun _ _ => rfl, fun _ => rfl⟩
theorem l2Drop (part line : Nat) : LineOp fun s => s.l2Drop part line := ⟨fun _ _ => rfl, fun _ => rfl⟩

theorem toFabric (p : FabricPacket) : LineOp fun s => s.toFabric p := by
  refine ⟨fun s u => ?_, fun s => ?_⟩
  · have hpath : (s.beside u).choosePath p.route.1 p.route.2.2.1 = s.choosePath p.route.1 p.route.2.2.1 := rfl
    cases hchosen : s.choosePath p.route.1 p.route.2.2.1 with
    | none => simp only [State.toFabric, hpath, hchosen]
    | some q =>
      simp only [State.toFabric, hpath, hchosen]
      rfl
  · cases hchosen : s.choosePath p.route.1 p.route.2.2.1 with
    | none => simp only [State.toFabric, hchosen]
    | some q =>
      simp only [State.toFabric, hchosen]
      rfl

theorem physWrite (pa : Nat) (data : List Byte) : LineOp fun s => s.physWrite pa data := by
  let find (s : State) : Option L2Line := s.l2.find? fun l => l.peer.isNone && l.g.frame == pa / 256 * 256 && l.valid.contains (pa % 256 / 32)
  refine bind (v := find) (f := fun x s => match x with
    | some l => s.l2Keep { l with data := memStore l.data (pa % 256) data,
                                  dirty := (List.range data.length).foldl (fun d i => NatSet.add (pa % 256 + i) d) l.dirty }
    | none => s.hbmWrite pa data) (fun _ _ => rfl) fun x => ?_
  cases x with
  | some l => exact l2Keep _
  | none => exact hbmWrite pa data

theorem writeBack (l : L2Line) : LineOp fun s => s.writeBack l := by
  refine comp (f := fun s => if l.peer.isNone then (dirtyBytes l).foldl (fun s b => s.hbmWrite (l.g.frame + b.1) [b.2]) s
    else if l.dirty.isEmpty then s
    else s.toFabric (.writeBack (s.homePackage l.part (l.line * 256)) l.part l.line (dirtyBytes l) none)) ?_ (l2Keep _)
  cases l.peer.isNone with
  | true => exact foldl (fun b => hbmWrite _ _) _
  | false =>
    cases l.dirty.isEmpty with
    | true => exact id
    | false =>
      exact bind (v := fun s => s.homePackage l.part (l.line * 256)) (f := fun pkg s => s.toFabric (.writeBack pkg l.part l.line (dirtyBytes l) none))
        (fun _ _ => rfl) fun pkg => toFabric _

theorem l2Put (l : L2Line) : LineOp fun s => s.l2Put l := by
  refine bind (v := fun s => (s.l2Keep l).l2.filter (fun x =>
      x.part == l.part && x.line % 512 == l.line % 512 && s.homeOf x.part (x.line * 256) == s.homeOf l.part (l.line * 256)) |>.drop (s.l2Ways l.part))
    (f := fun xs s => xs.foldl (fun s x => (s.writeBack x).l2Drop x.part x.line) (s.l2Keep l)) (fun _ _ => rfl) fun xs => ?_
  exact comp (l2Keep l) (foldl (fun x => comp (writeBack x) (l2Drop _ _)) xs)

theorem setDirty (a : Option Nat) : LineOp fun s => s.setDirty a := by
  cases a with
  | none => exact id
  | some a =>
    refine bind (v := fun s => s.physWord a) (f := fun e s => if e.getLsbD 9 || !e.getLsbD 0 then s else s.physWrite a (Bytes.ofNat 8 (e ||| 0x200).toNat))
      (fun _ _ => rfl) fun e => ?_
    split
    · exact id
    · exact physWrite _ _

theorem setAccessed (leaf : Leaf) : LineOp fun s => s.setAccessed leaf := by
  refine bind (v := fun s => s.physWord leaf.entryPa) (f := fun e s => if e.getLsbD 8 then s else s.physWrite leaf.entryPa (Bytes.ofNat 8 (e ||| 0x100).toNat))
    (fun _ _ => rfl) fun e => ?_
  split
  · exact id
  · exact physWrite _ _

end LineOp

/-- The walk of an address rests on the tables as the slices and memory hold them. -/
theorem descend_beside (s u : State) (w : WalkFor) (lvl t : Nat) : (s.beside u).descend w lvl t = s.descend w lvl t := by
  induction lvl generalizing t with
  | zero => rfl
  | succ lvl ih =>
    have hword (pa : Nat) : (s.beside u).physWord pa = s.physWord pa := rfl
    have hframe (pa : Nat) (b : Bool) : (s.beside u).frameOk w.part pa b = s.frameOk w.part pa b := rfl
    have hleaf (l : Nat) (e : Word) (pa : Nat) : (s.beside u).checkLeaf w l e pa = s.checkLeaf w l e pa := rfl
    simp only [descend, hword, hframe, hleaf, ih]

theorem pageLeaf_beside (s u : State) (part ctx va : Nat) : (s.beside u).pageLeaf part ctx va = s.pageLeaf part ctx va := by
  have hroot : (s.beside u).context part ctx = s.context part ctx := rfl
  have hword (pa : Nat) : (s.beside u).physWord pa = s.physWord pa := rfl
  simp only [pageLeaf, descend_beside, hroot, hword]

namespace LineOp

/-- The line that a store within it finds, or fills from its frame. -/
def lineFor (part ctx va : Nat) (g : Grant) (s : State) : L2Line :=
  (s.l2Find part (va / 256)).getD
    { part := part, line := va / 256, data := memStore [] 0 (memLoad s.hbm g.frame 256), valid := List.range 8,
      dirty := [], g := g, entryPa := (s.pageLeaf part ctx va).map fun x => x.1.entryPa, peer := none }

theorem storeInLine (part ctx va : Nat) (data : List Byte) (g : Grant) : LineOp fun s => s.storeInLine part ctx va data g := by
  refine bind (v := lineFor part ctx va g) (f := fun l s => (s.l2Put { l with
    data := memStore l.data (va % 256) data
    dirty := (List.range data.length).foldl (fun d i => NatSet.add (va % 256 + i) d) l.dirty }).setDirty l.entryPa) (fun s u => ?_) fun l => ?_
  · have hfind : (s.beside u).l2Find part (va / 256) = s.l2Find part (va / 256) := rfl
    have hhbm : (s.beside u).hbm = s.hbm := rfl
    simp only [lineFor, hfind, hhbm, pageLeaf_beside]
  · exact comp (l2Put _) (setDirty _)

end LineOp

/-- A write at its home changes lines, memory and ports alone. -/
theorem offLines_performWrite (s : State) (w : CowWrite) : (s.performWrite w).offLines = s.offLines := by
  cases hcase : s.cowCase w.part w.ctx w.va.toNat w.edition w.g.rights <;>
  simp only [performWrite, hcase, apply_ite offLines, (LineOp.setDirty _).offLines, (LineOp.hbmWrite _ _).offLines,
    (LineOp.storeInLine _ _ _ _ _).offLines, ite_self]

end State
end Sys2Proof.Machine
end

section
/-! SUPPORT. Scalar stores (R128-R130, R148, R160, R241, R242, R422). -/

namespace Sys2Proof.Machine

open Sys2Proof.Claims

namespace State
variable {s : State} {f : Form} {va : Nat} {data : List Byte} {la : BitVec 4}

/-- An effect that is held with its sectors, after which its bundle goes on (R160). -/
theorem advance_held (s : State) (e : Held) (sectors : List Nat) : ((s.hold e).noteWrites sectors).advance = held s e sectors := by
  have hregs : ((s.hold e).noteWrites sectors).me.regs = s.me.regs := by
    rw [noteWrites_hold, me, cur_holding, holding, strand_useLines]
    exact (congrArg Strand.regs (me_setMe s _) :)
  rw [advance_eq_wrote, hregs, noteWrites_hold]
  rfl

/-- A store to own bytes (R118, R160). -/
theorem scalarStore_of_scratch {off : Nat} (h : s.place f va = .ok (.scratch off 0 0)) :
    s.scalarStore la f va data false = held s (.scratch off data false) ((sectorsOf off data.length).map scratchVa) := by
  have hput : s.putElement f va data false = .hold (.scratch off data false) ((sectorsOf off data.length).map scratchVa) := by
    rw [putElement, h]
    rfl
  rw [scalarStore, hput]
  exact advance_held s _ _

/-- A store to a line of which the core holds what its leaf says (R130). -/
theorem scalarStore_of_held {b : List Byte} {g : Grant} {full : Bool} (h : s.place f va = .ok .cached) (hlook : s.lookStore va = .held b g) :
    s.scalarStore la f va data full = held s (.store (BitVec.ofNat 64 va) data (some g)) [va / 32 * 32] := by
  rw [scalarStore, putElement, h]
  simp only [hlook]
  exact advance_held s _ _

theorem setIsDirty_eq_false {c : Core} {part line : Nat} (h : ¬ DirtySet c part line) : setIsDirty c part line = false :=
  Bool.not_eq_true _ ▸ mt setIsDirty_iff.1 h

/-- A store to a line of which the core holds nothing asks the home, or waits for the dirty lines of the set (R130, R132, R422). -/
theorem scalarStore_of_miss {full : Bool} (h : s.place f va = .ok .cached) (hlook : s.lookStore va = .miss)
    (hroom : ¬ DirtySet s.myCore s.me.part (va / 256)) : s.scalarStore la f va data full =
      held ((s.askCheck va).allocate va) (.store (BitVec.ofNat 64 va) data none) [va / 32 * 32] := by
  rw [scalarStore, putElement, h]
  simp only [hlook, setIsDirty_eq_false hroom, Bool.false_eq_true, if_false]
  exact advance_held _ _ _

theorem scalarStore_of_dirtySet {full : Bool} (h : s.place f va = .ok .cached) (hlook : s.lookStore va = .miss)
    (hdirty : DirtySet s.myCore s.me.part (va / 256)) : s.scalarStore la f va data full = s.requestLine va .store := by
  rw [scalarStore, putElement, h]
  simp only [hlook, setIsDirty_iff.2 hdirty, if_true]

/-! ## Stores to other cores (R128, R129, R191) -/

theorem putElement_of_remote {core : Nat} (h : s.place f va = .ok (.remote core)) :
    s.putElement f va data false = .hold (.posted (postedTo s none core va data)) [] := by
  rw [putElement, h]
  rfl

theorem scalarStore_of_remote {core : Nat} (h : s.place f va = .ok (.remote core)) :
    s.scalarStore la f va data false = (s.holdPosted la va f.size (postedTo s none core va data)).advance := by
  rw [scalarStore, putElement_of_remote h]
  rfl

/-- A posted store that takes a journal entry. -/
theorem advance_holdPosted_free {p : PostedStore} {width j : Nat} (hfree : journalFree s.myCore = some j) (hfirst : s.me.wantsKind 0 = false) :
    (s.holdPosted la va width p).advance = held (journaled s j va width) (.posted { p with idx := some j }) [] := by
  rw [holdPosted, hfree, hfirst]
  exact advance_hold (s := journaled s j va width) (.posted { p with idx := some j })

/-- A posted store that waits for one. -/
theorem advance_holdPosted_waits {p : PostedStore} {width : Nat} (h : journalFree s.myCore = none ∨ s.me.wantsKind 0 = true) :
    (s.holdPosted la va width p).advance = waiting s la [] (.journal p (BitVec.ofNat 64 va) width) := by
  have hnone : ((journalFree s.myCore).filter fun _ => !s.me.wantsKind 0) = none := by
    rcases h with h | h
    · rw [h]; rfl
    · rw [h]; cases journalFree s.myCore <;> rfl
  rw [holdPosted, hnone]
  exact advance_wantHeld s la [] _

/-! ## Stores to pages with O = 1 (R148, R260, R347) -/

/-- A frame of the notify pages is none of the engine frames. -/
theorem engineFrameQuire_of_notify {pa k : Nat} (h : notifyPartition pa = some k) : engineFrameQuire pa = none := by
  have hnotify : Config.notifyPage ≤ pa := by
    by_contra hbelow
    simp [notifyPartition, hbelow] at h
  have habove : ¬ pa < Config.engineFrame + 4096 * 1024 := by simp only [Config.engineFrame, Config.notifyPage] at hnotify ⊢; omega
  simp [engineFrameQuire, habove]

theorem me_performWrite (s : State) (w : CowWrite) : (s.performWrite w).me = s.me := (congrArg State.me (offLines_performWrite s w) :)

theorem bpc_performWrite (s : State) (w : CowWrite) : (s.performWrite w).bpc = s.bpc := (congrArg State.bpc (offLines_performWrite s w) :)

/-- What is left of a strand whose bundle went on without writing a register. -/
theorem me_advance (s : State) : s.advance.me =
    { s.me with regs := { s.me.regs with pc := s.bpc + 8 }, received := [], doneLanes := 0, vecBefore := none } := retire_me s _

theorem scalarStore_of_strong {g : Grant} (hplace : s.place f va = .ok .cached) (hlook : s.lookStore va = .strong g) (hscalar : f.vec = false) :
    s.scalarStore la f va data false = if s.aloneNow then s.strongStore f va g data else s.waitAlone := by
  rw [scalarStore, putElement, hplace]
  simp only [hlook, hscalar, Bool.false_eq_true, if_false]

/-- A store into the core's own part of its engine window, but the last word of an entry (R260). -/
theorem strongStore_of_window {g : Grant} {q : Nat} (hhome : s.homePackage s.me.part va = s.pkgid) (hframe : engineFrameQuire (g.frame + va % 256) = some q)
    (hquire : q = quireOf s.cur.core) (hcore : (g.frame + va % 256) % 4096 / 256 = s.cur.core % 4) (hoff : (g.frame + va % 256) % 4096 < 1024)
    (hpart : (g.frame + va % 256) % 64 + data.length < 64) : s.strongStore f va g data =
      (s.emit 0 (.engineWindowStore s.cur (g.frame + va % 256) data.length (BitVec.ofNat 64 (Bytes.toNat data)))).advance.thenStrong := by
  have hopen : (g.frame + va % 256) % 4096 % 64 + data.length ≠ 64 := by omega
  simp only [strongStore, hhome, hframe, hquire, hcore, hoff, ne_eq, not_true, if_false, decide_true, Bool.and_self, if_true, decide_eq_false hopen,
    Bool.false_and, Bool.false_eq_true]

/-- A doorbell write (R347). -/
theorem strongStore_of_notify {g : Grant} {k : Nat} (hhome : s.homePackage s.me.part va = s.pkgid) (hnotify : notifyPartition (g.frame + va % 256) = some k)
    (hfirst : (g.frame + va % 256) % 4096 = 0) (hlen : data.length = 8) : s.strongStore f va g data =
      (s.emit (toBase (quireOf s.cur.core)) (.notifyPageStore k (BitVec.ofNat 64 (Bytes.toNat data)))).advance.thenStrong := by
  simp only [strongStore, hhome, engineFrameQuire_of_notify hnotify, hnotify, hfirst, hlen, ne_eq, not_true, if_false, decide_true, Bool.and_self, if_true]

/-- A store to memory that waits for no copy of its page (R148, R296). -/
theorem strongStore_of_memory {g : Grant} (hhome : s.homePackage s.me.part va = s.pkgid) (hframe : engineFrameQuire (g.frame + va % 256) = none)
    (hnotify : notifyPartition (g.frame + va % 256) = none) (hlocked : s.lockedLine s.me.part va = false)
    (hdefer : s.cowDefer (s.strongWrite va data g) = none) : s.strongStore f va g data = (s.performWrite (s.strongWrite va data g)).advance.thenStrong := by
  simp only [strongStore, hhome, hframe, hnotify, hlocked, hdefer, ne_eq, not_true, if_false, Bool.false_eq_true]

/-! ## Checks of stores (R422) -/

/-- A store of the executing strand to the line of an address waits for its home's check. -/
theorem checkAsked_iff : s.checkAsked va = true ↔ ∃ k ∈ s.me.closed ++ [s.me.opened], ∃ a d,
    (Held.store a d none ∈ k.held ∨ Held.nontemporal a d none ∈ k.held) ∧ a.toNat / 256 = va / 256 := by
  simp only [checkAsked, List.any_eq_true]
  refine exists_congr fun k => and_congr_right fun _ => ⟨?_, ?_⟩
  · rintro ⟨e, hmem, hline⟩
    split at hline
    · exact ⟨_, _, .inl hmem, beq_iff_eq.1 hline⟩
    · exact ⟨_, _, .inr hmem, beq_iff_eq.1 hline⟩
    · cases hline
  · rintro ⟨a, d, hmem | hmem, hline⟩
    · exact ⟨_, hmem, beq_iff_eq.2 hline⟩
    · exact ⟨_, hmem, beq_iff_eq.2 hline⟩

theorem me_askCheck : (s.askCheck va).me = s.me := by unfold askCheck; split <;> rfl
theorem myCore_askCheck : (s.askCheck va).myCore = s.myCore := by unfold askCheck; split <;> rfl

end State
end Sys2Proof.Machine
end

section
/-! PROOF. Scalar stores. -/

namespace Sys2Proof.Proofs

open Sys2Proof.Machine Sys2Proof.Claims

theorem storesChecked : StoresChecked := by
  intro s va
  refine ⟨State.me_askCheck, State.myCore_askCheck, fun hasked => if_pos (State.checkAsked_iff.2 hasked), fun hfirst => ?_⟩
  have hnew : s.checkAsked va = false := by
    rw [← Bool.not_eq_true, State.checkAsked_iff]
    rintro ⟨k, hk, a, d, hmem, hline⟩
    exact hfirst k hk a d hmem hline
  have hasks : s.askCheck va = s.askHome va .check := by rw [State.askCheck, hnew]; rfl
  rw [hasks]
  exact State.sent_askHome s va .check

theorem scalarStoresHeld : ScalarStoresHeld := by
  intro p hp c s hready va data
  have hlen : data.length = p.2 := Bytes.length_ofNat ..
  rw [exec_storeTable p hp hready]
  refine ⟨fun off hva hown => ?_, fun g hstorable => ?_, fun core j hplace hfree hfirst => ?_, fun core hplace hwaits => ?_, fun f hfault => ?_,
    fun hplace hmiss => ⟨fun hdirty => ?_, fun hroom => ?_⟩,
    fun g hplace hstrong => ⟨fun hbusy => ?_, fun q halone hhome hframe hquire hcore hoff hpart => ?_, fun k halone hhome hnotify hfirst hwidth => ?_,
      fun halone hhome hframe hnotify hlocked hdefer => ?_⟩⟩
  · have hplace : s.place (storesAs p.2) va = .ok (.scratch off 0 0) := hva ▸ State.place_of_ownBytes' hown
    have hheld := State.scalarStore_of_scratch (la := c.la) (data := data) hplace
    rw [hlen] at hheld
    exact congrArg Host.Outcome.next hheld
  · obtain ⟨hbound, hout, halign, hhome, b, hlook⟩ := hstorable
    exact congrArg Host.Outcome.next (State.scalarStore_of_held (State.place_of_cached hbound hout halign hhome rfl) hlook)
  · exact congrArg Host.Outcome.next ((State.scalarStore_of_remote hplace).trans (State.advance_holdPosted_free hfree hfirst))
  · exact congrArg Host.Outcome.next ((State.scalarStore_of_remote hplace).trans (State.advance_holdPosted_waits hwaits))
  · rw [State.scalarStore, State.putElement, hfault]
  · exact congrArg Host.Outcome.next (State.scalarStore_of_dirtySet hplace hmiss hdirty)
  · exact congrArg Host.Outcome.next (State.scalarStore_of_miss hplace hmiss hroom)
  · rw [State.scalarStore_of_strong hplace hstrong rfl, hbusy]
    rfl
  · refine ⟨_, rfl, ?_⟩
    rw [State.scalarStore_of_strong hplace hstrong rfl, halone, if_pos rfl,
      State.strongStore_of_window hhome hframe hquire hcore hoff (by rwa [Bytes.length_ofNat]), State.advance_emit, Bytes.length_ofNat]
    exact ⟨rfl, congrArg Strand.regs (State.me_advance s), rfl, rfl⟩
  · refine ⟨_, rfl, ?_⟩
    rw [State.scalarStore_of_strong hplace hstrong rfl, halone, if_pos rfl,
      State.strongStore_of_notify hhome hnotify hfirst (by rwa [Bytes.length_ofNat]), State.advance_emit]
    exact ⟨rfl, congrArg Strand.regs (State.me_advance s), rfl, rfl⟩
  · refine ⟨_, rfl, ?_⟩
    rw [State.scalarStore_of_strong hplace hstrong rfl, halone, if_pos rfl, State.strongStore_of_memory hhome hframe hnotify hlocked hdefer]
    have hme := State.me_advance (s.performWrite (s.strongWrite va data g))
    rw [State.me_performWrite, State.bpc_performWrite] at hme
    exact ⟨rfl, (congrArg Strand.regs hme :), (congrArg Strand.wait hme :), rfl⟩

/-- Settles O7: each store is held, posted, refused or performed alone as its place says (`scalarStoresHeld`), and the first store of a line whose leaf
the core does not hold asks its home (`storesChecked`). -/
theorem scalarStores : Obligations.ScalarStores := ⟨scalarStoresHeld, storesChecked⟩

end Sys2Proof.Proofs
end

section
/-! SUPPORT. A posted store whose target's store is not in canonical form (R128, R161). -/

namespace Sys2Proof.Machine

/-- The posted store of a zero byte at offset 131075 of core 0's store. -/
def zeroPosted : PostedStore :=
  { src := 0, idx := some 0, part := 0, target := 0, data := [(131075, 0)], setFull := false, reply := none, edition := 0 }

/-- The store of core 0, of partition 0, lists offset 131077 before offset 131075, out of canonical form, as `zeroPosted` arrives. -/
def unsortedTarget : State :=
  { State.reset with
    quires := [(0, { Quire.reset with own := 0x80 })]
    cores := [(0, { Core.reset with store := [(131077, 1), (131075, 2)] })]
    ev := .postedStoreApply zeroPosted }

theorem accepts_unsortedTarget : unsortedTarget.targetRefuses 0 0 [131075] false true = none := by decide

/-- The zero goes before the offset that is listed first and too high, so the byte listed after that one stays. -/
theorem store_unsortedTarget : ∃ t, exec .postedStoreApply unsortedTarget = .next t ∧ memGet (t.core 0).store 131075 = 2 := by
  refine ⟨_, rfl, ?_⟩
  decide

end Sys2Proof.Machine
end

section
/-! PROOF. Posted stores at their target. -/

namespace Sys2Proof.Proofs

open Sys2Proof.Machine

/-- Refutes O41: its clause on posted stores holds only where the target's store is in canonical form, which it does not say. The store of
`unsortedTarget` lists its offsets out of order, and of its byte that `zeroPosted` clears the old value stays. -/
theorem not_coreMemoryEvents : ¬ Obligations.CoreMemoryEvents := by
  intro h
  obtain ⟨-, -, -, -, -, -, -, -, -, hposted, -⟩ := h unsortedTarget
  obtain ⟨-, happlied⟩ := hposted zeroPosted rfl
  obtain ⟨t, hexec, -, hbytes, -⟩ := happlied 0 accepts_unsortedTarget (by decide) rfl rfl
  obtain ⟨u, hnext, hbyte⟩ := store_unsortedTarget
  obtain rfl : t = u := Host.Outcome.next.inj (hexec.symm.trans hnext)
  have hcleared : memGet (t.core 0).store 131075 = 0 := hbytes (131075, 0) List.mem_cons_self
  exact absurd (hcleared.symm.trans hbyte) (by decide)

end Sys2Proof.Proofs
end

section
/-! SUPPORT. What leaves a package (R139, R349, R385), and what homes send to the holders of a line (R166). -/

namespace Sys2Proof.Machine

open Sys2Proof.Claims

namespace State
variable {s : State} {p : FabricPacket} {pkg part line : Nat}

/-- A path is chosen where one is left (R349, R385). -/
theorem choosePath_of_reaches (h : Reaches s pkg) (vc : Nat) : s.choosePath pkg vc ≠ none := by
  intro hnone
  refine h (List.filter_eq_nil_iff.2 ?_)
  rw [choosePath] at hnone
  dsimp only at hnone
  cases hleast : s.pathUp (minimalPath s.pkgid pkg) with
  | true =>
    rw [hleast, if_pos rfl] at hnone
    split at hnone
    · split at hnone <;> cases hnone
    · cases hnone
  | false =>
    rw [hleast, if_neg Bool.false_ne_true, Option.map_eq_none_iff, Option.map_eq_none_iff, List.getElem?_eq_none_iff] at hnone
    have hothers : (s.otherPaths pkg).filter s.pathUp = [] := by
      by_contra hsome
      exact absurd (Nat.mod_lt (look 0 pkg s.pathNext) (List.length_pos_of_ne_nil hsome)) (Nat.not_lt.2 hnone)
    exact List.forall_mem_cons.2 ⟨Bool.not_eq_true _ ▸ hleast, List.filter_eq_nil_iff.1 hothers⟩

/-- A packet to a package that is reached leaves. -/
theorem left_toFabric (h : Reaches s p.route.1) : Left (s.toFabric p) p.route.1 p := by
  obtain ⟨q, hq⟩ := Option.ne_none_iff_exists'.1 (choosePath_of_reaches h p.route.2.2.1)
  simp only [toFabric, hq]
  exact ⟨_, List.mem_append_right _ List.mem_cons_self, rfl, rfl⟩

/-- What has left stays so. -/
theorem left_of_left {q : FabricPacket} (h : Left s pkg q) (p : FabricPacket) : Left (s.toFabric p) pkg q := by
  obtain ⟨f, hf, hbody, hdst⟩ := h
  cases hchosen : s.choosePath p.route.1 p.route.2.2.1 with
  | none =>
    simp only [toFabric, hchosen]
    exact ⟨f, hf, hbody, hdst⟩
  | some x =>
    simp only [toFabric, hchosen]
    exact ⟨f, List.mem_append_left _ hf, hbody, hdst⟩

theorem reaches_toFabric (p : FabricPacket) (pkg : Nat) : Reaches (s.toFabric p) pkg ↔ Reaches s pkg := by
  have hpaths : (s.toFabric p).pathsTo pkg = s.pathsTo pkg := (congrArg (fun t : State => t.pathsTo pkg) ((LineOp.toFabric p).offLines s) :)
  rw [Reaches, hpaths, Reaches]

/-- Recalls of a line leave for every holder that is reached (R139). -/
theorem left_recalls {ps : List Nat} (hpkg : pkg ∈ ps) (h : Reaches s pkg) :
    Left (ps.foldl (fun s p => s.recallFrom part line none p) s) pkg (.recall pkg part line none) := by
  have hkept (ps : List Nat) (s : State) (h : Left s pkg (.recall pkg part line none)) :
      Left (ps.foldl (fun s p => s.recallFrom part line none p) s) pkg (.recall pkg part line none) := by
    induction ps generalizing s with
    | nil => exact h
    | cons p ps ih => exact ih _ (left_of_left h _)
  induction ps generalizing s with
  | nil => cases hpkg
  | cons p ps ih =>
    obtain rfl | hpkg := List.mem_cons.1 hpkg
    · exact hkept ps _ (left_toFabric (p := .recall pkg part line none) h)
    · exact ih hpkg ((reaches_toFabric _ _).2 h)

/-- The holders of a line that another package is to give up are told (R139). -/
theorem left_podRecall {x : PodEntry} (hentry : s.podEntry part line = some x) (hpkg : pkg ∈ x.holders) (h : Reaches s pkg) :
    Left (s.podRecall part line none) pkg (.recall pkg part line none) := by
  have hfind : s.podDir.find? (fun e => e.part == part && e.line == line) = some x := hentry
  rw [podRecall, hfind]
  exact left_recalls hpkg h

/-! ## Invalidations (R166) -/

/-- A fold of invalidations: what has been sent stays, and each one that is sent arrives no later than the cycle it answers. -/
def invalidating (part line : Nat) (x : State × Nat) (c : Nat) : State × Nat :=
  let d := travel (x.1.homeOf part (line * 256)) (quireOf c) + x.1.draw.toNat
  ((x.1.emit d (.invalidationArrival c part line)).drawn, max x.2 (x.1.now + d))

theorem invalidateHolders_eq (keep : Nat → Bool) : s.invalidateHolders part line keep =
    ((s.holders part line).filter fun c => !keep c).foldl (invalidating part line) (s, s.now) := rfl

theorem invalidating_keeps (cs : List Nat) (x : State × Nat) :
    let t := cs.foldl (invalidating part line) x
    (∀ e ∈ x.1.sent, e ∈ t.1.sent) ∧ x.2 ≤ t.2 ∧ { t.1 with sent := [], free := 0 } = { x.1 with sent := [], free := 0 } := by
  induction cs generalizing x with
  | nil => exact ⟨fun e he => he, Nat.le_refl _, rfl⟩
  | cons c cs ih =>
    obtain ⟨hsent, hlate, hrest⟩ := ih (invalidating part line x c)
    exact ⟨fun e he => hsent e (List.mem_append_left _ he), (Nat.le_max_left _ _).trans hlate, hrest⟩

theorem invalidating_sends {cs : List Nat} {c : Nat} (hc : c ∈ cs) (x : State × Nat) :
    let t := cs.foldl (invalidating part line) x
    ∃ n ≤ t.2, (n, .invalidationArrival c part line) ∈ t.1.sent := by
  induction cs generalizing x with
  | nil => cases hc
  | cons d cs ih =>
    obtain rfl | hc := List.mem_cons.1 hc
    · obtain ⟨hsent, hlate, -⟩ := invalidating_keeps cs (invalidating part line x c)
      exact ⟨_, (Nat.le_max_right _ _).trans hlate, hsent _ (List.mem_append_right _ List.mem_cons_self)⟩
    · exact ih hc _

/-- All that invalidations to holders leave as it is. -/
theorem invalidateHolders_rest (s : State) (part line : Nat) (keep : Nat → Bool) :
    { (s.invalidateHolders part line keep).1 with sent := [], free := 0 } = { s with sent := [], free := 0 } := by
  rw [invalidateHolders_eq]
  exact (invalidating_keeps _ (s, s.now)).2.2

/-- Each holder that is not kept has its invalidation, no later than the cycle that the fold answers. -/
theorem invalidateHolders_sends {keep : Nat → Bool} {c : Nat} (hc : c ∈ s.holders part line) (hkeep : keep c = false) :
    ∃ n ≤ (s.invalidateHolders part line keep).2, (n, .invalidationArrival c part line) ∈ (s.invalidateHolders part line keep).1.sent := by
  rw [invalidateHolders_eq]
  exact invalidating_sends (List.mem_filter.2 ⟨hc, by rw [hkeep]; rfl⟩) (s, s.now)

/-- The acknowledgement leaves no earlier than its way back takes, and arrives no earlier than the invalidations. -/
theorem homeAcks_sent (x : State × Nat) (back : Nat) (w : CowWrite) : ∃ a, x.1.now + back ≤ a ∧ x.2 ≤ a ∧
    (homeAcks x back w).sent = x.1.sent ++ [(a, .homeAcknowledgement w.who w.kind w.task w.start)] := by
  refine ⟨_, ?_, ?_, rfl⟩ <;> omega

end State
end Sys2Proof.Machine
end

section
/-! SUPPORT. HMASK, moves of homes, lines that another package asks for, and copies on write (R137, R139, R151, R152, R296, R384). -/

namespace Sys2Proof.Machine

open Sys2Proof.Claims

/-! ## HMASK (R137, R227) -/

section
variable {s : State} {part : Nat} {r : Ref} {v : Word}

/-- Each event that is sent for a member of a list leaves no earlier than its way takes. -/
theorem sentBy_foldl_emitNet (d : Nat → Nat) (g : Nat → Event) {l : List Nat} {s : State} {q : Nat} (hq : q ∈ l) :
    SentBy s (l.foldl (fun s q => s.emitNet (d q) (g q)) s) (d q) (g q) := by
  have hkept (l : List Nat) (t : State) (x : Nat × Event) (hx : x ∈ t.sent) : x ∈ (l.foldl (fun s q => s.emitNet (d q) (g q)) t).sent := by
    induction l generalizing t with
    | nil => exact hx
    | cons p l ih => exact ih _ (List.mem_append_left _ hx)
  induction l generalizing s with
  | nil => cases hq
  | cons p l ih =>
    obtain rfl | hmem := List.mem_cons.1 hq
    · exact ⟨_, Nat.add_le_add_left (Nat.le_add_right _ _) _, hkept l _ _ (List.mem_append_right _ List.mem_cons_self)⟩
    · exact (ih (s := s.emitNet (d p) (g p)) hmem :)

theorem hmsetReceive_behind (h : (s.partition part).hmsets ≠ []) :
    s.hmsetReceive part r v = s.updPartition part fun p => { p with hmsets := p.hmsets ++ [(r, v)] } := by
  rw [State.hmsetReceive, List.isEmpty_eq_false_iff.2 h]
  rfl

/-- The first `hmset` of a queue goes to every slice, which the partition then waits for. -/
theorem hmsetSend_first {x : Ref × Word} {rest : List (Ref × Word)} (h : (s.partition part).hmsets = x :: rest) :
    ((s.hmsetSend part).partition part).adoptLeft = s.homeList part ∧
      ∀ q ∈ s.homeList part, SentBy s (s.hmsetSend part) (toBase q) (.hmsetSliceAdopt part q x.2 none) := by
  rw [State.hmsetSend, h]
  exact ⟨congrArg Partition.adoptLeft (State.partition_setPartition _ _ _),
    fun q hq => sentBy_foldl_emitNet toBase (fun q => .hmsetSliceAdopt part q x.2 none) hq⟩

theorem hmsetReceive_first (h : (s.partition part).hmsets = []) : let t := s.hmsetReceive part r v
    (t.partition part).hmsets = [(r, v)] ∧ (t.partition part).adoptLeft = s.homeList part ∧
      ∀ q ∈ s.homeList part, SentBy s t (toBase q) (.hmsetSliceAdopt part q v none) := by
  have hqueue := (hmsetReceive_spec s part r v).1
  have hsend : s.hmsetReceive part r v = (s.updPartition part fun p => { p with hmsets := p.hmsets ++ [(r, v)] }).hmsetSend part := by
    rw [State.hmsetReceive, h]
    rfl
  have hfirst : ((s.updPartition part fun p => { p with hmsets := p.hmsets ++ [(r, v)] }).partition part).hmsets = [(r, v)] := by
    rw [State.updPartition, State.partition_setPartition, h]
    rfl
  rw [h] at hqueue
  obtain ⟨hleft, hsent⟩ := hmsetSend_first hfirst
  rw [← hsend] at hleft hsent
  exact ⟨hqueue, hleft, hsent⟩

theorem exec_hmsetSliceAdopt_strand {q : Nat} (h : s.ev = .hmsetSliceAdopt part q v (some r)) :
    exec .hmsetSliceAdopt s = .next (s.hmsetReceive part r v) := by
  simp only [exec_hmsetSliceAdopt, execHmsetSliceAdopt, h]

/-- A slice with no line to drop adopts a value, others still to follow. -/
theorem exec_hmsetSliceAdopt_slice {q b : Nat} {l : List Nat} (h : s.ev = .hmsetSliceAdopt part q v none) (hl2 : s.l2 = [])
    (hleft : (s.partition part).adoptLeft = q :: b :: l) :
    exec .hmsetSliceAdopt s = .next (s.updPartition part fun p => { p with adoptLeft := b :: l }) := by
  simp [exec_hmsetSliceAdopt, execHmsetSliceAdopt, h, hl2, hleft]

/-- The last slice adopts the one value that is under way. -/
theorem exec_hmsetSliceAdopt_last {q : Nat} {x : Word} (h : s.ev = .hmsetSliceAdopt part q v none) (hl2 : s.l2 = [])
    (hleft : (s.partition part).adoptLeft = [q]) (hqueue : (s.partition part).hmsets = [(r, x)]) :
    exec .hmsetSliceAdopt s = .next ((((s.updPartition part fun p => { p with adoptLeft := [] }).updPartition part fun p =>
      { p with hmask := x, hmsets := [] }).emitNet (toBase q + toBase (quireOf r.core))
        (.homeAcknowledgement r .maintenance (s.strand r).task (s.strand r).startedAt))) := by
  have hfirst : ((s.updPartition part fun p => { p with adoptLeft := [] }).partition part).hmsets = [(r, x)] := by
    rw [State.updPartition, State.partition_setPartition]
    exact hqueue
  have hnone (d : Nat) (e : Event) : ((((s.updPartition part fun p => { p with adoptLeft := [] }).updPartition part fun p =>
      { p with hmask := x, hmsets := [] }).emitNet d e).partition part).hmsets = [] :=
    congrArg Partition.hmsets (State.partition_setPartition (s := s.updPartition part fun p => { p with adoptLeft := [] }) part _)
  have hstrand : (s.updPartition part fun p => { p with adoptLeft := [] }).strand r = s.strand r := rfl
  simp only [exec_hmsetSliceAdopt, execHmsetSliceAdopt, h, hl2, List.filter_nil, List.foldl_nil, hleft, List.erase_cons_head, List.isEmpty_nil, if_true,
    hfirst, hstrand]
  rw [State.hmsetSend, hnone]

end

namespace State
variable {s : State} {part n line : Nat}

/-! ## Moves of homes (R151, R152) -/

/-- Nothing waits at its home: no line wakes a request. -/
theorem wakeLine_of_none (h : s.peerWait = []) : s.wakeLine part line = s := by
  have hkept : { s with peerWait := [] } = s := by rw [← h]
  rw [wakeLine, h]
  exact hkept

/-- The copy of a line within the package, of which the slices hold nothing: operations on lines, and then the line's acknowledgement. -/
theorem copyMoving_here {base index : Nat} (hl2 : s.l2 = []) (hpkg : (look 0 n (s.partition part).hmapL).toNat / 2 ^ 38 % 2 ^ 10 = s.pkgid) :
    ∃ f, LineOp f ∧ s.copyMoving part n base index = (f s).emitNet 80 (.moveLineAck part n index) := by
  have hfind : s.l2Find part (base / 256 + index) = none := by rw [l2Find, hl2]; rfl
  have hto : Bits.get (look 0 n (s.partition part).hmapL).toNat 47 38 = s.pkgid := by rw [← hpkg, Bits.get, Nat.shiftRight_eq_div_pow]
  simp only [copyMoving, hfind, hto, if_true]
  split
  · exact ⟨_, LineOp.comp (LineOp.l2Drop part (base / 256 + index)) (LineOp.l2Put _), rfl⟩
  · exact ⟨_, LineOp.id, rfl⟩

/-- What a copy within the package leaves as it is, and its acknowledgement. -/
theorem copyMoving_here_spec {base index : Nat} (hl2 : s.l2 = []) (hpkg : (look 0 n (s.partition part).hmapL).toNat / 2 ^ 38 % 2 ^ 10 = s.pkgid) :
    let t := s.copyMoving part n base index
    t.moves = s.moves ∧ t.partitions = s.partitions ∧ t.peerWait = s.peerWait ∧ SentBy s t 80 (.moveLineAck part n index) := by
  obtain ⟨f, hf, hcopy⟩ := copyMoving_here (base := base) (index := index) hl2 hpkg
  have hoff := hf.offLines s
  have hnow : (f s).now = s.now := (congrArg State.now hoff :)
  rw [hcopy]
  refine ⟨(congrArg State.moves hoff :), (congrArg State.partitions hoff :), (congrArg State.peerWait hoff :), (f s).now + (80 + (f s).draw.toNat), ?_,
    List.mem_append_right _ List.mem_cons_self⟩
  omega

/-- A move as it begins: the entry's registers with the lock, and its first line locked (R151). -/
def moveLocked (s : State) (part n : Nat) (base limit : Word) : State :=
  let s1 := s.updPartition part fun p =>
    { p with hmapB := put n (base &&& 0xFFFFFFFFF) p.hmapB, hmapL := put n (limit ||| 0x4000000000000000) p.hmapL }
  { s1 with moves := { part := part, n := n, base := Bits.get base.toNat 35 0 * 2 ^ 21, index := 0 } :: s1.moves.filter fun m => !(m.part == part && m.n == n) }

theorem exec_homeMoveStart {base limit : Word} (h : s.ev = .homeMoveStart part n base limit) : exec .homeMoveStart s =
    .next ((s.moveLocked part n base limit).copyMoving part n (Bits.get base.toNat 35 0 * 2 ^ 21) 0) := by
  obtain ⟨u, rfl⟩ : ∃ u : State, s = { u with ev := .homeMoveStart part n base limit } := ⟨s, by rw [← h]⟩
  rfl

/-- The lock leaves the package that a granule moves to as it is. -/
theorem movedTo_locked (limit : Word) : (limit ||| 0x4000000000000000).toNat / 2 ^ 38 % 2 ^ 10 = limit.toNat / 2 ^ 38 % 2 ^ 10 := by
  have hfield (x : Word) : x.toNat / 2 ^ 38 % 2 ^ 10 = (x.extractLsb' 38 10).toNat := by
    rw [BitVec.extractLsb'_toNat, Nat.shiftRight_eq_div_pow]
  have hlock : (0x4000000000000000 : Word).extractLsb' 38 10 = 0 := by decide
  rw [hfield, hfield, BitVec.extractLsb'_or, hlock]
  exact congrArg BitVec.toNat (BitVec.or_zero)

/-- The entry of a granule after its move: HOME and package of the new home, the lock gone. -/
def movedEntry (l : Nat) : Nat :=
  Bits.get l 47 0 + Bits.get l 37 36 * 2 ^ 48 + Bits.get l 47 38 * 2 ^ 50 + Bits.get l 61 60 * 2 ^ 60 + 2 ^ 63 * Bits.get l 63 63

/-- The message that tells an actor of context 0 of the end of a move (R151). -/
def moveMessage (n : Nat) : Msg :=
  { cls := 0, type := 0, flags := 0, key := 0, score := 0, sstrand := 0xFE, plen := 1, chseq := 0, edition := 0, pcx := 0, payload := [BitVec.ofNat 64 n],
    node := 0 }

/-- The one move has ended, and its entry names the new home. -/
def moveEnded (s : State) (part n : Nat) : State :=
  { s with moves := [] }.updPartition part fun p =>
    { p with hmapL := put n (BitVec.ofNat 64 (movedEntry (look 0 n (s.partition part).hmapL).toNat)) p.hmapL }

section
variable {i : Nat} {m : HomeMove} (h : s.ev = .moveLineAck part n i) (hmoves : s.moves = [m]) (hpart : m.part = part) (hn : m.n = n) (hi : m.index = i)
include h hmoves hpart hn hi

/-- A line of a move has arrived: the next one is copied, and what waits for this one goes on. -/
theorem exec_moveLineAck_more (hmore : i + 1 < ((look 0 n (s.partition part).hmapL).toNat % 2 ^ 36 + 1 - m.base / 2 ^ 21) * 8192) :
    exec .moveLineAck s = .next (({ s with moves := [{ m with index := i + 1 }] }.copyMoving part n m.base (i + 1)).wakeLine part (m.base / 256 + i)) := by
  have hmore : i + 1 < (Bits.get (look 0 n (s.partition part).hmapL).toNat 35 0 + 1 - m.base / 2 ^ 21) * 8192 := hmore
  subst hpart hn hi
  simp only [exec_moveLineAck, execMoveLineAck, h, hmoves, List.find?_cons, beq_self_eq_true, Bool.and_self, hmore, if_true, List.filter_cons, bne_self_eq_false,
    Bool.false_eq_true, if_false, List.filter_nil]

/-- The last line of a move has arrived: the entry names the new home, and an actor of context 0 is told. -/
theorem exec_moveLineAck_last (hlast : ((look 0 n (s.partition part).hmapL).toNat % 2 ^ 36 + 1 - m.base / 2 ^ 21) * 8192 ≤ i + 1) :
    exec .moveLineAck s = .next (((s.moveEnded part n).wakeLine part (m.base / 256 + i)).unitMessage 0x200 part 0 (moveMessage n)) := by
  subst hpart hn hi
  obtain ⟨u, rfl⟩ : ∃ u : State, s = { u with ev := .moveLineAck m.part m.n m.index } := ⟨s, by rw [← h]⟩
  have hfind : u.moves.find? (fun x => x.part == m.part && x.n == m.n && x.index == m.index) = some m := by
    simp [show u.moves = [m] from hmoves]
  have hrest : u.moves.filter (fun x => x != m) = [] := by simp [show u.moves = [m] from hmoves]
  simp only [exec_moveLineAck, execMoveLineAck, hfind, hrest]
  exact congrArg Host.Outcome.next (if_neg (Nat.not_lt.2 hlast))

end

/-- A message to an actor of a context without classes changes no partition and no move. -/
theorem unitMessage_of_no_class {ctx : Nat} {m : Msg} (h : (s.context part ctx).clsNum = 0) :
    (s.unitMessage 0x200 part ctx m).moves = s.moves ∧ (s.unitMessage 0x200 part ctx m).partitions = s.partitions := by
  have hclass (cls : BitVec 16) (f : ClassEntry → Bool) : s.classBit part ctx cls f = (s, false) := by
    rw [classBit, if_pos (by rw [h]; exact Nat.zero_le _)]
  have hcost : (s.launchCost part ctx m 0).1 = s := by rw [launchCost, hclass]
  rw [unitMessage_processor, hcost, sendMessage, number, hclass]
  dsimp only [depart]
  split
  · exact ⟨rfl, rfl⟩
  · exact ⟨(congrArg State.moves ((LineOp.toFabric _).offLines _) :), (congrArg State.partitions ((LineOp.toFabric _).offLines _) :)⟩

theorem packed_fields {a b c d e : Nat} (ha : a < 2 ^ 48) (hb : b < 4) (hc : c < 1024) (hd : d < 4) :
    let x := (BitVec.ofNat 64 (a + b * 2 ^ 48 + c * 2 ^ 50 + d * 2 ^ 60 + 2 ^ 63 * e)).toNat
    x / 2 ^ 62 % 2 = 0 ∧ x / 2 ^ 50 % 2 ^ 10 = c ∧ x % 2 ^ 36 = a % 2 ^ 36 := by
  simp only [BitVec.toNat_ofNat]
  omega

theorem movedEntry_fields (l : Nat) : let x := (BitVec.ofNat 64 (movedEntry l)).toNat
    x / 2 ^ 62 % 2 = 0 ∧ x / 2 ^ 50 % 2 ^ 10 = l / 2 ^ 38 % 2 ^ 10 ∧ x % 2 ^ 36 = l % 2 ^ 36 := by
  have hlow : l % 2 ^ 48 % 2 ^ 36 = l % 2 ^ 36 := by omega
  have hfields := packed_fields (a := l % 2 ^ 48) (b := l / 2 ^ 36 % 4) (c := l / 2 ^ 38 % 1024) (d := l / 2 ^ 60 % 4) (e := l / 2 ^ 63 % 2)
    (Nat.mod_lt _ (by decide)) (Nat.mod_lt _ (by decide)) (Nat.mod_lt _ (by decide)) (Nat.mod_lt _ (by decide))
  rw [hlow] at hfields
  simp only [movedEntry, Bits.get, Nat.shiftRight_eq_div_pow, pow_zero, Nat.div_one]
  exact hfields

/-! ## Lines that another package asks for (R139, R152) -/

/-- A package that asks for a line gives up what it holds of it SHARED. -/
def unshared (part line pkg : Nat) (e : PodEntry) : PodEntry :=
  if e.part == part && e.line == line && !e.owned then { e with holders := e.holders.filter (· != pkg) } else e

def asked (s : State) (part line pkg : Nat) : State := { s with podDir := s.podDir.map (unshared part line pkg) }

/-- Packages besides the one that asks hold the line, or have yet to acknowledge that they do not. -/
def othersHold (pkg : Nat) : Option PodEntry → Bool
  | some e => (e.holders != [] && e.holders != [pkg]) || decide (0 < e.acks)
  | none => false

variable {pkg : Nat}

theorem podEntry_asked : (s.asked part line pkg).podEntry part line = (s.podEntry part line).map (unshared part line pkg) := by
  have hname : (fun e : PodEntry => e.part == part && e.line == line) ∘ unshared part line pkg = fun e => e.part == part && e.line == line := by
    funext e
    simp only [Function.comp_apply, unshared]
    split <;> rfl
  rw [podEntry, asked, List.find?_map, hname]
  rfl

/-- A line that no package holds has nothing to give up. -/
theorem asked_of_no_entry (h : s.podEntry part line = none) : s.asked part line pkg = s := by
  have hsame : s.podDir.map (unshared part line pkg) = s.podDir := by
    refine (List.map_congr_left fun e he => ?_).trans (List.map_id _)
    have hother : (e.part == part && e.line == line) = false := by simpa using List.find?_eq_none.1 h e he
    simp [unshared, hother]
  rw [asked, hsame]

theorem exec_peerOwnedRequest_refused (h : s.ev = .peerOwnedRequest part line pkg) (htakes : s.takesPackets part = false) :
    exec .peerOwnedRequest s = .next s := by
  simp [exec_peerOwnedRequest, execPeerOwnedRequest, h, htakes]

theorem now_podRecall (s : State) (part line : Nat) : (s.podRecall part line none).now = s.now := by
  unfold podRecall
  split
  · rfl
  · refine (foldl_keeps State.now (fun s p => ?_) _ _).trans rfl
    exact (congrArg State.now ((LineOp.toFabric (.recall p part line none)).offLines s) :)

section
variable (h : s.ev = .peerOwnedRequest part line pkg) (htakes : s.takesPackets part = true) (hhome : s.homePackage part (line * 256) = s.pkgid)
  (hlocked : s.lockedLine part (line * 256) = false) (hwaits : s.lineWaits part line = false)
include h htakes hhome hlocked hwaits

/-- Other packages hold the line, which is recalled from them; the request is looked at again. -/
theorem exec_peerOwnedRequest_busy {e : PodEntry} (hentry : (s.asked part line pkg).podEntry part line = some e) (hsome : e.holders ≠ [])
    (hother : e.holders ≠ [pkg]) : exec .peerOwnedRequest s =
      .next (((s.asked part line pkg).podRecall part line none).emit 4 (.peerOwnedRequest part line pkg)) := by
  have hbusy : othersHold pkg ((s.asked part line pkg).podEntry part line) = true := by simp [othersHold, hentry, hsome, hother]
  obtain ⟨u, rfl⟩ : ∃ u : State, s = { u with ev := .peerOwnedRequest part line pkg } := ⟨s, by rw [← h]⟩
  refine congrArg Host.Outcome.next ((if_neg (by simp [htakes])).trans ((if_neg (not_not.2 hhome)).trans ((if_neg (by simp [hlocked, hwaits])).trans ?_)))
  exact if_pos hbusy

/-- A line that no other package holds, and of which the slices hold nothing, is granted from memory. -/
theorem exec_peerOwnedRequest_granted {leaf : Leaf} (hentry : s.podEntry part line = none) (hl2 : s.l2 = []) (hleaf : s.lineLeaf part (line * 256) = some leaf) :
    exec .peerOwnedRequest s = .next (let t := (s.invalidateHolders part line fun _ => false).1
      { t with podDir := { part := part, line := line, holders := [pkg], owned := true, acks := 0 } ::
                t.podDir.filter fun e => !(e.part == part && e.line == line) }.toFabric (.grant pkg part line true
        (memLoad s.hbm (leaf.pa / 256 * 256) 256) { rights := leaf.rights, frame := leaf.pa / 256 * 256, size := leaf.size })) := by
  have hfind : s.l2Find part line = none := by rw [l2Find, hl2]; rfl
  have hfree : othersHold pkg ((s.asked part line pkg).podEntry part line) = false := by rw [podEntry_asked, hentry]; rfl
  obtain ⟨u, rfl⟩ : ∃ u : State, s = { u with ev := .peerOwnedRequest part line pkg } := ⟨s, by rw [← h]⟩
  refine congrArg Host.Outcome.next ((if_neg (by simp [htakes])).trans ((if_neg (not_not.2 hhome)).trans ((if_neg (by simp [hlocked, hwaits])).trans ?_)))
  have hsame : { u with
      ev := .peerOwnedRequest part line pkg
      podDir := u.podDir.map fun e => if e.part == part && e.line == line && !e.owned then { e with holders := e.holders.filter (· != pkg) } else e } =
      { u with ev := .peerOwnedRequest part line pkg } := asked_of_no_entry hentry
  refine (if_neg (ne_true_of_eq_false hfree)).trans ?_
  dsimp only
  rw [hsame]
  simp only [hfind, hleaf]

end

/-! ## Copies on write (R296, R384) -/

section
variable {w : CowWrite}

theorem pedOf_eq (p : Word) : pedOf p = p.toNat / 2 ^ 52 % 256 := by rw [pedOf, Bits.get, Nat.shiftRight_eq_div_pow]; rfl

section
variable {part ctx va : Nat} {edition : W32} {rights : BitVec 7} {l : Leaf} {p : Word} (hcow : cowLeaf rights = true)
  (hleaf : s.pageLeaf part ctx va = some (l, p)) (hsize : l.size < 2 ^ 30) (hedition : edition = (s.partition part).edition)
include hcow hleaf hsize hedition

theorem cowCase_of_current : s.cowCase part ctx va edition rights = if pedOf p = (s.partition part).edition.toNat % 256 then .perform
    else if (s.editionOf part edition).isNone then .perform else .copy l p := by
  have hlevel : ¬ 2 ^ 30 ≤ l.size := Nat.not_le.2 hsize
  simp only [cowCase, hcow, hleaf, hlevel, decide_false, Bool.false_and, Bool.not_true, Bool.false_eq_true, if_false, hedition, if_true, Bool.or_false,
    decide_eq_true_eq]

/-- A page that the edition has copied takes a write at once (R296). -/
theorem cowCase_of_copied (hped : p.toNat / 2 ^ 52 % 256 = (s.partition part).edition.toNat % 256) : s.cowCase part ctx va edition rights = .perform := by
  rw [cowCase_of_current hcow hleaf hsize hedition, if_pos ((pedOf_eq p).trans hped)]

/-- A page of an older edition is copied first (R296). -/
theorem cowCase_of_older (hped : ¬ p.toNat / 2 ^ 52 % 256 = (s.partition part).edition.toNat % 256) (hopen : (s.editionOf part edition).isSome = true) :
    s.cowCase part ctx va edition rights = .copy l p := by
  rw [cowCase_of_current hcow hleaf hsize hedition, if_neg (mt (pedOf_eq p).symm.trans hped), Option.isNone_eq_false_iff.2 hopen, if_neg Bool.false_ne_true]

end

/-- The one write that waits is performed (R296). -/
theorem performWaiting_single (h : s.cowQueue = [w]) (hkind : w.kind ≠ .unit) (size : Nat) :
    s.performWaiting w.part w.va.toNat size = { s with cowQueue := [] }.writeNow w (travel (s.homeOf w.part w.va.toNat) (quireOf w.who.core))
      fun c => w.kind == AckKind.write && dieOf c == dieOf w.who.core := by
  have hmine : s.pageWrites w.part w.va.toNat size = [w] := by simp [pageWrites, h]
  have hunit : (w.kind == .unit) = false := beq_eq_false_iff_ne.2 hkind
  have hrest : s.cowQueue.filter (fun x => !List.contains [w] x) = [] := by simp [h]
  rw [performWaiting, hmine, hrest, List.foldl_cons, List.foldl_nil, hunit]
  rfl

/-- A write that is performed is acknowledged (R166). -/
theorem sent_writeNow (hkind : w.kind ≠ .unit) (back : Nat) (keep : Nat → Bool) :
    Sent (s.writeNow w back keep) (.homeAcknowledgement w.who w.kind w.task w.start) := by
  have hunit : (w.kind == .unit) = false := beq_eq_false_iff_ne.2 hkind
  rw [writeNow, hunit]
  obtain ⟨a, -, -, hsent⟩ := homeAcks_sent (((s.performWrite w).podRecall w.part (w.va.toNat / 256) (some w)).invalidateHolders w.part (w.va.toNat / 256) keep)
    back w
  exact ⟨a, hsent ▸ List.mem_append_right _ List.mem_cons_self⟩

/-- The frame in which a page with COW = 1 takes a write now: its leaf's. -/
theorem performWrite_of_cow {l : Leaf} {p : Word} (hcow : cowLeaf w.g.rights = true) (hleaf : s.pageLeaf w.part w.ctx w.va.toNat = some (l, p))
    (hcached : strong l.rights = false) (hdata : w.data ≠ []) (hcase : s.cowCase w.part w.ctx w.va.toNat w.edition w.g.rights = .perform) :
    s.performWrite w = s.storeInLine w.part w.ctx w.va.toNat w.data { rights := l.rights, frame := l.pa / 256 * 256, size := l.size } := by
  simp only [performWrite, hcow, Bool.true_or, if_true, hleaf, hcase, List.isEmpty_eq_false_iff.2 hdata, Bool.false_eq_true, if_false, hcached]

/-- A write to a line that no other package holds recalls nothing. -/
theorem writeNow_eq (hentry : s.podEntry w.part (w.va.toNat / 256) = none) (back : Nat) (keep : Nat → Bool) : s.writeNow w back keep =
    let x := (s.performWrite w).invalidateHolders w.part (w.va.toNat / 256) keep
    if w.kind == .unit then x.1 else homeAcks x back w := by
  have hdir : (s.performWrite w).podDir = s.podDir := (congrArg State.podDir (offLines_performWrite s w) :)
  have hfind : s.podDir.find? (fun e => e.part == w.part && e.line == w.va.toNat / 256) = none := hentry
  rw [writeNow, podRecall, hdir, hfind]

/-- Its effect on the slices and on memory is the write's alone. -/
theorem writeNow_lines (hentry : s.podEntry w.part (w.va.toNat / 256) = none) (back : Nat) (keep : Nat → Bool) :
    (s.writeNow w back keep).l2 = (s.performWrite w).l2 ∧ (s.writeNow w back keep).hbm = (s.performWrite w).hbm := by
  have hrest := invalidateHolders_rest (s.performWrite w) w.part (w.va.toNat / 256) keep
  have hl2 := (congrArg State.l2 hrest :)
  have hhbm := (congrArg State.hbm hrest :)
  rw [writeNow_eq hentry]
  dsimp only
  generalize (s.performWrite w).invalidateHolders w.part (w.va.toNat / 256) keep = x at hl2 hhbm ⊢
  split <;> exact ⟨hl2, hhbm⟩

theorem cowQueue_updStrand (r : Ref) (f : Strand → Strand) : (s.updStrand r f).cowQueue = s.cowQueue := by
  unfold updStrand
  split <;> rfl

theorem cowQueue_toFabric (p : FabricPacket) : (s.toFabric p).cowQueue = s.cowQueue := (congrArg State.cowQueue ((LineOp.toFabric p).offLines s) :)

theorem cowQueue_recallFrom (part line : Nat) (x : Option CowWrite) (pkg : Nat) : (s.recallFrom part line x pkg).cowQueue = s.cowQueue := by
  have hmine (c : Bool) (r : Ref) (f : Strand → Strand) : (if c = true then s.updStrand r f else s).cowQueue = s.cowQueue := by
    cases c
    · rfl
    · exact cowQueue_updStrand r f
  cases x with
  | none => exact cowQueue_toFabric _
  | some x =>
    dsimp only [recallFrom]
    split
    · exact cowQueue_toFabric _
    · exact cowQueue_toFabric _
    · exact cowQueue_toFabric _
    · exact (cowQueue_toFabric _).trans (hmine _ _ _)
    · exact (cowQueue_toFabric _).trans (hmine _ _ _)

theorem cowQueue_podRecall (part line : Nat) (x : Option CowWrite) : (s.podRecall part line x).cowQueue = s.cowQueue := by
  unfold podRecall
  split
  · rfl
  · exact foldl_keeps State.cowQueue (fun s p => cowQueue_recallFrom part line x p) _ _

/-- A write that is performed takes none of those that wait. -/
theorem cowQueue_writeNow (back : Nat) (keep : Nat → Bool) : (s.writeNow w back keep).cowQueue = s.cowQueue := by
  have hrest := invalidateHolders_rest ((s.performWrite w).podRecall w.part (w.va.toNat / 256) (some w)) w.part (w.va.toNat / 256) keep
  have hinval := (congrArg State.cowQueue hrest :)
  have hwrite : (s.performWrite w).cowQueue = s.cowQueue := (congrArg State.cowQueue (offLines_performWrite s w) :)
  have hrecall := cowQueue_podRecall (s := s.performWrite w) w.part (w.va.toNat / 256) (some w)
  rw [writeNow]
  generalize ((s.performWrite w).podRecall w.part (w.va.toNat / 256) (some w)).invalidateHolders w.part (w.va.toNat / 256) keep = x at hinval ⊢
  have hx : x.1.cowQueue = s.cowQueue := hinval.trans (hrecall.trans hwrite)
  split <;> exact hx

end

end State
end Sys2Proof.Machine
end

section
/-! PROOF. Home moves, copies on write and adoptions. -/

namespace Sys2Proof.Proofs

open Sys2Proof.Machine Sys2Proof.Claims

theorem homeMoveStarts (s : State) (part n : Nat) (base limit : Word) (hl2 : s.l2 = []) (hpkg : limit.toNat / 2 ^ 38 % 2 ^ 10 = s.pkgid) :
    Does s .homeMoveStart (.homeMoveStart part n base limit) fun t =>
      look 0 n (t.partition part).hmapB = base &&& 0xFFFFFFFFF ∧ look 0 n (t.partition part).hmapL = limit ||| 0x4000000000000000 ∧
      t.lockedLine part (base.toNat % 2 ^ 36 * 2 ^ 21) = true ∧ SentBy s t 80 (.moveLineAck part n 0) := by
  intro hev
  refine ⟨_, State.exec_homeMoveStart hev, ?_⟩
  have hentry : ((s.moveLocked part n base limit).partition part) = _ := State.partition_setPartition (s := s) part _
  have hto : (look 0 n ((s.moveLocked part n base limit).partition part).hmapL).toNat / 2 ^ 38 % 2 ^ 10 = s.pkgid := by
    rw [hentry, look_put_same, ← hpkg]
    exact State.movedTo_locked limit
  obtain ⟨hmoves, hpartitions, -, hsent⟩ := State.copyMoving_here_spec (s := s.moveLocked part n base limit)
    (base := Bits.get base.toNat 35 0 * 2 ^ 21) (index := 0) hl2 hto
  have hpartition := congrArg (look Partition.reset part) hpartitions
  have hpart := hpartition.trans hentry
  refine ⟨?_, ?_, ?_, hsent⟩
  · exact (congrArg (fun p : Partition => look 0 n p.hmapB) hpart).trans (look_put_same _ _ _ _)
  · exact (congrArg (fun p : Partition => look 0 n p.hmapL) hpart).trans (look_put_same _ _ _ _)
  · rw [State.lockedLine, hmoves]
    simp [State.moveLocked, Bits.get_low]

theorem moveLineAcks (s : State) (part n i : Nat) (m : HomeMove) (hmoves : s.moves = [m]) (hpart : m.part = part) (hn : m.n = n) (hi : m.index = i)
    (hl2 : s.l2 = []) (hpeer : s.peerWait = []) (hpkg : (look 0 n (s.partition part).hmapL).toNat / 2 ^ 38 % 2 ^ 10 = s.pkgid) :
    let l := (look 0 n (s.partition part).hmapL).toNat
    let lines := (l % 2 ^ 36 + 1 - m.base / 2 ^ 21) * 8192
    (i + 1 < lines → Does s .moveLineAck (.moveLineAck part n i) fun t => t.moves = [{ m with index := i + 1 }] ∧
      SentBy s t 80 (.moveLineAck part n (i + 1))) ∧
    (lines ≤ i + 1 → (s.context part 0).clsNum = 0 → Does s .moveLineAck (.moveLineAck part n i) fun t => t.moves = [] ∧
      (look 0 n (t.partition part).hmapL).toNat / 2 ^ 62 % 2 = 0 ∧ (look 0 n (t.partition part).hmapL).toNat / 2 ^ 50 % 2 ^ 10 = s.pkgid ∧
      (look 0 n (t.partition part).hmapL).toNat % 2 ^ 36 = l % 2 ^ 36) := by
  intro l lines
  constructor
  · intro hmore hev
    refine ⟨_, State.exec_moveLineAck_more hev hmoves hpart hn hi hmore, ?_⟩
    obtain ⟨hnext, -, hwaits, hsent⟩ := State.copyMoving_here_spec (s := { s with moves := [{ m with index := i + 1 }] }) (base := m.base) (index := i + 1)
      hl2 hpkg
    rw [State.wakeLine_of_none (hwaits.trans hpeer)]
    exact ⟨hnext, hsent⟩
  · intro hlast hclass hev
    refine ⟨_, State.exec_moveLineAck_last hev hmoves hpart hn hi hlast, ?_⟩
    obtain ⟨hmoves', hpartitions⟩ := State.unitMessage_of_no_class (s := s.moveEnded part n) (part := part) (ctx := 0) (m := State.moveMessage n) hclass
    have hpartition := (congrArg (look Partition.reset part) hpartitions).trans (State.partition_setPartition (s := { s with moves := [] }) part _)
    have hentry := (congrArg (fun p : Partition => (look 0 n p.hmapL).toNat) hpartition).trans (congrArg BitVec.toNat (look_put_same _ _ _ _))
    obtain ⟨hlock, hto, hlimit⟩ := State.movedEntry_fields l
    rw [State.wakeLine_of_none (s := s.moveEnded part n) hpeer]
    refine ⟨hmoves', hentry.symm ▸ hlock, ?_, hentry.symm ▸ hlimit⟩
    exact (congrArg (fun x => x / 2 ^ 50 % 2 ^ 10) hentry).trans (hto.trans hpkg)

theorem ownedRequests (s : State) (part line pkg : Nat) : let entry := s.podEntry part line
    let e : Event := .peerOwnedRequest part line pkg
    (s.takesPackets part = false → Does s .peerOwnedRequest e fun t => t = s) ∧
    (s.takesPackets part = true → s.homePackage part (line * 256) = s.pkgid → s.lockedLine part (line * 256) = false → s.lineWaits part line = false →
    (∀ leaf, entry = none → s.l2 = [] → s.lineLeaf part (line * 256) = some leaf → Does s .peerOwnedRequest e fun t =>
      t.podEntry part line = some { part := part, line := line, holders := [pkg], owned := true, acks := 0 } ∧
      (Reaches s pkg → Left t pkg (.grant pkg part line true (memLoad s.hbm (leaf.pa / 256 * 256) 256)
        { rights := leaf.rights, frame := leaf.pa / 256 * 256, size := leaf.size })) ∧
      ∀ c ∈ s.holders part line, Sent t (.invalidationArrival c part line)) ∧
    (∀ x, entry = some x → x.owned = false → Does s .peerOwnedRequest e fun t =>
      ∀ p ∈ x.holders, p ≠ pkg → Reaches s p → Left t p (.recall p part line none)) ∧
    (∀ x, entry = some x → x.owned = true → x.holders ≠ [] → x.holders ≠ [pkg] → Does s .peerOwnedRequest e fun t =>
      (s.now + 4, e) ∈ t.sent ∧ ∀ p ∈ x.holders, Reaches s p → Left t p (.recall p part line none))) := by
  intro entry e
  refine ⟨fun htakes hev => ⟨s, State.exec_peerOwnedRequest_refused hev htakes, rfl⟩, fun htakes hhome hlocked hwaits =>
    ⟨fun leaf hentry hl2 hleaf hev => ?_, fun x hentry howned hev => ?_, fun x hentry howned hsome hother hev => ?_⟩⟩
  · refine ⟨_, State.exec_peerOwnedRequest_granted hev htakes hhome hlocked hwaits hentry hl2 hleaf, ?_, fun hreach => ?_, fun c hc => ?_⟩
    · exact (congrArg (fun t : State => t.podEntry part line) ((State.LineOp.toFabric _).offLines _)).trans (List.find?_cons_of_pos (by simp))
    · refine State.left_toFabric (p := .grant pkg part line true _ _) ?_
      exact (congrArg (fun t : State => t.pathsTo pkg) (State.invalidateHolders_rest s part line fun _ => false)).trans_ne hreach
    · obtain ⟨n, -, hsent⟩ := State.invalidateHolders_sends (keep := fun _ => false) hc rfl
      exact ⟨n, (congrArg State.sent ((State.LineOp.toFabric _).offLines _)).symm ▸ hsent⟩
  · have hentry : s.podEntry part line = some x := hentry
    have hrest : (s.asked part line pkg).podEntry part line = some { x with holders := x.holders.filter (· != pkg) } := by
      obtain ⟨hpart, hline⟩ : x.part = part ∧ x.line = line := by simpa using List.find?_some hentry
      rw [State.podEntry_asked, hentry]
      simp [State.unshared, howned, hpart, hline]
    by_cases hnone : x.holders.filter (· != pkg) = []
    · refine ⟨_, rfl, fun p hp hne => ?_⟩
      have hmem : p ∈ x.holders.filter (· != pkg) := List.mem_filter.2 ⟨hp, bne_iff_ne.2 hne⟩
      rw [hnone] at hmem
      exact absurd hmem List.not_mem_nil
    · have hother : x.holders.filter (· != pkg) ≠ [pkg] := fun hpkg => by
        have hmem : pkg ∈ x.holders.filter (· != pkg) := hpkg ▸ List.mem_cons_self
        simp at hmem
      refine ⟨_, State.exec_peerOwnedRequest_busy hev htakes hhome hlocked hwaits hrest hnone hother, fun p hp hne hreach => ?_⟩
      exact State.left_podRecall hrest (List.mem_filter.2 ⟨hp, bne_iff_ne.2 hne⟩) hreach
  · have hkept : (s.asked part line pkg).podEntry part line = some x := by
      rw [State.podEntry_asked, show s.podEntry part line = some x from hentry]
      simp [State.unshared, howned]
    refine ⟨_, State.exec_peerOwnedRequest_busy hev htakes hhome hlocked hwaits hkept hsome hother, ?_, fun p hp hreach => ?_⟩
    · have hnow := State.now_podRecall (s.asked part line pkg) part line
      exact List.mem_append_right _ (hnow ▸ List.mem_cons_self)
    · exact State.left_podRecall hkept hp hreach

theorem copiesOnWrite (s : State) (w : CowWrite) (hkind : w.kind ≠ .unit) :
    let pte (p : Word) := p.toNat / 2 ^ 52 % 256 = (s.partition w.part).edition.toNat % 256
    (s.cowQueue = [w] → s.pageLeaf w.part w.ctx w.va.toNat = none → Does s .cowCopy (.cowCopy w) fun t =>
      Sent t (.homeAcknowledgement w.who w.kind w.task w.start) ∧ t.cowQueue = []) ∧
    (∀ l p, s.cowQueue = [w] → s.pageLeaf w.part w.ctx w.va.toNat = some (l, p) → w.g.rights.getLsbD 6 = true →
      l.rights.getLsbD 4 = false → w.data ≠ [] → l.size < 2 ^ 30 →
      w.edition = (s.partition w.part).edition → pte p → s.podEntry w.part (w.va.toNat / 256) = none →
      Does s .cowCopy (.cowCopy w) fun t => Sent t (.homeAcknowledgement w.who w.kind w.task w.start) ∧ t.cowQueue = [] ∧
        t.l2 = (s.storeInLine w.part w.ctx w.va.toNat w.data { rights := l.rights, frame := l.pa / 256 * 256, size := l.size }).l2) ∧
    (∀ l p u, s.pageLeaf w.part w.ctx w.va.toNat = some (l, p) → w.g.rights.getLsbD 6 = true → w.edition = (s.partition w.part).edition → ¬ pte p →
      l.size < 2 ^ 30 → (s.editionOf w.part w.edition).isSome = true →
      s.copyPage w.part w.ctx w.va.toNat l p = (u, false) → Does s .cowCopy (.cowCopy w) fun t => (u.now + 1024, .cowPoolRetry w) ∈ t.sent) ∧
    Does s .cowPoolRetry (.cowPoolRetry w) fun t => t = { s with sent := s.sent ++ [(s.now, .cowCopy w)] } := by
  intro pte
  refine ⟨fun hqueue hleaf hev => ?_, fun l p hqueue hleaf hcow hcached hdata hsize hedition hpte hentry hev => ?_,
    fun l p u hleaf hcow hedition hpte hsize hopen hcopy hev => ?_, fun hev => ?_⟩
  · have hexec : exec .cowCopy s = .next (s.performWaiting w.part w.va.toNat (max 4096 w.g.size)) := by simp only [exec_cowCopy, execCowCopy, hev, hleaf]
    rw [State.performWaiting_single hqueue hkind] at hexec
    exact ⟨_, hexec, State.sent_writeNow hkind _ _, State.cowQueue_writeNow _ _⟩
  · have hcase := State.cowCase_of_copied hcow hleaf hsize hedition hpte
    have hexec : exec .cowCopy s = .next (s.performWaiting w.part w.va.toNat l.size) := by simp only [exec_cowCopy, execCowCopy, hev, hleaf, hcase]
    rw [State.performWaiting_single hqueue hkind] at hexec
    refine ⟨_, hexec, State.sent_writeNow hkind _ _, State.cowQueue_writeNow _ _, ?_⟩
    have hbeside : { s with cowQueue := [] } = s.beside { s with cowQueue := [] } := rfl
    have hleaf0 : { s with cowQueue := [] }.pageLeaf w.part w.ctx w.va.toNat = some (l, p) := by rw [hbeside, State.pageLeaf_beside, hleaf]
    have hcase0 := State.cowCase_of_copied (s := { s with cowQueue := [] }) hcow hleaf0 hsize hedition hpte
    rw [(State.writeNow_lines (s := { s with cowQueue := [] }) hentry _ _).1, State.performWrite_of_cow hcow hleaf0 hcached hdata hcase0, hbeside,
      (State.LineOp.storeInLine _ _ _ _ _).beside]
    rfl
  · have hcase := State.cowCase_of_older hcow hleaf hsize hedition hpte hopen
    refine ⟨u.emit 1024 (.cowPoolRetry w), ?_, List.mem_append_right _ List.mem_cons_self⟩
    simp only [exec_cowCopy, execCowCopy, hev, hleaf, hcase, hcopy]
  · refine ⟨s.emit 0 (.cowCopy w), ?_, rfl⟩
    simp only [exec_cowPoolRetry, execCowPoolRetry, hev]

/-- Settles O42: the queue of `hmset`s (`hmsetReceive_first`, `exec_hmsetSliceAdopt_last`), moves of homes line by line (`homeMoveStarts`, `moveLineAcks`),
lines that another package asks for (`ownedRequests`), and writes that wait for their page's copy (`copiesOnWrite`). -/
theorem homeMovesAndCopies : Obligations.HomeMovesAndCopies := by
  intro s
  refine ⟨fun part q v r hqueue hev => ?_, fun part q v r hqueue hev => ?_,
    fun part q v hl2 => ⟨fun a b l hleft hq hev => ?_, fun r x hleft hqueue hev => ?_⟩,
    homeMoveStarts s, moveLineAcks s, ownedRequests s, copiesOnWrite s⟩
  · exact ⟨_, exec_hmsetSliceAdopt_strand hev, hmsetReceive_behind hqueue⟩
  · exact ⟨_, exec_hmsetSliceAdopt_strand hev, hmsetReceive_first hqueue⟩
  · subst hq
    exact ⟨_, exec_hmsetSliceAdopt_slice hev hl2 hleft, rfl⟩
  · refine ⟨_, exec_hmsetSliceAdopt_last hev hl2 hleft hqueue, ?_⟩
    have hpart := State.partition_setPartition (s := s.updPartition part fun p => { p with adoptLeft := [] }) part
      { (s.updPartition part fun p => { p with adoptLeft := [] }).partition part with hmask := x, hmsets := [] }
    refine ⟨congrArg Partition.hmask hpart, congrArg Partition.hmsets hpart, _, ?_, List.mem_append_right _ List.mem_cons_self⟩
    exact Nat.add_le_add_left (Nat.le_add_right _ _) _

end Sys2Proof.Proofs
end

section
/-! SUPPORT. Requests at their homes (R130, R133, R138, R139, R159, R166, R251). -/

namespace Sys2Proof.Machine

open Sys2Proof.Claims

namespace State
variable {s : State}

/-! ## Lines (R9, R139) -/

/-- A line that makes way takes no other with it. -/
theorem l2Find_drop_other {x : L2Line} {part line : Nat} (h : ¬(x.part = part ∧ x.line = line)) :
    ((s.writeBack x).l2Drop x.part x.line).l2Find part line = s.l2Find part line := by
  rw [l2Find, l2_drop_writeBack, List.find?_filter]
  refine congrFun (congrArg List.find? (funext fun m => ?_)) s.l2
  cases hname : m.part == part && m.line == line with
  | false => simp
  | true =>
    have hm : m.part = part ∧ m.line = line := by simpa using hname
    have hother : (m.part == x.part && m.line == x.line) = false := by
      rw [hm.1, hm.2, ← Bool.not_eq_true, Bool.and_eq_true, beq_iff_eq, beq_iff_eq]
      exact fun hsame => h ⟨hsame.1.symm, hsame.2.symm⟩
    simp [hother]

/-- A line that is put is there, whatever makes way for it. -/
theorem l2Find_l2Put (l : L2Line) : (s.l2Put l).l2Find l.part l.line = some l := by
  have hkept (xs : List L2Line) (hxs : ∀ x ∈ xs, ¬(x.part = l.part ∧ x.line = l.line)) (t : State) :
      (xs.foldl (fun s x => (s.writeBack x).l2Drop x.part x.line) t).l2Find l.part l.line = t.l2Find l.part l.line :=
    foldl_keeps_of_mem (fun t : State => t.l2Find l.part l.line) (fun t x hx => l2Find_drop_other (hxs x hx)) t
  have hways : 0 < s.l2Ways l.part := by
    unfold l2Ways
    dsimp only
    split <;> omega
  obtain ⟨k, hk⟩ := Nat.exists_eq_add_of_le' hways
  rw [l2Put, hk]
  refine (hkept _ (fun x hx => ?_) _).trans (List.find?_cons_of_pos (by simp))
  rw [l2Keep, List.filter_cons_of_pos (by simp), List.drop_succ_cons] at hx
  have hname := (List.mem_filter.1 (List.mem_filter.1 (List.mem_of_mem_drop hx)).1).2
  rw [Bool.not_eq_true', ← Bool.not_eq_true, Bool.and_eq_true, beq_iff_eq, beq_iff_eq] at hname
  exact hname

/-- Bytes of a line as a die reads them, none of its writes being on their way (R159). -/
theorem dieBytes_of_none {die : Nat} (h : NoneOnTheWay s die) (part line : Nat) (b : List Byte) : s.dieBytes die part line b = b := by
  obtain ⟨hspine, hcow, hpeer⟩ := h
  rw [dieBytes, hspine, hcow, hpeer]
  rfl

/-! ## What a request reads (R143-R147) -/

/-- All that a read of a line at its home leaves as it is. -/
def offHome (s : State) : State := { s.offLines with dies := [] }

theorem offHome_lineOp {f : State → State} (hf : LineOp f) (s : State) : (f s).offHome = s.offHome :=
  congrArg (fun t : State => { t with dies := [] }) (hf.offLines s)

theorem offHome_translate (die : Nat) (w : WalkFor) : (s.translate die w).1.offHome = s.offHome := by
  have hkeep (t : State) (f : Die → Die) : (t.updDie die f).offHome = t.offHome := rfl
  have hread (c : Prop) [Decidable c] (t : State) (leaf : Leaf) : (if c then t else t.setAccessed leaf).offHome = t.offHome := by
    split
    · rfl
    · exact offHome_lineOp (LineOp.setAccessed leaf) t
  unfold translate
  dsimp only
  split
  · split
    · split
      · rfl
      · exact hread _ _ _
    · split
      · rfl
      · exact hread _ _ _
  · split
    · rfl
    · split
      · rfl
      · exact hread _ _ _

theorem offHome_homeLine (w : WalkFor) : (s.homeLine w).1.offHome = s.offHome := by
  have hwalk := offHome_translate (s := s) (s.homeOf w.part w.va / 256) w
  have hwalked (l : L2Line) (t : State) (h : t.offHome = s.offHome) : (t.l2Put l).offHome = s.offHome := (offHome_lineOp (LineOp.l2Put l) t).trans h
  unfold homeLine
  dsimp only
  split
  · split
    · rfl
    · split
      · next heq => rw [heq] at hwalk; exact hwalk
      · next heq =>
        rw [heq] at hwalk
        split
        · exact hwalk
        · exact hwalked _ _ hwalk
  · split
    · next heq => rw [heq] at hwalk; exact hwalk
    · next heq =>
      rw [heq] at hwalk
      split
      · exact hwalk
      · exact hwalked _ _ hwalk

end State
end Sys2Proof.Machine
end

section
/-! SUPPORT. Writes and atomics at their homes (R159, R162, R166, R251, R252). -/

namespace Sys2Proof

/-! ## The new bits of an atomic (R252) -/

theorem Bits.sext_toNat {w : Nat} (v : BitVec w) : Bits.sext v.toNat w = v.toInt := by
  rw [BitVec.toInt_eq_toNat_cond, Bits.sext, Nat.mod_eq_of_lt v.isLt]
  push_cast
  rfl

namespace Machine

open Sys2Proof.Claims

/-- The greater of two, whichever is asked first. -/
theorem ite_le_comm {α β : Type} [LinearOrder β] {f : α → β} (hf : Function.Injective f) (a b : α) :
    (if f a ≤ f b then b else a) = if f b ≤ f a then a else b := by
  rcases lt_trichotomy (f a) (f b) with h | h | h
  · rw [if_pos h.le, if_neg h.not_ge]
  · rw [hf h, if_pos le_rfl]
  · rw [if_neg h.not_ge, if_pos h.le]

theorem toNat_atomNew (fn : AtomFn) {n : Nat} (hn : n = 4 ∨ n = 8) (old x cmp : Word) :
    (atomNew fn n old x cmp).toNat = (newBits fn (8 * n) (old.setWidth (8 * n)) (x.setWidth (8 * n)) (cmp.setWidth (8 * n))).toNat := by
  have hfits (v : BitVec (8 * n)) : v.toNat % 2 ^ 64 = v.toNat :=
    Nat.mod_eq_of_lt (v.isLt.trans_le (Nat.pow_le_pow_right (by decide) (by omega)))
  have hlow (v : Word) : v.toNat % 2 ^ (8 * n) = (v.setWidth (8 * n)).toNat := (BitVec.toNat_setWidth ..).symm
  rw [← hfits (newBits ..)]
  unfold atomNew
  rw [BitVec.toNat_ofNat]
  refine congrArg (· % 2 ^ 64) ?_
  rw [hlow, hlow, hlow]
  generalize old.setWidth (8 * n) = o
  generalize x.setWidth (8 * n) = v
  generalize cmp.setWidth (8 * n) = e
  cases fn with
  | add => exact (BitVec.toNat_add o v).symm
  | and => exact (BitVec.toNat_and o v).symm
  | or => exact (BitVec.toNat_or o v).symm
  | xor => exact (BitVec.toNat_xor o v).symm
  | min =>
    simp only [newBits, Bits.sext_toNat]
    split <;> rfl
  | max =>
    simp only [newBits, Bits.sext_toNat]
    rw [← ite_le_comm (fun _ _ => BitVec.eq_of_toInt_eq)]
    split <;> rfl
  | minu =>
    simp only [newBits]
    split <;> rfl
  | maxu =>
    simp only [newBits]
    rw [← ite_le_comm (fun _ _ => BitVec.eq_of_toNat_eq)]
    split <;> rfl
  | swap => rfl
  | cas =>
    simp only [newBits, BitVec.toNat_inj]
    split <;> rfl
  | fadd =>
    have hwide (y : W32) : (y.setWidth (8 * n)).toNat = y.toNat := by
      rw [BitVec.toNat_setWidth]
      exact Nat.mod_eq_of_lt (y.isLt.trans_le (Nat.pow_le_pow_right (by decide) (by omega)))
    have hnarrow (y : BitVec (8 * n)) : BitVec.ofNat 32 y.toNat = y.setWidth 32 :=
      BitVec.eq_of_toNat_eq (by rw [BitVec.toNat_ofNat, BitVec.toNat_setWidth])
    simp only [newBits, hwide, hnarrow]

/-- The bits that an atomic finds, of the bytes at its address. -/
theorem setWidth_ofNat_bytes {n : Nat} (hn : n = 4 ∨ n = 8) (b : List Byte) :
    (BitVec.ofNat 64 (Bytes.toNat b)).setWidth (8 * n) = BitVec.ofNat (8 * n) (Bytes.toNat b) := by
  refine BitVec.eq_of_toNat_eq ?_
  rw [BitVec.toNat_setWidth, BitVec.toNat_ofNat, BitVec.toNat_ofNat, Nat.mod_mod_of_dvd _ (Nat.pow_dvd_pow 2 (by omega))]

theorem atomOld_eq {n : Nat} (hn : n = 4 ∨ n = 8) (b : List Byte) : atomOld n b = (BitVec.ofNat (8 * n) (Bytes.toNat b)).signExtend 64 := by
  rw [atomOld, sextBytes_eq, setWidth_ofNat_bytes hn]

/-- The bytes that an atomic writes (R252). -/
theorem bytes_atomNew (fn : AtomFn) {n : Nat} (hn : n = 4 ∨ n = 8) (b : List Byte) (x cmp : Word) :
    Bytes.ofNat n (atomNew fn n (BitVec.ofNat 64 (Bytes.toNat b)) x cmp).toNat =
      Bytes.ofNat n (newBits fn (8 * n) (BitVec.ofNat (8 * n) (Bytes.toNat b)) (x.setWidth (8 * n)) (cmp.setWidth (8 * n))).toNat := by
  rw [toNat_atomNew fn hn, setWidth_ofNat_bytes hn]

namespace State

/-! ## What a write to a line tells the strands of its die (R156, R157, R289) -/

/-- A step after which lines, memory and the cycle are as before, and what had been sent is still on its way. -/
structure Grows (s t : State) : Prop where
  l2 : t.l2 = s.l2
  hbm : t.hbm = s.hbm
  now : t.now = s.now
  sent : ∀ e ∈ s.sent, e ∈ t.sent

namespace Grows
variable {s t u : State}

theorem refl (s : State) : Grows s s := ⟨rfl, rfl, rfl, fun _ he => he⟩

theorem trans (h : Grows s t) (k : Grows t u) : Grows s u :=
  ⟨k.l2.trans h.l2, k.hbm.trans h.hbm, k.now.trans h.now, fun e he => k.sent e (h.sent e he)⟩

theorem foldl {α : Type} {f : State → α → State} (h : ∀ s a, Grows s (f s a)) (l : List α) (s : State) : Grows s (l.foldl f s) := by
  induction l generalizing s with
  | nil => exact refl s
  | cons a l ih => exact (h s a).trans (ih _)

theorem emit (s : State) (d : Nat) (e : Event) : Grows s (s.emit d e) := ⟨rfl, rfl, rfl, fun _ he => List.mem_append_left _ he⟩

theorem emitNet (s : State) (d : Nat) (e : Event) : Grows s (s.emitNet d e) := ⟨rfl, rfl, rfl, fun _ he => List.mem_append_left _ he⟩

theorem updStrand (s : State) (r : Ref) (f : Strand → Strand) : Grows s (s.updStrand r f) := by
  unfold State.updStrand
  split <;> exact ⟨rfl, rfl, rfl, fun _ he => he⟩

theorem updTask (s : State) (n : Nat) (f : Task → Task) : Grows s (s.updTask n f) := by
  unfold State.updTask
  split <;> exact ⟨rfl, rfl, rfl, fun _ he => he⟩

theorem updCore (s : State) (n : Nat) (f : Core → Core) : Grows s (s.updCore n f) := ⟨rfl, rfl, rfl, fun _ he => he⟩

theorem patchDie (s : State) (die part va : Nat) (data : List Byte) : Grows s (s.patchDie die part va data) := ⟨rfl, rfl, rfl, fun _ he => he⟩

theorem offerQuire (s : State) (core : Nat) : Grows s (s.offerQuire core) := foldl (fun s _ => emit s 0 _) _ s

theorem offerRows (s : State) (core : Nat) : Grows s (s.offerRows core) := by
  unfold State.offerRows
  split
  · split
    · exact emit _ _ _
    · exact refl _
  · exact refl _

theorem unreserve (s : State) (core slot : Nat) : Grows s (s.unreserve core slot) :=
  ((updCore s core fun c => { c with reserved := c.reserved.erase slot }).trans (offerRows _ core)).trans (offerQuire _ core)

theorem freeCensus (s : State) (part slot : Nat) : Grows s (s.freeCensus part slot) := by
  unfold State.freeCensus
  dsimp only
  split
  · exact ⟨rfl, rfl, rfl, fun _ he => he⟩
  · exact ⟨rfl, rfl, rfl, fun _ he => List.mem_append_left _ he⟩

theorem releaseHeld (s : State) (core : Nat) (h : Held) : Grows s (s.releaseHeld core h) := by
  cases h with
  | posted p =>
    unfold State.releaseHeld
    dsimp only
    split
    · exact updCore s core _
    · exact refl s
  | spawn tag target slot l =>
    cases slot with
    | some slot => exact unreserve s target slot
    | none => exact refl s
  | pop d => exact ((updCore s core _).trans (updTask _ d.task _)).trans (offerQuire _ core)
  | solicit tag part slot q => exact freeCensus s part slot
  | _ => exact ⟨rfl, rfl, rfl, fun _ he => he⟩

theorem squashFrom (s : State) (r : Ref) (j : Nat) : Grows s (s.squashFrom r j) := by
  unfold State.squashFrom
  dsimp only
  split
  · exact refl s
  · have hreleased (l : List Held) (u : State) : Grows u (l.foldl (fun s h => s.releaseHeld r.core h) u) := foldl (fun s h => releaseHeld s r.core h) l u
    have hbegun (t : Strand) (g : Core → Core) (d : Die → Die) : Grows s ((((s.setStrand r t).updCore r.core g).fresh).updDie (dieOf r.core) d) :=
      ⟨rfl, rfl, rfl, fun _ he => he⟩
    split
    · exact (hbegun _ _ _).trans (hreleased _ _)
    · exact (((hbegun _ _ _).trans (hreleased _ _)).trans (updStrand _ r _)).trans (emit _ _ _)

theorem squashWhere (s : State) (sig : NatSet) (atGrant : Bool) (f : Ref → Bool) : Grows s (s.squashWhere sig atGrant f) := by
  refine foldl (fun s r => ?_) _ s
  dsimp only
  split
  · exact (updStrand s r _).trans (squashFrom _ r _)
  · exact updStrand s r _

theorem latchMonitor (s : State) (r : Ref) (code : Nat) : Grows s (s.latchMonitor r code) := by
  unfold State.latchMonitor
  dsimp only
  split
  · exact refl s
  · split
    · exact (updStrand s r _).trans (emit _ _ _)
    · exact updStrand s r _

theorem broadcast (s : State) (die : Nat) (by_ : Ref) (sig : NatSet) : Grows s (s.broadcast die by_ sig) :=
  (squashWhere s sig false _).trans (foldl (fun s r => latchMonitor s r 0) _ _)

end Grows
end State
end Machine
end Sys2Proof
end

section
/-! SUPPORT. How a home serves requests (R130, R133, R138, R139, R152, R166, R173, R423). -/

namespace Sys2Proof.Machine

open Sys2Proof.Claims

namespace State
variable {s : State} {r : HomeReq} {w : CowWrite}

/-! ## Writes that are performed at once (R166) -/

/-- Its acknowledgement follows the invalidations to the other holders. -/
theorem writeNow_acknowledged (hentry : s.podEntry w.part (w.va.toNat / 256) = none) (hkind : w.kind ≠ .unit) (back : Nat) (keep : Nat → Bool) :
    ∃ a, s.now + back ≤ a ∧ (a, .homeAcknowledgement w.who w.kind w.task w.start) ∈ (s.writeNow w back keep).sent ∧
      ∀ c ∈ s.holders w.part (w.va.toNat / 256), keep c = false →
        ∃ n ≤ a, (n, .invalidationArrival c w.part (w.va.toNat / 256)) ∈ (s.writeNow w back keep).sent := by
  have hunit : (w.kind == .unit) = false := beq_eq_false_iff_ne.2 hkind
  have hnow : ((s.performWrite w).invalidateHolders w.part (w.va.toNat / 256) keep).1.now = s.now :=
    (congrArg State.now (invalidateHolders_rest _ _ _ keep) :).trans (congrArg State.now (offLines_performWrite s w) :)
  have hholders : (s.performWrite w).holders w.part (w.va.toNat / 256) = s.holders w.part (w.va.toNat / 256) :=
    (congrArg (fun t : State => t.holders w.part (w.va.toNat / 256)) (offLines_performWrite s w) :)
  obtain ⟨a, hback, hlate, hsent⟩ := homeAcks_sent ((s.performWrite w).invalidateHolders w.part (w.va.toNat / 256) keep) back w
  have hwrite : s.writeNow w back keep = homeAcks ((s.performWrite w).invalidateHolders w.part (w.va.toNat / 256) keep) back w := by
    rw [writeNow_eq hentry, hunit]
    rfl
  rw [hwrite, hsent]
  refine ⟨a, hnow ▸ hback, List.mem_append_right _ List.mem_cons_self, fun c hc hkeep => ?_⟩
  obtain ⟨n, hn, hmem⟩ := invalidateHolders_sends (hholders.symm ▸ hc) hkeep
  exact ⟨n, hn.trans hlate, List.mem_append_left _ hmem⟩

theorem writeNow_keeps (hentry : s.podEntry w.part (w.va.toNat / 256) = none) (back : Nat) (keep : Nat → Bool) :
    (s.writeNow w back keep).dies = s.dies ∧ (s.writeNow w back keep).now = s.now := by
  have hwrite := offLines_performWrite s w
  have hinval := invalidateHolders_rest (s.performWrite w) w.part (w.va.toNat / 256) keep
  have hdies := (congrArg State.dies hinval :).trans (congrArg State.dies hwrite :)
  have hnow := (congrArg State.now hinval :).trans (congrArg State.now hwrite :)
  rw [writeNow_eq hentry]
  dsimp only
  split <;> exact ⟨hdies, hnow⟩

/-- A write in a cached page that has no copy on write goes to its line (R131). -/
theorem performWrite_of_line (hcow : cowLeaf w.g.rights = false) (hcached : strong w.g.rights = false) (hdata : w.data ≠ []) :
    s.performWrite w = s.storeInLine w.part w.ctx w.va.toNat w.data w.g := by
  have hcase : s.cowCase w.part w.ctx w.va.toNat w.edition w.g.rights = .perform := by simp [cowCase, hcow]
  simp only [performWrite, hcow, hcached, Bool.or_false, Bool.false_eq_true, if_false, hcase, List.isEmpty_eq_false_iff.2 hdata]

theorem cowDefer_of_line (hcow : cowLeaf w.g.rights = false) : s.cowDefer w = none := by simp [cowDefer, hcow]

/-- The write of a request at a line that is homed here. -/
theorem requestWrite_here (hhome : s.homePackage r.part r.va.toNat = s.pkgid) (kind : AckKind) (data : List Byte) (g : Grant) :
    s.requestWrite r kind data g = { kind := kind, who := r.who, task := r.task, start := r.start, part := r.part, ctx := r.ctx, va := r.va, data := data,
                                     edition := r.edition, g := g } := by
  rw [requestWrite, if_pos hhome]

/-! ## The way of a request (R133, R138, R139, R152) -/

theorem serve_of_waits (h : WaitsThere s r) : s.serve r = s.waitAtHome r := if_pos (Bool.or_eq_true_iff.2 h)

/-- A request that nothing holds up at its home. -/
theorem serve_of_free (h : ¬ WaitsThere s r) : s.serve r =
    if s.homePackage r.part r.va.toNat ≠ s.pkgid then (if r.pkg.isSome then s.toFabric (.request (s.homePackage r.part r.va.toNat) r) else s.servePeer r)
    else
      match s.podEntry r.part (r.va.toNat / 256) with
      | some e => if e.owned && !(r.pkg.any fun p => e.holders.contains p) then (s.podRecall r.part (r.va.toNat / 256) none).waitAtHome r else s.serveHere r
      | none => s.serveHere r := by
  exact if_neg (mt Bool.or_eq_true_iff.1 h)

theorem serve_of_away (h : ¬ WaitsThere s r) (hpkg : r.pkg = none) (haway : s.homePackage r.part r.va.toNat ≠ s.pkgid) : s.serve r = s.servePeer r := by
  rw [serve_of_free h, if_pos haway, hpkg]
  rfl

theorem serve_of_here (h : ServedHere s r) : s.serve r = s.serveHere r := by
  obtain ⟨hfree, -, hhome, hentry⟩ := h
  rw [serve_of_free hfree, if_neg (not_not.2 hhome), hentry]

/-- A request of a strand for a line, a check, a write or an atomic is served, a store's having left its queue (R159). -/
theorem exec_homeRequest_serve (hev : s.ev = .homeRequest r) (hacc : Accepts s r) (hop : (∃ acc, r.op = .need acc) ∨ r.op = .check ∨
    (∃ n data g, r.op = .nontemporal n data g) ∨ ∃ fn n lane x cmp g, r.op = .atomic fn n lane x cmp g) : exec .homeRequest s = .next (s.serve r) := by
  have htakes : (r.pkg.isSome && !s.takesPackets r.part) = false := by
    obtain hown | htakes := hacc
    · rw [hown]; rfl
    · rw [htakes, Bool.not_true, Bool.and_false]
  obtain ⟨acc, hop⟩ | hop | ⟨n, data, g, hop⟩ | ⟨fn, n, lane, x, cmp, g, hop⟩ := hop <;>
    simp only [exec_homeRequest, execHomeRequest, hev, foreignRequest, hop, Bool.or_false, htakes, Bool.false_eq_true, if_false]

theorem exec_homeRequest_store {data : List Byte} {g : Grant} (hev : s.ev = .homeRequest r) (hacc : Accepts s r) (hop : r.op = .store data g) :
    exec .homeRequest s = .next ((if r.pkg.isNone then s.leaveSpine r data else s).serve r) := by
  have htakes : (r.pkg.isSome && !s.takesPackets r.part) = false := by
    obtain hown | htakes := hacc
    · rw [hown]; rfl
    · rw [htakes, Bool.not_true, Bool.and_false]
  simp only [exec_homeRequest, execHomeRequest, hev, foreignRequest, hop, Bool.or_false, htakes, Bool.false_eq_true, if_false]

/-- The answer of another package takes the place of a line (R138). -/
theorem exec_homeRequest_peer {owned : Bool} {data : List Byte} {g : Grant} (hev : s.ev = .homeRequest r) (htakes : s.takesPackets r.part = true)
    (hop : r.op = .peer owned data g) (hdata : data ≠ []) (hwait : s.peerWait = []) : exec .homeRequest s =
    .next (s.l2Put { part := r.part, line := r.va.toNat / 256, data := memStore [] 0 data, valid := List.range 8, dirty := [], g := g, entryPa := none,
                     peer := some owned }) := by
  have hnone (l : L2Line) : (s.l2Put l).peerWait = [] := ((congrArg State.peerWait ((LineOp.l2Put l).offLines s) :)).trans hwait
  simp only [exec_homeRequest, execHomeRequest, hev, foreignRequest, hop, htakes, peerGranted, List.isEmpty_eq_false_iff.2 hdata, Bool.not_true, Bool.and_false,
    Bool.false_eq_true, if_false, wakeLine_of_none (hnone _)]

/-! ## Answers (R14, R130, R418) -/

/-- An answer leaves 24 cycles after the request at the earliest, and those that the walk takes beside. -/
theorem sentBy_emitNet_of_now {u : State} (hnow : u.now = s.now) (d : Nat) (e : Event) : SentBy s (u.emitNet d e) d e := by
  obtain ⟨n, hlate, hsent⟩ := sentBy_emitNet u d e
  exact ⟨n, hnow ▸ hlate, hsent⟩

theorem now_homeLine (x : WalkFor) : (s.homeLine x).1.now = s.now := (congrArg State.now (offHome_homeLine x) :)

end State
end Sys2Proof.Machine
end

section
/-! SUPPORT. Each request at the slice that serves it (R130, R138, R251, R422). -/

namespace Sys2Proof.Machine

open Sys2Proof.Claims

namespace State
variable {s u : State} {r : HomeReq} {n : Nat} {f : FaultInfo} {b : List Byte} {g : Grant}

/-! ## Lines and checks -/

/-- What a request needs of its line. -/
def wantedBy (r : HomeReq) (acc : Access) : WalkFor := { part := r.part, ctx := r.ctx, va := r.va.toNat, acc := acc, priv := r.priv }

/-- An answer for a strand of this package. -/
theorem homeAnswer_own (hpkg : r.pkg = none) (cost : Nat) (x : FillResult) :
    u.homeAnswer r cost x = u.emitNet (24 + cost) (.cacheFillReturn r.who r.part r.start x) := by
  simp only [homeAnswer, hpkg]

theorem elementAnswer_own (hpkg : r.pkg = none) (lane cost : Nat) (x : RemoteAnswer) :
    u.elementAnswer r lane cost x = u.emitNet (24 + cost) (.remoteResult r.who lane r.va x) := by
  simp only [elementAnswer, hpkg]

/-- What is read of a line leaves 24 cycles after the request at the earliest, and those that its walk takes beside. -/
theorem sentBy_after_homeLine {w : WalkFor} {x : Except FaultInfo (List Byte × Grant)} (h : s.homeLine w = (u, n, x)) (d : Nat) (e : Event) :
    SentBy s (u.emitNet d e) d e := by
  have hnow := now_homeLine (s := s) w
  rw [h] at hnow
  exact sentBy_emitNet_of_now hnow d e

section
variable {acc : Access} (hop : r.op = .need acc)
include hop

theorem serveHere_need_fault (h : s.homeLine (wantedBy r acc) = (u, n, .error f)) : s.serveHere r = u.homeAnswer r n (.fault acc f) := by
  rw [wantedBy] at h
  simp only [serveHere, hop, h]

theorem serveHere_need (h : s.homeLine (wantedBy r acc) = (u, n, .ok (b, g))) (hnone : b = [] ∨ NoneOnTheWay u r.die) :
    s.serveHere r = u.homeAnswer r n (.data r.va b g) := by
  rw [wantedBy] at h
  simp only [serveHere, hop, h]
  obtain rfl | hnone := hnone
  · rfl
  · rw [dieBytes_of_none hnone]
    cases b <;> rfl

end

section
variable (hop : r.op = .check)
include hop

theorem serveHere_check_fault (h : s.homeLine (wantedBy r .store) = (u, n, .error f)) : s.serveHere r = u.homeAnswer r n (.fault .store f) := by
  rw [wantedBy] at h
  simp only [serveHere, hop, h]

theorem serveHere_check (hpkg : r.pkg = none) (h : s.homeLine (wantedBy r .store) = (u, n, .ok (b, g))) :
    s.serveHere r = u.homeAnswer r n (.checked r.va g) := by
  rw [wantedBy] at h
  simp only [serveHere, hop, h, hpkg, Option.isSome_none, Bool.false_eq_true, if_false]

end

/-! ## Lines of other packages (R138) -/

/-- A line that is not held is asked for at its home's package, which the request waits for. -/
theorem servePeer_ask {acc : Access} (hfind : s.l2Find r.part (r.va.toNat / 256) = none) (hop : r.op = .need acc ∨ r.op = .check) :
    s.servePeer r = (s.waitAtHome r).toFabric (.request (s.homePackage r.part r.va.toNat) r) := by
  obtain hop | hop := hop <;> simp only [servePeer, hop, hfind]

theorem servePeer_held {acc : Access} {l : L2Line} (hop : r.op = .need acc) (hfind : s.l2Find r.part (r.va.toNat / 256) = some l)
    (hrights : rightsOk acc r.priv l.g.rights = true) (hnone : NoneOnTheWay s r.die) :
    s.servePeer r = s.homeAnswer r 0 (.data r.va (memLoad l.data 0 256) l.g) := by
  simp only [servePeer, hop, hfind, hrights, if_true, dieBytes_of_none hnone]

/-- A non-temporal store needs its line OWNED. -/
theorem servePeer_own {data : List Byte} (hop : r.op = .nontemporal n data g)
    (hshared : ∀ l, s.l2Find r.part (r.va.toNat / 256) = some l → l.peer ≠ some true) :
    s.servePeer r = (s.waitAtHome r).toFabric (.own (s.homePackage r.part r.va.toNat) r.part (r.va.toNat / 256) s.pkgid) := by
  have howned : ((s.l2Find r.part (r.va.toNat / 256)).any fun l => l.peer == some true) = false := by
    rw [← Bool.not_eq_true, Option.any_eq_true]
    rintro ⟨l, hl, hpeer⟩
    exact hshared l hl (beq_iff_eq.1 hpeer)
  cases hfind : s.l2Find r.part (r.va.toNat / 256) <;> rw [hfind] at howned <;>
    simp only [servePeer, hop, hfind, howned, Bool.false_eq_true, if_false]

/-! ## Writes -/

section
variable {data : List Byte} (hcow : g.rights.getLsbD 6 = false) (hcached : g.rights.getLsbD 4 = false) (hdata : data ≠ [])
  (hhome : s.homePackage r.part r.va.toNat = s.pkgid) (hentry : s.podEntry r.part (r.va.toNat / 256) = none)
include hcow hhome

/-- A committed store, or a non-temporal one, is performed at its home at once. -/
theorem serveWrite_here (kind : AckKind) : s.serveWrite r kind data g =
    s.writeNow (s.requestWrite r kind data g) (travel (s.homeOf r.part r.va.toNat) (quireOf r.who.core)) fun c => kind == .write && dieOf c == r.die := by
  have hdefer : s.cowDefer (s.requestWrite r kind data g) = none := by
    rw [requestWrite_here hhome]
    exact cowDefer_of_line hcow
  rw [serveWrite, writeAtHome, hdefer]

include hcached hdata hentry

theorem writeNow_requestWrite_lines (kind : AckKind) (back : Nat) (keep : Nat → Bool) : let t := s.writeNow (s.requestWrite r kind data g) back keep
    t.l2 = (s.storeInLine r.part r.ctx r.va.toNat data g).l2 ∧ t.hbm = (s.storeInLine r.part r.ctx r.va.toNat data g).hbm := by
  rw [requestWrite_here hhome]
  have hwrite := performWrite_of_line (s := s) (w := { kind := kind, who := r.who, task := r.task, start := r.start, part := r.part, ctx := r.ctx,
                                                       va := r.va, data := data, edition := r.edition, g := g }) hcow hcached hdata
  rw [← hwrite]
  exact writeNow_lines hentry back keep

omit hcow hcached hdata in
theorem writeNow_requestWrite_acknowledged {kind : AckKind} (hkind : kind ≠ .unit) (keep : Nat → Bool) :
    Acknowledged s (s.writeNow (s.requestWrite r kind data g) (travel (s.homeOf r.part r.va.toNat) (quireOf r.who.core)) keep) r kind keep := by
  rw [requestWrite_here hhome]
  exact writeNow_acknowledged hentry hkind _ keep

end

/-! ## Atomics (R251, R252) -/

/-- A strand, and its task, with one write more that is to be acknowledged. -/
def countWrite (s : State) (r : HomeReq) : State :=
  (s.updStrand r.who fun t => { t with unackedWrites := t.unackedWrites + 1 }).updTask r.task fun k => { k with unacked := k.unacked + 1 }

theorem countWrite_eq (s : State) (r : HomeReq) : s.countWrite r = s.beside (s.countWrite r) ∧
    { s.countWrite r with cores := [], tasks := [] } = { s with cores := [], tasks := [] } := by
  unfold countWrite updTask updStrand
  split <;> split <;> exact ⟨rfl, rfl⟩

/-- A write whose acknowledgement is counted first reaches its line as it would have otherwise. -/
theorem writeNow_countWrite {data : List Byte} (hcow : g.rights.getLsbD 6 = false) (hcached : g.rights.getLsbD 4 = false) (hdata : data ≠ [])
    (hhome : u.homePackage r.part r.va.toNat = u.pkgid) (hentry : u.podEntry r.part (r.va.toNat / 256) = none) (q : HomeReq) (back : Nat) (keep : Nat → Bool) :
    let t := (u.countWrite q).writeNow ((u.countWrite q).requestWrite r .write data g) back keep
    t.l2 = (u.storeInLine r.part r.ctx r.va.toNat data g).l2 ∧ t.hbm = (u.storeInLine r.part r.ctx r.va.toNat data g).hbm ∧ t.now = u.now ∧
      Sent t (.homeAcknowledgement r.who .write r.task r.start) := by
  obtain ⟨hbeside, hrest⟩ := countWrite_eq u q
  have hhome' : (u.countWrite q).homePackage r.part r.va.toNat = (u.countWrite q).pkgid :=
    (congrArg (fun t : State => t.homePackage r.part r.va.toNat) hrest :).trans (hhome.trans (congrArg State.pkgid hrest :).symm)
  have hentry' : (u.countWrite q).podEntry r.part (r.va.toNat / 256) = none :=
    (congrArg (fun t : State => t.podEntry r.part (r.va.toNat / 256)) hrest :).trans hentry
  have hstore : (u.countWrite q).storeInLine r.part r.ctx r.va.toNat data g = (u.storeInLine r.part r.ctx r.va.toNat data g).beside (u.countWrite q) :=
    (congrArg (fun t : State => t.storeInLine r.part r.ctx r.va.toNat data g) hbeside).trans ((LineOp.storeInLine _ _ _ _ _).beside u _)
  obtain ⟨hl2, hhbm⟩ := writeNow_requestWrite_lines hcow hcached hdata hhome' hentry' .write back keep
  rw [hstore] at hl2 hhbm
  have hnow := (writeNow_keeps (w := (u.countWrite q).requestWrite r .write data g) hentry' back keep).2
  exact ⟨hl2, hhbm, hnow.trans (congrArg State.now hrest :), sent_writeNow (by simp [requestWrite]) back keep⟩

/-- The new bytes of an atomic. -/
def atomBytes (fn : AtomFn) (n va : Nat) (b : List Byte) (x cmp : Word) : List Byte :=
  Bytes.ofNat n (atomNew fn n (BitVec.ofNat 64 (Bytes.toNat ((b.drop (va % 256)).take n))) x cmp).toNat

theorem serveAtomic_fault {fn : AtomFn} {k lane : Nat} {x cmp : Word} (hpkg : r.pkg = none) (h : s.homeLine (wantedBy r .atomic) = (u, k, .error f)) :
    s.serveAtomic r fn n lane x cmp = u.emitNet (24 + k) (.remoteResult r.who lane r.va (.fault f)) := by
  have hstamp : s.restamp r = { r with edition := (s.core r.who.core).edition } := by rw [restamp, hpkg]; rfl
  rw [wantedBy] at h
  simp only [serveAtomic, hstamp, h]
  exact elementAnswer_own (r := { r with edition := (s.core r.who.core).edition }) hpkg lane k _

/-- An atomic at a cached line that waits for no copy of its page: its write, what its die is told, and its answer. -/
theorem serveAtomic_line {fn : AtomFn} {k lane : Nat} {x cmp : Word} (hpkg : r.pkg = none) (h : s.homeLine (wantedBy r .atomic) = (u, k, .ok (b, g)))
    (hb : b ≠ []) (hcow : g.rights.getLsbD 6 = false) (hhome : u.homePackage r.part r.va.toNat = u.pkgid) :
    let r1 := { r with edition := (s.core r.who.core).edition }
    let new := atomBytes fn n r.va.toNat b x cmp
    let w := (u.countWrite r).writeNow ((u.countWrite r).requestWrite r1 .write new g)
      (travel (s.homeOf r.part r.va.toNat) (quireOf r.who.core)) fun c => dieOf c == r.die
    s.serveAtomic r fn n lane x cmp = ((w.patchDie r.die r.part r.va.toNat new).broadcast r.die r.who (sigOf r.part (sectorsOf r.va.toNat n))).emitNet (24 + k)
      (.remoteResult r.who lane r.va (.value (atomOld n ((b.drop (r.va.toNat % 256)).take n)))) := by
  have hstamp : s.restamp r = { r with edition := (s.core r.who.core).edition } := by rw [restamp, hpkg]; rfl
  have hdefer : u.cowDefer (u.requestWrite r .unit [] g) = none := by
    rw [requestWrite_here hhome]
    exact cowDefer_of_line hcow
  have hstall : u.cowStall r g = none := by rw [cowStall, hdefer]
  rw [wantedBy] at h
  simp only [serveAtomic, hstamp, h, List.isEmpty_eq_false_iff.2 hb, Bool.false_eq_true, if_false, hstall, hpkg, Option.isNone_none, if_true, Bool.true_and,
    elementAnswer]
  rfl

end State
end Sys2Proof.Machine
end

section
/-! PROOF. Requests at their homes. -/

namespace Sys2Proof.Proofs

open Sys2Proof.Machine Sys2Proof.Claims

section
variable (s : State) (r : HomeReq)

theorem waitingRequests (hwaits : WaitsThere s r) (hacc : Accepts s r) :
    (∀ acc, r.op = .need acc ∨ r.op = .check → Does s .homeRequest (.homeRequest r) fun t => t = { s with peerWait := s.peerWait ++ [r] }) ∧
    (∀ n data g, r.op = .nontemporal n data g → Does s .homeRequest (.homeRequest r) fun t => t = { s with peerWait := s.peerWait ++ [r] }) ∧
    (∀ data g, r.op = .store data g → Does s .homeRequest (.homeRequest r) fun t => t.peerWait = s.peerWait ++ [r] ∧ t.l2 = s.l2 ∧ t.hbm = s.hbm) := by
  refine ⟨fun acc hop hev => ?_, fun n data g hop hev => ?_, fun data g hop hev => ?_⟩
  · refine ⟨_, State.exec_homeRequest_serve hev hacc ?_, State.serve_of_waits hwaits⟩
    exact hop.elim (fun h => .inl ⟨acc, h⟩) fun h => .inr (.inl h)
  · exact ⟨_, State.exec_homeRequest_serve hev hacc (.inr (.inr (.inl ⟨n, data, g, hop⟩))), State.serve_of_waits hwaits⟩
  · refine ⟨_, State.exec_homeRequest_store hev hacc hop, ?_⟩
    split
    · rw [State.serve_of_waits (s := s.leaveSpine r data) hwaits]
      exact ⟨rfl, rfl, rfl⟩
    · rw [State.serve_of_waits hwaits]
      exact ⟨rfl, rfl, rfl⟩

theorem awayRequests (hfree : ¬ WaitsThere s r) (hpkg : r.pkg = none) (haway : s.homePackage r.part r.va.toNat ≠ s.pkgid) :
    let pkg := s.homePackage r.part r.va.toNat
    let line := r.va.toNat / 256
    let asked (p : FabricPacket) : State := { s with peerWait := s.peerWait ++ [r] }.toFabric p
    (∀ acc, r.op = .need acc ∨ r.op = .check → s.l2Find r.part line = none → Does s .homeRequest (.homeRequest r) fun t => t = asked (.request pkg r)) ∧
    (∀ acc l, r.op = .need acc → s.l2Find r.part line = some l → rightsOk acc r.priv l.g.rights = true → NoneOnTheWay s r.die →
      Does s .homeRequest (.homeRequest r) fun t => SentBy s t 24 (.cacheFillReturn r.who r.part r.start (.data r.va (memLoad l.data 0 256) l.g))) ∧
    (∀ n data g, r.op = .nontemporal n data g → (∀ l, s.l2Find r.part line = some l → l.peer ≠ some true) →
      Does s .homeRequest (.homeRequest r) fun t => t = asked (.own pkg r.part line s.pkgid)) := by
  have hserve := State.serve_of_away hfree hpkg haway
  refine ⟨fun acc hop hfind hev => ?_, fun acc l hop hfind hrights hnone hev => ?_, fun n data g hop hshared hev => ?_⟩
  · refine ⟨_, State.exec_homeRequest_serve hev (.inl hpkg) ?_, hserve.trans (State.servePeer_ask hfind hop)⟩
    exact hop.elim (fun h => .inl ⟨acc, h⟩) fun h => .inr (.inl h)
  · refine ⟨_, State.exec_homeRequest_serve hev (.inl hpkg) (.inl ⟨acc, hop⟩), ?_⟩
    rw [hserve, State.servePeer_held hop hfind hrights hnone, State.homeAnswer_own hpkg]
    exact State.sentBy_emitNet ..
  · exact ⟨_, State.exec_homeRequest_serve hev (.inl hpkg) (.inr (.inr (.inl ⟨n, data, g, hop⟩))), hserve.trans (State.servePeer_own hop hshared)⟩

theorem peerAnswers (owned : Bool) (data : List Byte) (g : Grant) (hop : r.op = .peer owned data g) (hdata : data ≠ []) (hwait : s.peerWait = [])
    (htakes : s.takesPackets r.part = true) : Does s .homeRequest (.homeRequest r) fun t =>
      ∃ l, t.l2Find r.part (r.va.toNat / 256) = some l ∧ l.peer = some owned ∧ l.data = memStore [] 0 data ∧ l.dirty = [] ∧ l.g = g :=
  fun hev => ⟨_, State.exec_homeRequest_peer hev htakes hop hdata hwait, _, State.l2Find_l2Put _, rfl, rfl, rfl, rfl⟩

variable {s r} (hhere : ServedHere s r)
include hhere

theorem linesServed (acc : Access) (u : State) (n : Nat) (hop : r.op = .need acc) :
    (∀ f, s.homeLine (State.wantedBy r acc) = (u, n, .error f) → Does s .homeRequest (.homeRequest r) fun t =>
      SentBy s t (24 + n) (.cacheFillReturn r.who r.part r.start (.fault acc f))) ∧
    (∀ b g, s.homeLine (State.wantedBy r acc) = (u, n, .ok (b, g)) → b = [] ∨ NoneOnTheWay u r.die → Does s .homeRequest (.homeRequest r) fun t =>
      SentBy s t (24 + n) (.cacheFillReturn r.who r.part r.start (.data r.va b g))) := by
  obtain ⟨-, hpkg, -, -⟩ := id hhere
  have hserve := State.serve_of_here hhere
  refine ⟨fun f hfind hev => ?_, fun b g hfind hnone hev => ?_⟩
  · refine ⟨_, State.exec_homeRequest_serve hev (.inl hpkg) (.inl ⟨acc, hop⟩), ?_⟩
    rw [hserve, State.serveHere_need_fault hop hfind, State.homeAnswer_own hpkg]
    exact State.sentBy_after_homeLine hfind _ _
  · refine ⟨_, State.exec_homeRequest_serve hev (.inl hpkg) (.inl ⟨acc, hop⟩), ?_⟩
    rw [hserve, State.serveHere_need hop hfind hnone, State.homeAnswer_own hpkg]
    exact State.sentBy_after_homeLine hfind _ _

theorem checksServed (u : State) (n : Nat) (hop : r.op = .check) :
    (∀ f, s.homeLine (State.wantedBy r .store) = (u, n, .error f) → Does s .homeRequest (.homeRequest r) fun t =>
      SentBy s t (24 + n) (.cacheFillReturn r.who r.part r.start (.fault .store f))) ∧
    (∀ b g, s.homeLine (State.wantedBy r .store) = (u, n, .ok (b, g)) → Does s .homeRequest (.homeRequest r) fun t =>
      SentBy s t (24 + n) (.cacheFillReturn r.who r.part r.start (.checked r.va g))) := by
  obtain ⟨-, hpkg, -, -⟩ := id hhere
  have hserve := State.serve_of_here hhere
  refine ⟨fun f hfind hev => ?_, fun b g hfind hev => ?_⟩
  · refine ⟨_, State.exec_homeRequest_serve hev (.inl hpkg) (.inr (.inl hop)), ?_⟩
    rw [hserve, State.serveHere_check_fault hop hfind, State.homeAnswer_own hpkg]
    exact State.sentBy_after_homeLine hfind _ _
  · refine ⟨_, State.exec_homeRequest_serve hev (.inl hpkg) (.inr (.inl hop)), ?_⟩
    rw [hserve, State.serveHere_check hop hpkg hfind, State.homeAnswer_own hpkg]
    exact State.sentBy_after_homeLine hfind _ _

theorem writesServed (data : List Byte) (g : Grant) (hcow : g.rights.getLsbD 6 = false) (hcached : g.rights.getLsbD 4 = false) (hdata : data ≠ []) :
    let stored (t : State) : Prop := t.l2 = (s.storeInLine r.part r.ctx r.va.toNat data g).l2 ∧ t.hbm = (s.storeInLine r.part r.ctx r.va.toNat data g).hbm
    (r.op = .store data g → Does s .homeRequest (.homeRequest r) fun t => stored t ∧ Acknowledged s t r .write (fun c => dieOf c == r.die) ∧
      (t.die r.die).spine = (s.die r.die).spine.eraseP fun x => x.part == r.part && x.va == r.va && x.data == data) ∧
    (∀ n, r.op = .nontemporal n data g → Does s .homeRequest (.homeRequest r) fun t => stored t ∧ Acknowledged s t r (.nontemporal n) fun _ => false) := by
  obtain ⟨-, hpkg, hhome, hentry⟩ := id hhere
  intro stored
  refine ⟨fun hop hev => ?_, fun n hop hev => ?_⟩
  · refine ⟨_, State.exec_homeRequest_store hev (.inl hpkg) hop, ?_⟩
    have hserve : (s.leaveSpine r data).serve r = (s.leaveSpine r data).serveWrite r .write data g := by
      rw [State.serve_of_here (s := s.leaveSpine r data) hhere, State.serveHere, hop]
    have hbeside : s.leaveSpine r data = s.beside (s.leaveSpine r data) := rfl
    rw [hpkg, Option.isNone_none, if_pos rfl, hserve, State.serveWrite_here (s := s.leaveSpine r data) hcow hhome]
    obtain ⟨hl2, hhbm⟩ := State.writeNow_requestWrite_lines (s := s.leaveSpine r data) hcow hcached hdata hhome hentry .write
      (travel (s.homeOf r.part r.va.toNat) (quireOf r.who.core)) fun c => AckKind.write == .write && dieOf c == r.die
    rw [hbeside, (State.LineOp.storeInLine r.part r.ctx r.va.toNat data g).beside] at hl2 hhbm
    refine ⟨⟨hl2, hhbm⟩, State.writeNow_requestWrite_acknowledged (s := s.leaveSpine r data) hhome hentry (by decide) _, ?_⟩
    have hdies := (State.writeNow_keeps (s := s.leaveSpine r data) (w := (s.leaveSpine r data).requestWrite r .write data g) hentry
      (travel (s.homeOf r.part r.va.toNat) (quireOf r.who.core)) fun c => AckKind.write == .write && dieOf c == r.die).1
    exact (congrArg (fun t : Table Die => (look Die.reset r.die t).spine) hdies).trans (congrArg Die.spine (look_put_same _ _ _ _))
  · refine ⟨_, State.exec_homeRequest_serve hev (.inl hpkg) (.inr (.inr (.inl ⟨n, data, g, hop⟩))), ?_⟩
    have hserve : s.serve r = s.serveWrite r (.nontemporal n) data g := by rw [State.serve_of_here hhere, State.serveHere, hop]
    rw [hserve, State.serveWrite_here hcow hhome]
    exact ⟨State.writeNow_requestWrite_lines hcow hcached hdata hhome hentry _ _ _,
      State.writeNow_requestWrite_acknowledged hhome hentry (by simp) _⟩

theorem atomicsServed (fn : AtomFn) (n lane : Nat) (x cmp : Word) (g : Grant) (u : State) (k : Nat) (hop : r.op = .atomic fn n lane x cmp g) :
    (∀ f, s.homeLine (State.wantedBy r .atomic) = (u, k, .error f) → Does s .homeRequest (.homeRequest r) fun t =>
      SentBy s t (24 + k) (.remoteResult r.who lane r.va (.fault f))) ∧
    (∀ b g2, g2.rights.getLsbD 6 = false → g2.rights.getLsbD 4 = false → b ≠ [] → (n = 4 ∨ n = 8) →
      s.homeLine (State.wantedBy r .atomic) = (u, k, .ok (b, g2)) →
      let o : BitVec (8 * n) := BitVec.ofNat (8 * n) (Bytes.toNat ((b.drop (r.va.toNat % 256)).take n))
      let new := newBits fn (8 * n) o (x.setWidth (8 * n)) (cmp.setWidth (8 * n))
      Does s .homeRequest (.homeRequest r) fun t => SentBy s t (24 + k) (.remoteResult r.who lane r.va (.value (o.signExtend 64))) ∧
        Sent t (.homeAcknowledgement r.who .write r.task r.start) ∧
        t.l2 = (u.storeInLine r.part r.ctx r.va.toNat (Bytes.ofNat n new.toNat) g2).l2 ∧
        t.hbm = (u.storeInLine r.part r.ctx r.va.toNat (Bytes.ofNat n new.toNat) g2).hbm) := by
  obtain ⟨-, hpkg, hhome, hentry⟩ := id hhere
  have hserve : s.serve r = s.serveAtomic r fn n lane x cmp := by rw [State.serve_of_here hhere, State.serveHere, hop]
  have hexec (hev : s.ev = .homeRequest r) : exec .homeRequest s = .next (s.serveAtomic r fn n lane x cmp) :=
    hserve ▸ State.exec_homeRequest_serve hev (.inl hpkg) (.inr (.inr (.inr ⟨fn, n, lane, x, cmp, g, hop⟩)))
  refine ⟨fun f hfind hev => ?_, ?_⟩
  · refine ⟨_, hexec hev, ?_⟩
    rw [State.serveAtomic_fault hpkg hfind]
    exact State.sentBy_after_homeLine hfind _ _
  · intro b g2 hcow hcached hb hn hfind o new hev
    have hu : u.offHome = s.offHome := by
      have hoff := State.offHome_homeLine (s := s) (State.wantedBy r .atomic)
      rwa [hfind] at hoff
    have hhomeU : u.homePackage r.part r.va.toNat = u.pkgid :=
      (congrArg (fun t : State => t.homePackage r.part r.va.toNat) hu :).trans (hhome.trans (congrArg State.pkgid hu :).symm)
    have hentryU : u.podEntry r.part (r.va.toNat / 256) = none := (congrArg (fun t : State => t.podEntry r.part (r.va.toNat / 256)) hu :).trans hentry
    have hnowU : u.now = s.now := (congrArg State.now hu :)
    have hnew : State.atomBytes fn n r.va.toNat b x cmp = Bytes.ofNat n new.toNat := bytes_atomNew fn hn _ x cmp
    refine ⟨_, hexec hev, ?_⟩
    rw [State.serveAtomic_line hpkg hfind hb hcow hhomeU, hnew, atomOld_eq hn]
    have hdata : Bytes.ofNat n new.toNat ≠ [] := List.ne_nil_of_length_pos (by rw [Bytes.length_ofNat]; omega)
    obtain ⟨hl2, hhbm, hnow, m, hacked⟩ := State.writeNow_countWrite (r := { r with edition := (s.core r.who.core).edition }) hcow hcached hdata hhomeU hentryU r
      (travel (s.homeOf r.part r.va.toNat) (quireOf r.who.core)) fun c => dieOf c == r.die
    generalize (u.countWrite r).writeNow _ _ _ = v at hl2 hhbm hnow hacked ⊢
    have htold : v.Grows ((v.patchDie r.die r.part r.va.toNat (Bytes.ofNat n new.toNat)).broadcast r.die r.who (sigOf r.part (sectorsOf r.va.toNat n))) :=
      (State.Grows.patchDie v _ _ _ _).trans (State.Grows.broadcast _ _ _ _)
    generalize (v.patchDie r.die r.part r.va.toNat (Bytes.ofNat n new.toNat)).broadcast r.die r.who _ = q at htold ⊢
    refine ⟨State.sentBy_emitNet_of_now (htold.now.trans (hnow.trans hnowU)) _ _, ⟨m, List.mem_append_left _ (htold.sent _ hacked)⟩, ?_, ?_⟩
    · exact htold.l2.trans hl2
    · exact htold.hbm.trans hhbm

end

/-- Settles O40: requests that wait (`waitingRequests`), lines of other packages (`awayRequests`, `peerAnswers`), and at their home lines, checks, writes
and atomics (`linesServed`, `checksServed`, `writesServed`, `atomicsServed`). -/
theorem homeEvents : Obligations.HomeEvents := by
  intro s r va line stored find
  refine ⟨waitingRequests s r, awayRequests s r, peerAnswers s r, fun hhere =>
    ⟨linesServed hhere, checksServed hhere, fun data g hcow hcached hdata => ?_, ?_⟩⟩
  · exact writesServed hhere data g hcow hcached hdata
  · exact atomicsServed hhere

end Sys2Proof.Proofs
end

section
/-! SUPPORT. Words and their fields (R184, R189, R322): decoding finds in an encoded word what was laid out there. -/

namespace Sys2Proof

@[simp] theorem kindOf_tag (t : Kind) : kindOf t.tag = t := by cases t <;> rfl

/-- The low bits of two vectors side by side are the right one. -/
theorem extractLsb'_append_low {m n : Nat} (x : BitVec m) (y : BitVec n) : (x ++ y).extractLsb' 0 n = y := by
  rw [BitVec.extractLsb'_append_eq_of_add_le (Nat.le_of_eq (Nat.zero_add n)), BitVec.extractLsb'_eq_self]

/-! ## C-words (R184) -/

section
variable (op : BitVec 7) (c : CWord)

theorem form_encodeCWord : (encodeCWord op c).extractLsb' 30 2 = c.ext.bit ++ 0#1 := by
  simp (disch := decide) only [encodeCWord, BitVec.extractLsb'_append_eq_of_le, Nat.reduceSub, BitVec.extractLsb'_eq_self]

theorem op_encodeCWord : (encodeCWord op c).extractLsb' 23 7 = op := by
  simp (disch := decide) only [encodeCWord, BitVec.extractLsb'_append_eq_of_le, Nat.reduceSub, extractLsb'_append_low]

theorem cFields_encodeCWord : cFields (encodeCWord op c) c.ext = c := by
  simp (disch := decide) only [cFields, encodeCWord, BitVec.extractLsb'_append_eq_of_le, Nat.reduceSub, extractLsb'_append_low, kindOf_tag]

end

theorem eq_ofNat_of_code {b : BitVec 5} {n : Nat} (h : b.toNat = n) : b = BitVec.ofNat 5 n := by
  rw [← h, BitVec.ofNat_toNat, BitVec.setWidth_eq]

/-- The map of C-words takes an instruction's OP back to it, with the function code where the opcode has codes (R193). -/
theorem cInstr_cOp {i : Instr} {f : CForm} {c : CWord} (h : i.cword = some (f, c)) (hcode : f.b.ok c.b = true) :
    cInstr (BitVec.ofNat 7 i.cOp).toNat c = some (i, true) := by
  obtain ⟨ext, la, d, ta, a, b, msk⟩ := c
  cases i with
  | catIns | catDel | catGive | replyCen | replyMsg | atomAdd | atomAnd | atomOr | atomXor | atomMin | atomMax | atomMinu | atomMaxu | atomSwap
  | atomCas | atomFadd | vatomAdd | vatomAnd | vatomOr | vatomXor | vatomMin | vatomMax | vatomMinu | vatomMaxu | vatomSwap | vatomFadd | invL1
  | invHome | wmaskSet | wmaskClr | wmaskPut | sfuRcp | sfuSqrt | sfuRsqrt | sfuExp2 | sfuLog2 | sfuSinpi | sfuCospi | sfuTanh | tinvPage | tinvCtx
  | tinvPart =>
    cases h
    obtain rfl := eq_ofNat_of_code (eq_of_beq hcode)
    rfl
  | _ => cases h <;> rfl

/-- A word of a C-form is its own code's: the check of its fields fixes the function code (R203). -/
theorem decodeC_encodeCWord {i : Instr} {f : CForm} {c : CWord} (h : i.cword = some (f, c)) (hwf : i.wf = true) :
    decodeC (encodeCWord (BitVec.ofNat 7 i.cOp) c) c.ext = some (i, true) := by
  have hok : f.ok c = true := by simpa only [Instr.wf, h] using hwf
  have hcode : f.b.ok c.b = true := by
    simp only [CForm.ok, Bool.and_eq_true] at hok
    obtain ⟨⟨⟨⟨⟨-, hcode⟩, -⟩, -⟩, -⟩, -⟩ := hok
    exact hcode
  rw [decodeC, op_encodeCWord, cFields_encodeCWord, cInstr_cOp h hcode]

/-! ## A-words (R189) -/

section
variable (op : BitVec 6) (w : AWord)

theorem form_encodeAWord : (encodeAWord op w).extractLsb' 30 2 = w.ext.bit ++ 1#1 := by
  simp (disch := decide) only [encodeAWord, BitVec.extractLsb'_append_eq_of_le, Nat.reduceSub, BitVec.extractLsb'_eq_self]

theorem op_encodeAWord : (encodeAWord op w).extractLsb' 24 6 = op := by
  simp (disch := decide) only [encodeAWord, BitVec.extractLsb'_append_eq_of_le, Nat.reduceSub, extractLsb'_append_low]

theorem aFields_encodeAWord : aFields (encodeAWord op w) w.ext = w := by
  simp (disch := decide) only [aFields, encodeAWord, BitVec.extractLsb'_append_eq_of_le, Nat.reduceSub, extractLsb'_append_low, kindOf_tag,
    BitVec.getLsbD_append, Nat.reduceLT, if_true, if_false, BitVec.getLsbD_ofBool]
  simp

end

/-- The function code that a form has (R190, R222, R237). -/
def AForm.code : AForm → Option Nat
  | .unary n | .unaryS n | .reduce n | .kop n => some n
  | _ => none

theorem AForm.code_of_ok {f : AForm} {w : AWord} {n : Nat} (hcode : f.code = some n) (hok : f.ok w = true) : w.b.toNat = n := by
  cases f with
  | unary | unaryS | reduce | kop =>
    cases hcode
    simp only [AForm.ok, Bool.and_eq_true, beq_iff_eq] at hok
    tauto
  | _ => cases hcode

/-- The map of A-words takes an instruction's OP and its function code back to it (R194). -/
theorem aInstr_aOp {i : Instr} {f : AForm} {w : AWord} (h : i.aword = some (f, w)) (hok : f.ok w = true) :
    aInstr (BitVec.ofNat 6 i.aOp).toNat w = some (i, true) := by
  obtain ⟨ext, fzi, fzo, d, tb, b, ta, a, k⟩ := w
  cases i with
  | popc | clz | ctz | neg | not | abs | brev | lid | fneg | fabs | ffloor | fceil | ftrunc | fround | frint | fclass | fsgn | cvtFtoi | cvtFtou
  | cvtFtoiz | cvtFtouz | cvtItof | cvtUtof | cvtFtoh | cvtFtob | cvtHtof | cvtBtof | cvtFtol | cvtLtof | redAdd | redAnd | redOr | redXor | redMin
  | redMax | redMinu | redMaxu | redFadd | redFmin | redFmax | scanAdd | scanAnd | scanOr | scanXor | scanMin | scanMax | scanMinu | scanMaxu
  | scanFadd | scanFmin | scanFmax | kopAnd | kopOr | kopXor | kopAndn | kopNot | kopMov | kopLow =>
    cases h
    obtain rfl := eq_ofNat_of_code (AForm.code_of_ok rfl hok)
    rfl
  | _ => cases h <;> rfl

/-- An A-word is no C-word. -/
theorem cword_of_aword {i : Instr} {x : AForm × AWord} (h : i.aword = some x) : i.cword = none := by
  cases i <;> simp only [Instr.aword, Instr.cword, reduceCtorEq] at h ⊢

theorem decodeA_encodeAWord {i : Instr} {f : AForm} {w : AWord} (h : i.aword = some (f, w)) (hwf : i.wf = true) :
    decodeA (encodeAWord (BitVec.ofNat 6 i.aOp) w) w.ext = some (i, true) := by
  have hok : f.ok w = true := by simpa only [Instr.wf, cword_of_aword h, h] using hwf
  rw [decodeA, op_encodeAWord, aFields_encodeAWord, aInstr_aOp h hok]

/-! ## Bundles (R178-R183) -/

theorem decodeBundle_of_lone_cword {w0 w1 : W32} (h : w0.extractLsb' 30 2 = 2) : decodeBundle w0 w1 = decodeLone w1 (decodeC w0 (.lone w1)) := by
  rw [decodeBundle, h]
  rfl

theorem decodeBundle_of_lone_aword {w0 w1 : W32} (h : w0.extractLsb' 30 2 = 3) : decodeBundle w0 w1 = decodeLone w1 (decodeA w0 (.lone w1)) := by
  rw [decodeBundle, h]
  rfl

theorem decodeBundle_of_pair {w0 w1 : W32} (h0 : w0.extractLsb' 30 2 = 0) (h1 : w1.extractLsb' 30 2 = 1) :
    decodeBundle w0 w1 = decodePair (decodeC w0 .paired) (decodeA w1 .paired) := by
  rw [decodeBundle, h0, h1]
  rfl

theorem decodeLone_of_taken {w1 : W32} {i : Instr} (h : w1 = 0 ∨ i.takesWord1 = true) (known : Bool) :
    decodeLone w1 (some (i, known)) = if known then .ok (.single i) else .error .reservedField := by
  refine if_neg ?_
  rcases h with rfl | htaken
  · simp
  · simp [htaken]

theorem decodePair_of_disjoint {c a : Instr} (h : ∀ d, d ∈ c.writes → d ∉ a.writes) (kc ka : Bool) :
    decodePair (some (c, kc)) (some (a, ka)) = if kc && ka then .ok (.pair c a) else .error .reservedField := by
  refine if_neg ?_
  simpa using h

/-! ## Encoded bundle words -/

variable {i : Instr}

theorem encode_of_cword {f : CForm} {c : CWord} (h : i.cword = some (f, c)) : encode i = c.ext.words (encodeCWord (BitVec.ofNat 7 i.cOp) c) := by
  rw [encode, h]

theorem encode_of_aword {f : AForm} {w : AWord} (h : i.aword = some (f, w)) : encode i = w.ext.words (encodeAWord (BitVec.ofNat 6 i.aOp) w) := by
  rw [encode, cword_of_aword h, h]

theorem decodeBundle_encode_lone_cword {f : CForm} {c : CWord} {w1 : W32} (h : i.cword = some (f, c)) (hlone : c.ext = .lone w1) (hwf : i.wf = true)
    (htaken : w1 = 0 ∨ i.takesWord1 = true) : ∃ w0, encode i = [w0, w1] ∧ decodeBundle w0 w1 = .ok (.single i) := by
  refine ⟨_, by rw [encode_of_cword h, hlone, Ext.words], ?_⟩
  rw [decodeBundle_of_lone_cword (by rw [form_encodeCWord, hlone, Ext.bit]; rfl), ← hlone, decodeC_encodeCWord h hwf, decodeLone_of_taken htaken,
    if_pos rfl]

theorem decodeBundle_encode_lone_aword {f : AForm} {w : AWord} {w1 : W32} (h : i.aword = some (f, w)) (hlone : w.ext = .lone w1) (hwf : i.wf = true)
    (htaken : w1 = 0 ∨ i.takesWord1 = true) : ∃ w0, encode i = [w0, w1] ∧ decodeBundle w0 w1 = .ok (.single i) := by
  refine ⟨_, by rw [encode_of_aword h, hlone, Ext.words], ?_⟩
  rw [decodeBundle_of_lone_aword (by rw [form_encodeAWord, hlone, Ext.bit]; rfl), ← hlone, decodeA_encodeAWord h hwf, decodeLone_of_taken htaken,
    if_pos rfl]

theorem decodeBundle_encode_pair {j : Instr} {f : CForm} {c : CWord} {g : AForm} {w : AWord} (hi : i.cword = some (f, c)) (hc : c.ext = .paired)
    (hj : j.aword = some (g, w)) (hw : w.ext = .paired) (hwfi : i.wf = true) (hwfj : j.wf = true) (hdisjoint : ∀ d, d ∈ i.writes → d ∉ j.writes) :
    ∃ w0 w1, encode i = [w0] ∧ encode j = [w1] ∧ decodeBundle w0 w1 = .ok (.pair i j) := by
  refine ⟨_, _, by rw [encode_of_cword hi, hc, Ext.words], by rw [encode_of_aword hj, hw, Ext.words], ?_⟩
  rw [decodeBundle_of_pair (by rw [form_encodeCWord, hc]; rfl) (by rw [form_encodeAWord, hw]; rfl)]
  conv_lhs => rw [← hc]
  rw [decodeC_encodeCWord hi hwfi, hc, ← hw, decodeA_encodeAWord hj hwfj, decodePair_of_disjoint hdisjoint, Bool.and_self, if_pos rfl]

/-! ## Sampler words (R322) -/

theorem decodeSampler_encodeSWord (op : BitVec 5) (w : SWord) : decodeSampler (encodeSWord op w) = sInstr op.toNat w := by
  simp (disch := decide) only [decodeSampler, sFields, encodeSWord, BitVec.extractLsb'_append_eq_of_le, Nat.reduceSub, extractLsb'_append_low,
    BitVec.extractLsb'_eq_self]

/-- A sampler word is neither a C-word nor an A-word, and the sampler's map takes its OP back to it. -/
theorem sInstr_sOp {ud ua ub ui : Bool} {w : SWord} (h : i.sword = some (ud, ua, ub, ui, w)) :
    encode i = [encodeSWord (BitVec.ofNat 5 i.sOp) w] ∧ sInstr (BitVec.ofNat 5 i.sOp).toNat w = some i := by
  cases i with
  | samplerHalt | samplerLdi | samplerAdd | samplerSub | samplerMulq | samplerXfer | samplerBz | samplerBnz | samplerLdc | samplerStc | samplerLdr
  | samplerLogit | samplerKeep | samplerGmask | samplerPen | samplerScale | samplerExpw | samplerNucl | samplerRand | samplerPick | samplerFind
  | samplerEmit =>
    cases h
    exact ⟨rfl, rfl⟩
  | _ => cases h

theorem decodeSampler_encode {x : Bool × Bool × Bool × Bool × SWord} (h : i.sword = some x) : ∃ w, encode i = [w] ∧ decodeSampler w = some i := by
  obtain ⟨ud, ua, ub, ui, w⟩ := x
  obtain ⟨hencode, hop⟩ := sInstr_sOp h
  exact ⟨_, hencode, by rw [decodeSampler_encodeSWord, hop]⟩

end Sys2Proof
end

section
/-! SUPPORT. The words of engine commands (R257, R258, R265-R278): decoding finds in them what encoding laid out. -/

namespace Sys2Proof

open Claims

/-! ## Fields of words -/

theorem Bits.get_eq (x hi lo : Nat) : Bits.get x hi lo = x / 2 ^ lo % 2 ^ (hi + 1 - lo) := by rw [Bits.get, Nat.shiftRight_eq_div_pow]

/-- Bits above a number are 0. -/
theorem Bits.get_above {x lo : Nat} (h : x < 2 ^ lo) (hi : Nat) : Bits.get x hi lo = 0 := by rw [Bits.get_eq, Nat.div_eq_of_lt h, Nat.zero_mod]

/-- The bits of a number that fits are the number. -/
theorem Bits.get_whole {x hi : Nat} (h : x < 2 ^ (hi + 1)) : Bits.get x hi 0 = x := by rw [Bits.get_eq, pow_zero, Nat.div_one, Nat.sub_zero, Nat.mod_eq_of_lt h]

theorem testBit_of_div {x lo : Nat} {b : Bool} (h : x / 2 ^ lo % 2 = b.toNat) : x.testBit lo = b := by
  rw [Nat.testBit_eq_decide_div_mod_eq, h]
  cases b <;> rfl

@[simp] theorem word_cons_zero (a : W32) (l : List W32) : word (a :: l) 0 = a.toNat := rfl
@[simp] theorem word_cons_succ (a : W32) (l : List W32) (n : Nat) : word (a :: l) (n + 1) = word l n := rfl

@[simp] theorem word64_cons_succ (a : W32) (l : List W32) (n : Nat) : word64 (a :: l) (n + 1) = word64 l n := rfl

theorem word64_of_halves {ws : List W32} {j : Nat} {v : Word} (hlo : word ws j = (loWord v).toNat) (hhi : word ws (j + 1) = (hiWord v).toNat) :
    word64 ws j = v := by
  apply BitVec.eq_of_toNat_eq
  simp only [word64, hlo, hhi, loWord, hiWord, BitVec.toNat_ofNat, BitVec.extractLsb'_toNat, Nat.shiftRight_eq_div_pow]
  omega

/-- The two words that an address is laid out in are read as the address. -/
@[simp] theorem word64_loWord_hiWord (v : Word) (l : List W32) : word64 (loWord v :: hiWord v :: l) 0 = v := word64_of_halves rfl rfl

theorem loWord_extractLsb' {n : Nat} (v : BitVec n) (k : Nat) : loWord (v.extractLsb' k 64) = v.extractLsb' k 32 := by
  ext i hi
  have hword : i < 64 := by omega
  simp [loWord, hword]

theorem hiWord_extractLsb' {n : Nat} (v : BitVec n) (k : Nat) : hiWord (v.extractLsb' k 64) = v.extractLsb' (k + 32) 32 := by
  ext i hi
  have hword : 32 + i < 64 := by omega
  simp [hiWord, hword, Nat.add_assoc]

theorem toNat_ofNat_of_lt {n : Nat} (h : n < 2 ^ 32) : (BitVec.ofNat 32 n).toNat = n := (BitVec.toNat_ofNat n 32).trans (Nat.mod_eq_of_lt h)

theorem toNat_append_eq_add {m n : Nat} (a : BitVec m) (b : BitVec n) : (a ++ b).toNat = a.toNat * 2 ^ n + b.toNat := by
  rw [BitVec.toNat_append, ← Nat.shiftLeft_add_eq_or_of_lt b.isLt, Nat.shiftLeft_eq]

theorem get_append_low (a b : BitVec 16) : BitVec.ofNat 16 (Bits.get (a ++ b).toNat 15 0) = b := by
  have := a.isLt
  have := b.isLt
  apply BitVec.eq_of_toNat_eq
  rw [Bits.get_eq, toNat_append_eq_add, BitVec.toNat_ofNat]
  omega

theorem get_append_high (a b : BitVec 16) : BitVec.ofNat 16 (Bits.get (a ++ b).toNat 31 16) = a := by
  have := a.isLt
  have := b.isLt
  apply BitVec.eq_of_toNat_eq
  rw [Bits.get_eq, toNat_append_eq_add, BitVec.toNat_ofNat]
  omega

/-! ## Word 0 (R257) -/

/-- Word 0 names an engine and an opcode, has its reserved bits 0, and restores the context `x`. -/
structure IsWord0 (x : CmdCtx) (eng eop : Nat) (w0 : W32) : Prop where
  reserved : Bits.get w0.toNat 19 18 = 0
  engine : Bits.get w0.toNat 23 20 = eng
  opcode : Bits.get w0.toNat 31 24 = eop
  context : x.withWord0 w0.toNat = x

theorem isWord0_encodeWord0 {x : CmdCtx} (hnode : NodeFits x) {eng eop : Nat} (heng : eng < 16) (heop : eop < 256) :
    IsWord0 x eng eop (encodeWord0 x eng eop) := by
  have hfit : x.node < 2 ^ 16 := hnode
  have hwempty := x.wempty.toNat_lt
  have hfence := x.fence.toNat_lt
  have hword : (encodeWord0 x eng eop).toNat = x.node + x.wempty.toNat * 2 ^ 16 + x.fence.toNat * 2 ^ 17 + eng * 2 ^ 20 + eop * 2 ^ 24 := by
    rw [encodeWord0, BitVec.toNat_ofNat]
    omega
  refine ⟨?_, ?_, ?_, ?_⟩
  · rw [Bits.get_eq, hword]; omega
  · rw [Bits.get_eq, hword]; omega
  · rw [Bits.get_eq, hword]; omega
  · have hlow : Bits.get (encodeWord0 x eng eop).toNat 15 0 = x.node := by rw [Bits.get_eq, hword]; omega
    rw [CmdCtx.withWord0, hlow, testBit_of_div (lo := 16) (b := x.wempty) (by omega), testBit_of_div (lo := 17) (b := x.fence) (by omega)]

/-! ## Each command behind its word 0 -/

section
variable {x : CmdCtx} {w0 : W32}

theorem decodeCommand_zcfg {t : BitVec 4} {v : BitVec 27} (h : IsWord0 x 0 1 w0) :
    decodeCommand x (w0 :: (encodeCommand (.zcfg x t v)).tail) = some (.zcfg x t v) := by
  have hzero : zeros (w0 :: (encodeCommand (.zcfg x t v)).tail) 3 15 = true := rfl
  have ht : (t.setWidth 32).toNat = t.toNat := BitVec.toNat_setWidth_of_le (by decide)
  have hv : (v.setWidth 32).toNat = v.toNat := BitVec.toNat_setWidth_of_le (by decide)
  have ht0 : Bits.get t.toNat 31 4 = 0 := Bits.get_above t.isLt 31
  have hv0 : Bits.get v.toNat 31 27 = 0 := Bits.get_above v.isLt 31
  simp only [decodeCommand, word_cons_zero, h.reserved, h.engine, h.opcode, h.context, hzero]
  simp [encodeCommand, ht, hv, ht0, hv0]

theorem decodeCommand_zzero {t : BitVec 16} (h : IsWord0 x 0 2 w0) :
    decodeCommand x (w0 :: (encodeCommand (.zzero x t)).tail) = some (.zzero x t) := by
  have hzero : zeros (w0 :: (encodeCommand (.zzero x t)).tail) 2 15 = true := rfl
  have ht : (t.setWidth 32).toNat = t.toNat := BitVec.toNat_setWidth_of_le (by decide)
  have ht0 : Bits.get t.toNat 31 16 = 0 := Bits.get_above t.isLt 31
  simp only [decodeCommand, word_cons_zero, h.reserved, h.engine, h.opcode, h.context, hzero]
  simp [encodeCommand, ht, ht0]

theorem decodeCommand_mma {c : MmaCmd} (h : IsWord0 x 0 3 w0) (hwf : (Instr.mma x c).wf = true) :
    decodeCommand x (w0 :: (encodeCommand (.mma x c)).tail) = some (.mma x c) := by
  have hzero : zeros (w0 :: (encodeCommand (.mma x c)).tail) 14 15 = true := rfl
  have hok : (Instr.mma x c).commandOk = true := hwf
  simp only [Instr.commandOk, Bool.and_eq_true, decide_eq_true_eq] at hok
  obtain ⟨⟨⟨⟨⟨⟨⟨hn, hm1⟩, hm⟩, hnn1⟩, hnn⟩, hstart⟩, hk1⟩, hk⟩ := hok
  have hesza := c.esza.isLt
  have heszb := c.eszb.isLt
  have hsizes : word (w0 :: (encodeCommand (.mma x c)).tail) 1 =
      c.n + (c.m - 1) * 2 ^ 4 + (c.nn - 1) * 2 ^ 11 + c.esza.toNat * 2 ^ 18 + c.eszb.toNat * 2 ^ 20 + c.start * 2 ^ 22 := toNat_ofNat_of_lt (by omega)
  have hcount : word (w0 :: (encodeCommand (.mma x c)).tail) 2 = c.k - 1 := toNat_ofNat_of_lt (by omega)
  simp only [decodeCommand, word_cons_zero, h.reserved, h.engine, h.opcode, h.context, hzero, hcount]
  generalize word (w0 :: (encodeCommand (.mma x c)).tail) 1 = sizes at hsizes ⊢
  have h29 : Bits.get sizes 31 29 = 0 := by rw [Bits.get_eq]; omega
  have h0 : Bits.get sizes 3 0 = c.n := by rw [Bits.get_eq]; omega
  have h4 : Bits.get sizes 10 4 + 1 = c.m := by rw [Bits.get_eq]; omega
  have h11 : Bits.get sizes 17 11 + 1 = c.nn := by rw [Bits.get_eq]; omega
  have h18 : Bits.get sizes 19 18 = c.esza.toNat := by rw [Bits.get_eq]; omega
  have h20 : Bits.get sizes 21 20 = c.eszb.toNat := by rw [Bits.get_eq]; omega
  have h22 : Bits.get sizes 28 22 = c.start := by rw [Bits.get_eq]; omega
  have hk16 : Bits.get (c.k - 1) 31 16 = 0 := by rw [Bits.get_eq]; omega
  have hk0 : Bits.get (c.k - 1) 15 0 + 1 = c.k := by rw [Bits.get_eq]; omega
  simp [encodeCommand, h29, h0, h4, h11, h18, h20, h22, hk16, hk0, get_append_low, get_append_high]

theorem decodeCommand_drainCommand {c : DrainCmd} (h : IsWord0 x 0 4 w0) (hwf : (Instr.drainCommand x c).wf = true) :
    decodeCommand x (w0 :: (encodeCommand (.drainCommand x c)).tail) = some (.drainCommand x c) := by
  have hzero : zeros (w0 :: (encodeCommand (.drainCommand x c)).tail) 8 15 = true := rfl
  have hok : (Instr.drainCommand x c).commandOk = true := hwf
  simp only [Instr.commandOk, Bool.and_eq_true, decide_eq_true_eq] at hok
  obtain ⟨⟨⟨hn, hr0⟩, hrows1⟩, hrows⟩ := hok
  have hraw := c.raw.toNat_lt
  have hclr := c.clr.toNat_lt
  have hfields : word (w0 :: (encodeCommand (.drainCommand x c)).tail) 1 =
      c.n + c.r0 * 2 ^ 4 + (c.rows - 1) * 2 ^ 9 + c.raw.toNat * 2 ^ 14 + c.clr.toNat * 2 ^ 15 := toNat_ofNat_of_lt (by omega)
  simp only [decodeCommand, word_cons_zero, h.reserved, h.engine, h.opcode, h.context, hzero]
  generalize word (w0 :: (encodeCommand (.drainCommand x c)).tail) 1 = fields at hfields ⊢
  have h16 : Bits.get fields 31 16 = 0 := by rw [Bits.get_eq]; omega
  have h0 : Bits.get fields 3 0 = c.n := by rw [Bits.get_eq]; omega
  have h4 : Bits.get fields 8 4 = c.r0 := by rw [Bits.get_eq]; omega
  have h9 : Bits.get fields 13 9 + 1 = c.rows := by rw [Bits.get_eq]; omega
  have h14 : fields.testBit 14 = c.raw := testBit_of_div (by omega)
  have h15 : fields.testBit 15 = c.clr := testBit_of_div (by omega)
  simp [encodeCommand, h16, h0, h4, h9, h14, h15]

theorem decodeCommand_merr {c : MerrCmd} (h : IsWord0 x 0 5 w0) (hwf : (Instr.merr x c).wf = true) :
    decodeCommand x (w0 :: (encodeCommand (.merr x c)).tail) = some (.merr x c) := by
  have hzero : zeros (w0 :: (encodeCommand (.merr x c)).tail) 6 15 = true := rfl
  have hn : c.n < 16 := of_decide_eq_true hwf
  have htile : word (w0 :: (encodeCommand (.merr x c)).tail) 1 = c.n := toNat_ofNat_of_lt (by omega)
  have h4 : Bits.get c.n 31 4 = 0 := Bits.get_above hn 31
  have h0 : Bits.get c.n 3 0 = c.n := Bits.get_whole hn
  simp only [decodeCommand, word_cons_zero, h.reserved, h.engine, h.opcode, h.context, hzero, htile, h4, h0]
  simp [encodeCommand]

theorem decodeCommand_copy1d {c : Copy1DCmd} (h : IsWord0 x 1 1 w0) :
    decodeCommand x (w0 :: (encodeCommand (.copy1d x c)).tail) = some (.copy1d x c) := by
  have hzero : zeros (w0 :: (encodeCommand (.copy1d x c)).tail) 7 15 = true := rfl
  simp only [decodeCommand, word_cons_zero, h.reserved, h.engine, h.opcode, h.context, hzero]
  simp [encodeCommand]

theorem decodeCommand_copy2d {c : Copy2DCmd} (h : IsWord0 x 1 2 w0) :
    decodeCommand x (w0 :: (encodeCommand (.copy2d x c)).tail) = some (.copy2d x c) := by
  have hzero : zeros (w0 :: (encodeCommand (.copy2d x c)).tail) 8 15 = true := rfl
  simp only [decodeCommand, word_cons_zero, h.reserved, h.engine, h.opcode, h.context, hzero]
  simp [encodeCommand, get_append_low, get_append_high]

theorem decodeCommand_fillCmd {c : FillCmd} (h : IsWord0 x 1 4 w0) :
    decodeCommand x (w0 :: (encodeCommand (.fillCmd x c)).tail) = some (.fillCmd x c) := by
  have hlow : zeros (w0 :: (encodeCommand (.fillCmd x c)).tail) 2 4 = true := rfl
  have hhigh : zeros (w0 :: (encodeCommand (.fillCmd x c)).tail) 10 15 = true := rfl
  simp only [decodeCommand, word_cons_zero, h.reserved, h.engine, h.opcode, h.context, hlow, hhigh]
  simp [encodeCommand]

theorem decodeCommand_gather2d {c : Gather2DCmd} (h : IsWord0 x 1 3 w0) (hwf : (Instr.gather2d x c).wf = true) :
    decodeCommand x (w0 :: (encodeCommand (.gather2d x c)).tail) = some (.gather2d x c) := by
  have hzero : zeros (w0 :: (encodeCommand (.gather2d x c)).tail) 12 15 = true := rfl
  have hok : (Instr.gather2d x c).commandOk = true := hwf
  simp only [Instr.commandOk, Bool.and_eq_true, decide_eq_true_eq] at hok
  obtain ⟨⟨⟨hpw1, hpw⟩, hph1⟩, hph⟩ := hok
  have hesz := c.esz.isLt
  have hcount := c.count.isLt
  have hsizes : word (w0 :: (encodeCommand (.gather2d x c)).tail) 1 =
      c.pw - 1 + (c.ph - 1) * 2 ^ 7 + c.esz.toNat * 2 ^ 14 + c.count.toNat * 2 ^ 16 := toNat_ofNat_of_lt (by omega)
  simp only [decodeCommand, word_cons_zero, h.reserved, h.engine, h.opcode, h.context, hzero]
  generalize word (w0 :: (encodeCommand (.gather2d x c)).tail) 1 = sizes at hsizes ⊢
  have h0 : Bits.get sizes 6 0 + 1 = c.pw := by rw [Bits.get_eq]; omega
  have h7 : Bits.get sizes 13 7 + 1 = c.ph := by rw [Bits.get_eq]; omega
  have h14 : Bits.get sizes 15 14 = c.esz.toNat := by rw [Bits.get_eq]; omega
  have h16 : Bits.get sizes 31 16 = c.count.toNat := by rw [Bits.get_eq]; omega
  simp [encodeCommand, h0, h7, h14, h16, get_append_low, get_append_high]

theorem decodeCommand_gatherCmd {c : GatherCmd} (h : IsWord0 x 2 1 w0) :
    decodeCommand x (w0 :: (encodeCommand (.gatherCmd x c)).tail) = some (.gatherCmd x c) := by
  have hzero : zeros (w0 :: (encodeCommand (.gatherCmd x c)).tail) 9 15 = true := rfl
  have hesz := c.esz.isLt
  have hshift := c.shift.isLt
  have hsizes : word (w0 :: (encodeCommand (.gatherCmd x c)).tail) 1 = c.esz.toNat + c.shift.toNat * 2 ^ 2 := toNat_ofNat_of_lt (by omega)
  simp only [decodeCommand, word_cons_zero, h.reserved, h.engine, h.opcode, h.context, hzero]
  generalize word (w0 :: (encodeCommand (.gatherCmd x c)).tail) 1 = sizes at hsizes ⊢
  have h4 : Bits.get sizes 31 4 = 0 := by rw [Bits.get_eq]; omega
  have h0 : Bits.get sizes 1 0 = c.esz.toNat := by rw [Bits.get_eq]; omega
  have h2 : Bits.get sizes 3 2 = c.shift.toNat := by rw [Bits.get_eq]; omega
  simp [encodeCommand, h4, h0, h2]

theorem decodeCommand_decodeCmd {c : DecodeCmd} (h : IsWord0 x 3 1 w0) :
    decodeCommand x (w0 :: (encodeCommand (.decodeCmd x c)).tail) = some (.decodeCmd x c) := by
  have hzero : zeros (w0 :: (encodeCommand (.decodeCmd x c)).tail) 14 15 = true := rfl
  have hform : word (w0 :: (encodeCommand (.decodeCmd x c)).tail) 1 = c.ofmt.toNat := BitVec.toNat_setWidth_of_le (b := c.ofmt) (by decide)
  have hclass : word (w0 :: (encodeCommand (.decodeCmd x c)).tail) 9 = c.rcls.toNat := BitVec.toNat_setWidth_of_le (b := c.rcls) (by decide)
  have hreply : word (w0 :: (encodeCommand (.decodeCmd x c)).tail) 8 = (0#8 ++ c.rtype).toNat * 2 ^ 16 + c.budget.toNat := toNat_append_eq_add _ _
  have hlow : word64 (w0 :: (encodeCommand (.decodeCmd x c)).tail) 10 = c.rkey.extractLsb' 0 64 :=
    word64_of_halves (by rw [loWord_extractLsb']; rfl) (by rw [hiWord_extractLsb']; rfl)
  have hhigh : word64 (w0 :: (encodeCommand (.decodeCmd x c)).tail) 12 = c.rkey.extractLsb' 64 64 :=
    word64_of_halves (by rw [loWord_extractLsb']; rfl) (by rw [hiWord_extractLsb']; rfl)
  have hkey : c.rkey.extractLsb' 64 64 ++ c.rkey.extractLsb' 0 64 = c.rkey := BitVec.extractLsb'_append_extractLsb' (w := 64) (len := 64)
  simp only [decodeCommand, word_cons_zero, h.reserved, h.engine, h.opcode, h.context, hzero, hform, hclass, hlow, hhigh, hkey, Bits.get_above c.ofmt.isLt,
    Bits.get_whole c.ofmt.isLt, Bits.get_above c.rcls.isLt, Bits.get_whole c.rcls.isLt]
  rw [toNat_append_eq_add, BitVec.toNat_ofNat, Nat.zero_mod, Nat.zero_mul, Nat.zero_add] at hreply
  generalize word (w0 :: (encodeCommand (.decodeCmd x c)).tail) 8 = reply at hreply ⊢
  have hbudget := c.budget.isLt
  have hrtype := c.rtype.isLt
  have h24 : Bits.get reply 31 24 = 0 := by rw [Bits.get_eq]; omega
  have h0 : Bits.get reply 15 0 = c.budget.toNat := by rw [Bits.get_eq]; omega
  have h16 : Bits.get reply 23 16 = c.rtype.toNat := by rw [Bits.get_eq]; omega
  simp [encodeCommand, h24, h0, h16]

end

end Sys2Proof
end

section
/-! PROOF. Decoding what encoding gives. -/

namespace Sys2Proof.Proofs

open Sys2Proof.Claims

theorem decodeCommand_encode {i : Instr} {x : CmdCtx} (hctx : commandCtx i = some x) (hnode : NodeFits x) (hwf : i.wf = true) :
    (encode i).length = 16 ∧ decodeCommand x (encode i) = some i := by
  have hword0 {eng eop : Nat} := isWord0_encodeWord0 hnode (eng := eng) (eop := eop)
  cases i with
  | zcfg => cases hctx; exact ⟨rfl, decodeCommand_zcfg (hword0 (by decide) (by decide))⟩
  | zzero => cases hctx; exact ⟨rfl, decodeCommand_zzero (hword0 (by decide) (by decide))⟩
  | mma => cases hctx; exact ⟨rfl, decodeCommand_mma (hword0 (by decide) (by decide)) hwf⟩
  | drainCommand => cases hctx; exact ⟨rfl, decodeCommand_drainCommand (hword0 (by decide) (by decide)) hwf⟩
  | merr => cases hctx; exact ⟨rfl, decodeCommand_merr (hword0 (by decide) (by decide)) hwf⟩
  | copy1d => cases hctx; exact ⟨rfl, decodeCommand_copy1d (hword0 (by decide) (by decide))⟩
  | copy2d => cases hctx; exact ⟨rfl, decodeCommand_copy2d (hword0 (by decide) (by decide))⟩
  | fillCmd => cases hctx; exact ⟨rfl, decodeCommand_fillCmd (hword0 (by decide) (by decide))⟩
  | gather2d => cases hctx; exact ⟨rfl, decodeCommand_gather2d (hword0 (by decide) (by decide)) hwf⟩
  | gatherCmd => cases hctx; exact ⟨rfl, decodeCommand_gatherCmd (hword0 (by decide) (by decide))⟩
  | decodeCmd => cases hctx; exact ⟨rfl, decodeCommand_decodeCmd (hword0 (by decide) (by decide))⟩
  | _ => cases hctx

/-- Settles O58: the fields of an encoded word are those it was encoded from, and each map takes an instruction's OP and function code back to it
(`cInstr_cOp`, `aInstr_aOp`, `sInstr_sOp`); a command's words give its word 0 and its fields back one by one (`decodeCommand_encode`). -/
theorem decodeOfEncode : Obligations.DecodeOfEncode := by
  refine ⟨fun i hwf w1 hlone htaken => ?_, fun i j hwfi hwfj hi hj hdisjoint => ?_, fun i hsampler => ?_, fun i x hctx hnode hwf =>
    decodeCommand_encode hctx hnode hwf⟩
  · obtain ⟨f, c, hcword, hext⟩ | ⟨f, w, haword, hext⟩ := hlone
    · exact decodeBundle_encode_lone_cword hcword hext hwf htaken
    · exact decodeBundle_encode_lone_aword haword hext hwf htaken
  · obtain ⟨f, c, hcword, hc⟩ := hi
    obtain ⟨g, w, haword, hw⟩ := hj
    exact decodeBundle_encode_pair hcword hc haword hw hwfi hwfj hdisjoint
  · obtain ⟨x, hsword⟩ := hsampler
    exact decodeSampler_encode hsword

/-- Settles O57: each word is closed, and decoding it computes its instruction or what refuses it. -/
theorem decodedWords : Obligations.DecodedWords := ⟨rfl, rfl, rfl, rfl, rfl, rfl⟩

end Sys2Proof.Proofs
end

section
/-! SUPPORT. Bundles that no form admits (R179-R183), and the strand that fetches one with its earlier chunks committed (R394). -/

namespace Sys2Proof

/-! ## Forms (R179, R181, R182) -/

section
variable {w0 w1 : W32}

/-- A word of the A slot cannot stand first. -/
theorem decodeBundle_of_aword_first (h : w0.extractLsb' 30 2 = 1) : decodeBundle w0 w1 = .error .illegalBundle := by
  rw [decodeBundle, h]
  rfl

theorem decodeBundle_of_unpaired (h0 : w0.extractLsb' 30 2 = 0) (h1 : w1.extractLsb' 30 2 ≠ 1) : decodeBundle w0 w1 = .error .illegalBundle := by
  rw [decodeBundle, h0]
  exact if_neg h1

theorem decodeLone_of_untaken {i : Instr} (hword1 : w1 ≠ 0) (huntaken : i.takesWord1 = false) (known : Bool) :
    decodeLone w1 (some (i, known)) = .error .illegalBundle := by
  refine if_pos ?_
  simpa [huntaken] using hword1

theorem decodePair_of_unassigned {x y : Option (Instr × Bool)} (h : x = none ∨ y = none) : decodePair x y = .error .illegalOpcode := by
  obtain rfl | rfl := h
  · rfl
  · cases x <;> rfl

theorem decodePair_of_conflict {c a : Instr} {d : Dest} (hc : d ∈ c.writes) (ha : d ∈ a.writes) (kc ka : Bool) :
    decodePair (some (c, kc)) (some (a, ka)) = .error .illegalBundle :=
  if_pos (List.any_eq_true.2 ⟨d, hc, List.contains_iff_mem.2 ha⟩)

end

namespace Machine

/-- A strand that waits to have a fault reported (R394). -/
def Strand.faulted (f : FaultInfo) (t : Strand) : Strand := { t with fault := some f, wait := .faulting, received := [], known := [] }

namespace State

variable {s : State} {r : Ref}

/-! ## The strand whose bundle begins -/

/-- A bundle that begins leaves of its strand all but its wait and, at the start of a chunk, the checkpoint that the chunk keeps. -/
theorem me_beginBundle (b : Option Bundle) : ∃ o : Chunk, o.count = (s.strand r).opened.count ∧
    (s.beginBundle r b).me = { s.strand r with opened := o, wait := .ready } := by
  have hset (t : Strand) (vas : List Nat) : ((s.setStrand r t).useLines r vas).strand r = t :=
    (strand_useLines (s.setStrand r t) r vas r).trans (strand_setStrand s r t)
  by_cases hcount : (s.strand r).opened.count = 0
  · exact ⟨_, by rfl, (hset _ _).trans (congrArg (fun t : Strand => { t with wait := .ready }) (if_pos hcount))⟩
  · exact ⟨_, by rfl, (hset _ _).trans (congrArg (fun t : Strand => { t with wait := .ready }) (if_neg hcount))⟩

theorem beginBundle_memory (b : Option Bundle) : (s.beginBundle r b).hbm = s.hbm ∧ (s.beginBundle r b).l2 = s.l2 := by
  unfold beginBundle useLines
  exact ⟨rfl, rfl⟩

/-! ## A fault with no chunk to wait for (R394) -/

theorem raise_of_settled (hcount : s.me.opened.count = 0) (hclosed : s.me.closed = []) (f : FaultInfo) : s.raise f =
    ({ s.updMe (Strand.faulted f) with issue := .no }).emit 0 (.strandFaultReport s.cur) := by
  have hend : s.endBefore = s := if_pos hcount
  have howes : s.me.owes = false := by rw [Strand.owes, hclosed, List.any_nil]
  have hempty : (s.updMe (Strand.faulted f)).me.closed.isEmpty = true := by rw [me_updMe, Strand.faulted, hclosed, List.isEmpty_nil]
  rw [raise, hend, howes, if_neg Bool.false_ne_true, stopWith, hend]
  exact if_pos hempty

/-- A strand that has nothing left to commit stands before a bundle that it cannot fetch, with its registers as they are, and memory is as it was. -/
theorem issueStrand_of_unfetchable {f : FaultInfo} (hfetch : s.fetch r = .fault f) (hcount : (s.strand r).opened.count = 0)
    (hclosed : (s.strand r).closed = []) : ∃ t, issueStrand r s = .next t ∧ (t.strand r).fault = some f ∧ (t.strand r).wait = .faulting ∧
      (t.strand r).regs = (s.strand r).regs ∧ t.hbm = s.hbm ∧ t.l2 = s.l2 := by
  obtain ⟨o, ho, hme⟩ := me_beginBundle (s := s) (r := r) none
  have hstrand (g : Strand → Strand) : ((s.beginBundle r none).updMe g).strand r = g (s.beginBundle r none).me := me_updMe (s.beginBundle r none) g
  refine ⟨_, issueStrand_of_fault hfetch, ?_⟩
  rw [raise_of_settled (by rw [hme]; exact ho.trans hcount) (by rw [hme]; exact hclosed)]
  refine ⟨congrArg Strand.fault (hstrand _), congrArg Strand.wait (hstrand _), (congrArg Strand.regs (hstrand _)).trans ?_,
    beginBundle_memory (s := s) (r := r) none⟩
  exact (congrArg Strand.regs hme :)

end State

end Machine

end Sys2Proof
end

section
/-! PROOF. The checks of a fetch and of a bundle's form. -/

namespace Sys2Proof.Proofs

open Sys2Proof.Machine Sys2Proof.Claims

/-- The checks of a fetch that need no line, each behind those before it (R183, R205). -/
theorem fetchChecks : FetchChecks := by
  intro s r t pc f inside
  have hbounds : (decide (pc < t.code.toNat) || decide (t.code.toNat + t.codeLim.toNat ≤ pc)) = true ↔ ¬inside := by
    simp only [Bool.or_eq_true, decide_eq_true_eq, inside]
    omega
  refine ⟨fun halign => if_pos halign, fun halign hout => ?limit, fun halign hin hva => ?range, fun halign hin hva haperture => ?aperture,
    fun w0 w1 => fetch_of_fetches⟩
  case limit => exact (if_neg (not_not.2 halign)).trans (if_pos (hbounds.2 hout))
  case range =>
    have hbeyond : pc / 2 ^ 57 ≠ 0 := (Nat.div_pos hva (by decide)).ne'
    exact (if_neg (not_not.2 halign)).trans ((if_neg (mt hbounds.1 (not_not.2 hin))).trans (if_pos hbeyond))
  case aperture =>
    have hwithin : pc / 2 ^ 57 = 0 := Nat.div_eq_of_lt hva
    exact (if_neg (not_not.2 halign)).trans ((if_neg (mt hbounds.1 (not_not.2 hin))).trans ((if_neg (not_not.2 hwithin)).trans (if_pos haperture)))

/-- What decoding makes of two words (R179, R181-R183), and what a strand does that fetches two that it cannot decode. -/
theorem bundleForms : BundleForms := by
  refine ⟨fun w0 w1 => ⟨decodeBundle_of_aword_first, decodeBundle_of_unpaired, fun h0 h1 => ?pair, fun x hx => ?lone⟩,
    fun s r w0 w1 e hwords hdecode _ _ hclosed hcount => State.issueStrand_of_unfetchable ((fetch_of_fetches hwords).2 e hdecode) hcount hclosed⟩
  case pair =>
    rw [decodeBundle_of_pair h0 h1]
    refine ⟨decodePair_of_unassigned, fun c a kc ka hc ha => ?_⟩
    rw [hc, ha]
    exact ⟨fun ⟨d, hdc, hda⟩ => decodePair_of_conflict hdc hda kc ka, fun hdisjoint => decodePair_of_disjoint hdisjoint kc ka⟩
  case lone =>
    have hlone : decodeBundle w0 w1 = decodeLone w1 x := by
      obtain ⟨hform, rfl⟩ | ⟨hform, rfl⟩ := hx
      · exact decodeBundle_of_lone_cword hform
      · exact decodeBundle_of_lone_aword hform
    rw [hlone]
    refine ⟨fun hnone => hnone ▸ rfl, fun i known hsome => ?_⟩
    rw [hsome]
    exact ⟨fun hword1 huntaken => decodeLone_of_untaken hword1 huntaken known, fun htaken => decodeLone_of_taken htaken known⟩

/-- Settles O56: the checks of a fetch (`fetchChecks`), and the forms of a bundle with the fault of one that has none (`bundleForms`). -/
theorem fetchAndForms : Obligations.FetchAndForms := ⟨fetchChecks, bundleForms⟩

end Sys2Proof.Proofs
end

section
/-! SUPPORT. The checks that come before a word's effect (R81, R203, R395) answer with a next state, whatever they find. -/

namespace Sys2Proof.Machine

theorem checkedAfter_answers (first : State → Option FaultInfo) (i : Instr) (s : State) (k : State → State) :
    ∃ t, checkedAfter first i s k = .next t := by
  unfold checkedAfter
  split
  · split
    · exact ⟨_, rfl⟩
    · exact ⟨_, rfl⟩
  · exact ⟨_, rfl⟩

theorem storeOf_answers (i : Instr) (c : CWord) (n : Nat) (s : State) : ∃ t, storeOf i c n s = .next t := checkedAfter_answers _ _ _ _

theorem atomOf_answers (i : Instr) (c : CWord) (fn : AtomFn) (s : State) : ∃ t, atomOf i c fn s = .next t := checkedAfter_answers _ _ _ _

theorem vatomOf_answers (i : Instr) (c : CWord) (fn : AtomFn) (s : State) : ∃ t, vatomOf i c fn s = .next t := by
  unfold vatomOf
  exact checkedAfter_answers _ i s _

theorem privileged_answers (i : Instr) (s : State) (k : State → State) : ∃ t, privileged i s k = .next t := by
  unfold privileged
  split
  · exact ⟨_, rfl⟩
  · exact ⟨_, rfl⟩

end Sys2Proof.Machine
end

section
/-! PROOF. Every instruction's meaning takes a next state. -/

namespace Sys2Proof.Proofs

open Sys2Proof.Machine

/-- Settles O53: a meaning raises PERMISSION or the faults of an address before its word's other checks (`privileged`, `checkedAfter`), or is
a next state as it stands: `checked`, a sampler's word, a command or an event answers `.next` of what it finds. -/
theorem everyInstructionAnswers : Obligations.EveryInstructionAnswers := by
  intro i s
  cases i with
  | stB | stH | stW | stD => exact storeOf_answers _ _ _ s
  | atomAdd | atomAnd | atomOr | atomXor | atomMin | atomMax | atomMinu | atomMaxu | atomSwap | atomCas | atomFadd => exact atomOf_answers _ _ _ s
  | vatomAdd | vatomAnd | vatomOr | vatomXor | vatomMin | vatomMax | vatomMinu | vatomMaxu | vatomSwap | vatomFadd => exact vatomOf_answers _ _ _ s
  | stf c => rw [exec_stf]; exact checkedAfter_answers _ _ _ _
  | stnt c => rw [exec_stnt]; exact checkedAfter_answers _ _ _ _
  | csrw c => rw [exec_csrw]; exact checkedAfter_answers _ _ _ _
  | wmaskSet | wmaskClr | wmaskPut => exact checkedAfter_answers _ _ s _
  | snap | ctxsw | tinvPage | tinvCtx | tinvPart | hmset | rollback => exact privileged_answers _ s _
  | _ => exact ⟨_, rfl⟩

end Sys2Proof.Proofs
end

section
/-! SUPPORT. Integer operations of the A slot (R190, R216-R223): the arithmetic of each, and the next state of a word of each shape. -/

namespace Sys2Proof.Machine

open Sys2Proof.Claims

/-! ## Products, extremes, shifts and saturation (R217) -/

section
variable {n : Nat} (a b : BitVec n)

/-- The quotient of a remainder by a square. -/
theorem emod_mul_self_ediv (p : Int) {m : Int} (hm : 0 < m) : p % (m * m) / m = p / m % m := by
  have hsplit : p % (m * m) = p + m * -(m * (p / (m * m))) := by rw [Int.emod_def]; ring
  have hquot : p / (m * m) = p / m / m := (Int.ediv_ediv_of_nonneg hm.le).symm
  rw [hsplit, Int.add_mul_ediv_left _ _ hm.ne', hquot, Int.emod_def]
  rfl

/-- The upper half of the low `2 * n` bits of an integer, as `n` bits. -/
theorem ofInt_shiftRight_eq_extractLsb' (p : Int) : BitVec.ofInt n (p >>> n) = (BitVec.ofInt (2 * n) p).extractLsb' n n := by
  have hpos (k : Nat) : (0 : Int) < 2 ^ k := pow_pos (by decide) k
  refine BitVec.eq_of_toNat_eq (Int.ofNat.inj ?_)
  simp only [Int.ofNat_eq_natCast, BitVec.extractLsb'_toNat, BitVec.toNat_ofInt, Int.shiftRight_eq_div_pow, Nat.shiftRight_eq_div_pow]
  push_cast
  rw [Int.toNat_of_nonneg (Int.emod_nonneg _ (hpos _).ne'), Int.toNat_of_nonneg (Int.emod_nonneg _ (hpos _).ne'), two_mul, pow_add,
    emod_mul_self_ediv p (hpos n), Int.emod_emod]

/-- The high half of a product of sign-extended factors. -/
theorem mulHigh_toInt : mulHigh n a.toInt b.toInt = (a.signExtend (2 * n) * b.signExtend (2 * n)).extractLsb' n n := by
  rw [mulHigh, ofInt_shiftRight_eq_extractLsb', BitVec.ofInt_mul]
  rfl

theorem mulHigh_toNat : mulHigh n a.toNat b.toNat = (a.setWidth (2 * n) * b.setWidth (2 * n)).extractLsb' n n := by
  rw [mulHigh, ofInt_shiftRight_eq_extractLsb', BitVec.ofInt_mul, BitVec.ofInt_natCast, BitVec.ofInt_natCast, BitVec.ofNat_toNat, BitVec.ofNat_toNat]

theorem ite_slt_min : (if b.slt a then b else a) = if a.toInt ≤ b.toInt then a else b := by
  simp only [BitVec.slt_iff_toInt_lt, ← not_le, ite_not]

theorem ite_slt_max : (if a.slt b then b else a) = if b.toInt ≤ a.toInt then a else b := by
  simp only [BitVec.slt_iff_toInt_lt, ← not_le, ite_not]

theorem ite_ult_min : (if b.ult a then b else a) = if a.toNat ≤ b.toNat then a else b := by
  simp only [BitVec.ult_iff_toNat_lt, ← not_le, ite_not]

theorem ite_ult_max : (if a.ult b then b else a) = if b.toNat ≤ a.toNat then a else b := by
  simp only [BitVec.ult_iff_toNat_lt, ← not_le, ite_not]

/-- The two shifts of a rotation; a count of 0 shifts nothing to the right. -/
theorem shifts_eq_rotateLeft :
    (a <<< shiftCount n b) ||| (a >>> ((n - shiftCount n b) % n)) = a.rotateLeft (b.toNat % n) := by
  rw [BitVec.rotateLeft, BitVec.rotateLeftAux, Nat.mod_mod, shiftCount]
  rcases Nat.eq_zero_or_pos (b.toNat % n) with hzero | hpos
  · simp [hzero, BitVec.ushiftRight_eq_zero]
  · have hn : 0 < n := by
      by_contra h0
      have hb := b.isLt
      simp_all
    rw [Nat.mod_eq_of_lt (Nat.sub_lt hn hpos)]

/-! ## Counts and reversals (R219) -/

theorem popCount_eq_ones : popCount a = ones a := List.countP_eq_length_filter

theorem leadingZeros_eq : leadingZeros a = ((List.range n).find? fun i => a.getLsbD (n - 1 - i)).getD n := by
  rw [leadingZeros, List.find?_congr fun i hi => ?_]
  rw [BitVec.getMsbD_eq_getLsbD, decide_eq_true (List.mem_range.1 hi), Bool.true_and]

theorem abs_eq_natAbs : (if a.msb then -a else a) = BitVec.ofNat n a.toInt.natAbs := by
  rw [← BitVec.ofInt_natCast, BitVec.msb_eq_toInt]
  by_cases hneg : a.toInt < 0
  · rw [if_pos (decide_eq_true hneg), Int.ofNat_natAbs_of_nonpos hneg.le, BitVec.ofInt_neg, BitVec.ofInt_toInt]
  · rw [if_neg (by simpa using hneg), Int.natAbs_of_nonneg (not_lt.1 hneg), BitVec.ofInt_toInt]

/-- The bits read so far, the first one highest. -/
theorem testBit_foldl_range (bit : Nat → Bool) (k j : Nat) :
    ((List.range k).foldl (fun acc i => 2 * acc + (bit i).toNat) 0).testBit j = (decide (j < k) && bit (k - 1 - j)) := by
  induction k generalizing j with
  | zero => simp
  | succ k ih =>
    rw [List.range_succ, List.foldl_append, List.foldl_cons, List.foldl_nil]
    cases j with
    | zero => cases hb : bit k <;> simp [hb, Nat.testBit_zero]
    | succ j =>
      have hhalf (m : Nat) : (2 * m + (bit k).toNat) / 2 = m := by
        have hbit := (bit k).toNat_lt
        omega
      rw [Nat.testBit_succ, hhalf, ih]
      simp [Nat.sub_sub, Nat.add_comm 1 j]

theorem reverseBits_eq_reverse : reverseBits a = a.reverse := by
  refine BitVec.eq_of_getLsbD_eq fun j hj => ?_
  rw [reverseBits, BitVec.getLsbD_ofNat, testBit_foldl_range, BitVec.getLsbD_reverse, BitVec.getMsbD_eq_getLsbD, ← Bool.and_assoc, Bool.and_self]

/-! ## Byte products (R223) -/

theorem extractLsb'_setWidth_byte {j : Nat} (hj : j < 4) : (a.setWidth 32).extractLsb' (8 * j) 8 = a.extractLsb' (8 * j) 8 := by
  refine BitVec.eq_of_getLsbD_eq fun i hi => ?_
  have hlow : 8 * j + i < 32 := by omega
  simp [hlow]

theorem byteDot_eq : byteDot (a.setWidth 32) (b.setWidth 32) =
    sbyte a 0 * sbyte b 0 + sbyte a 1 * sbyte b 1 + sbyte a 2 * sbyte b 2 + sbyte a 3 * sbyte b 3 := by
  have hsum : byteDot (a.setWidth 32) (b.setWidth 32) = 0 + ((a.setWidth 32).extractLsb' (8 * 0) 8).toInt * ((b.setWidth 32).extractLsb' (8 * 0) 8).toInt +
      ((a.setWidth 32).extractLsb' (8 * 1) 8).toInt * ((b.setWidth 32).extractLsb' (8 * 1) 8).toInt +
      ((a.setWidth 32).extractLsb' (8 * 2) 8).toInt * ((b.setWidth 32).extractLsb' (8 * 2) 8).toInt +
      ((a.setWidth 32).extractLsb' (8 * 3) 8).toInt * ((b.setWidth 32).extractLsb' (8 * 3) 8).toInt := rfl
  rw [hsum, zero_add]
  simp only [extractLsb'_setWidth_byte _ (show 0 < 4 by decide), extractLsb'_setWidth_byte _ (show 1 < 4 by decide),
    extractLsb'_setWidth_byte _ (show 2 < 4 by decide), extractLsb'_setWidth_byte _ (show 3 < 4 by decide), sbyte]

end

/-! ## Registers that a word writes -/

namespace State
variable (s : State)

theorem advance_writeV (n : BitVec 5) (x : VReg) (m : W32) : (s.writeV n x m).advance = Claims.wrote s (s.me.regs.setV n x m) := advance_writeReg s (.v n x m)

theorem advance_writeK (n : BitVec 3) (x : W32) : (s.writeK n x).advance = Claims.wrote s (s.me.regs.setK n x) := by
  have hpc : (s.me.regs.setK n x).pc = s.me.regs.pc := by unfold Regs.setK; split <;> rfl
  exact advance_setMe s hpc

end State

/-- The destination of an integer result (R190). -/
theorem intForm_eq_wrote (vd : Bool) (w : AWord) (lane : Fin 32 → W32) (val : Word) (s : State) : intForm vd w lane val s =
    wrote s (if vd then s.me.regs.setV w.d (lanes lane) (s.readK w.k) else s.me.regs.setS w.d val) := by
  cases vd with
  | true => exact State.advance_writeV ..
  | false => exact State.advance_writeS ..

section
variable {i : Instr} {w : AWord} {s : State} (h : Ready i s)
include h

theorem intBinary_of_ready (f : (n : Nat) → BitVec n → BitVec n → BitVec n) : intBinary i w f s = .next (intResult s w f) := by
  rw [intBinary, checked_of_ready h, intForm_eq_wrote, intResult]

theorem intAccumulate_of_ready (f : (n : Nat) → BitVec n → BitVec n → BitVec n → BitVec n) : intAccumulate i w f s = .next (accResult s w f) := by
  rw [intAccumulate, checked_of_ready h, intForm_eq_wrote, accResult]

theorem intUnary_of_ready (f : (n : Nat) → Nat → BitVec n → BitVec n) : intUnary i w f s = .next (unaryResult s w f) := by
  rw [intUnary, checked_of_ready h, intForm_eq_wrote, unaryResult]
  simp only [beq_iff_eq]

end

/-! ## Words of each shape -/

section
variable (w : AWord) (s : State)

theorem exec_intBinaryTable : ∀ p ∈ intBinaryTable, exec (p.1 w) s = intBinary (p.1 w) w p.2 s := by
  simp only [intBinaryTable, List.forall_mem_cons]
  refine ⟨rfl, rfl, rfl, ?mulh, ?mulhu, ?min, ?max, ?minu, ?maxu, rfl, rfl, rfl, rfl, rfl, rfl, rfl, ?rot, rfl, rfl, List.forall_mem_nil _⟩
  case mulh => simp only [exec_mulh, execMulh, mulHigh_toInt]
  case mulhu => simp only [exec_mulhu, execMulhu, mulHigh_toNat]
  case min => simp only [exec_min, execMin, ite_slt_min]
  case max => simp only [exec_max, execMax, ite_slt_max]
  case minu => simp only [exec_minu, execMinu, ite_ult_min]
  case maxu => simp only [exec_maxu, execMaxu, ite_ult_max]
  case rot => simp only [exec_rot, execRot, shifts_eq_rotateLeft]

theorem exec_accTable : ∀ p ∈ accTable, exec (p.1 w) s = intAccumulate (p.1 w) w p.2 s := by
  simp only [accTable, List.forall_mem_cons]
  refine ⟨rfl, ?dp4, List.forall_mem_nil _⟩
  case dp4 => simp only [exec_dp4, execDp4, byteDot_eq]

theorem exec_unaryTable : ∀ p ∈ unaryTable, exec (p.1 w) s = intUnary (p.1 w) w p.2 s := by
  simp only [unaryTable, List.forall_mem_cons]
  refine ⟨?popc, ?clz, rfl, ?neg, ?not, ?abs, ?brev, rfl, rfl, List.forall_mem_nil _⟩
  case popc => simp only [exec_popc, execPopc, popCount_eq_ones]
  case clz => simp only [exec_clz, execClz, leadingZeros_eq]
  case neg => simp only [exec_neg, execNeg, BitVec.ofNat_eq_ofNat, BitVec.zero_sub]
  case not => simp only [exec_not, execNot, BitVec.allOnes_xor]
  case abs => simp only [exec_abs, execAbs, abs_eq_natAbs]
  case brev => simp only [exec_brev, execBrev, reverseBits_eq_reverse]

end

/-! ## Compares (R220) -/

/-- The bits of a compare: one for each lane, or 32 times the one of scalars. -/
def compareBits (s : State) (w : AWord) (f : (n : Nat) → BitVec n → BitVec n → Bool) : W32 :=
  if w.vDest then compareMask fun j => f 32 (s.laneInt w.ta w.a w.ext j) (s.laneInt w.tb w.b w.ext j)
  else if f 64 (s.scalar w.ta w.a w.ext) (s.scalar w.tb w.b w.ext) then BitVec.allOnes 32 else 0

theorem intCompare_of_ready {i : Instr} {w : AWord} {s : State} (h : Ready i s) (f : (n : Nat) → BitVec n → BitVec n → Bool) :
    intCompare i w f s = .next (wrote s (s.me.regs.setK (w.d.setWidth 3) (compareBits s w f))) := by
  rw [intCompare, checked_of_ready h]
  exact congrArg Host.Outcome.next (State.advance_writeK ..)

theorem condition_eq_holds (k : BitVec 3) (eq lt : Bool) : condition k.toNat eq lt = holds k lt eq := by
  unfold condition holds
  generalize k.toNat = n
  match n with
  | 0 | 1 | 2 | 3 => rfl
  | 4 => exact (Bool.not_or ..).symm
  | _ + 5 => rfl

theorem getLsbD_compareBits (s : State) (w : AWord) (lt : (n : Nat) → BitVec n → BitVec n → Bool) (j : Fin 32) :
    (compareBits s w fun n a b => condition w.k.toNat (a == b) (lt n a b)).getLsbD j = compareBit s w lt j := by
  unfold compareBits compareBit
  cases w.vDest with
  | true => exact (getLsbD_compareMask _ j).trans (condition_eq_holds ..)
  | false => exact (getLsbD_scalarMask _ j).trans (condition_eq_holds ..)

/-- D names a k register, and K one of the six conditions (R220). -/
theorem compare_illFormed {w : AWord} (h : 8 ≤ w.d.toNat ∨ 6 ≤ w.k.toNat) : (AForm.compare 5).ok w = false := by
  have hbad : (decide (w.d.toNat < 8) && decide (w.k.toNat ≤ 5)) = false := by
    rw [← Bool.not_eq_true, Bool.and_eq_true, decide_eq_true_eq, decide_eq_true_eq]
    omega
  simp only [AForm.ok, Bool.and_assoc, hbad, Bool.and_false]

end Sys2Proof.Machine
end

section
/-! PROOF. Integer operations and compares. -/

namespace Sys2Proof.Proofs

open Sys2Proof.Machine Sys2Proof.Claims

/-- A compare of either kind, from the order that it asks for. -/
theorem compares_of_intCompare {i : Instr} {w : AWord} {s : State} {lt : (n : Nat) → BitVec n → BitVec n → Bool} (hform : i.wf = (AForm.compare 5).ok w)
    (hexec : exec i s = intCompare i w (fun n a b => condition w.k.toNat (a == b) (lt n a b)) s) :
    (Ready i s → ∃ m : W32, (∀ j : Fin 32, m.getLsbD j = compareBit s w lt j) ∧
      exec i s = .next (wrote s (s.me.regs.setK (w.d.setWidth 3) m))) ∧
    ((8 ≤ w.d.toNat ∨ 6 ≤ w.k.toNat) → exec i s = .next (s.raise { code := .reservedField })) := by
  rw [hexec]
  refine ⟨fun h => ⟨_, getLsbD_compareBits s w lt, intCompare_of_ready h _⟩, fun h => checked_illFormed ?_⟩
  rw [hform, compare_illFormed h]

theorem integerCompares : IntegerCompares := by
  intro w s
  simp only [List.forall_mem_cons]
  exact ⟨compares_of_intCompare rfl rfl, compares_of_intCompare rfl rfl, List.forall_mem_nil _⟩

/-- Settles O1: the words of each table have one shape (`exec_…Table`), whose next state is known; a compare sets the bits of its condition. -/
theorem integerOperations : Obligations.IntegerOperations :=
  ⟨fun p hp w s h => (exec_intBinaryTable w s p hp).trans (intBinary_of_ready h p.2),
    fun p hp w s h => (exec_accTable w s p hp).trans (intAccumulate_of_ready h p.2),
    fun p hp w s h => (exec_unaryTable w s p hp).trans (intUnary_of_ready h p.2), integerCompares⟩

end Sys2Proof.Proofs
end

section
/-! SUPPORT. Lane moves and permutes (R221, R236), and words that change no register but k's, or none (R195, R222). -/

namespace Sys2Proof.Machine

open Sys2Proof.Claims

/-! ## Lanes by number -/

theorem getD_toList_of_lt (v : VReg) {n : Nat} (h : n < 32) : v.toList.getD n 0 = v[n] := by
  rw [List.getD_eq_getElem _ _ (by simpa using h), Vector.getElem_toList]

/-- A lane that the low five bits of a number name. -/
theorem getElem_laneOf (v : VReg) (x : W32) : v[laneOf x] = v.toList.getD (x.toNat % 32) 0 := (getD_toList_of_lt v (Nat.mod_lt _ (by decide))).symm

/-- The low five bits of a lane number and of a count are those of their sum. -/
theorem toNat_rotated_mod (j : Nat) (x : Word) : (BitVec.ofNat 32 (j + (x.setWidth 32).toNat % 32)).toNat % 32 = (j + x.toNat) % 32 := by
  rw [BitVec.toNat_ofNat, BitVec.toNat_setWidth]
  omega

theorem lanes_const (x : W32) : lanes (fun _ => x) = Vector.replicate 32 x := by
  ext j hj
  simp [lanes]

/-! ## The next state of each word -/

section
variable {w : AWord} {s : State}

theorem exec_sel_of_ready (h : Ready (.sel w) s) : exec (.sel w) s = .next (wrote s (if w.vDest then
    s.me.regs.setV w.d (lanes fun j =>
      if (s.readK w.k).getLsbD j then s.laneInt w.ta w.a w.ext j else s.laneInt w.tb w.b w.ext j) (BitVec.allOnes 32)
    else s.me.regs.setS w.d (if (s.readK w.k).getLsbD 0 then s.scalar w.ta w.a w.ext else s.scalar w.tb w.b w.ext))) := by
  rw [exec_sel, execSel, checked_of_ready h]
  cases w.vDest with
  | true => exact congrArg Host.Outcome.next (State.advance_writeV ..)
  | false => exact congrArg Host.Outcome.next (State.advance_writeS ..)

theorem exec_bcast_of_ready (h : Ready (.bcast w) s) : exec (.bcast w) s = .next (wrote s
    (s.me.regs.setV w.d (Vector.replicate 32 ((s.scalar w.ta w.a w.ext).setWidth 32)) (s.readK w.k))) := by
  rw [exec_bcast, execBcast, checked_of_ready h]
  simp only [State.advance_writeV, lanes_const]

theorem exec_shuf_of_ready (h : Ready (.shuf w) s) : exec (.shuf w) s = .next (wrote s
    (s.me.regs.setV w.d (lanes fun j => (s.readV w.a).toList.getD ((s.laneInt w.tb w.b w.ext j).toNat % 32) 0) (s.readK w.k))) := by
  rw [exec_shuf, execShuf, checked_of_ready h]
  simp only [State.advance_writeV, getElem_laneOf]

theorem exec_lrot_of_ready (h : Ready (.lrot w) s) : exec (.lrot w) s = .next (wrote s
    (s.me.regs.setV w.d (lanes fun j => (s.readV w.a).toList.getD ((j.val + (s.scalar w.tb w.b w.ext).toNat) % 32) 0) (s.readK w.k))) := by
  rw [exec_lrot, execLrot, checked_of_ready h]
  simp only [State.advance_writeV, getElem_laneOf, toNat_rotated_mod]

theorem maskOp_of_ready {i : Instr} (h : Ready i s) (f : W32 → W32 → W32) : maskOp i w f s =
    .next (wrote s (s.me.regs.setK (w.d.setWidth 3) (f (s.readK (w.a.setWidth 3)) (s.readK w.k)))) := by
  rw [maskOp, checked_of_ready h, State.advance_writeK]

/-- A word without an effect goes on. -/
theorem checked_advance_of_ready {i : Instr} (h : Ready i s) : checked i s State.advance = .next (wrote s s.me.regs) := by
  rw [checked_of_ready h, State.advance_eq_wrote]

/-- `bcast` reads a scalar (R221). -/
theorem exec_bcast_of_lanes (h : w.ta = .v) : exec (.bcast w) s = .next (s.raise { code := .reservedField }) := by
  rw [exec_bcast, execBcast]
  refine checked_illFormed ?_
  change AForm.broadcast.ok w = false
  simp [AForm.ok, h]

/-- `shuf` and `lrot` read the lanes of a v register (R236). -/
theorem exec_shuf_of_scalar (h : w.ta ≠ .v) : exec (.shuf w) s = .next (s.raise { code := .reservedField }) := by
  rw [exec_shuf, execShuf]
  refine checked_illFormed ?_
  change AForm.shuffle.ok w = false
  simp [AForm.ok, h]

/-- The count of `lrot` is a scalar (R236). -/
theorem exec_lrot_of_tags (h : w.ta ≠ .v ∨ w.tb = .v) : exec (.lrot w) s = .next (s.raise { code := .reservedField }) := by
  rw [exec_lrot, execLrot]
  refine checked_illFormed ?_
  change AForm.rotate.ok w = false
  obtain hta | htb := h
  · simp [AForm.ok, hta]
  · simp [AForm.ok, htb]

variable (w s)

theorem exec_maskTable : ∀ p ∈ maskTable, exec (p.1 w) s = maskOp (p.1 w) w p.2 s := by
  simp only [maskTable, List.forall_mem_cons]
  refine ⟨rfl, rfl, rfl, rfl, rfl, rfl, ?low, List.forall_mem_nil _⟩
  case low => simp only [exec_kopLow, execKopLow, BitVec.ofNat_eq_ofNat, BitVec.zero_sub]

end
end Sys2Proof.Machine
end

section
/-! PROOF. Lane moves, mask operations and no-operations. -/

namespace Sys2Proof.Proofs

open Sys2Proof.Machine Sys2Proof.Claims

theorem laneMoves : LaneMoves := by
  refine fun w s => ⟨exec_sel_of_ready, exec_bcast_of_ready, exec_shuf_of_ready, exec_lrot_of_ready, ?tags, fun htb => ?rotate⟩
  case tags =>
    by_cases hta : w.ta = .v
    · rw [if_pos hta]
      exact List.forall_mem_singleton.2 (exec_bcast_of_lanes hta)
    · rw [if_neg hta]
      exact List.forall_mem_cons.2 ⟨exec_shuf_of_scalar hta, List.forall_mem_singleton.2 (exec_lrot_of_tags (.inl hta))⟩
  case rotate => exact exec_lrot_of_tags (.inr htb)

theorem masksAndNoOperations : MasksAndNoOperations :=
  ⟨fun p hp w s h => (exec_maskTable w s p hp).trans (maskOp_of_ready h p.2),
    fun _ _ _ => ⟨checked_advance_of_ready, checked_advance_of_ready, checked_advance_of_ready⟩⟩

/-- Settles O2: each word has its effect once it is ready, and one whose tags its form does not allow is ill-formed. -/
theorem lanesAndMasks : Obligations.LanesAndMasks := ⟨laneMoves, masksAndNoOperations⟩

end Sys2Proof.Proofs
end

section
/-! SUPPORT. Branches (R201, R204-R206), and what a fault leaves of its strand (R158, R394). -/

namespace Sys2Proof.Machine

open Sys2Proof.Claims

namespace State
variable (s : State)

/-! ## Branches (R204, R205) -/

/-- The strand goes on elsewhere, and its next bundle issues `n` cycles later at the earliest. -/
theorem retire_after (pc : Word) (n : Nat) : (s.retire pc).after n =
    Claims.after s { s.me with regs := { s.me.regs with pc := pc }, wait := .untilCycle (s.now + n) } .goes := by
  have hset (t : Strand) (h : Issue) (f : Strand → Strand) : ({ s.setMe t with issue := h } : State).updMe f = { s.setMe (f t) with issue := h } := by
    have hme : ({ s.setMe t with issue := h } : State).me = t := me_setMe s t
    rw [updMe, hme]
    exact congrArg (fun u : State => { u with issue := h }) (setMe_setMe s t (f t))
  rw [retire_eq]
  exact hset _ .goes _

theorem jumpTo_eq_jumped (pc : Word) : s.jumpTo pc = jumped s s.me.regs pc := retire_after s pc 2

theorem jumped_setMe (t : Strand) (r : Regs) (pc : Word) : jumped (s.setMe t) r pc =
    Claims.after s { t with regs := { r with pc := pc }, wait := .untilCycle (s.now + 2) } .goes := by
  unfold jumped Claims.after
  rw [me_setMe, setMe_setMe]
  rfl

/-- A branch that links or counts. -/
theorem jumpTo_writeS (n : BitVec 5) (x pc : Word) : (s.writeS n x).jumpTo pc = jumped s (s.me.regs.setS n x) pc := by
  have hregs : (s.writeS n x).me.regs = s.me.regs.setS n x := congrArg Strand.regs (me_writeReg s (.s n x))
  rw [jumpTo_eq_jumped, hregs]
  exact jumped_setMe s _ _ pc

theorem target_eq_branchTo (c : CWord) : s.target c = branchTo s c := by
  rw [target, branchTo, CWord.off, BitVec.mul_comm]
  rfl

theorem branchIf_eq_branched (c : CWord) (taken : Bool) : s.branchIf c taken = branched s c s.me.regs taken := by
  rw [branchIf, branched, jumpTo_eq_jumped, target_eq_branchTo, advance_eq_wrote]

theorem branchIf_writeS (n : BitVec 5) (x : Word) (c : CWord) (taken : Bool) :
    (s.writeS n x).branchIf c taken = branched s c (s.me.regs.setS n x) taken := by
  have htarget : (s.writeS n x).target c = branchTo s c := by rw [target, bpc_writeS, ← target_eq_branchTo, target]
  rw [branchIf, branched, jumpTo_writeS, htarget, advance_writeS]

/-! ## Faults (R158, R394) -/

/-- The executing strand at the end of its chunk, which is its own where none has started. -/
theorem me_endBefore : s.endBefore.me = s.me.endChunk s.ids := by
  rw [me, endBefore, cur_endChunkOf]
  by_cases hcount : (s.strand s.cur).opened.count = 0
  · rw [endChunkOf, if_pos hcount, me, Strand.endChunk, if_pos hcount]
  · rw [strand_endChunkOf s hcount, me]

theorem regs_endChunk (t : Strand) (id : Nat) : (t.endChunk id).regs = t.regs := by unfold Strand.endChunk; split <;> rfl
theorem fault_endChunk (t : Strand) (id : Nat) : (t.endChunk id).fault = t.fault := by unfold Strand.endChunk; split <;> rfl

theorem me_stopWith (f : FaultInfo) : (s.stopWith f).me = (s.me.endChunk s.ids).faulted f := by
  have hme : (s.endBefore.updMe (Strand.faulted f)).me = (s.me.endChunk s.ids).faulted f := (me_updMe _ _).trans (congrArg _ (me_endBefore s))
  unfold stopWith
  dsimp only
  split <;> exact hme

/-- A fault stops its strand, unless the chunk before it has still to read. -/
theorem me_raise_of_free (h : s.endBefore.me.owes = false) (f : FaultInfo) : (s.raise f).me = (s.me.endChunk s.ids).faulted f := by
  rw [raise, h, if_neg Bool.false_ne_true, me_stopWith]

theorem raise_of_owes (h : s.endBefore.me.owes = true) (f : FaultInfo) : s.raise f = s.endBefore.stall .ready := if_pos h

theorem me_raise_of_owes (h : s.endBefore.me.owes = true) (f : FaultInfo) : (s.raise f).me = { s.me.endChunk s.ids with wait := .ready } := by
  rw [raise_of_owes s h, stall_me, me_endBefore]

/-- A fault writes no register. -/
theorem regs_raise (f : FaultInfo) : (s.raise f).me.regs = s.me.regs := by
  cases howes : s.endBefore.me.owes with
  | false => rw [me_raise_of_free s howes]; exact regs_endChunk _ _
  | true => rw [me_raise_of_owes s howes]; exact regs_endChunk _ _

end State
end Sys2Proof.Machine
end

section
/-! PROOF. Branches. -/

namespace Sys2Proof.Proofs

open Sys2Proof.Machine Sys2Proof.Claims

/-- What a fault leaves of its strand. -/
theorem faultOfStrand (s : State) (f : FaultInfo) : (s.raise f).me.regs = s.me.regs ∧
    (s.endBefore.me.owes = false → (s.raise f).me.wait = .faulting ∧ (s.raise f).me.fault = some f) ∧
    (s.endBefore.me.owes = true → (s.raise f).me.wait = .ready ∧ (s.raise f).me.fault = s.me.fault ∧ (s.raise f).issue = .no) := by
  refine ⟨State.regs_raise s f, fun howes => ?_, fun howes => ?_⟩
  · rw [State.me_raise_of_free s howes]
    exact ⟨rfl, rfl⟩
  · rw [State.me_raise_of_owes s howes, State.raise_of_owes s howes]
    exact ⟨rfl, State.fault_endChunk _ _, State.stall_issue ..⟩

/-- A count that is 1 before it is decremented is 0 after (R204). -/
theorem sub_one_bne_zero (x : Word) : (x - 1 != 0) = (x != 1) := by
  have hiff : x - 1 = 0 ↔ x = 1 := sub_eq_zero
  rw [bne, bne, beq_eq_decide, beq_eq_decide, decide_eq_decide.2 hiff]

/-- Settles O5: a branch that is ready goes where its operand and offset say, and a fault of `jr` is one that any bundle raises. -/
theorem branches : Obligations.Branches := by
  intro c s
  refine ⟨fun h => ?jmp, fun h => ?jal, fun h halign => ?jr, fun h halign => ?misaligned, faultOfStrand s, fun h => ?bz, fun h => ?bnz, fun h => ?bkany,
    fun h => ?bkall, fun h => ?loop⟩
  case jmp => rw [exec_jmp, execJmp, checked_of_ready h, State.jumpTo_eq_jumped, State.target_eq_branchTo]
  case jal => rw [exec_jal, execJal, checked_of_ready h, State.jumpTo_writeS, State.target_eq_branchTo]
  case jr =>
    rw [exec_jr, execJr, checked_of_ready h]
    exact congrArg Host.Outcome.next ((if_neg (not_not.2 halign)).trans (State.jumpTo_writeS ..))
  case misaligned =>
    rw [exec_jr, execJr, checked_of_ready h]
    exact congrArg Host.Outcome.next (if_pos halign)
  case bz => rw [exec_bz, execBz, checked_of_ready h, State.branchIf_eq_branched]
  case bnz => rw [exec_bnz, execBnz, checked_of_ready h, State.branchIf_eq_branched]
  case bkany => rw [exec_bkany, execBkany, checked_of_ready h, State.branchIf_eq_branched]
  case bkall =>
    rw [exec_bkall, execBkall, checked_of_ready h, State.branchIf_eq_branched]
    rfl
  case loop =>
    rw [exec_loop, execLoop, checked_of_ready h]
    simp only [State.branchIf_writeS, sub_one_bne_zero]

end Sys2Proof.Proofs
end

section
/-! SUPPORT. A `migr` to a core of a quire that no partition owns, by an address in a window other than 0. -/

namespace Sys2Proof.Machine

open Sys2Proof.Claims

/-- The place of core 64, in quire 16, by its address in window 1 (R160). -/
def windowOfCore64 : Word := 0x01FFFFF104000000

/-- A strand at reset that has that address in s1: no partition owns a quire. -/
def awayInWindow : State := State.reset.setStrand ⟨0, 0⟩ { Strand.none with regs := Strand.none.regs.setS 1 windowOfCore64 }

/-- A `migr` to the place that s1 names. -/
def migrateToS1 : CWord := { ext := .lone 0, la := 0, d := 0, ta := .s, a := 1, b := 0, msk := 0 }

/-- The `migr` raises APERTURE with the window of its address in INFO (R404). -/
theorem info_of_migrateToS1 : ∃ t, exec (.migr migrateToS1) awayInWindow = .next t ∧ t.me.fault.map (·.info) = some 0x100 := ⟨_, rfl, by decide⟩

end Sys2Proof.Machine
end

section
/-! PROOF. The ends of strands. -/

namespace Sys2Proof.Proofs

open Sys2Proof.Machine Sys2Proof.Claims

/-- Refutes O16: the clause on `migr` has APERTURE raised with an INFO of 0, where the fault of an access through another window than 0 has the
window's number in INFO (R404, as `accessInfo` has it). `awayInWindow` is such a state (`info_of_migrateToS1`). -/
theorem not_endingStrands : ¬ Obligations.EndingStrands := by
  intro hends
  obtain ⟨-, -, hmigr, -⟩ := hends migrateToS1 awayInWindow
  have hready : Ready (.migr migrateToS1) awayInWindow := ⟨by decide, fun _ => by decide⟩
  have hexec : exec (.migr migrateToS1) awayInWindow = .next (awayInWindow.raise { code := .aperture, va := windowOfCore64 }) := by
    rw [hmigr hready]
    have ha : awayInWindow.opA migrateToS1 = windowOfCore64 := by decide
    rw [ha]
    have hkept : ¬(awayInWindow.me.kind = .epilogue ∨ awayInWindow.me.kind = .checkpoint ∨ awayInWindow.me.frames ≠ []) := by decide
    rw [if_neg hkept, if_neg (by decide), if_pos (by decide)]
  obtain ⟨t, hnext, hinfo⟩ := info_of_migrateToS1
  have ht := Host.Outcome.next.inj (hnext.symm.trans hexec)
  have hfree : awayInWindow.endBefore.me.owes = false := by decide
  rw [ht, State.me_raise_of_free _ hfree] at hinfo
  exact absurd hinfo (by decide)

end Sys2Proof.Proofs
end

section
/-! SUPPORT. Join counters (R209), the fork of a child (R209) and the child run in place (R212). -/

namespace Sys2Proof.Machine

open Sys2Proof.Claims

/-! ## The bytes of a counter -/

theorem Bytes.toNat_lt (l : List Byte) : Bytes.toNat l < 256 ^ l.length := by
  induction l with
  | nil => exact Nat.one_pos
  | cons b l ih =>
    have hbyte : b.toNat < 256 := b.isLt
    rw [Bytes.toNat, List.length_cons, Nat.pow_succ]
    omega

namespace State
variable (s : State)

theorem scratchBytes_length (off n : Nat) : (s.scratchBytes off n).length = n := by rw [scratchBytes, memLoad, List.length_map, List.length_range]

theorem counterValue_eq_zero_iff (off : Nat) : s.counterValue off = 0 ↔ Bytes.toNat (s.scratchBytes off 8) = 0 := by
  have hlt := Bytes.toNat_lt (s.scratchBytes off 8)
  rw [scratchBytes_length, show 256 ^ 8 = 2 ^ 64 from rfl] at hlt
  rw [counterValue, ← BitVec.toNat_inj, BitVec.toNat_ofNat, Nat.mod_eq_of_lt hlt]
  rfl

/-- Own bytes that an atomic may access are a counter's place (R209). -/
theorem counterPlace_of_ownBytes {off : Nat} (h : OwnBytes s .load off 8) (hatomic : s.ownProtection .atomic off 8 = true) :
    s.counterPlace (Claims.ownVa off) = .ok off := by
  have hplace : s.place (fullForm .load false) (Claims.ownVa off) = .ok (.scratch off 0 0) := place_of_ownBytes' h
  obtain ⟨-, -, hbound, -, -⟩ := h
  simp only [counterPlace, inAperture_of_own rfl hbound, hplace, hatomic, Bool.not_true, Bool.and_false, Bool.false_eq_true, if_false, if_true]

theorem isBound_eq_false {t : Strand} (hepilogue : t.kind ≠ .epilogue) (hcheckpoint : t.kind ≠ .checkpoint) : isBound t = false := by
  simp [isBound, hepilogue, hcheckpoint]

/-! ## What a bundle that holds an effect leaves -/

theorem regs_holding (h : Held) (sectors : List Nat) : (holding s h sectors).me.regs = s.me.regs := by
  rw [me, cur_holding, holding, strand_useLines]
  exact (congrArg Strand.regs (me_setMe s _) :)

theorem me_updMyCore {f : Core → Core} (hslots : (f s.myCore).slots = s.myCore.slots) : (s.updMyCore f).me = s.me := strand_updCore s hslots s.cur

theorem advance_noteReads (sectors : List Nat) : (s.noteReads sectors).advance = Claims.wrote (reading s sectors) s.me.regs := by
  have hregs : (s.noteReads sectors).me.regs = s.me.regs := regs_reading s sectors
  rw [advance_eq_wrote, hregs]
  rfl

/-! ## The child run in place (R212) -/

/-- The joiner's frame (R212). -/
def joinerFrame : Frame := { s := s.me.regs.s, flags := s.me.regs.flags, pc := s.bpc, counter := s.me.counter }

/-- The registers with which the child starts in its joiner's slot (R212). -/
def childRegs (d : Desc) : Regs :=
  { s.me.regs with
    s := Vector.ofFn fun i => if i.val < 14 then d.regs.getD i.val 0 else if i.val = 14 then BitVec.ofNat 64 s.cur.core else 0
    pc := d.pc, flags := d.flags &&& ~~~0x7F0#64 }

theorem me_updTask (n : Nat) (f : Task → Task) : (s.updTask n f).me = s.me := by
  unfold updTask
  split <;> rfl

/-- The strand goes on as its child. -/
theorem me_runInline (d : Desc) : (s.runInline d).me = { s.me.withFlags (s.childRegs d) with
    frames := s.joinerFrame :: s.me.frames, counter := some d.counter, scaleBase := 0, wait := .untilCycle (s.now + 1), received := []
    opened := { s.me.opened with held := s.me.opened.held ++ [.pop d] } } := by
  have hme : (s.updMyCore fun c => { c with deque := c.deque.dropLast }).me = s.me := me_updMyCore s rfl
  rw [runInline, me_updTask]
  refine (me_updMe _ _).trans ?_
  rw [hme]
  rfl

theorem deque_updMe (f : Strand → Strand) : (s.updMe f).myCore.deque = s.myCore.deque := by
  have hcore : (s.updMe f).myCore = { s.myCore with slots := put s.cur.slot (f s.me) s.myCore.slots } := core_updCore s s.cur.core _
  rw [hcore]

theorem deque_runInline (d : Desc) : ((s.runInline d).core s.cur.core).deque = s.myCore.deque.dropLast := by
  have hpopped : (s.updMyCore fun c => { c with deque := c.deque.dropLast }).myCore.deque = s.myCore.deque.dropLast := by
    rw [myCore, updMyCore]
    exact congrArg Core.deque (core_updCore s s.cur.core fun c => { c with deque := c.deque.dropLast })
  rw [runInline, core, cores_updTask]
  exact (deque_updMe _ _).trans hpopped

end State
end Sys2Proof.Machine
end

section
/-! PROOF. Forks and joins. -/

namespace Sys2Proof.Proofs

open Sys2Proof.Machine Sys2Proof.Claims

/-- Settles O17: the counter's place and value are the spec's, and the join's three ways are the three looks at the deque. -/
theorem forksAndJoins : Obligations.ForksAndJoins := by
  intro c s off
  refine ⟨fun h hva hown hatomic hepilogue hcheckpoint => ?fork, fun h hva hown hatomic => ?join⟩
  all_goals have hplace := State.counterPlace_of_ownBytes s hown hatomic
  case fork =>
    rw [exec_fork, execFork, checked_of_ready h, hva, hplace, State.isBound_eq_false hepilogue hcheckpoint, if_neg Bool.false_ne_true]
    refine congrArg Host.Outcome.next ?_
    refine if_congr Iff.rfl ?_ (State.advance_writeS ..)
    dsimp only
    rw [State.noteWrites_hold, State.advance_writeS, State.regs_holding, State.me_updMyCore, State.target_eq_branchTo]
    rfl
  case join =>
    rw [exec_join, execJoin, checked_of_ready h, hva, hplace]
    dsimp only
    rw [ne_eq, ← State.counterValue_eq_zero_iff]
    refine ⟨fun hzero => ?zero, fun hcount hnone => ?sleeps, fun d hcount hlast hchild hframes => ?child⟩
    case zero => rw [if_pos hzero, State.advance_noteReads]
    case sleeps =>
      rw [if_neg hcount]
      refine congrArg Host.Outcome.next ?_
      cases hlast : s.myCore.deque.getLast? with
      | none => rfl
      | some d =>
        refine if_neg fun hruns => ?_
        simp only [Bool.and_eq_true, decide_eq_true_eq] at hruns
        exact Nat.not_lt.2 (hnone d hlast hruns.1) hruns.2
    case child =>
      rw [if_neg hcount, hlast]
      have hruns : (decide (d.counter = (s.cur.core, off)) && decide (s.me.frames.length < 4)) = true := by simp [hchild, hframes]
      refine ⟨_, congrArg Host.Outcome.next (if_pos hruns), rfl, ?_⟩
      have hme : ({ s.runInline d with issue := .goes } : State).me = _ := State.me_runInline s d
      rw [hme]
      refine ⟨rfl, rfl, rfl, rfl, rfl, rfl, fun j => ?_, ?_, ?_, rfl, rfl, State.deque_runInline s d⟩
      · exact (Vector.getElem_ofFn _).trans (if_pos j.isLt)
      · exact Vector.getElem_ofFn _
      · exact Vector.getElem_ofFn _

end Sys2Proof.Proofs
end

section
/-! SUPPORT. What units of the package read and write (R138-R140, R150-R152, R296) leaves every partition as it was. -/

namespace Sys2Proof.Machine

open Sys2Proof.Claims

namespace State
variable (s : State)

/-! ## Reads of units -/

/-- All that a unit's read of a line leaves as it is: what a read at a home does, and the other packages' holders and free values. -/
def offUnit (s : State) : State := { s.offHome with podDir := [], free := 0 }

theorem offUnit_of_offHome {t u : State} (h : t.offHome = u.offHome) : t.offUnit = u.offUnit :=
  congrArg (fun v : State => { v with podDir := [], free := 0 }) h

theorem offUnit_toFabric (p : FabricPacket) : (s.toFabric p).offUnit = s.offUnit := offUnit_of_offHome (offHome_lineOp (LineOp.toFabric p) s)
theorem offUnit_l2Put (l : L2Line) : (s.l2Put l).offUnit = s.offUnit := offUnit_of_offHome (offHome_lineOp (LineOp.l2Put l) s)
theorem offUnit_homeLine (w : WalkFor) : (s.homeLine w).1.offUnit = s.offUnit := offUnit_of_offHome (offHome_homeLine w)

theorem offUnit_peerAnswer (w : WalkFor) : (s.peerAnswer w).1.offUnit = s.offUnit := by
  dsimp only [peerAnswer]
  split <;> rfl

/-- The line as it was found at its peer is kept where the package has it. -/
theorem offUnit_refreshed (part line : Nat) (f : L2Line → L2Line) :
    (match s.l2Find part line with | some l => s.l2Put (f l) | none => s).offUnit = s.offUnit := by
  split
  · exact offUnit_l2Put s _
  · rfl

theorem offUnit_unitLine (w : WalkFor) : (s.unitLine w).1.offUnit = s.offUnit := by
  unfold unitLine
  extract_lets line write pkg held r ask
  have hasked (held : Option L2Line) : (ask held).1.offUnit = s.offUnit := by
    have hr : r.1.offUnit = s.offUnit := (offUnit_peerAnswer _ w).trans (offUnit_toFabric s _)
    unfold ask
    split
    · exact hr
    · exact (offUnit_l2Put _ _).trans hr
  split
  · cases held with
    | none => exact hasked none
    | some l =>
      dsimp only
      split
      · rfl
      · exact hasked (some l)
  · split
    · exact offUnit_homeLine s w
    · extract_lets s1
      have hrecalled : s1.offUnit = s.offUnit := foldl_keeps offUnit (fun s p => offUnit_toFabric s _) _ _
      have hline := (offUnit_homeLine s1 w).trans hrecalled
      split
      · next s2 _ b g heq =>
        rw [heq] at hline
        have hpeer := (offUnit_peerAnswer s2 w).trans hline
        split
        · exact hline
        · split
          · next heq' =>
            rw [heq'] at hpeer
            exact (offUnit_refreshed _ _ _ _).trans hpeer
          · next heq' =>
            rw [heq'] at hpeer
            exact hpeer
      · exact hline

theorem partitions_unitLine (w : WalkFor) : (s.unitLine w).1.partitions = s.partitions := (congrArg State.partitions (offUnit_unitLine s w) :)

theorem offUnit_unitReadLine (part ctx : Nat) (priv : Bool) (va n : Nat) : (s.unitReadLine part ctx priv va n).1.offUnit = s.offUnit := by
  have hline := offUnit_unitLine s { part := part, ctx := ctx, va := va, acc := .load, priv := priv }
  unfold unitReadLine
  split
  · rfl
  split
  · next heq => rw [heq] at hline; exact hline
  · next heq =>
    rw [heq] at hline
    split
    · exact hline
    · exact hline

theorem offUnit_unitRead (part ctx va n : Nat) : (s.unitRead part ctx va n).1.offUnit = s.offUnit := by
  refine foldl_keeps (fun acc : State × Except FaultInfo (List Byte) => acc.1.offUnit) (fun acc _ => ?_) _ (s, .ok [])
  obtain ⟨u, r⟩ := acc
  cases r with
  | error f => rfl
  | ok b =>
    have hline := offUnit_unitReadLine u part ctx true (va + b.length) (min (n - b.length) (256 - (va + b.length) % 256))
    dsimp only
    split
    · rfl
    split
    · next heq => rw [heq] at hline; exact hline
    · next heq => rw [heq] at hline; exact hline

theorem offUnit_classEntry (part ctx cls : Nat) : (s.classEntry part ctx cls).1.offUnit = s.offUnit := by
  have hread := offUnit_unitRead s part ctx ((s.context part ctx).clsTab.toNat + 64 * cls) 64
  unfold classEntry
  split
  · next heq => rw [heq] at hread; exact hread
  · next heq => rw [heq] at hread; exact hread

/-! ## Writes of units -/

theorem partitions_toFabric (p : FabricPacket) : (s.toFabric p).partitions = s.partitions := (congrArg State.partitions (offUnit_toFabric s p) :)

theorem partitions_updStrand (r : Ref) (f : Strand → Strand) : (s.updStrand r f).partitions = s.partitions :=
  (congrArg State.partitions (offCore_updStrand s r f) :)

theorem partitions_leaveL1 (n : Nat) (f : L1Line → Bool) : (s.leaveL1 n f).partitions = s.partitions :=
  (congrArg State.partitions (offCore_leaveL1 s n f) :)

theorem partitions_writeStore (core off : Nat) (data : List Byte) : (s.writeStore core off data).partitions = s.partitions :=
  (congrArg State.partitions (offCore_writeStore s core off data) :)

theorem partitions_performWrite (w : CowWrite) : (s.performWrite w).partitions = s.partitions :=
  (congrArg State.partitions (offLines_performWrite s w) :)

theorem partitions_recallFrom (part line : Nat) (w : Option CowWrite) (pkg : Nat) : (s.recallFrom part line w pkg).partitions = s.partitions := by
  cases w with
  | none => exact partitions_toFabric s _
  | some w =>
    have hmine (c : Bool) (f : Strand → Strand) : (if c then s.updStrand w.who f else s).partitions = s.partitions := by
      cases c with
      | false => rfl
      | true => exact partitions_updStrand s w.who f
    unfold recallFrom
    dsimp only
    split
    case h_1 | h_2 | h_3 => exact partitions_toFabric s _
    case h_4 => exact (partitions_toFabric _ _).trans (hmine _ _)
    case h_5 => exact (partitions_toFabric _ _).trans (hmine _ _)

theorem partitions_podRecall (part line : Nat) (w : Option CowWrite) : (s.podRecall part line w).partitions = s.partitions := by
  unfold podRecall
  split
  · rfl
  · exact foldl_keeps State.partitions (fun s p => partitions_recallFrom s part line w p) _ _

theorem partitions_invalidateNow (part line : Nat) : (s.invalidateNow part line).partitions = s.partitions := by
  refine foldl_keeps State.partitions (fun s c => ?_) _ s
  unfold invalidated
  split
  · rfl
  · exact partitions_leaveL1 s c _

theorem partitions_cowDefer {w : CowWrite} {t : State} (h : s.cowDefer w = some t) : t.partitions = s.partitions := by
  dsimp only [cowDefer] at h
  split at h
  · cases h
  split at h
  · cases h
  split at h
  · cases h; rfl
  split at h
  · cases h; rfl
  · cases h; rfl
  · cases h

theorem partitions_unitPerform (w : CowWrite) : (s.unitPerform w).partitions = s.partitions :=
  (partitions_invalidateNow _ _ _).trans ((partitions_podRecall _ _ _ _).trans (partitions_performWrite s w))

theorem partitions_unitWriteLine (part ctx : Nat) (priv : Bool) (edition : W32) (va : Nat) (data : List Byte) :
    (s.unitWriteLine part ctx priv edition va data).1.partitions = s.partitions := by
  have hline := partitions_unitLine s { part := part, ctx := ctx, va := va, acc := .store, priv := priv }
  unfold unitWriteLine
  split
  · rfl
  split
  · next heq => rw [heq] at hline; exact hline
  · next heq =>
    rw [heq] at hline
    split
    · exact hline
    · dsimp only
      split
      · next hdefer => exact (partitions_cowDefer _ hdefer).trans hline
      · exact (partitions_unitPerform _ _).trans hline

theorem partitions_unitWrite (part ctx va : Nat) (data : List Byte) : (s.unitWrite part ctx va data).1.partitions = s.partitions := by
  refine foldl_keeps (fun acc : (State × Except FaultInfo Unit) × Nat × List Byte => acc.1.1.partitions) (fun acc _ => ?_) _ ((s, .ok ()), va, data)
  obtain ⟨⟨u, r⟩, a, rest⟩ := acc
  cases r with
  | error f => rfl
  | ok =>
    dsimp only
    split
    · rfl
    · exact partitions_unitWriteLine u part ctx true _ a _

theorem partitions_headerPut (e : Edition) (off : Nat) (data : List Byte) : (s.headerPut e off data).partitions = s.partitions :=
  partitions_unitWrite s _ _ _ _

end State
end Sys2Proof.Machine
end

section
/-! SUPPORT. What a partition's end discards (R299, R358), and the strands that its checkpoint starts (R389), leave of the partitions. -/

namespace Sys2Proof.Machine

open Sys2Proof.Claims

namespace State
variable (s : State)

/-! ## Reads and writes of engines -/

theorem partitions_engineByte (x : CmdCtx) (va : Nat) : (s.engineByte x va).1.partitions = s.partitions := by
  have hread : (s.unitReadLine x.part x.ctx x.priv va 1).1.partitions = s.partitions := (congrArg State.partitions (offUnit_unitReadLine s ..) :)
  unfold engineByte
  split
  · rfl
  split
  · split
    · rfl
    · rfl
  · split
    · next heq => rw [heq] at hread; exact hread
    · next heq => rw [heq] at hread; exact hread

theorem partitions_engineBytes (x : CmdCtx) (a n : Nat) : (engineBytes x a n s).1.partitions = s.partitions := by
  induction n with
  | zero => rfl
  | succ n ih =>
    unfold engineBytes
    split
    · next heq => rw [heq] at ih; exact ih
    · next s1 _ heq =>
      rw [heq] at ih
      have hbyte := (partitions_engineByte s1 x ((a + n) % 2 ^ 64)).trans ih
      split
      · next heq => rw [heq] at hbyte; exact hbyte
      · next heq => rw [heq] at hbyte; exact hbyte

theorem partitions_readOrigins (x : CmdCtx) (bytes : List (Nat × Origin)) : (s.readOrigins x bytes).1.partitions = s.partitions := by
  refine foldl_keeps (fun acc : State × List (Nat × Except JobFault Byte) => acc.1.partitions) (fun acc b => ?_) bytes (s, [])
  dsimp only
  split
  · rfl
  · exact partitions_engineByte acc.1 x _

theorem partitions_engineMayPut (x : CmdCtx) (va : Nat) : (s.engineMayPut x va).1.partitions = s.partitions := by
  have hline := partitions_unitLine s { part := x.part, ctx := x.ctx, va := va, acc := .store, priv := x.priv }
  unfold engineMayPut
  split
  · rfl
  split
  · rfl
  split
  · rfl
  split
  · next heq => rw [heq] at hline; exact hline
  · next heq => rw [heq] at hline; exact hline

theorem partitions_setFull (core : Nat) (set clr : NatSet) : (s.setFull core set clr).partitions = s.partitions := by
  refine (foldl_keeps State.partitions (f := fun s r => s.emit 4 (.ldfWake r)) (fun _ _ => rfl) _ _).trans ?_
  exact foldl_keeps State.partitions (f := fun s n => s.emit 0 (.wemptyWrite core n)) (fun _ _ => rfl) _ _

theorem partitions_putSector (q engine core off : Nat) (data : List (Nat × Byte)) : (s.putSector q engine core off data).partitions = s.partitions := by
  unfold putSector
  dsimp only
  split
  · exact (partitions_setFull _ _ _ _).trans (partitions_writeStore s _ _ _)
  · exact partitions_writeStore s _ _ _

theorem partitions_engineSector (x : CmdCtx) (engine sector : Nat) (data : List (Nat × Byte)) :
    (s.engineSector x engine sector data).partitions = s.partitions := by
  unfold engineSector
  dsimp only
  split
  · split
    · rfl
    · exact partitions_putSector s _ _ _ _ _
  · exact foldl_keeps State.partitions (fun s b => partitions_unitWriteLine s _ _ _ _ _ _) data s

theorem partitions_moveBytes (x : CmdCtx) (engine : Nat) (bytes : List (Nat × Origin)) : (s.moveBytes x engine bytes).1.partitions = s.partitions := by
  have hread := partitions_readOrigins s x bytes
  unfold moveBytes
  split
  next s1 got heq =>
  rw [heq] at hread
  split
  next s2 bad heq' =>
  have hmay : s2.partitions = s1.partitions := by
    refine (congrArg (fun acc : State × List (Nat × JobFault) => acc.1.partitions) heq').symm.trans ?_
    refine foldl_keeps (fun acc : State × List (Nat × JobFault) => acc.1.partitions) (fun acc b => ?_) got (s1, [])
    have hput := partitions_engineMayPut acc.1 x b.1
    split
    · rfl
    · split
      · next heq => rw [heq] at hput; exact hput
      · next heq => rw [heq] at hput; exact hput
  refine (foldl_keeps State.partitions (fun s n => ?_) _ s2).trans (hmay.trans hread)
  split
  · rfl
  split
  · exact partitions_engineSector s _ _ _ _
  split
  · exact partitions_engineSector _ _ _ _ _
  · rfl

/-! ## The decoders -/

theorem partitions_folioFails (x : CmdCtx) (c : DecodeCmd) (reason : Nat) : (s.folioFails x c reason).1.partitions = s.partitions := by
  unfold folioFails
  dsimp only
  split
  · exact partitions_moveBytes _ _ _ _
  · rfl

theorem partitions_folioRun (x : CmdCtx) (c : DecodeCmd) : (s.folioRun x c).1.partitions = s.partitions := by
  have hread := partitions_engineBytes s x c.input.toNat c.inLen.toNat
  unfold folioRun
  split
  · next heq => rw [heq] at hread; exact hread
  next s1 page heq =>
  rw [heq] at hread
  have hfails (reason : Nat) : (s1.folioFails x c reason).1.partitions = s.partitions := (partitions_folioFails s1 x c reason).trans hread
  split
  · exact hfails _
  extract_lets w h s2
  split
  · exact hfails _
  split
  · exact hfails _
  split
  · exact hfails _
  extract_lets out r cycles
  split
  · exact hfails _
  have hfree : s2.partitions = s.partitions := hread
  clear_value s2 out
  have hmoved : r.1.partitions = s.partitions := (partitions_moveBytes s2 x 3 _).trans hfree
  clear_value r
  split
  · exact hmoved
  · exact hmoved

theorem partitions_folioStart (d : Nat) : (s.folioStart d).partitions = s.partitions := by
  unfold folioStart
  split
  · rfl
  · exact partitions_folioRun s _ _

theorem partitions_unitsGoOn : s.unitsGoOn.partitions = s.partitions := by
  refine foldl_keeps State.partitions (fun s k => ?_) _ s
  extract_lets s1
  have hdecoder : s1.partitions = s.partitions := by
    unfold s1
    split
    · split
      · exact partitions_folioStart s k
      · rfl
    · rfl
  clear_value s1
  split
  · exact hdecoder
  · exact hdecoder

/-! ## Checkpoint strands -/

theorem partitions_useLines (r : Ref) (vas : List Nat) : (s.useLines r vas).partitions = s.partitions := by
  unfold useLines
  split
  · rfl
  · rfl

theorem partitions_copyStart (r : Ref) : (s.copyStart r).partitions = s.partitions := by
  have hfault (c : EventCode) (va : Nat) : (s.copyFault r c va).partitions = s.partitions := partitions_updStrand s r _
  have hcopied (b : List Byte) : (s.copied r b).partitions = s.partitions := partitions_updStrand s r _
  have hused (b : List Byte) (vas : List Nat) : ((s.copied r b).useLines r vas).partitions = s.partitions := (partitions_useLines _ r vas).trans (hcopied b)
  have hasked : (s.updStrand r fun t => { t with copy := .asked }).partitions = s.partitions := partitions_updStrand s r _
  have hremote : (s.updStrand r fun t => { t with copy := .remote [] }).partitions = s.partitions := partitions_updStrand s r _
  unfold copyStart
  extract_lets t c va off
  split
  · exact hfault _ _
  split
  · exact hfault _ _
  split
  · split
    · exact hfault _ _
    split
    · split
      · exact hfault _ _
      split
      · exact hfault _ _
      split
      · rfl
      · exact hcopied _
    split
    · exact hremote
    · exact hfault _ _
  split
  · exact hfault _ _
  split
  · exact hused _ _
  · split
    · exact hasked
    · exact hasked

theorem partitions_begin_ (r : Ref) (l : Launch) (d : Nat) : (s.begin_ r l d).partitions = s.partitions := by
  unfold begin_
  dsimp only
  split
  · exact partitions_copyStart _ r
  · exact partitions_copyStart _ r

theorem partitions_startCheckpoint (part ctx core : Nat) (code : EventCode) (info : Word) :
    (s.startCheckpoint part ctx core code info).partitions = s.partitions := by
  have hentry : (s.checkpointEntry part ctx).1.partitions = s.partitions := by
    have hclass (cls : Nat) : (s.classEntry part ctx cls).1.partitions = s.partitions := (congrArg State.partitions (offUnit_classEntry s part ctx cls) :)
    unfold checkpointEntry
    dsimp only
    split
    · rfl
    split
    · next heq => exact (congrArg (fun r => r.1.partitions) heq).symm.trans (hclass _)
    · next heq => exact (congrArg (fun r => r.1.partitions) heq).symm.trans (hclass _)
  unfold startCheckpoint
  split
  · next heq => rw [heq] at hentry; exact hentry
  · next heq =>
    rw [heq] at hentry
    exact (partitions_begin_ _ _ _ _).trans hentry

theorem partitions_startCheckpoints (part : Nat) (code : EventCode) (info : Word) : (s.startCheckpoints part code info).partitions = s.partitions := by
  have hstarts (cores : List Nat) : ((List.range 64).foldl (fun (s : State) c =>
      match cores[c / 12]? with
      | some core => s.startCheckpoint part c core code info
      | none => s) s).partitions = s.partitions := by
    refine foldl_keeps State.partitions (fun s c => ?_) _ s
    split
    · exact partitions_startCheckpoint s _ _ _ _ _
    · rfl
  unfold startCheckpoints
  extract_lets lowest cores s1
  split
  · rfl
  have hs1 : s1.partitions = s.partitions := hstarts cores
  clear_value s1
  split
  · exact hs1
  · exact hs1

end State
end Sys2Proof.Machine
end

section
/-! SUPPORT. Partition events (R385, R388), squashes by a parity error (R386) and what lasts of a partition. -/

namespace Sys2Proof

/-! ## Tables and folds -/

/-- What entries keep when a table is mapped, the table keeps at each key. -/
theorem look_map_keeps {α β : Type} (g : α → β) (d : α) (f : Nat × α → Nat × α) (hkey : ∀ e, (f e).1 = e.1) (hval : ∀ e, g (f e).2 = g e.2)
    (k : Nat) (t : Table α) : g (look d k (t.map f)) = g (look d k t) := by
  induction t with
  | nil => rfl
  | cons e t ih =>
    rw [List.map_cons, look, look, hkey]
    split
    · exact hval e
    · exact ih

namespace Machine

open Sys2Proof.Claims

theorem foldl_of_idle {α β : Type} {f : β → α → β} {u : β} (l : List α) (h : ∀ k ∈ l, f u k = u) : l.foldl f u = u := by
  induction l with
  | nil => rfl
  | cons x xs ih => rw [List.foldl_cons, h x List.mem_cons_self, ih fun k hk => h k (List.mem_cons_of_mem x hk)]

/-- A fold that only one element of its list changes. -/
theorem foldl_at_one {α β : Type} {f : β → α → β} {l : List α} {p : α} {u : β} (hl : l.Nodup) (hp : p ∈ l)
    (hbefore : ∀ k ∈ l, k ≠ p → f u k = u) (hafter : ∀ k ∈ l, k ≠ p → f (f u p) k = f u p) : l.foldl f u = f u p := by
  obtain ⟨pre, post, rfl⟩ := List.append_of_mem hp
  have hpre : p ∉ pre := fun h => (List.nodup_append.1 hl).2.2 p h p List.mem_cons_self rfl
  have hpost : p ∉ post := (List.nodup_cons.1 (List.nodup_append.1 hl).2.1).1
  rw [List.foldl_append, foldl_of_idle pre fun k hk => hbefore k (List.mem_append_left _ hk) fun h => hpre (h ▸ hk), List.foldl_cons]
  exact foldl_of_idle post fun k hk => hafter k (List.mem_append_right _ (List.mem_cons_of_mem p hk)) fun h => hpost (h ▸ hk)

namespace State
variable (s : State)

/-! ## Whether partitions run -/

theorem partition_congr {s t : State} (h : t.partitions = s.partitions) (k : Nat) : t.partition k = s.partition k := congrArg (look Partition.reset k) h

theorem running_of_pctl {s t : State} {k : Nat} (h : (t.partition k).pctl = (s.partition k).pctl) : t.running k = s.running k := by
  rw [running, h]
  rfl

theorem partition_updPartition_same (n : Nat) (f : Partition → Partition) : (s.updPartition n f).partition n = f (s.partition n) :=
  partition_setPartition s n _

/-- What an update leaves of one partition it leaves of all. -/
theorem of_partition_updPartition {β : Type} (g : Partition → β) {n : Nat} {f : Partition → Partition} (hf : ∀ p, g (f p) = g p) (k : Nat) :
    g ((s.updPartition n f).partition k) = g (s.partition k) := by
  by_cases hk : k = n
  · rw [hk, partition_updPartition_same, hf]
  · exact congrArg g (look_put_other _ hk _ _)

theorem partition_raiseVector (part vec k : Nat) : (s.raiseVector part vec).partition k = s.partition k := rfl

theorem partition_dropLines (part k : Nat) : (s.dropLines part).partition k = s.partition k := rfl

theorem pctl_discardWork (part k : Nat) : ((s.discardWork part).partition k).pctl = (s.partition k).pctl := by
  refine (congrArg Partition.pctl (partition_congr (partitions_unitsGoOn _) k)).trans ?_
  refine look_map_keeps Partition.pctl _ _ (fun e => ?_) (fun e => ?_) k s.partitions
  · split <;> rfl
  · split <;> rfl

/-! ## Partition events (R385, R388) -/

/-- An event record of a partition and vector 0, `m` being the memory after the record (R366, R388). -/
def recorded (part : Nat) (m : Mem) : State :=
  ({ s with hbm := m }.updPartition part fun p => { p with evCnt := p.evCnt + 1 }).raiseVector part 0

theorem pctl_recorded (part : Nat) (m : Mem) (k : Nat) : ((s.recorded part m).partition k).pctl = (s.partition k).pctl :=
  of_partition_updPartition { s with hbm := m } Partition.pctl (f := fun p => { p with evCnt := p.evCnt + 1 }) (fun _ => rfl) k

theorem evCnt_recorded (part : Nat) (m : Mem) : ((s.recorded part m).partition part).evCnt = (s.partition part).evCnt + 1 :=
  congrArg Partition.evCnt (partition_updPartition_same { s with hbm := m } part fun p => { p with evCnt := p.evCnt + 1 })

theorem pctl_report (part : Nat) (ctx : Option Nat) (code : Byte) (src unit : Nat) (info : Word) (detail : List Byte) (k : Nat) :
    ((s.report part ctx code src unit info detail).partition k).pctl = (s.partition k).pctl := by
  obtain ⟨m, hm⟩ := report_eq s part ctx code src unit info detail
  rw [hm]
  exact pctl_recorded s part m k

theorem pctl_abortEdition (part cause : Nat) (page : Word) (k : Nat) : ((s.abortEdition part cause page).partition k).pctl = (s.partition k).pctl := by
  unfold abortEdition
  split
  · rfl
  · next e _ =>
    have hheader := congrArg Partition.pctl (partition_congr (partitions_headerPut s e 4 [2]) k)
    rw [partition_raiseVector, pctl_report]
    exact hheader

/-- A partition event in the checkpoint state is counted, and vector 0 raised (R388): no link, no error count and no time changes. -/
structure EventRecorded (s t : State) (part : Nat) : Prop where
  evCnt : (t.partition part).evCnt = (s.partition part).evCnt + 1
  msix : t.msix = s.msix ++ [(part, 0)]
  portsUp : t.portsUp = s.portsUp
  uncorrected : t.uncorrected = s.uncorrected
  now : t.now = s.now

theorem EventRecorded.congr {s t u : State} {part : Nat} (h : EventRecorded u t part) (hoff : u.offFabric = s.offFabric) : EventRecorded s t part where
  evCnt := h.evCnt.trans (congrArg (fun v : State => (v.partition part).evCnt + 1) hoff :)
  msix := h.msix.trans (congrArg (fun v : State => v.msix ++ [(part, 0)]) hoff :)
  portsUp := h.portsUp.trans (congrArg State.portsUp hoff :)
  uncorrected := h.uncorrected.trans (congrArg State.uncorrected hoff :)
  now := h.now.trans (congrArg State.now hoff :)

theorem eventRecorded_recorded (part : Nat) (m : Mem) : EventRecorded s (s.recorded part m) part := ⟨evCnt_recorded s part m, rfl, rfl, rfl, rfl⟩

section
variable (part : Nat) (code : EventCode) (src unit : Nat) (info : Word) (detail : List Byte)

/-- In the checkpoint state a partition event is its record and vector 0. -/
theorem partitionEvent_of_checkpointing {part : Nat} (hrun : s.running part = true) (hcheckpoint : s.checkpointing part = true) :
    ∃ m, s.partitionEvent part code src unit info detail = s.recorded part m := by
  obtain ⟨m, hm⟩ := report_eq s part none code.byte src unit info detail
  refine ⟨m, ?_⟩
  simp only [partitionEvent, hrun, hcheckpoint, Bool.not_true, Bool.false_eq_true, if_false, if_true, hm]
  rfl

/-- Otherwise the partition enters the checkpoint state, with its work and its lines gone. -/
theorem partitions_partitionEvent {part : Nat} (hrun : s.running part = true) (hcheckpoint : s.checkpointing part = false) :
    (s.partitionEvent part code src unit info detail).partitions =
      (((((s.abortEdition part 6 0).discardWork part).dropLines part).report part none code.byte src unit info detail).updPartition part
        fun p => { p with checkpoint := true }).partitions := by
  simp only [partitionEvent, hrun, hcheckpoint, Bool.not_true, Bool.false_eq_true, if_false]
  exact partitions_startCheckpoints _ part code info

theorem checkpoint_partitionEvent {part : Nat} (hrun : s.running part = true) (hcheckpoint : s.checkpointing part = false) :
    ((s.partitionEvent part code src unit info detail).partition part).checkpoint = true := by
  rw [partition_congr (partitions_partitionEvent s code src unit info detail hrun hcheckpoint), partition_updPartition_same]

/-- No partition event starts or stops a partition. -/
theorem pctl_partitionEvent (k : Nat) : ((s.partitionEvent part code src unit info detail).partition k).pctl = (s.partition k).pctl := by
  cases hrun : s.running part with
  | false =>
    rw [partitionEvent, hrun]
    rfl
  | true =>
    cases hcheckpoint : s.checkpointing part with
    | true =>
      obtain ⟨m, hm⟩ := partitionEvent_of_checkpointing s code src unit info detail hrun hcheckpoint
      rw [hm, pctl_recorded]
    | false =>
      rw [partition_congr (partitions_partitionEvent s code src unit info detail hrun hcheckpoint)]
      rw [of_partition_updPartition _ Partition.pctl (f := fun p => { p with checkpoint := true }) (fun _ => rfl), pctl_report,
        partition_dropLines, pctl_discardWork, pctl_abortEdition]

/-- The quiesce collective has left for the other packages of the partition (R388). -/
def quiesceSent : State :=
  ((s.listed part).filter fun k => k != s.pkgid && s.reachable k).foldl (fun (s : State) k =>
    s.toFabric (.collective k part (code == .fabricLoss) info detail)) s

theorem offFabric_quiesceSent : (s.quiesceSent part code info detail).offFabric = s.offFabric :=
  foldl_keeps offFabric (fun s _ => offFabric_toFabric s _) _ s

theorem quiesceAll_of_idle {part : Nat} (hidle : s.running part = false) : s.quiesceAll part code src unit info detail = s := by
  rw [quiesceAll, hidle]
  rfl

theorem quiesceAll_of_running {part : Nat} (hrun : s.running part = true) : s.quiesceAll part code src unit info detail =
    (s.quiesceSent part code info detail).partitionEvent part code src unit info detail := by
  rw [quiesceAll, hrun]
  rfl

/-- In the checkpoint state a quiesce leaves here its record and vector 0. -/
theorem quiesceAll_of_checkpointing {part : Nat} (hrun : s.running part = true) (hcheckpoint : s.checkpointing part = true) :
    EventRecorded s (s.quiesceAll part code src unit info detail) part := by
  have hoff := offFabric_quiesceSent s part code info detail
  rw [quiesceAll_of_running s code src unit info detail hrun]
  generalize s.quiesceSent part code info detail = u at hoff
  have hrun' : u.running part = true := (congrArg (fun v : State => v.running part) hoff :).trans hrun
  have hcheckpoint' : u.checkpointing part = true := (congrArg (fun v : State => v.checkpointing part) hoff :).trans hcheckpoint
  obtain ⟨m, hm⟩ := partitionEvent_of_checkpointing u code src unit info detail hrun' hcheckpoint'
  rw [hm]
  exact (eventRecorded_recorded u part m).congr hoff

theorem checkpoint_quiesceAll {part : Nat} (hrun : s.running part = true) (hcheckpoint : s.checkpointing part = false) :
    ((s.quiesceAll part code src unit info detail).partition part).checkpoint = true := by
  have hoff := offFabric_quiesceSent s part code info detail
  rw [quiesceAll_of_running s code src unit info detail hrun]
  exact checkpoint_partitionEvent _ code src unit info detail ((congrArg (fun v : State => v.running part) hoff :).trans hrun)
    ((congrArg (fun v : State => v.checkpointing part) hoff :).trans hcheckpoint)

theorem pctl_quiesceAll (k : Nat) : ((s.quiesceAll part code src unit info detail).partition k).pctl = (s.partition k).pctl := by
  cases hrun : s.running part with
  | false => rw [quiesceAll_of_idle s code src unit info detail hrun]
  | true =>
    rw [quiesceAll_of_running s code src unit info detail hrun, pctl_partitionEvent]
    exact (congrArg (fun v : State => (v.partition k).pctl) (offFabric_quiesceSent s part code info detail) :)

end

/-! ## A squash (R156, R157) -/

/-- A strand, and the part's count of corrected errors. -/
def strandAndCount (r : Ref) : Strand × Nat := (s.strand r, s.corrected)

theorem strandAndCount_updCore (r : Ref) {n : Nat} {f : Core → Core} (hf : ∀ c, (f c).slots = c.slots) :
    (s.updCore n f).strandAndCount r = s.strandAndCount r :=
  congrArg (fun t => (t, s.corrected)) (strand_updCore s (hf _) r)

theorem strandAndCount_of_cores {t : State} (r : Ref) (hcores : t.cores = s.cores) (hcorrected : t.corrected = s.corrected) :
    t.strandAndCount r = s.strandAndCount r := by
  rw [strandAndCount, strandAndCount, strand, strand, core, core, hcores, hcorrected]

theorem strandAndCount_updTask (r : Ref) (n : Nat) (f : Task → Task) : (s.updTask n f).strandAndCount r = s.strandAndCount r :=
  strandAndCount_of_cores s r (cores_updTask s n f) (by unfold updTask; split <;> rfl)

theorem strandAndCount_offerQuire (r : Ref) (core : Nat) : (s.offerQuire core).strandAndCount r = s.strandAndCount r :=
  foldl_keeps (fun u => u.strandAndCount r) (f := fun u j => u.offer (core / 4 * 4 + (core + j) % 4)) (fun _ _ => rfl) _ s

theorem strandAndCount_unreserve (r : Ref) (core slot : Nat) : (s.unreserve core slot).strandAndCount r = s.strandAndCount r := by
  have hrows (u : State) : (u.offerRows core).strandAndCount r = u.strandAndCount r := by
    unfold offerRows
    split
    · split <;> rfl
    · rfl
  exact (strandAndCount_offerQuire _ r core).trans ((hrows _).trans (strandAndCount_updCore s r fun _ => rfl))

theorem strandAndCount_releaseHeld (r : Ref) (core : Nat) (h : Held) : (s.releaseHeld core h).strandAndCount r = s.strandAndCount r := by
  cases h with
  | posted p =>
    unfold releaseHeld
    dsimp only
    split
    · exact strandAndCount_updCore s r fun _ => rfl
    · rfl
  | spawn tag target slot l =>
    cases slot with
    | some slot => exact strandAndCount_unreserve s r target slot
    | none => rfl
  | pop d => exact (strandAndCount_offerQuire _ r core).trans ((strandAndCount_updTask _ r d.task _).trans (strandAndCount_updCore s r fun _ => rfl))
  | solicit tag part slot q =>
    refine strandAndCount_of_cores s r (cores_freeCensus s part slot) ?_
    unfold releaseHeld freeCensus
    dsimp only
    split <;> rfl
  | command e words x => exact strandAndCount_updCore (s.updEngine (quireOf core) e _) r fun _ => rfl
  | send | fork | catIns | give => exact strandAndCount_updCore s r fun _ => rfl
  | _ => rfl

/-- What a squash restores of its strand. -/
def restored (t : Strand) : Regs × List Chunk × List Held × Word × Option FaultInfo := (t.regs, t.closed, t.opened.held, t.jobLast, t.fault)

theorem restored_updStrand (r : Ref) {f : Strand → Strand} (hf : ∀ t, restored (f t) = restored t) :
    restored ((s.updStrand r f).strand r) = restored (s.strand r) := by
  unfold updStrand
  split
  · rw [strand_setStrand, hf]
  · rfl

theorem corrected_updStrand (r : Ref) (f : Strand → Strand) : (s.updStrand r f).corrected = s.corrected := (congrArg State.corrected (offCore_updStrand s r f) :)

/-- A squash from the open chunk goes back to its checkpoint, and nothing else of the strand's chunks changes. -/
theorem squashFrom_opened (r : Ref) : restored ((s.squashFrom r (s.strand r).closed.length).strand r) =
      ((s.strand r).opened.check, (s.strand r).closed, [], (s.strand r).opened.jobLast, none) ∧
    (s.squashFrom r (s.strand r).closed.length).corrected = s.corrected := by
  unfold squashFrom
  extract_lets t all lost ids waits
  have hopened : all[t.closed.length]? = some t.opened := List.getElem?_concat_length
  split
  · next hnone => cases hopened.symm.trans hnone
  next c hc =>
  obtain rfl : t.opened = c := Option.some.inj (hopened.symm.trans hc)
  extract_lets n empty t' s1 s2
  have hstrand : restored t' = (t.opened.check, t.closed, [], t.opened.jobLast, none) :=
    congrArg (fun l => (t.opened.check, l, [], t.opened.jobLast, none)) List.take_length
  have hbegun : s1.strandAndCount r = (t', s.corrected) :=
    (strandAndCount_updCore (s.setStrand r t') r (f := fun k => { k with tables := k.tables.filter fun x => !ids.contains x.chunk }) fun _ => rfl).trans
      (congrArg (fun u => (u, s.corrected)) (strand_setStrand s r t'))
  have hreleased : s2.strandAndCount r = (t', s.corrected) :=
    (foldl_keeps (strandAndCount · r) (fun u h => strandAndCount_releaseHeld u r r.core h) _ s1).trans hbegun
  clear_value s2
  have hrestored : restored (s2.strand r) = _ := (congrArg (fun x => restored x.1) hreleased).trans hstrand
  have hcorrected : s2.corrected = s.corrected := congrArg Prod.snd hreleased
  split
  · exact ⟨hrestored, hcorrected⟩
  · exact ⟨(restored_updStrand s2 r (f := fun t => { t with copy := .wanted }) fun _ => rfl).trans hrestored, (corrected_updStrand s2 r _).trans hcorrected⟩

/-! ## Partitions start (R358) -/

/-- A partition at its start (R358). -/
def atStart (p : Partition) : Partition :=
  { p with pctl := 1, edition := 0, census := [], censusQueue := [], evCnt := 0, checkpoint := false, restoring := none }

/-- Offers of tasks and watchdogs change no partition and leave the part started. -/
theorem started_offers (cores : List Nat) (part : Nat) :
    let t := (cores.foldl (fun (s : State) c => s.offer c) s).startWatchdogs part
    t.partitions = s.partitions ∧ t.started = s.started := by
  let kept (u : State) : Table Partition × Bool := (u.partitions, u.started)
  have hwatchdogs (u : State) : kept (u.startWatchdogs part) = kept u := by
    refine foldl_keeps kept (fun u c => ?_) _ u
    dsimp only
    split <;> rfl
  exact Prod.mk.inj ((hwatchdogs _).trans (foldl_keeps kept (f := fun s c => s.offer c) (fun _ _ => rfl) cores s))

/-! ## Links that go (R385) -/

/-- The port to a package is down. -/
def linkDown (far : Nat) : State := { s with portsUp := s.portsUp.del (portTo s.pkgid far) }

/-- What the loss of the link to `far` is to a partition in state `u`: an event, where it had packets on it or has lost a package with it. -/
def lossOf (far : Nat) (inFlight : List Nat) (u : State) (p : Nat) : State :=
  if inFlight.contains p then u.fabricLoss p (portTo s.pkgid far) (BitVec.ofNat 64 far)
  else
    match (s.listed p).find? fun k => s.reachable k && !(s.linkDown far).reachable k with
    | some k => u.fabricLoss p (portTo s.pkgid far) (BitVec.ofNat 64 (k + 65536))
    | none => u

theorem fabricLoss_of_idle {p : Nat} (hidle : s.running p = false) (unit : Nat) (info : Word) : s.fabricLoss p unit info = s :=
  quiesceAll_of_idle s _ _ _ _ _ hidle

theorem lossOf_of_idle (far : Nat) (inFlight : List Nat) {u : State} {p : Nat} (hidle : u.running p = false) : s.lossOf far inFlight u p = u := by
  unfold lossOf
  split
  · exact fabricLoss_of_idle u hidle _ _
  · split
    · exact fabricLoss_of_idle u hidle _ _
    · rfl

theorem lossOf_inFlight (far : Nat) (u : State) (p : Nat) : s.lossOf far [p] u p = u.fabricLoss p (portTo s.pkgid far) (BitVec.ofNat 64 far) :=
  if_pos (by simp)

/-- Where no other partition runs, only the one with packets on the link has an event. -/
theorem lossOf_foldl (far : Nat) {p : Nat} (hp : p < 24) (hother : ∀ k < 24, k ≠ p → s.running k = false) :
    (List.range 24).foldl (s.lossOf far [p]) (s.linkDown far) =
      (s.linkDown far).fabricLoss p (portTo s.pkgid far) (BitVec.ofNat 64 far) := by
  rw [← lossOf_inFlight]
  refine foldl_at_one List.nodup_range (List.mem_range.2 hp) (fun k hk hkp => ?_) fun k hk hkp => ?_
  · exact lossOf_of_idle s far [p] (hother k (List.mem_range.1 hk) hkp)
  · refine lossOf_of_idle s far [p] ?_
    rw [lossOf_inFlight, fabricLoss, running_of_pctl (pctl_quiesceAll (s.linkDown far) ..)]
    exact hother k (List.mem_range.1 hk) hkp

end State

/-- A partition that is stopped starts, whatever its work and its lines have left. -/
theorem exec_partitionStart_of_stopped {s : State} {part : Nat} (he : s.ev = .partitionStart part) (hpart : part < 24) (hstopped : s.stopped part = true) :
    ∃ (u : State) (p : Partition), u.partition part = State.atStart p ∧ u.started = true ∧
      exec .partitionStart s = .next (((s.coresIn part).foldl (fun (s : State) c => s.offer c) u).startWatchdogs part) := by
  have hbound : ¬Config.partitions ≤ part := Nat.not_le.2 hpart
  have hstarts : (!s.stopped part || decide (Config.partitions ≤ part)) = false := by
    rw [hstopped, decide_eq_false hbound]
    rfl
  rw [exec_partitionStart, execPartitionStart, he]
  dsimp only
  rw [hstarts, if_neg Bool.false_ne_true]
  refine ⟨_, ?_, ?_, rfl, rfl⟩
  rotate_left
  · exact State.partition_updPartition_same _ part State.atStart

/-- A link of this package goes. -/
theorem exec_linkLost_own {s : State} {far : Nat} {inFlight : List Nat} (he : s.ev = .linkLost s.pkgid far inFlight) :
    exec .linkLost s = .next ((List.range 24).foldl (s.lossOf far inFlight) (s.linkDown far)) := by
  rw [exec_linkLost, execLinkLost]
  split
  · next heq =>
    obtain ⟨rfl, rfl, rfl⟩ := Event.linkLost.inj (he.symm.trans heq)
    simp only [ne_eq, not_true, decide_false, Bool.false_and, Bool.false_eq_true, if_false, if_true]
    rfl
  · next hnone => exact absurd he (hnone _ _ _)

end Machine
end Sys2Proof
end

section
/-! PROOF. Partitions that start and stop, links, errors and recovery. -/

namespace Sys2Proof.Proofs

open Sys2Proof.Machine Sys2Proof.Claims

section
variable {s : State}

/-! ## Starting and stopping (R358) -/

theorem partitionStart_of_stopped {part : Nat} (hpart : part < 24) (hstopped : (s.partition part).pctl = 0) :
    Does s .partitionStart (.partitionStart part) fun t => (t.partition part).pctl = 1 ∧ (t.partition part).evCnt = 0 ∧
      (t.partition part).edition = 0 ∧ (t.partition part).checkpoint = false ∧ t.started = true := by
  intro he
  obtain ⟨u, p, hstart, hstarted, hexec⟩ := exec_partitionStart_of_stopped he hpart (beq_iff_eq.2 hstopped)
  obtain ⟨hpartitions, hkept⟩ := State.started_offers u (s.coresIn part) part
  refine ⟨_, hexec, ?_⟩
  dsimp only
  rw [State.partition_congr hpartitions, hstart, hkept]
  exact ⟨rfl, rfl, rfl, rfl, hstarted⟩

theorem partitionStart_of_started {part : Nat} (hstarted : (s.partition part).pctl ≠ 0) :
    Does s .partitionStart (.partitionStart part) fun t => t = s := by
  intro he
  have hstop : s.stopped part = false := beq_eq_false_iff_ne.2 hstarted
  refine ⟨s, ?_, rfl⟩
  rw [exec_partitionStart, execPartitionStart, he]
  exact congrArg Host.Outcome.next (if_pos (by rw [hstop]; rfl))

theorem partitionStop_of_running {part : Nat} (hrun : s.running part = true) :
    Does s .partitionStop (.partitionStop part) fun t => (t.partition part).pctl = 2 ∧ Sent t (.partitionStopComplete part) := by
  have hstops (u : State) :
      let t := (u.updPartition part fun p => { p with pctl := 2, checkpoint := false, restoring := none }).emit 1 (.partitionStopComplete part)
      (t.partition part).pctl = 2 ∧ Sent t (.partitionStopComplete part) :=
    ⟨congrArg Partition.pctl (State.partition_updPartition_same u part fun p => { p with pctl := 2, checkpoint := false, restoring := none }),
      _, List.mem_append_right _ List.mem_cons_self⟩
  intro he
  rw [exec_partitionStop, execPartitionStop, he]
  dsimp only
  rw [hrun, if_neg (by decide)]
  exact ⟨_, rfl, hstops _⟩

theorem partitionStop_of_idle {part : Nat} (hidle : s.running part = false) : Does s .partitionStop (.partitionStop part) fun t => t = s := by
  intro he
  refine ⟨s, ?_, rfl⟩
  rw [exec_partitionStop, execPartitionStop, he]
  exact congrArg Host.Outcome.next (if_pos (by rw [hidle]; rfl))

theorem partitionStopComplete_of_stopping {part : Nat} (hstopping : (s.partition part).pctl = 2) :
    Does s .partitionStopComplete (.partitionStopComplete part) fun t => (t.partition part).pctl = 0 ∧
      (∀ l ∈ t.l2, l.part ≠ part) ∧ ∀ c ∈ t.cores, ∀ l ∈ c.2.l1, l.part ≠ part := by
  have hkept {α : Type} {f : α → Nat} {ls : List α} {l : α} (hl : l ∈ ls.filter fun l => f l != part) : f l ≠ part :=
    bne_iff_ne.1 (List.mem_filter.1 hl).2
  have hdropped (u : State) : let t := (u.dropLines part).updPartition part fun p => { p with pctl := 0 }
      (t.partition part).pctl = 0 ∧ (∀ l ∈ t.l2, l.part ≠ part) ∧ ∀ c ∈ t.cores, ∀ l ∈ c.2.l1, l.part ≠ part := by
    refine ⟨congrArg Partition.pctl (State.partition_updPartition_same _ part fun p => { p with pctl := 0 }), fun l => hkept, fun c hc l hl => ?_⟩
    obtain ⟨e, -, rfl⟩ := List.mem_map.1 hc
    exact hkept hl
  intro he
  rw [exec_partitionStopComplete, execPartitionStopComplete, he]
  dsimp only
  rw [if_neg (not_not.2 hstopping)]
  exact ⟨_, rfl, hdropped _⟩

/-! ## Links (R348, R352, R385) -/

theorem linkLost_of_idle (far : Nat) (inFlight : List Nat) (hidle : ∀ p < 24, s.running p = false) :
    Does s .linkLost (.linkLost s.pkgid far inFlight) fun t => t = s.linkDown far := fun he =>
  ⟨_, exec_linkLost_own he, foldl_of_idle _ fun p hp => State.lossOf_of_idle s far inFlight (hidle p (List.mem_range.1 hp))⟩

section
variable (far : Nat) {p : Nat} (hp : p < 24) (hother : ∀ k < 24, k ≠ p → s.running k = false) (hrun : s.running p = true)
include hp hother hrun

theorem linkLost_of_checkpointing (hcheckpoint : s.checkpointing p = true) : Does s .linkLost (.linkLost s.pkgid far [p]) fun t =>
    (t.partition p).evCnt = (s.partition p).evCnt + 1 ∧ t.msix = s.msix ++ [(p, 0)] ∧ t.portsUp = (s.linkDown far).portsUp := by
  intro he
  refine ⟨_, exec_linkLost_own he, ?_⟩
  rw [State.lossOf_foldl s far hp hother]
  have hrecorded := State.quiesceAll_of_checkpointing (s.linkDown far) .fabricLoss 6 (portTo s.pkgid far) (BitVec.ofNat 64 far)
    (Bytes.ofNat 2 s.pkgid) hrun hcheckpoint
  exact ⟨hrecorded.evCnt, hrecorded.msix, hrecorded.portsUp⟩

theorem linkLost_of_running (hcheckpoint : s.checkpointing p = false) : Does s .linkLost (.linkLost s.pkgid far [p]) fun t =>
    (t.partition p).checkpoint = true := by
  intro he
  refine ⟨_, exec_linkLost_own he, ?_⟩
  rw [State.lossOf_foldl s far hp hother]
  exact State.checkpoint_quiesceAll (s.linkDown far) _ _ _ _ _ hrun hcheckpoint

end

theorem linkLost_of_others {a b : Nat} (inFlight : List Nat) (ha : a ≠ s.pkgid) (hb : b ≠ s.pkgid) :
    Does s .linkLost (.linkLost a b inFlight) fun t =>
      t = { s with lostLinks := (min a b, max a b) :: s.lostLinks.filter (· != (min a b, max a b)) } := by
  intro he
  refine ⟨_, ?_, rfl⟩
  rw [exec_linkLost, execLinkLost, he]
  exact congrArg Host.Outcome.next (if_pos (by simp [ha, hb]))

theorem linkTraining_own (port n : Nat) : Does s .linkTraining (.linkTraining s.pkgid port n) fun t => t =
    if (packageNeighbours s.pkgid)[port]? = some n then { s with portsUp := s.portsUp.add port } else { s with portsUp := s.portsUp.del port } := by
  intro he
  refine ⟨_, ?_, rfl⟩
  rw [exec_linkTraining, execLinkTraining]
  split
  · next heq =>
    obtain ⟨rfl, rfl, rfl⟩ := Event.linkTraining.inj (he.symm.trans heq)
    by_cases hfits : (packageNeighbours s.pkgid)[port]? = some n
    · simp only [hfits, beq_self_eq_true, if_true]
    · simp only [hfits, beq_eq_false_iff_ne.2 hfits, Bool.false_eq_true, if_true, if_false]
  · next hnone => exact absurd he (hnone _ _ _)

theorem linkTraining_others {a : Nat} (port n : Nat) (ha : a ≠ s.pkgid) : Does s .linkTraining (.linkTraining a port n) fun t => t =
    if (packageNeighbours a)[port]? = some n then { s with lostLinks := s.lostLinks.filter (· != (min a n, max a n)) } else s := by
  intro he
  refine ⟨_, ?_, rfl⟩
  rw [exec_linkTraining, execLinkTraining]
  split
  · next heq =>
    obtain ⟨rfl, rfl, rfl⟩ := Event.linkTraining.inj (he.symm.trans heq)
    by_cases hfits : (packageNeighbours a)[port]? = some n
    · simp only [hfits, ha, beq_self_eq_true, if_true, if_false]
    · simp only [hfits, ha, beq_eq_false_iff_ne.2 hfits, Bool.false_eq_true, if_false]
  · next hnone => exact absurd he (hnone _ _ _)

theorem flitReplay_counts (port : Nat) : Does s .flitReplay (.flitReplay port) fun t => t = { s with corrected := min (2 ^ 32 - 1) (s.corrected + 1) } := by
  intro he
  refine ⟨_, ?_, rfl⟩
  rw [exec_flitReplay, execFlitReplay]
  split
  · rfl
  · next hnone => exact absurd he (hnone _)

/-! ## The quiesce (R385, R388) -/

section
variable {part : Nat} (loss : Bool) (info : Word) (detail : List Byte)

theorem quiesceCollective_of_refused (htakes : s.takesPackets part = false) :
    Does s .quiesceCollective (.quiesceCollective part loss info detail) fun t => t = s := by
  intro he
  refine ⟨s, ?_, rfl⟩
  rw [exec_quiesceCollective, execQuiesceCollective, he]
  exact congrArg Host.Outcome.next (if_pos (by rw [htakes]; rfl))

/-- A quiesce collective that the partition takes raises its event here, with the same INFO. -/
theorem exec_quiesceCollective_of_taken (htakes : s.takesPackets part = true) (he : s.ev = .quiesceCollective part loss info detail) :
    exec .quiesceCollective s = .next (s.partitionEvent part (if loss then .fabricLoss else .uncorrectable)
      (if loss then 6 else errorSource info.toNat) 0 info detail) := by
  rw [exec_quiesceCollective, execQuiesceCollective, he]
  exact congrArg Host.Outcome.next (if_neg (by rw [htakes]; decide))

theorem running_of_takesPackets (htakes : s.takesPackets part = true) : s.running part = true := by
  simp only [State.takesPackets, Bool.and_eq_true] at htakes
  exact htakes.1.2

theorem quiesceCollective_of_checkpointing (htakes : s.takesPackets part = true) (hcheckpoint : s.checkpointing part = true) :
    Does s .quiesceCollective (.quiesceCollective part loss info detail) fun t =>
      (t.partition part).evCnt = (s.partition part).evCnt + 1 ∧ t.msix = s.msix ++ [(part, 0)] ∧ t.cores = s.cores := by
  intro he
  obtain ⟨m, hm⟩ := State.partitionEvent_of_checkpointing s (if loss then .fabricLoss else .uncorrectable)
    (if loss then 6 else errorSource info.toNat) 0 info detail (running_of_takesPackets htakes) hcheckpoint
  exact ⟨_, (exec_quiesceCollective_of_taken loss info detail htakes he).trans (congrArg Host.Outcome.next hm), State.evCnt_recorded s part m, rfl, rfl⟩

theorem quiesceCollective_of_running (htakes : s.takesPackets part = true) (hcheckpoint : s.checkpointing part = false) :
    Does s .quiesceCollective (.quiesceCollective part loss info detail) fun t => (t.partition part).checkpoint = true := fun he =>
  ⟨_, exec_quiesceCollective_of_taken loss info detail htakes he,
    State.checkpoint_partitionEvent s _ _ _ info detail (running_of_takesPackets htakes) hcheckpoint⟩

end

theorem exec_quiesceWrite_of_ev {val : Word} (he : s.ev = .quiesceWrite val) : exec .quiesceWrite s =
    .next (((List.range 24).filter fun p => val.getLsbD p).foldl (fun (s : State) p => s.fabricLoss p 0 0x20000) s) := by
  rw [exec_quiesceWrite, execQuiesceWrite, he]
  rfl

theorem quiesceWrite_of_idle {val : Word} (hidle : ∀ p < 24, val.getLsbD p = true → s.running p = false) :
    Does s .quiesceWrite (.quiesceWrite val) fun t => t = s := by
  refine fun he => ⟨_, exec_quiesceWrite_of_ev he, foldl_of_idle _ fun p hp => ?_⟩
  obtain ⟨hp, hval⟩ := List.mem_filter.1 hp
  exact State.fabricLoss_of_idle s (hidle p (List.mem_range.1 hp) hval) _ _

/-- Of the partitions, the value names only the one of its bit. -/
theorem getLsbD_one_shiftLeft {p k : Nat} (hk : k < 24) : ((1 : Word) <<< p).getLsbD k = decide (k = p) := by
  have hone : (1 : Word).getLsbD (k - p) = decide (k - p = 0) := BitVec.getLsbD_one.trans (by simp)
  rw [BitVec.getLsbD_shiftLeft, hone, Bool.eq_iff_iff]
  simp only [Bool.and_eq_true, Bool.not_eq_true', decide_eq_true_eq, decide_eq_false_iff_not]
  omega

theorem quiesceWrite_of_checkpointing {p : Nat} (hp : p < 24) (hrun : s.running p = true) (hcheckpoint : s.checkpointing p = true) :
    Does s .quiesceWrite (.quiesceWrite ((1 : Word) <<< p)) fun t => (t.partition p).evCnt = (s.partition p).evCnt + 1 ∧ t.msix = s.msix ++ [(p, 0)] := by
  intro he
  have hone : ∀ k ∈ (List.range 24).filter fun k => ((1 : Word) <<< p).getLsbD k, k = p := fun k hk => by
    obtain ⟨hk, hbit⟩ := List.mem_filter.1 hk
    exact of_decide_eq_true ((getLsbD_one_shiftLeft (List.mem_range.1 hk)).symm.trans hbit)
  have hmem : p ∈ (List.range 24).filter fun k => ((1 : Word) <<< p).getLsbD k :=
    List.mem_filter.2 ⟨List.mem_range.2 hp, (getLsbD_one_shiftLeft hp).trans (decide_eq_true rfl)⟩
  have hrecorded := State.quiesceAll_of_checkpointing s .fabricLoss 6 0 0x20000 (Bytes.ofNat 2 s.pkgid) hrun hcheckpoint
  refine ⟨_, exec_quiesceWrite_of_ev he, ?_⟩
  rw [foldl_at_one (List.nodup_range.filter _) hmem (fun k hk hkp => absurd (hone k hk) hkp) fun k hk hkp => absurd (hone k hk) hkp]
  exact ⟨hrecorded.evCnt, hrecorded.msix⟩

/-! ## Errors (R386, R387) -/

theorem correctedError_counts (e : ErrorSite) : Does s .correctedError (.correctedError e none) fun t =>
    t = { s with corrected := min (2 ^ 32 - 1) (s.corrected + 1) } := by
  intro he
  refine ⟨_, ?_, rfl⟩
  rw [exec_correctedError, execCorrectedError]
  split
  · next heq =>
    obtain ⟨rfl, rfl⟩ := Event.correctedError.inj (he.symm.trans heq)
    rfl
  · next hnone => exact absurd he (hnone _ _)

theorem correctedError_drops (e : ErrorSite) (part n : Nat) : Does s .correctedError (.correctedError e (some (part, n))) fun t =>
    t.corrected = min (2 ^ 32 - 1) (s.corrected + 1) ∧ t.hbm = s.hbm ∧
    (e.structureCode = 2 → (∀ l ∈ (t.core e.unit).l1, ¬(l.part = part ∧ l.line = n)) ∧ t.l2 = s.l2) ∧
    (e.structureCode ≠ 2 → (∀ l ∈ t.l2, ¬(l.part = part ∧ l.line = n ∧ l.dirty = [])) ∧ t.cores = s.cores) := by
  intro he
  rw [exec_correctedError, execCorrectedError]
  split
  case h_2 hnone => exact absurd he (hnone _ _)
  next heq =>
  obtain ⟨rfl, rfl⟩ := Event.correctedError.inj (he.symm.trans heq)
  refine ⟨_, rfl, ?_⟩
  dsimp only
  by_cases hcode : e.structureCode = 2
  · rw [if_pos hcode]
    generalize hu : ({ s with corrected := countUp s.corrected } : State) = u
    have hoff := State.offCore_leaveL1 u e.unit fun l => l.part == part && l.line == n
    have hl1 : ((u.leaveL1 e.unit fun l => l.part == part && l.line == n).core e.unit).l1 =
        (u.core e.unit).l1.filter fun l => !(l.part == part && l.line == n) :=
      (congrArg Core.l1 (State.slotsOnly_leaveL1 u e.unit _ e.unit) :).trans (congrArg Core.l1 (State.core_updCore u e.unit _) :)
    subst hu
    refine ⟨(congrArg State.corrected hoff :), (congrArg State.hbm hoff :), fun _ => ⟨fun l hl => ?_, State.l2_leaveL1 _ _ _⟩, fun h => absurd hcode h⟩
    rw [hl1] at hl
    have hkept := (List.mem_filter.1 hl).2
    rintro ⟨hpart, hline⟩
    simp [hpart, hline] at hkept
  · rw [if_neg hcode]
    refine ⟨rfl, rfl, fun h => absurd h hcode, fun _ => ⟨fun l hl => ?_, rfl⟩⟩
    have hkept := (List.mem_filter.1 hl).2
    rintro ⟨hpart, hline, hdirty⟩
    simp [hpart, hline, hdirty] at hkept

theorem registerParityError_of_settled {r : Ref} (hocc : s.occupied r = true) (hopen : (s.strand r).opened.count = 0) (hclosed : (s.strand r).closed = []) :
    Does s .registerParityError (.registerParityError r) fun t => t = { s with corrected := min (2 ^ 32 - 1) (s.corrected + 1) } := by
  intro he
  refine ⟨_, ?_, rfl⟩
  rw [exec_registerParityError, execRegisterParityError]
  split
  case h_2 hnone => exact absurd he (hnone _)
  next heq =>
  obtain rfl := Event.registerParityError.inj (he.symm.trans heq)
  extract_lets s1 t
  have hoccupied : (!s1.occupied r) = false := congrArg not hocc
  have hlast : t.closed.getLast? = none := congrArg List.getLast? hclosed
  have hcount : ¬t.opened.count ≠ 0 := not_not.2 hopen
  rw [hoccupied, if_neg Bool.false_ne_true, if_neg hcount, hlast]
  rfl

theorem registerParityError_squashes {r : Ref} (hocc : s.occupied r = true) (hopen : (s.strand r).opened.count ≠ 0) :
    Does s .registerParityError (.registerParityError r) fun t =>
      t.corrected = min (2 ^ 32 - 1) (s.corrected + 1) ∧ (t.strand r).regs = (s.strand r).opened.check ∧ (t.strand r).closed = (s.strand r).closed ∧
      (t.strand r).opened.held = [] ∧ (t.strand r).jobLast = (s.strand r).opened.jobLast ∧ (t.strand r).fault = none := by
  intro he
  rw [exec_registerParityError, execRegisterParityError]
  split
  case h_2 hnone => exact absurd he (hnone _)
  next heq =>
  obtain rfl := Event.registerParityError.inj (he.symm.trans heq)
  extract_lets s1 t
  have hoccupied : (!s1.occupied r) = false := congrArg not hocc
  obtain ⟨hrestored, hcorrected⟩ := State.squashFrom_opened s1 r
  simp only [State.restored, Prod.mk.injEq] at hrestored
  obtain ⟨hregs, hclosed, hheld, hjob, hfault⟩ := hrestored
  have hcount : t.opened.count ≠ 0 := hopen
  rw [hoccupied, if_neg Bool.false_ne_true, if_pos hcount]
  exact ⟨_, rfl, hcorrected, hregs, hclosed, hheld, hjob, hfault⟩

theorem uncorrectable_of_unowned {e : ErrorSite} (hshared : e.structureCode ≠ 12) (hpart : e.part = none) :
    Does s .uncorrectable (.uncorrectable e) fun t => t = { s with uncorrected := min (2 ^ 32 - 1) (s.uncorrected + 1) } := by
  intro he
  refine ⟨_, ?_, rfl⟩
  rw [exec_uncorrectable, execUncorrectable]
  split
  case h_2 hnone => exact absurd he (hnone _)
  next heq =>
  obtain rfl := Event.uncorrectable.inj (he.symm.trans heq)
  extract_lets s1 hit
  rw [if_neg hshared, hpart]
  rfl

theorem uncorrectable_of_checkpointing {e : ErrorSite} {p : Nat} (hshared : e.structureCode ≠ 12) (hpart : e.part = some p)
    (hrun : s.running p = true) (hcheckpoint : s.checkpointing p = true) : Does s .uncorrectable (.uncorrectable e) fun t =>
      t.uncorrected = min (2 ^ 32 - 1) (s.uncorrected + 1) ∧ (t.partition p).evCnt = (s.partition p).evCnt + 1 ∧ t.msix = s.msix ++ [(p, 0)] ∧
      ((s.partition p).restoring ≠ none → e.structureCode = 7 → (s.now, .partitionStop p) ∈ t.sent) := by
  intro he
  rw [exec_uncorrectable, execUncorrectable]
  split
  case h_2 hnone => exact absurd he (hnone _)
  next heq =>
  obtain rfl := Event.uncorrectable.inj (he.symm.trans heq)
  extract_lets s1 hit
  have hrecorded := State.quiesceAll_of_checkpointing s1 .uncorrectable (errorSource e.structureCode) e.unit (BitVec.ofNat 64 e.structureCode)
    (Bytes.ofNat 8 e.addr.toNat) hrun hcheckpoint
  rw [if_neg hshared, hpart]
  refine ⟨_, rfl, ?_⟩
  unfold hit
  dsimp only
  generalize s1.quiesceAll p .uncorrectable _ _ _ _ = u at hrecorded ⊢
  by_cases hstops : (s1.partition p).restoring.isSome && e.structureCode = 7
  · rw [if_pos hstops]
    exact ⟨hrecorded.uncorrected, hrecorded.evCnt, hrecorded.msix, fun _ _ => List.mem_append_right _ (by rw [hrecorded.now]; exact List.mem_cons_self)⟩
  · rw [if_neg hstops]
    refine ⟨hrecorded.uncorrected, hrecorded.evCnt, hrecorded.msix, fun hrestoring hcode => absurd ?_ hstops⟩
    have hsome : (s1.partition p).restoring.isSome = true := Option.isSome_iff_ne_none.2 hrestoring
    rw [hsome, hcode]
    rfl


theorem powerGood_resets : Does s .powerGood .powerGood fun t => t.flush = .all ∧ t.now = 0 ∧ t.hbm = [] ∧ t.cores = [] ∧ t.quires = [] ∧
    t.partitions = [] ∧ t.contexts = [] ∧ t.started = false ∧ t.halted = false ∧ t.sent = State.reset.agenda.map fun x => (x.1, x.2.2) :=
  fun _ => ⟨_, rfl, rfl, rfl, rfl, rfl, rfl, rfl, rfl, rfl, rfl, rfl⟩

end

/-- Settles O50, clause by clause: what starts and stops partitions (R358), links (R348, R385), the quiesce (R388) and errors (R386, R387). -/
theorem recoveryEvents : Obligations.RecoveryEvents := by
  intro s
  refine ⟨fun part => partitionStart_of_stopped, fun part => partitionStart_of_started, fun part => partitionStop_of_running,
    fun part => partitionStop_of_idle, fun part => partitionStopComplete_of_stopping, fun far inFlight => ⟨linkLost_of_idle far inFlight, ?_⟩,
    fun a b inFlight => linkLost_of_others inFlight, linkTraining_own, fun a => linkTraining_others, flitReplay_counts,
    fun part loss info detail => ⟨quiesceCollective_of_refused loss info detail, quiesceCollective_of_checkpointing loss info detail,
      quiesceCollective_of_running loss info detail⟩,
    fun val => quiesceWrite_of_idle, fun val p hp hval hrun hcheckpoint _ => hval ▸ quiesceWrite_of_checkpointing hp hrun hcheckpoint,
    fun e hshared => ⟨uncorrectable_of_unowned hshared, fun p => uncorrectable_of_checkpointing hshared⟩,
    fun r => registerParityError_of_settled, fun r => registerParityError_squashes, correctedError_counts, correctedError_drops, powerGood_resets⟩
  rintro p hp rfl hother hrun
  exact ⟨linkLost_of_checkpointing far hp hother hrun, linkLost_of_running far hp hother hrun⟩

end Sys2Proof.Proofs
end
